-- ==== Sys2Proof/Word.lean ====
section
/-!
DEFINITION. The plain word types of the model: a 32-bit register word, a byte, a byte string, the two
host ports, and what a link frame carries.
-/

namespace Sys2Proof

/-- A 32-bit register or clause word (00_scope.md R5). -/
abbrev Word := BitVec 32

/-- A byte. -/
abbrev Byte := BitVec 8

/-- A byte string, first byte first (00_scope.md R6). -/
abbrev Bytes := List Byte

/-- A channel number (05_channels.md). -/
abbrev Chn := Fin 16

/-- An engine index: 0–7 cipher lanes, 8–11 hash lanes, 12–15 big-number cores
(08_scheduler_and_engines.md R174). -/
abbrev Eng := Fin 16

/-- The two host ports (02_signals_and_board.md). -/
inductive Port where
  | A
  | B
  deriving DecidableEq, Repr

/-- What the host clocks in a read-class frame (03_host_link.md R53, R71): the start address, CNT,
how many data words it clocks out complete, and from which data word on, if any, a window word is not
ready in time (R73; the environment's timing). `corrected` names data words whose single-bit error is
corrected, `broken` those whose word is uncorrectable (07_buffer_pool.md R171). -/
structure ReadFrame where
  addr : BitVec 24
  cnt : BitVec 8
  clocked : Nat
  late : Option Nat
  corrected : List Nat
  broken : List Nat
  deriving DecidableEq, Repr

/-- A STATUS frame: the port, and the frame as the host clocks it (03_host_link.md R56, R58). -/
structure StatusFrame where
  port : Port
  frame : ReadFrame
  deriving DecidableEq, Repr

/-- What the host clocks in a write-class frame: the start address, CNT, the complete data words, and the
trailer when its four bytes arrive (03_host_link.md R53, R58). -/
structure WriteFrame where
  addr : BitVec 24
  cnt : BitVec 8
  data : List Word
  trailer : Option Word
  deriving DecidableEq, Repr

/-- What the environment does to a clause at its end, or at the end of a step of it: nothing; a fault that an
invariant check of Table 10.6 or 11.5 catches; an uncorrectable error in an operand word of a cell
(10_big_number_engine.md R248); an error in the word at a byte offset of the pool that the engine read,
corrected or not (07_buffer_pool.md R171). -/
inductive Mishap where
  | none
  | invariant
  | operand (cell : Nat)
  | poolWord (off : Nat) (broken : Bool)
  deriving DecidableEq, Repr

/-- What the environment does while the ROM runs: the level of RECOV at its sample, the blocks the entropy
source draws in order, which engines pass their known-answer test, which of their failures burn their OTP bit and
which of the records of these failures verify, the outcomes of the other OTP burns and of the other flash operations
in order. What a list does not name passes. -/
structure RomEnv where
  recov : Bool
  blocks : List (List Bool)
  kats : List Bool
  katBurns : List Bool
  katVfy : List Bool
  burns : List Bool
  vfy : List Bool
  deriving DecidableEq, Repr

/-- The raw codes the supply monitor takes at a tick (17_supply_and_last_gasp.md R395). -/
structure SupplySample where
  vin : BitVec 10
  hold : BitVec 10
  deriving DecidableEq, Repr

/-- What the environment decides at a tick of the ride-through table: the wake sources that fire with it
(16_power_domains_and_states.md R380) and the outcomes of its flash operations. -/
structure RideEnv where
  wake : List Nat
  vfy : List Bool
  deriving DecidableEq, Repr

/-- How far LC_TRANSITION_DONE takes a transition, to its end or to the end of its burn, and the outcomes of its flash
operations (12_key_store.md R298). -/
structure TransEnv where
  whole : Bool
  vfy : List Bool
  deriving DecidableEq, Repr

/-- The three bank supplies (02_signals_and_board.md R29). -/
inductive Bank3 where
  | A
  | B
  | F
  deriving DecidableEq, Repr

end Sys2Proof
end

