-- ==== Sys2Proof/Syntax.lean ====
section
/-!
DEFINITION. The commands of the block: one constructor per row of spec/opcode_table.json, each with the operands a
committed write, a frame, a pin or an engine gives it. `vfy` and `burns` are the outcomes of the flash and OTP
operations of the command in order; what they do not name succeeds.
-/

namespace Sys2Proof

/-- The commands. -/
inductive Instr where
  /-- POR: VIN rises through the power-on threshold or falls below the 2.70 V brownout level, and every
      register and memory returns to its reset value (R15). -/
  | por
  /-- PIN_RESET: RESET# is held low for at least tRST; the device takes a PIN reset, keeping the sticky
      registers, WAKESTAT and the mailbox (R38). -/
  | pinReset (lowNs : Nat)
  /-- SOFT_RESET: MGMT_CMD SOFT_RESET from port A resets the device while keeping HLCFG, the attention masks,
      LCREQ and TAMPERSTAT (R15). -/
  | softReset
  /-- ROM_BOOT: At the release of a reset that runs the ROM, the ROM samples RECOV, reads OTP, selects, loads
      and measures the program, unlocks the key store and starts the program (R323). -/
  | romBoot (env : RomEnv)
  /-- READ: A READ frame returns GSTAT, fillers for a window, and CNT + 1 words without changing device state
      (R57). -/
  | read (p : Port) (f : ReadFrame)
  /-- WRITE: A WRITE frame is captured in the port shell and handed to the core at CS# rising (R66). -/
  | write (p : Port) (f : WriteFrame)
  /-- STATUS: A STATUS frame returns the GSTAT snapshot taken as of CS# falling (R56). -/
  | status (f : StatusFrame)
  /-- STREAM: A STREAM frame appends its committed words to the channel's FILL bank at the fill offset (R74). -/
  | stream (p : Port) (f : WriteFrame)
  /-- OUTREAD: An OUTREAD frame returns words of the OUT record at OUT_HEAD from the read cursor (R75). -/
  | outread (p : Port) (f : ReadFrame)
  /-- OUTREAD_COMMIT: At its commit an OUTREAD advances the read cursor and OUT_HEAD past a wholly read
      record, if OUT_HEAD still names that record (R75). -/
  | outreadCommit (p : Port)
  /-- SKIP: At its commit a SKIP consumes the sealed record at OUT_HEAD or drops the rest of an open record
      (R77). -/
  | skip (p : Port) (f : WriteFrame)
  /-- MALFORMED_FRAME: A frame with an incomplete header, a failed complement check or an unknown code is
      handled as Table 03.6 states and recorded in GSTICKY0 (R83). -/
  | malformedFrame (p : Port) (bytes : Bytes)
  /-- LINK_FALLBACK: The fourth consecutive bad or incomplete header with FBEN set returns the port to
      1S-1S-1S with CRC off (R84). -/
  | linkFallback (p : Port)
  /-- WINDOW_WRITE: A committed write word to ring memory or the buffer pool window is stored if the view,
      channel state and ownership checks pass (R81). -/
  | windowWrite (p : Port) (addr : Nat) (w : Word)
  /-- REGISTER_WRITE: A committed write to a register with no behaviour of its own stores its fields under the
      access classes of Table 00.2 (R12). -/
  | registerWrite (p : Port) (addr : Nat) (w : Word)
  /-- HLCFG_WRITE: A committed HLCFG write changes the port's mode, CRC, latency and fallback settings for
      frames starting after the commit (R59). -/
  | hlcfgWrite (p : Port) (w : Word)
  /-- JOURNAL_WRITE: A queued journal entry is programmed into the flash journal, erasing the next sector when
      needed, and verified (R99). -/
  | journalWrite (vfy : List Bool)
  /-- JSEL_WRITE: A JSEL write clears VALID, NOENT and ERR, sets BUSY and starts a fetch of the named entry
      (R101). -/
  | jselWrite (p : Port) (w : Word)
  /-- JOURNAL_FETCH_DONE: A journal fetch ends, loading JENT0–JENT7 with VALID or setting NOENT (R101). -/
  | journalFetchDone
  /-- SECONDS_TICK: The seconds count advances by one LP-clocked second and FAULT24 is recomputed from its
      stamps (R100). -/
  | secondsTick
  /-- CH_OPEN: CH_CTL.OPEN opens a channel under policy NONE or issues a challenge under policy HMAC, or fails
      with an OPENERR code (R107). -/
  | chOpen (n : Chn)
  /-- CH_CLOSE: CH_CTL.CLOSE starts draining an OPEN channel or abandons an open in OPENING (R107). -/
  | chClose (n : Chn)
  /-- CH_RESP: CH_CTL.RESP takes the nonce, re-checks the OPENKEY slot, charges it and starts the HMAC check
      of CH_OPENRESP (R121). -/
  | chResp (n : Chn)
  /-- CH_RESET: CH_CTL.RESET puts the channel in RESETTING and starts discarding, aborting and zeroing its
      resources (R111). -/
  | chReset (n : Chn)
  /-- OPEN_NONCE_READY: The DRBG draw for an open completes, placing the nonce in CH_NONCE and setting NONCEV
      (R120). -/
  | openNonceReady (n : Chn)
  /-- OPEN_RESP_RESULT: The HMAC comparison of an open response is decided, opening the channel or closing it
      with BADRESP and a lockout (R121). -/
  | openRespResult (n : Chn)
  /-- OPEN_TIMEOUT: Five seconds after NONCEV without RESP the channel returns to CLOSED with OPENERR TIMEOUT
      (R107). -/
  | openTimeout (n : Chn)
  /-- OPEN_LOCKOUT_EXPIRY: The 100 ms lockout after a wrong response ends and OPEN is accepted again (R121). -/
  | openLockoutExpiry (n : Chn)
  /-- OPEN_INIT_DONE: Entry to OPEN finishes copying the configuration, setting the rings and switching on the
      channel's memory domains (R109). -/
  | openInitDone (n : Chn)
  /-- DRAIN_COMPLETE: When a DRAINING channel's rings are empty and no clause runs, its resources are released
      and zeroed and it becomes CLOSED (R110). -/
  | drainComplete (n : Chn)
  /-- CH_RESET_DONE: The work of a channel reset completes and the channel becomes CLOSED (R111). -/
  | chResetDone (n : Chn)
  /-- CHCFGT_WRITE: A CHCFGT write is checked against the lock and quota sum, stored, and queued for the
      configuration record (R116). -/
  | chcfgtWrite (p : Port) (n : Chn) (w : Word)
  /-- CONFIG_RECORD_WRITE: The channel configuration record with TAMPERCFG and LGCFG is written to the other
      flash copy and verified (R118). -/
  | configRecordWrite (vfy : List Bool)
  /-- SUB_TAIL_WRITE: A SUBP_TAIL or SUBB_TAIL write is checked against range and free entries and queues
      clauses (R126). -/
  | subTailWrite (n : Chn) (prio : Bool) (v : Word)
  /-- CPL_HEAD_WRITE: A CPL_HEAD write returns posted completion records to the device (R126). -/
  | cplHeadWrite (n : Chn) (v : Word)
  /-- OUT_HEAD_WRITE: An OUT_HEAD write consumes OUT records up to a record boundary and resets the read
      cursor (R126). -/
  | outHeadWrite (n : Chn) (v : Word)
  /-- RING_SCRUB: The background scrub compares every pointer pair of every OPEN or DRAINING channel at least
      once per millisecond (R128). -/
  | ringScrub (upset : Option (Chn × Nat × Bool × BitVec 14))
  /-- SENTENCE_TAKE: The ring controller takes a complete sentence from a SUB ring, advancing HEAD, reserving
      CPL credits and assigning stream bytes (R133). -/
  | sentenceTake
  /-- UNASSIGNED_VERB: A clause with an unassigned verb fails the dispatch checks and posts BAD_VERB with
      engine id 0xFF (R135). -/
  | unassignedVerb (n : Chn) (sid : Nat)
  /-- CLAUSE_COMPLETE: A clause ends; its OUT record is sealed, output is zeroed on failure and its completion
      record posts, followed by SKIPPED records (R139). -/
  | clauseComplete (n : Chn) (sid : Nat) (m : Mishap)
  /-- SEGMENT_BOUNDARY: A cipher or hash clause reaches a 4 KiB input boundary and either continues or has its
      context saved for other work (R181). -/
  | segmentBoundary (n : Chn) (sid : Nat)
  /-- CONTEXT_RESUME: A suspended cipher or hash context is restored on a free lane once selected and its
      input is available (R181). -/
  | contextResume (n : Chn) (sid : Nat)
  /-- BANK_SUBMIT: CH_BANKCTL.SUBMIT makes the FILL bank SUBMITTED with COUNT bytes and swaps banks (R145). -/
  | bankSubmit (n : Chn) (w : Word)
  /-- BANK_FLUSH: CH_BANKCTL.FLUSH discards every stream byte not owned by a taken clause (R148). -/
  | bankFlush (n : Chn)
  /-- ABORT_ALL: CH_ABORT with ALL aborts the running clause of every taken sentence of the channel (R149). -/
  | abortAll (n : Chn)
  /-- ABORT_TAG: CH_ABORT with ALL clear aborts every taken sentence holding a clause with the given tag
      (R149). -/
  | abortTag (n : Chn) (tag : BitVec 16)
  /-- CH_ALLOC: A CH_ALLOC write starts a host allocation of COUNT granules and sets BUSY (R160). -/
  | chAlloc (n : Chn) (count : Nat)
  /-- ALLOC_COMPLETE: An allocation ends, loading CH_ALLOCRES with the handle or QUOTA or NOSPACE (R160). -/
  | allocComplete (n : Chn)
  /-- CH_FREE: A CH_FREE write frees a buffer, marks it dying, or rejects the handle (R164). -/
  | chFree (n : Chn) (handle : BitVec 16)
  /-- GRANULE_ZERO: Background zeroing of a freed or newly powered granule ends and the granule leaves DIRTY
      (R166). -/
  | granuleZero (g : Nat)
  /-- ENGINE_IDLE_OFF: An engine idle for SCHEDCFG.EIDLE has its domain switched off (R184). -/
  | engineIdleOff (e : Eng)
  /-- ENGCMD_OUT: ENGCMD OUT takes an engine out of the dispatch set (R186). -/
  | engcmdOut (e : Eng)
  /-- ENGCMD_IN: ENGCMD IN puts an OUT engine into TEST and starts its known-answer test (R186). -/
  | engcmdIn (e : Eng)
  /-- KAT_COMPLETE: A known-answer test ends; the engine returns to IN, goes OUT, or is quarantined with its
      failure count burnt (R188). -/
  | katComplete (e : Eng) (pass : Bool) (burns vfy : List Bool)
  /-- ENGINE_FAULT: A parity or key-bus check fault fails the clause with ENGINE_FAULT and sends the engine to
      TEST (R190). -/
  | engineFault (e : Eng)
  /-- ENGINE_WATCHDOG: A dispatch exceeds its watchdog and is handled as an engine fault (R190). -/
  | engineWatchdog (e : Eng)
  /-- CLASS_WAIT_EXPIRY: Work waiting for an engine of its class past CLASSWAIT completes NO_ENGINE (R194). -/
  | classWaitExpiry (n : Chn) (sid : Nat)
  /-- NOP: NOP completes at dispatch with engine id 0xFF (R206). -/
  | nop (n : Chn) (sid : Nat)
  /-- FENCE: FENCE completes at dispatch and orders its sentence as the FENCE flag does (R206). -/
  | fence (n : Chn) (sid : Nat)
  /-- RETIRE_KEY: RETIRE_KEY empties a volatile slot or burns a persistent slot's RETIRED bit (R281). -/
  | retireKey (n : Chn) (sid : Nat) (burns : List Bool)
  /-- RANDOM: RANDOM draws output from the CTR_DRBG as one generate request, reseeding when due (R207). -/
  | random (n : Chn) (sid : Nat)
  /-- COPY: COPY copies W3 bytes from its input to its output (R206). -/
  | copy (n : Chn) (sid : Nat)
  /-- ZERO: ZERO writes W5 zero bytes into a buffer (R206). -/
  | zero (n : Chn) (sid : Nat)
  /-- AES_CBC_ENCRYPT: AES-CBC encryption of whole blocks under a block-class key (R208). -/
  | aesCbcEncrypt (n : Chn) (sid : Nat)
  /-- AES_CBC_DECRYPT: AES-CBC decryption of whole blocks under a block-class key (R208). -/
  | aesCbcDecrypt (n : Chn) (sid : Nat)
  /-- AES_CTR: AES-CTR over W3 bytes with a 128-bit counter block (R208). -/
  | aesCtr (n : Chn) (sid : Nat)
  /-- AES_GCM_SEAL: AES-GCM seal with an explicit or counter IV, producing IV, ciphertext and tag (R209). -/
  | aesGcmSeal (n : Chn) (sid : Nat)
  /-- AES_GCM_OPEN: AES-GCM open with the plaintext handled in HOLD or ZERO mode until the tag is checked
      (R213). -/
  | aesGcmOpen (n : Chn) (sid : Nat)
  /-- AES_CCM_SEAL: AES-CCM seal with the given nonce and tag length (R212). -/
  | aesCcmSeal (n : Chn) (sid : Nat)
  /-- AES_CCM_OPEN: AES-CCM open with the tag checked over its full length (R212). -/
  | aesCcmOpen (n : Chn) (sid : Nat)
  /-- AES_CMAC: AES-CMAC generation, or verification against an expected tag (R208). -/
  | aesCmac (n : Chn) (sid : Nat)
  /-- CHACHA_POLY_SEAL: ChaCha20-Poly1305 seal with an explicit or counter IV (R210). -/
  | chachaPolySeal (n : Chn) (sid : Nat)
  /-- CHACHA_POLY_OPEN: ChaCha20-Poly1305 open under the channel's AEAD failure mode (R213). -/
  | chachaPolyOpen (n : Chn) (sid : Nat)
  /-- KEY_WRAP: KEY_WRAP wraps an exportable subject key with its KAB under a KEK per RFC 3394 (R215). -/
  | keyWrap (n : Chn) (sid : Nat)
  /-- KEY_UNWRAP: KEY_UNWRAP unwraps a blob into a destination slot over the key bus (R216). -/
  | keyUnwrap (n : Chn) (sid : Nat)
  /-- SHA_256: SHA-256 digest of the input (R217). -/
  | sha256 (n : Chn) (sid : Nat)
  /-- SHA_384: SHA-384 digest of the input (R217). -/
  | sha384 (n : Chn) (sid : Nat)
  /-- SHA_512: SHA-512 digest of the input (R217). -/
  | sha512 (n : Chn) (sid : Nat)
  /-- SHA3_256: SHA3-256 digest of the input (R217). -/
  | sha3256 (n : Chn) (sid : Nat)
  /-- SHA3_512: SHA3-512 digest of the input (R217). -/
  | sha3512 (n : Chn) (sid : Nat)
  /-- SHAKE128: SHAKE128 output of exactly W5 bytes (R217). -/
  | shake128 (n : Chn) (sid : Nat)
  /-- SHAKE256: SHAKE256 output of exactly W5 bytes (R217). -/
  | shake256 (n : Chn) (sid : Nat)
  /-- HMAC_SHA256: HMAC-SHA-256 tag generation or verification (R218). -/
  | hmacSha256 (n : Chn) (sid : Nat)
  /-- HMAC_SHA384: HMAC-SHA-384 tag generation or verification (R218). -/
  | hmacSha384 (n : Chn) (sid : Nat)
  /-- HKDF_EXTRACT: HKDF-Extract of a PRK into a destination slot (R220). -/
  | hkdfExtract (n : Chn) (sid : Nat)
  /-- HKDF_EXPAND: HKDF-Expand into a destination slot, or to output with TOOUT (R221). -/
  | hkdfExpand (n : Chn) (sid : Nat)
  /-- TLS13_EXPAND_LABEL: TLS 1.3 or DTLS 1.3 HKDF-Expand-Label into a slot or to output (R222). -/
  | tls13ExpandLabel (n : Chn) (sid : Nat)
  /-- HASH_SAVE: HASH_SAVE absorbs input into a hash state record and outputs the new record (R224). -/
  | hashSave (n : Chn) (sid : Nat)
  /-- HASH_RESUME: HASH_RESUME absorbs input into a saved state and outputs the finished digest (R224). -/
  | hashResume (n : Chn) (sid : Nat)
  /-- KEY_GEN: KEY_GEN writes a random symmetric key of the KAB's class into a destination slot (R225). -/
  | keyGen (n : Chn) (sid : Nat)
  /-- KEY_INFO: KEY_INFO reports an owned slot's KAB, counter, state and kind (R226). -/
  | keyInfo (n : Chn) (sid : Nat)
  /-- PERSISTENT_WRITE_DONE: The slot record, counter record and WRITTEN burn of a persistent destination
      complete and the slot becomes LIVE (R280). -/
  | persistentWriteDone (n : Chn) (sid : Nat) (vfy burns : List Bool)
  /-- COUNTER_CHECKPOINT_DONE: An open counter record is verified or fails three times, releasing or failing
      the waiting clause (R285). -/
  | counterCheckpointDone (slot : Nat) (vfy : List Bool)
  /-- BN_LOAD: BN_LOAD writes residue, raw, random or polynomial operand slots from input (R242). -/
  | bnLoad (n : Chn) (sid : Nat)
  /-- BN_STORE: BN_STORE outputs the canonical form of non-secret operand slots (R242). -/
  | bnStore (n : Chn) (sid : Nat)
  /-- BN_MODADD: Modular addition of two residues (R242). -/
  | bnModadd (n : Chn) (sid : Nat)
  /-- BN_MODSUB: Modular subtraction of two residues (R242). -/
  | bnModsub (n : Chn) (sid : Nat)
  /-- BN_MODMUL: Modular multiplication of two residues (R242). -/
  | bnModmul (n : Chn) (sid : Nat)
  /-- BN_MODINV: Modular inversion of a residue (R242). -/
  | bnModinv (n : Chn) (sid : Nat)
  /-- BN_MODEXP: Modular exponentiation of a residue by a raw exponent (R242). -/
  | bnModexp (n : Chn) (sid : Nat)
  /-- BN_SETMOD: BN_SETMOD writes a CONTEXT slot for a modulus from input (R242). -/
  | bnSetmod (n : Chn) (sid : Nat)
  /-- BN_CLEAR: BN_CLEAR unwrites and zeroes one slot or, with ALL, the core's whole user area (R242). -/
  | bnClear (n : Chn) (sid : Nat)
  /-- LAT_NTT: Forward NTT of polynomial slots (R243). -/
  | latNtt (n : Chn) (sid : Nat)
  /-- LAT_INTT: Inverse NTT of polynomial slots with final scaling (R243). -/
  | latIntt (n : Chn) (sid : Nat)
  /-- LAT_PMUL: Pointwise multiply, multiply-accumulate, add or subtract of polynomials (R243). -/
  | latPmul (n : Chn) (sid : Nat)
  /-- LAT_SAMPLE: Samples uniform, CBD or bounded polynomials from a seed via SHAKE steps (R244). -/
  | latSample (n : Chn) (sid : Nat)
  /-- ECDSA_SIGN: ECDSA signature on P-256 or P-384, from a presignature when USEPRESIG allows (R262). -/
  | ecdsaSign (n : Chn) (sid : Nat)
  /-- ECDSA_VERIFY: ECDSA verification against a public key in the parameters (R262). -/
  | ecdsaVerify (n : Chn) (sid : Nat)
  /-- ECDH: ECDH agreement writing the shared secret into a destination slot (R265). -/
  | ecdh (n : Chn) (sid : Nat)
  /-- X25519: X25519 agreement writing the shared secret into a destination slot (R265). -/
  | x25519 (n : Chn) (sid : Nat)
  /-- ED25519_SIGN: Ed25519 signature over a buffered message (R262). -/
  | ed25519Sign (n : Chn) (sid : Nat)
  /-- ED25519_VERIFY: Ed25519 verification with the cofactored equation (R262). -/
  | ed25519Verify (n : Chn) (sid : Nat)
  /-- RSA_VERIFY: RSA PKCS#1 v1.5 or PSS signature verification (R262). -/
  | rsaVerify (n : Chn) (sid : Nat)
  /-- RSA_SIGN: RSA PKCS#1 v1.5 or PSS signature with CRT from a large slot (R262). -/
  | rsaSign (n : Chn) (sid : Nat)
  /-- KEYPAIR_GEN: Creates an ECC, Ed25519, RSA or ML-DSA key pair in a slot, or republishes a slot's public
      key (R260). -/
  | keypairGen (n : Chn) (sid : Nat)
  /-- MLKEM_KEYGEN: Creates an ML-KEM or hybrid key in a slot, or republishes its public key (R260). -/
  | mlkemKeygen (n : Chn) (sid : Nat)
  /-- MLKEM_ENCAPS: ML-KEM encapsulation to a peer key, writing the secret into a slot (R265). -/
  | mlkemEncaps (n : Chn) (sid : Nat)
  /-- MLKEM_DECAPS: ML-KEM decapsulation with implicit rejection, writing the secret into a slot (R265). -/
  | mlkemDecaps (n : Chn) (sid : Nat)
  /-- MLDSA_VERIFY: ML-DSA-65 verification with a context string (R264). -/
  | mldsaVerify (n : Chn) (sid : Nat)
  /-- MLDSA_SIGN: ML-DSA-65 signature in deterministic or hedged mode (R264). -/
  | mldsaSign (n : Chn) (sid : Nat)
  /-- PRESIG_FILL: PRESIG_FILL computes presignatures into EMPTY places of the pool (R269). -/
  | presigFill (n : Chn) (sid : Nat)
  /-- HYBRID_KEX_ENCAPS: Hybrid X25519 plus ML-KEM-768 encapsulation, extracting the PRK into a slot (R266). -/
  | hybridKexEncaps (n : Chn) (sid : Nat)
  /-- HYBRID_KEX_DECAPS: Hybrid X25519 plus ML-KEM-768 decapsulation, extracting the PRK into a slot (R266). -/
  | hybridKexDecaps (n : Chn) (sid : Nat)
  /-- REC_PROTECT_INIT: Initializes a free record context for protection from a traffic secret (R353). -/
  | recProtectInit (n : Chn) (sid : Nat)
  /-- REC_PROTECT_RECORD: Protects one TLS or DTLS record, assigning the next sequence number (R355). -/
  | recProtectRecord (n : Chn) (sid : Nat)
  /-- REC_PROTECT_CLOSE: Returns a protect context to FREE (R359). -/
  | recProtectClose (n : Chn) (sid : Nat)
  /-- REC_PROTECT_INFO: Outputs the state of a protect context (R359). -/
  | recProtectInfo (n : Chn) (sid : Nat)
  /-- REC_UNPROTECT_INIT: Initializes a free record context for removing protection (R353). -/
  | recUnprotectInit (n : Chn) (sid : Nat)
  /-- REC_UNPROTECT_RECORD: Checks, replay-filters and decrypts one received record (R357). -/
  | recUnprotectRecord (n : Chn) (sid : Nat)
  /-- REC_UNPROTECT_CLOSE: Returns an unprotect context to FREE (R359). -/
  | recUnprotectClose (n : Chn) (sid : Nat)
  /-- REC_UNPROTECT_INFO: Outputs the state of an unprotect context (R359). -/
  | recUnprotectInfo (n : Chn) (sid : Nat)
  /-- TELEMETRY_SEAL: Builds a COSE_Sign1 or COSE_Encrypt0 around a payload (R360). -/
  | telemetrySeal (n : Chn) (sid : Nat)
  /-- ATTEST: Outputs alias-signed evidence, the alias statement or the identity public key (R363). -/
  | attest (n : Chn) (sid : Nat)
  /-- LASTGASP_ARM: Arms the last-gasp signer with a P-256 key, seq and SITE and zeroes the mailbox (R407). -/
  | lastgaspArm (n : Chn) (sid : Nat)
  /-- PHRASE: Runs the templates of a phrase-table phrase as steps of the calling channel (R366). -/
  | phrase (n : Chn) (sid : Nat)
  /-- TAMPER_OPENED: An enabled tamper input stays opened for its debounce time and its sticky bit and actions
      follow (R299). -/
  | tamperOpened (i : Fin 2)
  /-- TAMPER_ACK: A TAMPERSTAT.ACK write clears BLOCK when no BLOCK input reads opened (R301). -/
  | tamperAck (p : Port)
  /-- LC_NONCE: An LCREQ write with NONCE draws a fresh life-cycle nonce into LCNONCE (R310). -/
  | lcNonce (p : Port) (w : Word)
  /-- LC_NONCE_EXPIRY: The life-cycle nonce becomes invalid 60 s after its draw (R310). -/
  | lcNonceExpiry
  /-- LC_REQUEST: MGMT_CMD LC_REQUEST sets LCREQ.BUSY and starts the checks of a transition or debug unlock
      (R312). -/
  | lcRequest
  /-- LC_CHECK_DONE: The checks of a life-cycle request end, rejecting it with a RESULT or accepting it
      (R312). -/
  | lcCheckDone
  /-- LC_TRANSITION_DONE: An accepted transition finishes its row burn and key store erase and ends in a SOFT
      reset (R313). -/
  | lcTransitionDone (env : TransEnv) (burns : List Bool)
  /-- JTAG_TEST_LOGIC_RESET: The TAP enters Test-Logic-Reset and selects IDCODE (R315). -/
  | jtagTestLogicReset
  /-- JTAG_IDCODE: IDCODE selects the 32-bit identification register (R315). -/
  | jtagIdcode
  /-- JTAG_BYPASS: BYPASS, or any unavailable opcode, selects the 1-bit bypass register (R315). -/
  | jtagBypass
  /-- JTAG_SAMPLE_PRELOAD: SAMPLE/PRELOAD selects the boundary scan register (R315). -/
  | jtagSamplePreload
  /-- JTAG_EXTEST: EXTEST drives the boundary scan in open states (R315). -/
  | jtagExtest
  /-- DBGACC_READ: A DBGACC read reaches the link space, port B channels or program SRAM (R316). -/
  | dbgaccRead (addr : Nat)
  /-- DBGACC_WRITE: A DBGACC write reaches the link space, port B channels or program SRAM (R316). -/
  | dbgaccWrite (addr : Nat) (w : Word)
  /-- DBG_HALT: A DBGACC control access halts the service processor (R316). -/
  | dbgHalt
  /-- DBG_RESUME: A DBGACC control access resumes the service processor (R316). -/
  | dbgResume
  /-- DBG_STEP: A DBGACC control access steps the service processor one instruction (R316). -/
  | dbgStep
  /-- LOADER_AUTOBAUD: The recovery loader takes its baud rate from received 0x55 bytes (R328). -/
  | loaderAutobaud (baud : Nat)
  /-- LOADER_INFO: Loader INFO returns DEVID, UID, LCSTATE, epoch and BOOTSTAT (R328). -/
  | loaderInfo
  /-- LOADER_DATA: Loader DATA writes image bytes into program SRAM at an offset (R328). -/
  | loaderData (off : Word) (data : Bytes)
  /-- LOADER_COMMIT: Loader COMMIT checks and measures the image, writes it to a slot and starts it if
      accepted (R329). -/
  | loaderCommit (len : Word) (vfy burns : List Bool)
  /-- LOADER_RESET: Loader RESET answers and then performs a SOFT reset (R328). -/
  | loaderReset
  /-- LOADER_BAD_PACKET: A loader packet with a bad CRC or unknown CMD is answered with CRC or BADCMD (R328). -/
  | loaderBadPacket (crcGood : Bool)
  /-- LOADER_PACKET_TIMEOUT: A loader packet whose bytes stop for more than 100 ms is discarded (R328). -/
  | loaderPacketTimeout
  /-- ENDORSE: ENDORSE writes a CANDIDATE header entry for the inactive image and arms a trial (R335). -/
  | endorse
  /-- CONFIRM: CONFIRM makes the trial entry CONFIRMED, burns a ratchet step and makes the trial slot ACTIVE
      (R337). -/
  | confirm
  /-- RESTORE_FACTORY: RESTORE_FACTORY writes a VOID calibration record and returns user quantities to factory
      values (R430). -/
  | restoreFactory
  /-- CALSAVE: CALSAVE writes the active PDSEQ, RIDE and CALIB values as a user calibration record (R429). -/
  | calsave
  /-- HOSTIMG_STAGE: HOSTIMG_STAGE copies a buffer into the inactive program or host image slot (R333). -/
  | hostimgStage
  /-- HOSTIMG_ACTIVATE: HOSTIMG_ACTIVATE checks the inactive host image and makes it active (R344). -/
  | hostimgActivate
  /-- CHECKPOINT: The CHECKPOINT command writes clean counter records for every persistent slot that needs one
      (R334). -/
  | checkpoint
  /-- MGMT_CMD_DONE: A running management command ends, setting MGMT_RES.CMD and RESULT and clearing BUSY
      (R332). -/
  | mgmtCmdDone (vfy burns : List Bool)
  /-- CONFIRM_WATCHDOG_EXPIRY: The confirm watchdog reaches 0 during a trial and the device performs a SOFT
      reset (R336). -/
  | confirmWatchdogExpiry
  /-- HIG_TABLE_LOADED: The gate finishes reading and checking the active host image table and sets HIG or
      TBLBAD (R341). -/
  | higTableLoaded
  /-- HIGPAGE_WRITE: A HIGPAGE write requests a host image page and clears PGREADY and PGBAD (R343). -/
  | higpageWrite (p : Port) (w : Word)
  /-- HIG_FETCH_DONE: A page fetch ends; a matching page becomes resident, a mismatch sets PGBAD (R343). -/
  | higFetchDone
  /-- PT_LOAD: PTCTL.LOAD starts a phrase table load from a channel's buffer (R368). -/
  | ptLoad (p : Port) (w : Word)
  /-- PT_LOAD_DONE: A phrase table load ends, adopting the table or reporting BADSTATE, NOTOWNER, BADTABLE or
      FLASH (R368). -/
  | ptLoadDone (vfy : List Bool)
  /-- DOMAIN_CONTROL_WRITE: A PDREQ or PDDENY write changes domain targets at its commit (R371). -/
  | domainControlWrite (p : Port) (addr : Nat) (w : Word)
  /-- DOMAIN_SEQUENCE_START: A domain whose target differs starts its switch-on or switch-off sequence after
      its 2 µs rest (R376). -/
  | domainSequenceStart (dom : Nat)
  /-- DOMAIN_STEP_DONE: A sequencing step ends after its PDSEQ delay and the next step, an undo or rest
      follows (R372). -/
  | domainStepDone (dom : Nat)
  /-- DOMAIN_READY_TIMEOUT: A domain's ready signal misses 1 ms and it is marked failed with the consequence
      of Table 16.4 (R375). -/
  | domainReadyTimeout (dom : Nat) (vfy burns : List Bool)
  /-- STOP_REQUEST: PWRCTL.STOP requests STOP; it is refused, abandoned by a same-cycle wake, or latches the
      keep set and starts entry (R379). -/
  | stopRequest (p : Port) (w : Word) (wake : List Nat)
  /-- STOP_ENTRY_DONE: STOP entry finishes resetting channels, ending work, writing records and switching off,
      and the device is in STOP (R381). -/
  | stopEntryDone (vfy : List Bool)
  /-- WAKE: An armed wake source fires on A_CS#, B_CS#, U_RXD, PFW# or a tamper input and STOP exit starts
      (R385). -/
  | wake (srcs : List Nat)
  /-- WAKE_TIMER_EXPIRY: The wake timer reaches 0 and wakes the device (R385). -/
  | wakeTimerExpiry
  /-- STOP_EXIT_DONE: STOP exit completes its handshake and GSTAT.RUN becomes 1 (R387). -/
  | stopExitDone
  /-- KEYSTORE_UNLOCK_DONE: The key store unlock after a STOP without D9 ends and KSREADY is set or the unlock
      fails (R297). -/
  | keystoreUnlockDone
  /-- SUPPLY_TICK: Every 2 µs the monitor samples VIN and HOLD_SENSE and each ride-through entry moves between
      IDLE and BELOW (R400). -/
  | supplyTick (x : SupplySample) (env : RideEnv)
  /-- RIDE_ENTRY_FIRE: A ride-through entry's timer reaches DUR and its action runs once (R402). -/
  | rideEntryFire (i : Fin 16) (env : RideEnv)
  /-- LASTGASP_SEAL: The last-gasp signature completes and the COSE_Sign1 record is sealed in the mailbox
      (R410). -/
  | lastgaspSeal (upset : Bool)
  /-- LASTGASP_MARK: The mark recording the last-gasp outcome is written to the counter log and verified
      (R412). -/
  | lastgaspMark (vfy : List Bool)
  /-- PFW_ASSERT: PFW# stays low for FILT µs and filtered PFW asserts (R397). -/
  | pfwAssert
  /-- PFW_DEASSERT: PFW# stays high for FILT µs and filtered PFW deasserts (R397). -/
  | pfwDeassert
  /-- RIDE_WRITE: A write of a ride-through entry returns it to IDLE and recomputes the action level (R400). -/
  | rideWrite (p : Port) (i : Fin 16) (w : Word)
  /-- LOWCLR: SUPCFG.LOWCLR restarts the LOW fields of SUPVIN and SUPHOLD (R416). -/
  | lowclr (p : Port)
  /-- FSEL_WRITE: A CLKCFG.FSEL write switches the core clock divider glitch-free (R418). -/
  | fselWrite (p : Port) (w : Word)
  /-- TEMP_SAMPLE: The temperature sensor is converted once per millisecond into TEMP (R423). -/
  | tempSample (deg : BitVec 16)
  /-- ENTROPY_BLOCK_DONE: A block of 1,024 entropy samples passes or fails the health tests and the occasion
      continues or fails (R426). -/
  | entropyBlockDone (bits : List Bool)
  /-- VDDIO_DETECTION: A bank supply crosses VBDET: below it the port B inputs are forced inactive and ATTN_B#
      goes high-impedance, and 100 µs after it rises the bank's voltage class is decided (R30). -/
  | vddioDetection (bank : Bank3) (mv : Option Nat)
  /-- TAMPER_CLOSED: An opened tamper input returns to its closed level, so its TAMPERSTAT.OPEN bit clears and
      a later ACK can clear BLOCK (R305). -/
  | tamperClosed (i : Fin 2)
  deriving DecidableEq, Repr

end Sys2Proof
end

