-- ==== Sys2Proof/Decode.lean ====
section
/-!
DEFINITION. The command a word of the table spells: no row of spec/opcode_table.json gives bits, so no word
spells one.
-/

namespace Sys2Proof

/-- The command of a word of `nbits` bits: none, for the table gives no row bits. -/
def decodeTableWord (_nbits _w : Nat) : Option Instr := none

end Sys2Proof
end

