-- ==== Sys2Proof/Machine/Bytes.lean ====
section
/-!
DEFINITION. Byte strings: their reading as numbers in both byte orders, words of a byte string,
exclusive or, padding, CRC-16 (00_scope.md R6, R7).
-/

namespace Sys2Proof.Machine

/-- The number a byte string spells, most significant byte first. -/
def beNat (bs : Bytes) : Nat := bs.foldl (fun a b => a * 256 + b.toNat) 0

/-- The number a byte string spells, least significant byte first. -/
def leNat : Bytes → Nat
  | [] => 0
  | b :: bs => b.toNat + 256 * leNat bs

/-- The low `n` bytes of a number, least significant first. -/
def natLE : Nat → Nat → Bytes
  | 0, _ => []
  | n + 1, v => BitVec.ofNat 8 v :: natLE n (v / 256)

/-- The low `n` bytes of a number, most significant first. -/
def natBE (n v : Nat) : Bytes := (natLE n v).reverse

/-- The four bytes of a word as they travel and as they lie in memory (00_scope.md R6). -/
def wordBytes (w : Word) : Bytes := natBE 4 w.toNat

/-- The word four bytes spell (00_scope.md R6). -/
def bytesWord (bs : Bytes) : Word := BitVec.ofNat 32 (beNat bs)

/-- The bytes of a list of words. -/
def wordsBytes (ws : List Word) : Bytes := ws.flatMap wordBytes

/-- `n` words of a byte string, the missing bytes read as zeros. -/
def bytesWords : Nat → Bytes → List Word
  | 0, _ => []
  | n + 1, bs => bytesWord ((bs ++ List.replicate 4 0).take 4) :: bytesWords n (bs.drop 4)

/-- The exclusive or of two byte strings, as long as the shorter. -/
def xorBytes (a b : Bytes) : Bytes := List.zipWith (· ^^^ ·) a b

/-- `n` zero bytes. -/
def zeros (n : Nat) : Bytes := List.replicate n 0

/-- The first `n` bytes, filled up with zeros. -/
def padTo (n : Nat) (bs : Bytes) : Bytes := bs.take n ++ zeros (n - bs.length)

/-- The byte string filled with zeros up to a multiple of `n`. -/
def padMul (n : Nat) (bs : Bytes) : Bytes := bs ++ zeros ((n - bs.length % n) % n)

/-- The string cut in pieces of `n` bytes; `fuel` bounds how many. -/
def chunksFuel (n : Nat) : Nat → Bytes → List Bytes
  | 0, _ => []
  | _, [] => []
  | f + 1, bs => bs.take n :: chunksFuel n f (bs.drop n)

/-- The string cut in pieces of `n` bytes, the last as long as it is. -/
def chunks (n : Nat) (bs : Bytes) : List Bytes := chunksFuel n bs.length bs

/-- `bs.slice off len`: `len` bytes from offset `off`, fewer where the string ends. -/
def slice (off len : Nat) (bs : Bytes) : Bytes := (bs.drop off).take len

/-- The smallest multiple of `m` that is at least `n`. -/
def roundUp (m n : Nat) : Nat := (n + m - 1) / m * m

/-- The quotient rounded up. -/
def ceilDiv (n m : Nat) : Nat := (n + m - 1) / m

/-- The bits of a number, least significant first, `n` of them. -/
def natBits : Nat → Nat → List Bool
  | 0, _ => []
  | n + 1, v => (v % 2 == 1) :: natBits n (v / 2)

/-- The bits of a byte string, each byte's least significant bit first. -/
def bytesBits (bs : Bytes) : List Bool := bs.flatMap (fun b => natBits 8 b.toNat)

/-- The number a list of bits spells, least significant first. -/
def bitsNat : List Bool → Nat
  | [] => 0
  | b :: bs => b.toNat + 2 * bitsNat bs

/-- The ASCII bytes of a text. -/
def ascii (s : String) : Bytes := s.toList.map (fun c => BitVec.ofNat 8 c.toNat)

/-- One bit step of CRC-16/CCITT-FALSE. -/
def crcBit (c : BitVec 16) : BitVec 16 :=
  if c.msb then (c <<< 1) ^^^ 0x1021 else c <<< 1

/-- One byte of CRC-16/CCITT-FALSE. -/
def crcByte (c : BitVec 16) (b : Byte) : BitVec 16 :=
  crcBit (crcBit (crcBit (crcBit (crcBit (crcBit (crcBit (crcBit
    (c ^^^ (b.setWidth 16 <<< 8)))))))))

/-- CRC-16/CCITT-FALSE of a byte string (00_scope.md R7). -/
def crc16 (bs : Bytes) : BitVec 16 := bs.foldl crcByte 0xFFFF

/-- Two byte strings compared over their whole length, as the comparators do. -/
def sameBytes (a b : Bytes) : Bool := a == b

end Sys2Proof.Machine
end

