-- ==== Sys2Proof/Machine/Aes.lean ====
section
/-!
DEFINITION. AES-128 and AES-256, the modes CBC, CTR, CMAC, GCM and CCM, and the key wrap of
RFC 3394. The manual names FIPS 197, SP 800-38A to -38D and RFC 3394 (00_scope.md R18) without
repeating them: the algorithms are PRESUMED from those documents (log entry 2).
-/

namespace Sys2Proof.Machine

/-- Doubling in the field of AES. -/
def gfDouble (b : Byte) : Byte := if b.msb then (b <<< 1) ^^^ 0x1b else b <<< 1

/-- Product in the field of AES over the bits of the second factor. -/
def gfMulBits : List Bool → Byte → Byte
  | [], _ => 0
  | c :: cs, a => (if c then a else 0) ^^^ gfMulBits cs (gfDouble a)

/-- Product in the field of AES. -/
def gfMul (a b : Byte) : Byte := gfMulBits (natBits 8 b.toNat) a

/-- The inverse of a field element, 0 for 0: the 254th power. -/
def gfInv (a : Byte) : Byte :=
  let a2 := gfMul a a
  let a4 := gfMul a2 a2
  let a8 := gfMul a4 a4
  let a16 := gfMul a8 a8
  let a32 := gfMul a16 a16
  let a64 := gfMul a32 a32
  let a128 := gfMul a64 a64
  gfMul a2 (gfMul a4 (gfMul a8 (gfMul a16 (gfMul a32 (gfMul a64 a128)))))

/-- The affine map after inversion: one entry of the substitution box. -/
def aesSubByte (a : Byte) : Byte :=
  let b := gfInv a
  b ^^^ b.rotateLeft 1 ^^^ b.rotateLeft 2 ^^^ b.rotateLeft 3 ^^^ b.rotateLeft 4 ^^^ 0x63

/-- The substitution box. -/
def aesBox : Array Byte := Array.ofFn (fun i : Fin 256 => aesSubByte (BitVec.ofNat 8 i.val))

/-- The inverse affine map and inversion: one entry of the inverse box. -/
def aesInvSubByte (a : Byte) : Byte :=
  gfInv (a.rotateLeft 1 ^^^ a.rotateLeft 3 ^^^ a.rotateLeft 6 ^^^ 0x05)

/-- The inverse substitution box. -/
def aesInvBox : Array Byte := Array.ofFn (fun i : Fin 256 => aesInvSubByte (BitVec.ofNat 8 i.val))

/-- One byte through the box. -/
def sub8 (b : Byte) : Byte := aesBox.getD b.toNat 0

/-- One byte through the inverse box. -/
def invSub8 (b : Byte) : Byte := aesInvBox.getD b.toNat 0

/-- The key schedule as four-byte words, newest first: `n` more words from word index `i`. -/
def aesExpand (nk : Nat) : Nat → Nat → Byte → List Bytes → List Bytes
  | 0, _, _, w => w
  | n + 1, i, rc, w =>
    let t := w.getD 0 []
    let old := w.getD (nk - 1) []
    if i % nk = 0 then
      let r := (t.drop 1 ++ t.take 1).map sub8
      aesExpand nk n (i + 1) (gfDouble rc) (xorBytes old (xorBytes r [rc, 0, 0, 0]) :: w)
    else if nk > 6 ∧ i % nk = 4 then
      aesExpand nk n (i + 1) rc (xorBytes old (t.map sub8) :: w)
    else aesExpand nk n (i + 1) rc (xorBytes old t :: w)

/-- The round keys, 16 bytes each, of a key of 16 or 32 bytes. -/
def aesKeys (key : Bytes) : List Bytes :=
  let nk := key.length / 4
  chunks 16 ((aesExpand nk (4 * (nk + 7) - nk) nk 1 (chunks 4 key).reverse).reverse.flatten)

/-- The row shift of the encryption, on a block in column order. -/
def aesShift (b : Bytes) : Bytes := (List.range 16).map (fun i => b.getD ((5 * i) % 16) 0)

/-- The row shift of the decryption. -/
def aesInvShift (b : Bytes) : Bytes := (List.range 16).map (fun i => b.getD ((13 * i) % 16) 0)

/-- One column times the circulant of the four coefficients. -/
def aesCol (k0 k1 k2 k3 : Byte) (c : Bytes) : Bytes :=
  let e (i : Nat) := c.getD (i % 4) 0
  (List.range 4).map (fun i =>
    gfMul (e i) k0 ^^^ gfMul (e (i + 1)) k1 ^^^ gfMul (e (i + 2)) k2 ^^^ gfMul (e (i + 3)) k3)

/-- The rounds of the encryption. -/
def aesRounds : List Bytes → Bytes → Bytes
  | [], b => b
  | [k], b => xorBytes (aesShift (b.map sub8)) k
  | k :: k' :: ks, b =>
    aesRounds (k' :: ks)
      (xorBytes ((chunks 4 (aesShift (b.map sub8))).flatMap (aesCol 2 3 1 1)) k)

/-- One block encrypted under expanded round keys. -/
def aesEncryptWith (ks : List Bytes) (b : Bytes) : Bytes :=
  match ks with
  | [] => b
  | k :: ks => aesRounds ks (xorBytes b k)

/-- The rounds of the decryption, on the round keys in reverse order. -/
def aesInvRounds : List Bytes → Bytes → Bytes
  | [], b => b
  | [k], b => xorBytes ((aesInvShift b).map invSub8) k
  | k :: k' :: ks, b =>
    aesInvRounds (k' :: ks)
      ((chunks 4 (xorBytes ((aesInvShift b).map invSub8) k)).flatMap (aesCol 14 11 13 9))

/-- One block decrypted under expanded round keys. -/
def aesDecryptWith (ks : List Bytes) (b : Bytes) : Bytes :=
  match ks.reverse with
  | [] => b
  | k :: ks => aesInvRounds ks (xorBytes b k)

/-- One block encrypted. -/
def aesEncrypt (key b : Bytes) : Bytes := aesEncryptWith (aesKeys key) b

/-- One block decrypted. -/
def aesDecrypt (key b : Bytes) : Bytes := aesDecryptWith (aesKeys key) b

/-- CBC encryption of whole blocks. -/
def cbcEncBlocks (ks : List Bytes) : List Bytes → Bytes → Bytes
  | [], _ => []
  | b :: bs, iv => let c := aesEncryptWith ks (xorBytes b iv); c ++ cbcEncBlocks ks bs c

/-- CBC decryption of whole blocks. -/
def cbcDecBlocks (ks : List Bytes) : List Bytes → Bytes → Bytes
  | [], _ => []
  | c :: cs, iv => xorBytes (aesDecryptWith ks c) iv ++ cbcDecBlocks ks cs c

/-- CBC encryption of whole blocks. -/
def cbcEncrypt (key iv m : Bytes) : Bytes := cbcEncBlocks (aesKeys key) (chunks 16 m) iv

/-- CBC decryption of whole blocks. -/
def cbcDecrypt (key iv m : Bytes) : Bytes := cbcDecBlocks (aesKeys key) (chunks 16 m) iv

/-- The counter block `n` places on, the low `w` bytes counting. -/
def ctrBlock (w : Nat) (ctr : Bytes) (n : Nat) : Bytes :=
  ctr.take (16 - w) ++ natBE w (beNat (ctr.drop (16 - w)) + n)

/-- The stream of counter blocks exclusive-ored into pieces of the message from block `i`. -/
def ctrBlocks (ks : List Bytes) (w : Nat) (ctr : Bytes) : List Bytes → Nat → Bytes
  | [], _ => []
  | b :: bs, i =>
    xorBytes b (aesEncryptWith ks (ctrBlock w ctr i)) ++ ctrBlocks ks w ctr bs (i + 1)

/-- Counter mode with the low `w` bytes of the block counting. -/
def ctrCrypt (key : Bytes) (w : Nat) (ctr m : Bytes) : Bytes :=
  ctrBlocks (aesKeys key) w ctr (chunks 16 m) 0

/-- Doubling in the field of CMAC. -/
def cmacDouble (b : Bytes) : Bytes :=
  let v := beNat b
  natBE 16 (if v ≥ 2 ^ 127 then (2 * v) ^^^ 0x87 else 2 * v)

/-- The chain over whole blocks. -/
def cbcMac (ks : List Bytes) (bs : List Bytes) (x : Bytes) : Bytes :=
  bs.foldl (fun x b => aesEncryptWith ks (xorBytes x b)) x

/-- CMAC of a message: the last block is masked with one of the two subkeys. -/
def cmac (key m : Bytes) : Bytes :=
  let ks := aesKeys key
  let k1 := cmacDouble (aesEncryptWith ks (zeros 16))
  let bs := chunks 16 m
  let last := bs.getLastD []
  let fin := if last.length = 16 then xorBytes last k1
    else xorBytes (padTo 16 (last ++ [0x80])) (cmacDouble k1)
  cbcMac ks (bs.dropLast ++ [fin]) (zeros 16)

/-- Product in the field of GHASH: the bits of `x` from its first bit, `v` halved each time. -/
def ghashMulBits : Nat → Nat → Nat → Nat → Nat
  | 0, _, _, z => z
  | n + 1, x, v, z =>
    ghashMulBits n x (if v % 2 = 1 then v / 2 ^^^ (0xe1 * 2 ^ 120) else v / 2)
      (if x.testBit n then z ^^^ v else z)

/-- Product in the field of GHASH. -/
def ghashMul (x y : Nat) : Nat := ghashMulBits 128 x y 0

/-- GHASH of a string of whole blocks. -/
def ghash (h : Nat) (m : Bytes) : Nat :=
  (chunks 16 m).foldl (fun y b => ghashMul (y ^^^ beNat b) h) 0

/-- The GCM tag over AAD and ciphertext, for a 96-bit IV. -/
def gcmTag (key iv aad ct : Bytes) : Bytes :=
  let ks := aesKeys key
  let h := beNat (aesEncryptWith ks (zeros 16))
  let s := ghash h (padMul 16 aad ++ padMul 16 ct ++ natBE 8 (8 * aad.length)
    ++ natBE 8 (8 * ct.length))
  xorBytes (natBE 16 s) (aesEncryptWith ks (iv ++ natBE 4 1))

/-- The GCM text transformation: counter mode from counter 2. -/
def gcmCrypt (key iv m : Bytes) : Bytes := ctrCrypt key 4 (iv ++ natBE 4 2) m

/-- GCM seal: ciphertext followed by the 16-byte tag. -/
def gcmSeal (key iv aad pt : Bytes) : Bytes :=
  gcmCrypt key iv pt ++ gcmTag key iv aad (gcmCrypt key iv pt)

/-- GCM open of ciphertext and tag: the plaintext when the tag is right. -/
def gcmOpen (key iv aad ct tag : Bytes) : Option Bytes :=
  if sameBytes (gcmTag key iv aad ct) tag then some (gcmCrypt key iv ct) else none

/-- The first block of CCM. -/
def ccmB0 (n : Bytes) (tlen aadLen ptLen : Nat) : Bytes :=
  BitVec.ofNat 8 ((if aadLen > 0 then 64 else 0) + 8 * ((tlen - 2) / 2) + (14 - n.length))
    :: n ++ natBE (15 - n.length) ptLen

/-- The encoded length of the AAD of CCM (less than 2^16 - 2^8, or four bytes after FFFE). -/
def ccmAadLen (n : Nat) : Bytes := if n < 0xFF00 then natBE 2 n else [0xff, 0xfe] ++ natBE 4 n

/-- The counter block 0 of CCM. -/
def ccmCtr0 (n : Bytes) : Bytes := BitVec.ofNat 8 (14 - n.length) :: n ++ zeros (15 - n.length)

/-- The CCM tag. -/
def ccmTag (key n : Bytes) (tlen : Nat) (aad pt : Bytes) : Bytes :=
  let ks := aesKeys key
  let a := if aad.length = 0 then [] else padMul 16 (ccmAadLen aad.length ++ aad)
  let x := cbcMac ks (chunks 16 (ccmB0 n tlen aad.length pt.length ++ a ++ padMul 16 pt)) (zeros 16)
  (xorBytes x (aesEncryptWith ks (ccmCtr0 n))).take tlen

/-- The CCM text transformation: counter mode from counter 1. -/
def ccmCrypt (key n m : Bytes) : Bytes :=
  ctrCrypt key (15 - n.length) (ctrBlock (15 - n.length) (ccmCtr0 n) 1) m

/-- CCM seal: ciphertext followed by the tag. -/
def ccmSeal (key n : Bytes) (tlen : Nat) (aad pt : Bytes) : Bytes :=
  ccmCrypt key n pt ++ ccmTag key n tlen aad pt

/-- CCM open: the plaintext when the tag is right. -/
def ccmOpen (key n aad ct tag : Bytes) : Option Bytes :=
  let pt := ccmCrypt key n ct
  if sameBytes (ccmTag key n tag.length aad pt) tag then some pt else none

/-- One pass of the wrap over its registers; `t` counts the steps. -/
def kwPass (ks : List Bytes) : List Bytes → Nat → Bytes → List Bytes → Bytes × List Bytes
  | [], _, a, out => (a, out.reverse)
  | r :: rs, t, a, out =>
    let b := aesEncryptWith ks (a ++ r)
    kwPass ks rs (t + 1) (xorBytes (b.take 8) (natBE 8 t)) (b.drop 8 :: out)

/-- `j` passes of the wrap. -/
def kwPasses (ks : List Bytes) : Nat → Nat → Bytes → List Bytes → Bytes × List Bytes
  | 0, _, a, rs => (a, rs)
  | j + 1, t, a, rs => let p := kwPass ks rs t a []; kwPasses ks j (t + rs.length) p.1 p.2

/-- AES key wrap (RFC 3394) of a string of whole 8-byte pieces. -/
def keyWrap (kek m : Bytes) : Bytes :=
  let p := kwPasses (aesKeys kek) 6 1 (List.replicate 8 0xa6) (chunks 8 m)
  p.1 ++ p.2.flatten

/-- One pass of the unwrap, over the registers in reverse order. -/
def kwUnpass (ks : List Bytes) : List Bytes → Nat → Bytes → List Bytes → Bytes × List Bytes
  | [], _, a, out => (a, out)
  | r :: rs, t, a, out =>
    let b := aesDecryptWith ks (xorBytes a (natBE 8 t) ++ r)
    kwUnpass ks rs (t - 1) (b.take 8) (b.drop 8 :: out)

/-- `j` passes of the unwrap. -/
def kwUnpasses (ks : List Bytes) : Nat → Nat → Bytes → List Bytes → Bytes × List Bytes
  | 0, _, a, rs => (a, rs)
  | j + 1, t, a, rs =>
    let p := kwUnpass ks rs.reverse t a []
    kwUnpasses ks j (t - rs.length) p.1 p.2

/-- AES key unwrap (RFC 3394): the content when the integrity value is right. -/
def keyUnwrap (kek m : Bytes) : Option Bytes :=
  let rs := chunks 8 (m.drop 8)
  let p := kwUnpasses (aesKeys kek) 6 (6 * rs.length) (m.take 8) rs
  if sameBytes p.1 (List.replicate 8 0xa6) then some p.2.flatten else none

end Sys2Proof.Machine
end

