-- ==== Sys2Proof/Config.lean ====
section
/-!
DEFINITION. What one device or the environment fixes and the manual leaves open: free values. Each is
an opaque constant without a body, so that no proof can rest on its value (log entry 1).
-/

namespace Sys2Proof.Config

/-- The 128-bit unique ID of the device (02_signals_and_board.md; per device). -/
opaque uid : BitVec 128

/-- Whether a RESET# pulse shorter than tRST but longer than the glitch filter resets the device
(02 R38 leaves pulses between the two bounds open), drawn from the counter. -/
opaque midPulse : Nat → Bool

/-- A byte the manual calls undefined because the host wrote into a range of a dispatched clause
(06_rings_and_clauses.md R454). -/
opaque raceByte : Nat → Nat → Byte

/-- Whether a clause whose ranges the host wrote after dispatch keeps its own status (R454). -/
opaque raceKeeps : Nat → Bool

/-- A byte left by a program or erase of the flash that failed its verify. -/
opaque tornByte : Nat → Nat → Byte

/-- The core cycles for which an engine was busy with a dispatch (08_scheduler_and_engines.md R177;
timing is not modelled). -/
opaque busyCycles : Nat → Nat

/-- The nonce and personalization of the DRBG's instantiation (09 R207 and SP 800-90A leave them to
the implementation). -/
opaque drbgNonce : List (BitVec 8)

/-- The scalar that a draw of DRBG bytes stands for, below the given bound (11 R262 does not say how
a draw becomes a nonce or a private key). -/
opaque scalarOf : Nat → List (BitVec 8) → Nat

/-- The candidate a round of RSA key generation tries for a size in bits, a draw and a round (11 R261 and FIPS
186-5 leave open how random bits become a candidate). -/
opaque primeCand : Nat → List (BitVec 8) → Nat → Nat

/-- The random base of a Miller–Rabin test, by round and number (FIPS 186-5, B.3). -/
opaque primeBase : Nat → Nat → Nat

/-- The 64-bit random multiple of a stored residue (10 R235), by write. -/
opaque maskWord : Nat → Nat → Nat

/-- A value the manual does not state, drawn from the counter. -/
opaque freeNat : Nat → Nat

/-- The length of the boundary-scan register (13 Table 13.6 gives none). -/
opaque scanLen : Nat

/-- The bits the JTAG host shifts into the boundary-scan register, drawn from the counter: the table's rows give its
commands no operand. -/
opaque scanIn : Nat → Nat

/-- Whether the check of OTP reread in a STOP exit passes (16 R387), drawn from the counter: the table's row gives its
command no operand. -/
opaque otpReread : Nat → Bool

/-- What Capture-DR loads into the boundary-scan register, drawn from the counter (13 Table 13.6 names no cell). -/
opaque scanSample : Nat → Nat

/-- A byte string of given length whose value the manual does not state. -/
opaque freeBytes : Nat → Nat → List (BitVec 8)

end Sys2Proof.Config
end

