-- ==== Sys2Proof/Machine/State.lean ====
section
/-!
DEFINITION. The state of the AY7416 as plain data: port shells, registers, rings, streams, pool,
scheduler, engines, key store, flash, OTP, power, supply, clocks, and the queue of waiting commands;
the faults and refusals; the state after reset.
-/

namespace Sys2Proof.Machine

/-- Why the machine stops with a fault. No command raises one: the manual gives every command an effect, so
the type has no constructor. -/
inductive Fault where
  deriving DecidableEq, Repr

/-- Why a command has no meaning. -/
inductive Refusal where
  /-- Raised by an arm of exec not modelled yet. Safe: the model stops. -/
  | notModelled (mnemonic : String)
  deriving DecidableEq, Repr

/-- A sparse memory: addresses strictly rising, no entry equal to what an unlisted address reads. -/
abbrev Mem := List Host.Cell

/-! ### Rings, clauses, sentences (06_rings_and_clauses.md) -/

/-- A pointer held twice, as its value and as its complement (R128). -/
structure PtrPair where
  val : BitVec 14
  cmp : BitVec 14
  deriving DecidableEq, Repr

/-- The four rings of a channel (R124). -/
inductive RingK where
  | subp
  | subb
  | cpl
  | out
  deriving DecidableEq, Repr

/-- The registers of one ring (R125, R151). -/
structure RingRegs where
  base : Nat
  size : Nat
  head : PtrPair
  tail : PtrPair
  deriving DecidableEq, Repr

/-- A clause: eight words (R130). -/
structure Clause where
  w0 : Word
  w1 : Word
  w2 : Word
  w3 : Word
  w4 : Word
  w5 : Word
  w6 : Word
  w7 : Word
  deriving DecidableEq, Repr

/-- The completion statuses (R138, Table 06.8). -/
inductive Status where
  | ok
  | authFail
  | keyDenied
  | keySpent
  | badVerb
  | badHandle
  | notOwner
  | quota
  | aborted
  | ringReset
  | invariant
  | outFull
  | tooLong
  | supply
  | skipped
  | engineFault
  | entropy
  | noEngine
  | outputDiscarded
  | replay
  | badParam
  deriving DecidableEq, Repr

/-- Where a running clause writes (R131). -/
inductive Dest where
  /-- 0xFFFC: nothing -/
  | none
  /-- 0xFFFE: the open OUT record -/
  | ring
  /-- a buffer: its first granule and the byte offset -/
  | buf (first off : Nat)
  /-- 0xFFFD: the INFLIGHT buffer allocated at dispatch -/
  | alloc (first : Nat)
  /-- 0xFFFE of a phrase's template: the record the phrase has open, from an offset on (15 R366) -/
  | append (off : Nat)
  deriving DecidableEq, Repr

/-- A key on its way into a slot (09_symmetric_and_hash_verbs.md R201, R219). -/
structure DestKey where
  slot : Nat
  cls : Nat
  usage : Nat
  limit : Nat
  deriving DecidableEq, Repr

/-! ### Big-number operand memory (10_big_number_engine.md) -/

/-- The kinds of an operand slot (Table 10.1). -/
inductive OpKind where
  | context
  | residue
  | raw
  | poly
  deriving DecidableEq, Repr

/-- A written operand slot with its metadata (R231) and its canonical value: one number for the
integer kinds, 256 coefficients for a polynomial. `mask` is the random multiple of the stored form
(R235), which no port can read. -/
structure OpSlot where
  first : Nat
  len : Nat
  kind : OpKind
  size : Nat
  ring : Nat
  ntt : Bool
  ctx : Nat
  secret : Bool
  value : List Nat
  mask : Nat
  deriving DecidableEq, Repr

/-- The user area of one core and whether a job holds its job area (R228, R229, R232). -/
structure BnCore where
  owner : Option Chn
  slots : List OpSlot
  jobArea : Bool
  deriving DecidableEq, Repr

/-! ### Record contexts (15_protocol_services.md) -/

/-- The states of a record context that is not FREE (R351). -/
inductive RecState where
  | live
  | spent
  | failed
  deriving DecidableEq, Repr

/-- A record context of REC_PROTECT or REC_UNPROTECT (R351–R359); `gen` is the model's own mark of the INIT that
made it, so that a later INIT with equal keys is another context. -/
structure RecCtx where
  gen : Nat
  /-- true: protect; false: unprotect -/
  protect : Bool
  /-- 1 TLS 1.3, 2 DTLS 1.3 -/
  proto : Nat
  suite : Nat
  epoch : Nat
  cid : Bytes
  key : Bytes
  iv : Bytes
  snKey : Bytes
  /-- next sequence number (protect, or TLS unprotect) -/
  seq : Nat
  /-- highest sequence number accepted plus one (DTLS unprotect; 0 none) -/
  high : Nat
  /-- replay window: bit i is the sequence number high - 1 - i -/
  window : Nat
  limit : Nat
  fails : Nat
  st : RecState
  deriving DecidableEq, Repr

/-! ### The last-gasp arm (17_supply_and_last_gasp.md R407) -/

/-- What LASTGASP_ARM leaves with the power controller. -/
structure Arm where
  channel : Chn
  slot : Nat
  key : Bytes
  seq : Nat
  site : Nat
  deriving DecidableEq, Repr

/-- What a clause changes at its end besides its output. -/
inductive Effect where
  /-- the produced key enters its reserved destination -/
  | putKey (dk : DestKey) (value : Bytes)
  /-- the user area of a core after the job -/
  | area (core : Fin 4) (slots : List OpSlot)
  /-- a record context of the channel after the step -/
  | recCtx (i : Nat) (c : Option RecCtx)
  /-- the end of an unprotected record: context, the INIT that made it, sequence number, whether the tag
  verified -/
  | recDone (i : Nat) (gen : Nat) (seq : Nat) (auth : Bool)
  /-- the last-gasp signer is armed -/
  | arm (a : Arm)
  /-- presignatures become AVAILABLE -/
  | presig (triples : List (Nat × Nat × Nat))
  /-- a key slot is retired -/
  | retire (slot : Nat) (burns : List Bool)
  deriving DecidableEq, Repr

/-- What a clause will post when it ends: its status, host output, W2 of its record, and what it
changes when it ends well (`good`) or fails (`bad`). -/
structure JobResult where
  status : Status
  out : Bytes
  w2 : Nat
  good : List Effect
  bad : List Effect
  deriving DecidableEq, Repr

/-! ### Engine classes, selections, steps (08_scheduler_and_engines.md) -/

/-- The four classes of work (R173). -/
inductive Cls where
  | cipher
  | hash
  | bignum
  | service
  deriving DecidableEq, Repr

/-- A selection of the scheduler whose dispatch waits for a switch-on (R184): the engine's index, 16 for the
service processor; the weight and the tag at the selection (R177), the tag counted from before every
subtraction of Δ; the domains awaited. -/
structure Sel where
  eng : Nat
  weight : Nat
  before : Nat
  doms : List Nat
  deriving DecidableEq, Repr

/-- The phases of a step. -/
inductive StepPhase where
  /-- the clause's own work comes first -/
  | later
  | queued
  /-- on its engine -/
  | run
  /-- suspended in a context (R181) -/
  | susp
  deriving DecidableEq, Repr

/-- A step a clause of class B or S queues as work of another class (R173), or the core a public-key clause
claims once its message is hashed (11 R256): `own` is true for that one, which ranks as the clause. -/
structure Step where
  cls : Cls
  own : Bool
  /-- input bytes -/
  len : Nat
  /-- input bytes of the segments given to a lane so far -/
  pos : Nat
  phase : StepPhase
  sel : Option Sel
  /-- the engine id while it runs -/
  engine : Nat
  weight : Nat
  tagBefore : Nat
  /-- it could not be saved at a boundary after its engine had left the set: it runs on to its end (R185) -/
  runOn : Bool
  deriving DecidableEq, Repr

/-- The phases of a dispatched clause. -/
inductive JobPhase where
  /-- on its engine -/
  | run
  /-- on its lane at a boundary, waiting for stream bytes, no context place free (R182) -/
  | starved
  /-- suspended in a context (R181) -/
  | susp
  /-- its work has ended, the writes of a persistent key run (12_key_store.md R280) -/
  | persist
  deriving DecidableEq, Repr

/-- What a running PHRASE holds (15 R366): its templates as they stood at dispatch, 36 bytes each, the index
of the one that runs, the stream bytes consumed, the output put into its record, and its scratch buffers'
handles, the latest first. -/
structure PhraseRun where
  tmpl : Bytes
  idx : Nat
  used : Nat
  out : Bytes
  scratch : List Nat
  deriving DecidableEq, Repr

/-- A dispatched clause. -/
structure Job where
  verb : Nat
  /-- engine id of the completion record (R137) -/
  engine : Nat
  phase : JobPhase
  /-- input bytes read so far -/
  input : Bytes
  params : Bytes
  key : Bytes
  key2 : Bytes
  /-- DRBG output drawn for the clause at dispatch -/
  rnd : Bytes
  /-- the slots whose values the clause holds (12_key_store.md R300) -/
  slots : List Nat
  /-- the charged slot's counter before this clause's charge (09 R210) -/
  ctr : Nat
  dst : Dest
  written : Nat
  dest : Option DestKey
  /-- bytes held in the hold buffer, none when it is not used (09 R213) -/
  hold : Option Nat
  weight : Nat
  tagBefore : Nat
  /-- presignature taken at dispatch (11 R270) -/
  presig : Option (Nat × Nat × Nat)
  /-- places FILLING for this clause (11 R269) -/
  filling : Nat
  /-- operand cells touched: core, first cell, length (10 R246) -/
  touched : List (Nat × Nat × Nat)
  /-- the host wrote into a range of this clause after dispatch (R454) -/
  raced : Bool
  /-- an abort waits for the next boundary or the end (R149) -/
  abort : Bool
  /-- its OUT record was skipped or reset (R143, R129) -/
  outGone : Bool
  /-- its request waits in the DRBG's queue (09 R207) -/
  drawing : Bool
  /-- the steps it has still to make, the first of them under way or next (08 R173) -/
  steps : List Step
  /-- it could not be saved at a boundary after its engine had left the set (08 R185, R186) -/
  runOn : Bool
  /-- the primes RSA key generation has accepted so far (11 R261); none for other clauses -/
  primes : Option (List Nat)
  phrase : Option PhraseRun
  result : Option JobResult
  deriving DecidableEq, Repr

/-- Why the next clause of a sentence is not dispatched (R454). -/
inductive Wait where
  | none
  | engine
  | stream
  | outSpace
  | hold
  | userArea
  | checkpoint (slot : Nat)
  | ksready
  deriving DecidableEq, Repr

/-- What a template of a running phrase knows of its PHRASE clause: the sentence, the stream bytes that clause
owns (none: its W2 is not 0xFFFF) and how many of them earlier templates consumed, the capacity of its
record (none: its W4 is not 0xFFFE) and the bytes earlier templates put there. -/
structure Parent where
  sid : Nat
  idx : Nat
  inLen : Option Nat
  used : Nat
  cap : Option Nat
  off : Nat
  deriving DecidableEq, Repr

/-- A taken sentence (R132–R136), or, with a parent, the one clause a template of a running phrase became
(15 R366). -/
structure Sentence where
  sid : Nat
  /-- taken from SUBP, else SUBB -/
  prio : Bool
  fence : Bool
  clauses : List Clause
  /-- the next clause to run, or the running one -/
  idx : Nat
  /-- the 16th clause had LINK set (R132) -/
  overlong : Bool
  /-- the SUB ring was reset after the take (R129) -/
  ringReset : Bool
  wait : Wait
  /-- the next clause has been judged when it became the next (R454) -/
  judged : Bool
  /-- the engine the scheduler has selected for the next clause or for its suspended context -/
  sel : Option Sel
  parent : Option Parent
  job : Option Job
  deriving DecidableEq, Repr

/-- The stream bytes one taken clause owns (R146): absolute start and length, bytes consumed, and
whether the rest is discarded as it arrives. -/
structure StreamRange where
  sid : Nat
  idx : Nat
  start : Nat
  len : Nat
  used : Nat
  drop : Bool
  deriving DecidableEq, Repr

/-- The states of a stream bank (R145). -/
inductive BankState where
  | fill
  | submitted
  | free
  deriving DecidableEq, Repr

/-- A stream bank: its state, its fill offset or byte count, and the absolute stream position of its
first byte once submitted. -/
structure Bank where
  st : BankState
  count : Nat
  start : Nat
  deriving DecidableEq, Repr

/-- The stream of a channel (R145–R148): its memory, banks, the number of bytes submitted and owned
since entry to OPEN, and the owned ranges. -/
structure Stream where
  mem : Mem
  bank0 : Bank
  bank1 : Bank
  submitted : Nat
  owned : Nat
  ranges : List StreamRange
  deriving DecidableEq, Repr

/-- The open OUT record of a channel (R141). -/
structure OpenRec where
  start : Nat
  reserve : Nat
  written : Nat
  sid : Nat
  deriving DecidableEq, Repr

/-- A host allocation in progress (07_buffer_pool.md R160): its granules, the run it has selected, and
the RESULT it ends with when none was selected. -/
structure AllocReq where
  count : Nat
  pick : Option Nat
  result : Nat
  deriving DecidableEq, Repr

/-- The states of a channel (05_channels.md R106). -/
inductive ChanState where
  | closed
  | opening
  | opened
  | draining
  | resetting
  deriving DecidableEq, Repr

/-- What an open attempt waits for (05 R120, R121). -/
inductive OpenPhase where
  /-- nothing of it runs -/
  | idle
  /-- the request for the nonce waits in the DRBG's queue (09 R207) -/
  | drawing
  /-- the nonce has been drawn -/
  | drawn (nonce : Bytes)
  /-- the nonce is placed -/
  | noncev
  /-- the response is being checked: the key captured, the class-H work that makes the HMAC -/
  | checking (key nonce resp : Bytes) (hmac : Step)
  /-- the response waits for a counter checkpoint of a slot -/
  | ckptWait (slot : Nat) (nonce resp : Bytes)
  /-- the checks passed, the channel is being initialised; whether a CLOSE has come since (R108) -/
  | init (closing : Bool)
  deriving DecidableEq, Repr

/-- CH_PROGk of a channel (10 R251). -/
structure Prog where
  active : Bool
  done : Nat
  tag : BitVec 16
  deriving DecidableEq, Repr

/-- The ring half of a channel. -/
structure Rings where
  mem : Mem
  split : Nat
  subp : RingRegs
  subb : RingRegs
  cpl : RingRegs
  out : RingRegs
  /-- starts of sealed records and pads between HEAD and TAIL, oldest first (R126): true for a pad -/
  starts : List (Nat × Bool)
  openRec : Option OpenRec
  /-- the read cursor, in words within the record at OUT_HEAD (03_host_link.md R75) -/
  cursor : Nat
  /-- consumed records, counted: the identity of the record at OUT_HEAD (03 R75) -/
  recNo : Nat
  reserved : Nat
  /-- NOTIFY marks of the posted, unreturned records, oldest first (04 R86) -/
  notify : List Bool
  deriving DecidableEq, Repr

/-- One channel. -/
structure Chan where
  state : ChanState
  openErr : Nat
  nonceV : Bool
  phase : OpenPhase
  lockout : Bool
  cfg : Word
  sticky : Word
  nonce : Bytes
  resp : Vector Word 8
  quota : Nat
  rings : Rings
  stream : Stream
  sents : List Sentence
  nextSid : Nat
  alloc : Option AllocReq
  allocRes : Word
  prog : Vector Prog 4
  recs : Vector (Option RecCtx) 8
  deriving DecidableEq, Repr

/-! ### Buffer pool (07_buffer_pool.md) -/

/-- The states of an allocated buffer (Table 07.1). -/
inductive BufState where
  | live
  | dying
  | inflight
  deriving DecidableEq, Repr

/-- An allocated buffer. -/
structure Buf where
  first : Nat
  count : Nat
  owner : Chn
  st : BufState
  deriving DecidableEq, Repr

/-- The pool: memory, buffers, generations other than 1, dirty granules, failed banks, and words
with an uncorrectable error. -/
structure Pool where
  mem : Mem
  bufs : List Buf
  gens : List (Nat × Nat)
  dirty : List Nat
  failed : List Nat
  broken : List Nat
  deriving DecidableEq, Repr

/-! ### Scheduler and engines (08_scheduler_and_engines.md) -/

/-- The scheduling state of one class (R177, R180); `folded` is the sum of the Δ subtracted so far (rule 5
of R177). -/
structure ClassSched where
  tags : Vector Nat 16
  folded : Nat
  last : Chn
  elig : Vector Bool 16
  runP : Vector Nat 16
  deriving DecidableEq, Repr

/-- The scheduler. -/
structure Sched where
  cfg : Word
  weights : Vector Word 4
  clsC : ClassSched
  clsH : ClassSched
  clsB : ClassSched
  clsS : ClassSched
  /-- the channel last taken from (R175) -/
  rot : Chn
  deriving DecidableEq, Repr

/-- The service states of an engine (R186). -/
inductive Svc where
  | inn
  | out
  | test
  | quar
  deriving DecidableEq, Repr

/-- One engine: its service state, the cause to record if its test fails (R192), whether a count raised this
boot could not be burnt (R191), and the cause and seconds of a counted failure whose record waits for the
supply level to fall (R192, 17 R403). -/
structure Engine where
  svc : Svc
  cause : Nat
  raised : Nat
  due : Option (Nat × Word)
  deriving DecidableEq, Repr

/-! ### DRBG, presignatures (09, 11, 18) -/

/-- The CTR_DRBG (09 R207, R227). -/
structure Drbg where
  ready : Bool
  key : Bytes
  v : Bytes
  reqs : Nat
  deriving DecidableEq, Repr

/-- Who asked the DRBG for output. -/
inductive DrawFor where
  | clause (n : Chn) (sid : Nat)
  | nonce (n : Chn)
  | lcNonce
  deriving DecidableEq, Repr

/-- What a request asks of the DRBG: bytes, PR, additional input. -/
structure DrawReq where
  len : Nat
  pr : Bool
  add : Bytes
  deriving DecidableEq, Repr

/-- The entropy occasion in progress (18_clocks_and_calibration.md R426): the bits gathered so far
and the blocks passed; and the requests that wait in the DRBG, in the order they reached it, the first of
them for the reseed that the occasion makes (09 R207). -/
structure Entropy where
  stat : Word
  busy : Bool
  bits : List Bool
  passed : Nat
  queue : List (DrawFor × DrawReq)
  deriving DecidableEq, Repr

/-- The presignature pool (11 R268, R273): the AVAILABLE triples (k, r, k⁻¹), the number FILLING and
the FALLBACK count. -/
structure Presig where
  avail : List (Nat × Nat × Nat)
  filling : Nat
  fallback : Nat
  deriving DecidableEq, Repr

/-! ### Key store (12_key_store.md) -/

/-- The states of a key slot that holds an entry (Table 12.2; EMPTY slots have no entry, RESERVED
ones stand in `reserved`, LIVE and SPENT differ by counter and limit). -/
inductive SlotState where
  | live
  | retired
  | unreadable
  deriving DecidableEq, Repr

/-- The attributes of a slot (R276). `value` is the key of a volatile slot; for a persistent slot it
is empty and `addr` is the flash address of its slot record. -/
structure KeySlot where
  slot : Nat
  owner : Nat
  cls : Nat
  usage : Nat
  limit : Nat
  ctr : Nat
  st : SlotState
  value : Bytes
  addr : Nat
  deriving DecidableEq, Repr

/-- The newest verified record of a slot in the counter log (R285): its value, its flags byte (bit 0
CLEAN) and its place. A last-gasp mark stands under slot 0xFFFF (17_supply_and_last_gasp.md R412). -/
structure CtrRec where
  slot : Nat
  v : Nat
  flags : Nat
  addr : Nat
  deriving DecidableEq, Repr

/-- The key controller and the key store's runtime state. -/
structure KeyStore where
  vol : List KeySlot
  per : List KeySlot
  reserved : List Nat
  /-- slots whose RETIRED bit could not be burnt since the ROM last ran (R281) -/
  retiredNow : List Nat
  cache : List (Nat × Bytes)
  ready : Bool
  lock : Nat
  unlocking : Bool
  kek : Bytes
  aliasKey : Bytes
  aliasStmt : Bytes
  idPub : Bytes
  recs : List CtrRec
  recSeq : Nat
  /-- running checkpoints: slot and the V its record carries -/
  ckpts : List (Nat × Nat)
  /-- next free place of the standard area (0–336) and of the large area (0–20) -/
  stdNext : Nat
  largeNext : Nat
  /-- the counter log: its current sector (0–15), next place in it (0–127), the sector's sequence -/
  logSec : Nat
  logPos : Nat
  logSeq : Nat
  erases : List Nat
  deriving DecidableEq, Repr

/-! ### OTP (12, 13) -/

/-- One epoch row (12 R279, 13 R308). -/
structure EpochRow where
  used : Bool
  lc : Nat
  ownerHash : Bytes
  hdr : Bool
  written : List Nat
  retired : List Nat
  ratchet : Nat
  deriving DecidableEq, Repr

/-- The OTP. -/
structure Otp where
  root : Bytes
  rows : List EpochRow
  endFuse : Bool
  quar : Vector Nat 16
  calf : Vector Word 6
  deriving DecidableEq, Repr

/-! ### Status and journal (04_status_and_trouble.md) -/

/-- A journal entry before its sequence number is given (Table 04.8). `restored` is false while word
0 still lacks the count restored by the ROM (R100). -/
structure JEntry where
  sec : Nat
  restored : Bool
  w2 : Word
  w3 : Word
  w4 : Word
  w5 : Word
  deriving DecidableEq, Repr

/-- The journal. -/
structure Journal where
  queue : List JEntry
  index : List (Nat × Nat)
  nextSeq : Nat
  /-- next entry place, 0–639 -/
  place : Nat
  jstat : Word
  jsel : Word
  jnewest : Nat
  joldest : Nat
  jdrop : Nat
  jent : Vector Word 8
  seconds : BitVec 32
  restored : Bool
  deriving DecidableEq, Repr

/-- Sticky registers, masks and health. -/
structure Trouble where
  g0 : Word
  g1 : Word
  g2 : Word
  g3 : Word
  maskA : Word
  maskB : Word
  why : Word
  eccCor : Nat
  entRun : Nat
  stamps : List Word
  deriving DecidableEq, Repr

/-! ### Configuration record (05 R116–R118) -/

/-- CHCFGT, TAMPERCFG, LGCFG and the state of their persistence. -/
structure ConfigRec where
  chcfgt : Vector Word 16
  tamperCfg : Word
  lgCfg : Word
  /-- the ROM has loaded them (R117) -/
  loaded : Bool
  dirty : BitVec 16
  busy : Bool
  err : Bool
  /-- a further write waits for the running one to end -/
  again : Bool
  /-- the record as it stood when the running write started -/
  snap : Vector Word 18
  deriving DecidableEq, Repr

/-! ### Tamper, life cycle, debug (12, 13) -/

/-- Tamper and life-cycle state. -/
structure LifeCycle where
  lcstate : Nat
  /-- LCSTATE, EPOCHS, DBGSTAT and OWNERHASH have been set by the ROM -/
  shown : Bool
  lcreq : Word
  nonce : Bytes
  nonceValid : Bool
  token : Vector Word 128
  /-- a request whose checks run -/
  checking : Bool
  /-- an accepted transition that runs: target code and new owner hash -/
  accepted : Option (Nat × Bytes)
  /-- the change of epoch of 12 R298 is in progress: from the burn to the new epoch's first header -/
  transit : Bool
  dbgOpen : Bool
  dbgUnlocked : Bool
  dbgHalt : Bool
  dbgUsed : Bool
  /-- what Capture-DR of DBGACC loads (13 R316) -/
  dbgDone : Bool
  dbgErr : Bool
  dbgData : Word
  /-- the instruction the TAP has selected (13 Table 13.6) -/
  jtagIr : BitVec 4
  /-- the boundary-scan register as last updated (13 Table 13.6) -/
  scan : Nat
  tamperBlock : Bool
  tamperOpen : BitVec 2
  deriving DecidableEq, Repr

/-! ### Boot, updates, gate (14) -/

/-- What a management command holds while it runs (R332). -/
structure MgmtRun where
  cmd : Nat
  arg : Vector Word 4
  /-- the active calibration values taken at a CALSAVE commit -/
  snap : Bytes
  /-- the persistent slots taken at a CHECKPOINT commit -/
  slots : List Nat
  deriving DecidableEq, Repr

/-- Boot and program state. -/
structure Boot where
  boot : Nat
  bootStat : Word
  progVer : Word
  progMeas : Bytes
  confirmRun : Bool
  /-- the watchdog's milliseconds left at the last moment at which they are known: its start or a tick of the
  seconds count, whose phase against it the manual leaves open -/
  confirmRemain : Nat
  /-- milliseconds from that moment to the next tick of the seconds count -/
  confirmLeft : Nat
  program : Nat
  sram : Mem
  /-- the rate of the recovery loader, once it has one, and its last response -/
  loaderBaud : Option Nat
  loaderOut : Bytes
  mgmtArg : Vector Word 4
  mgmtRes : Word
  mgmt : Option MgmtRun
  deriving DecidableEq, Repr

/-- The host image gate (14 R340–R348). -/
structure Gate where
  stat : Word
  page : Word
  info : Word
  ver : Word
  digests : List Bytes
  /-- resident pages, the most recently read or fetched first -/
  pages : List (Nat × Bytes)
  fetch : Option Nat
  queued : Option Nat
  /-- the table of the active slot is being read and checked -/
  starting : Bool
  deriving DecidableEq, Repr

/-- The phrase memory (15 R364–R368). -/
structure Phrases where
  table : Bytes
  stat : Word
  load : Option (Nat × Nat × Nat)
  deriving DecidableEq, Repr

/-! ### Power, supply, clocks (16, 17, 18) -/

/-- Where a domain stands (16 R371–R378). -/
inductive DomPhase where
  | off
  | on
  | up (step : Nat)
  | down (step : Nat)
  deriving DecidableEq, Repr

/-- One power domain: its phase, whether it is marked failed, and whether a use demands it on. -/
structure Dom where
  phase : DomPhase
  failed : Bool
  demand : Bool
  deriving DecidableEq, Repr

/-- The device states of 16 R379–R390. -/
inductive RunState where
  | run
  | entry
  | stop
  | exit
  deriving DecidableEq, Repr

/-- A write committed during STOP entry that takes effect after the exit (16 R381). -/
inductive HeldWrite where
  | open (n : Chn)
  | alloc (n : Chn) (count : Nat)
  deriving DecidableEq, Repr

/-- The power controller. -/
structure Power where
  st : RunState
  doms : Vector Dom 140
  req : Vector Word 5
  deny : Vector Word 5
  keep : Vector Word 5
  seq : Vector Word 32
  keepKeys : Bool
  pwrStat : Word
  wakeCfg : Word
  wakeStat : Word
  wakeTmr : Word
  wakeLeft : Nat
  /-- the keep set and KEEPKEYS latched at the STOP request (16 R381) -/
  latched : List Nat
  latchedKeys : Bool
  latchedWake : Word
  latchedTmr : Word
  supplyStop : Bool
  /-- an armed source has fired during entry: exit starts at once (16 R386) -/
  woken : Bool
  held : List HeldWrite
  deriving DecidableEq, Repr

/-- The states of a ride-through entry (17 R400). -/
inductive RideState where
  | idle
  | below
  | fired
  deriving DecidableEq, Repr

/-- One ride-through entry: its register, its state and its timer in 2 µs samples. -/
structure Ride where
  reg : Word
  st : RideState
  timer : Nat
  deriving DecidableEq, Repr

/-- A last-gasp path that runs (17 R409, R410): what it latched at the trigger, and how it signs. -/
structure Gasp where
  arm : Arm
  event : Nat
  sec : Nat
  vin : Nat
  hold : Nat
  low : Nat
  jnewest : Nat
  /-- full path: the core and the DRBG output for its k; presignature path: none -/
  full : Option (Fin 4 × Bytes)
  presig : Nat × Nat × Nat
  deriving DecidableEq, Repr

/-- The supply monitor, ride-through table and last-gasp signer. -/
structure Supply where
  vin : Nat
  hold : Nat
  vinLow : Nat
  holdLow : Nat
  lowFresh : Bool
  supCfg : Word
  pfwCfg : Word
  pfw : Bool
  ride : Vector Ride 16
  level : Nat
  /-- LGSTAT [30:26] and [19:16] -/
  lgStat : Word
  arm : Option Arm
  gasp : Option Gasp
  /-- a LASTGASP action has fired and L has not fallen below 4 since (17 R413) -/
  fired : Bool
  /-- marks that wait to be written: flags byte and 40-bit content (17 R412) -/
  marks : List (Nat × Nat)
  mailbox : Vector Word 64
  sealed : Bool
  deriving DecidableEq, Repr

/-- Clocks and calibration (18). -/
structure Clocks where
  clkCfg : Word
  clkStat : Word
  calib : Vector Word 6
  /-- the user quantities as the record in force gives them (18 R431) -/
  calRec : Bytes
  calStat : Word
  temp : Word
  deriving DecidableEq, Repr

/-- The voltage class of a bank (02 R29; 19 R434). -/
inductive VClass where
  | v18
  | v33
  deriving DecidableEq, Repr

/-- Whether VIN has passed VPOR and not fallen below VBOR since (19 R434); the banks A, B and F, each with its class
while its supply is above VBDET; the levels of the tamper inputs (02). -/
structure Pins where
  vin : Bool
  bank : Vector (Option VClass) 3
  tamper : BitVec 2
  deriving DecidableEq, Repr

/-- The external flash: its bytes; whether one answers, and its size in bytes (14 R320). -/
structure Flash where
  present : Bool
  size : Nat
  mem : Mem
  deriving DecidableEq, Repr

/-- A reset the core has made, which the port shells follow (00_scope.md R15, R17). -/
inductive Rst where
  | none
  /-- the DOM reset of D1, which holds port B's shell logic (03 R70, 16 R372) -/
  | shellB
  | soft
  | pin
  | por
  deriving DecidableEq, Repr

/-- The core of the device. -/
structure Dev where
  pins : Pins
  flash : Flash
  otp : Otp
  boot : Boot
  lc : LifeCycle
  cfg : ConfigRec
  trouble : Trouble
  journal : Journal
  chans : Vector Chan 16
  pool : Pool
  sched : Sched
  engines : Vector Engine 16
  cores : Vector BnCore 4
  drbg : Drbg
  entropy : Entropy
  presig : Presig
  ks : KeyStore
  gate : Gate
  phrases : Phrases
  power : Power
  supply : Supply
  clocks : Clocks
  /-- the reset made by the running command; none between commands -/
  rst : Rst
  /-- the model's own counter, from which free values are drawn -/
  ctr : Nat
  deriving DecidableEq, Repr

/-! ### Port shells (03_host_link.md) -/

/-- A frame captured for commit (R66): what it does when it commits. -/
inductive Captured where
  /-- the words of a WRITE from an address on -/
  | write (addr : Nat) (words : List Word)
  /-- the words of a STREAM to a channel -/
  | stream (n : Chn) (words : List Word)
  /-- a SKIP -/
  | skip (n : Chn)
  /-- an OUTREAD: the record it read, its start position, the words clocked out; none: no advance -/
  | outread (n : Chn) (adv : Option (Nat × Nat × Nat))
  /-- a frame that a row of Table 03.6 leaves without effect -/
  | ignored
  deriving DecidableEq, Repr

/-- A captured frame, and whether it was captured in STOP or STOP exit (R69). -/
structure Slot where
  cap : Captured
  inStop : Bool
  deriving DecidableEq, Repr

/-- One port shell. -/
structure PortShell where
  hlcfg : Word
  slots : List Slot
  badHdr : Nat
  /-- the words the device drove in the last frame, trailer included -/
  out : List Word
  deriving DecidableEq, Repr

/-- The two port shells. -/
structure Shell where
  a : PortShell
  b : PortShell
  deriving DecidableEq, Repr

/-- The machine: the queue of waiting commands, the port shells and the core. -/
structure State where
  pending : List Instr
  shell : Shell
  dev : Dev
  deriving DecidableEq, Repr

/-! ### The state after reset (00_scope.md R15) -/

/-- A pointer at 0. -/
def PtrPair.zero : PtrPair := ⟨0, 0x3FFF⟩

/-- A ring of a channel that is not open. -/
def RingRegs.dead : RingRegs := ⟨0, 0, .zero, .zero⟩

/-- The rings of a channel that is not open. -/
def Rings.dead : Rings :=
  { mem := [], split := 0, subp := .dead, subb := .dead, cpl := .dead, out := .dead, starts := []
    openRec := none, cursor := 0, recNo := 0, reserved := 0, notify := [] }

/-- The stream of a channel that is not open. -/
def Stream.dead : Stream :=
  { mem := [], bank0 := ⟨.fill, 0, 0⟩, bank1 := ⟨.free, 0, 0⟩, submitted := 0, owned := 0, ranges := [] }

/-- A channel after reset: CLOSED (05 R113). -/
def Chan.fresh : Chan :=
  { state := .closed, openErr := 0, nonceV := false, phase := .idle, lockout := false, cfg := 0, sticky := 0
    nonce := [], resp := Vector.replicate 8 0, quota := 0, rings := .dead, stream := .dead, sents := []
    nextSid := 0, alloc := none, allocRes := 0, prog := Vector.replicate 4 ⟨false, 0, 0⟩
    recs := Vector.replicate 8 none }

/-- The scheduling state of a class after reset. -/
def ClassSched.fresh : ClassSched :=
  ⟨Vector.replicate 16 0, 0, 0, Vector.replicate 16 false, Vector.replicate 16 0⟩

/-- The scheduler after reset (08 Table 08.5, R196). -/
def Sched.fresh : Sched :=
  { cfg := 0x19032004, weights := Vector.replicate 4 0x10101010, clsC := .fresh, clsH := .fresh
    clsB := .fresh, clsS := .fresh, rot := 15 }

/-- The key controller after reset. -/
def KeyStore.fresh : KeyStore :=
  { vol := [], per := [], reserved := [], retiredNow := [], cache := [], ready := false, lock := 0, unlocking := false
    kek := [], aliasKey := [], aliasStmt := [], idPub := [], recs := [], recSeq := 0, ckpts := []
    stdNext := 0, largeNext := 0, logSec := 0, logPos := 0, logSeq := 0, erases := List.replicate 36 0 }

/-- An epoch row that has not been burnt. -/
def EpochRow.blank : EpochRow := ⟨false, 0, [], false, [], [], 0⟩

/-- The OTP of a device before its first start: no ROOT, no row; the factory calibration nominal
(log entry 12; 18 Table 18.2). -/
def Otp.blank : Otp :=
  { root := [], rows := List.replicate 8 .blank, endFuse := false, quar := Vector.replicate 16 0
    calf := ⟨#[0, 0, 0x80000000, 0x80000000, 0, 0x03200029], rfl⟩ }

/-- The journal after a POR. -/
def Journal.fresh : Journal :=
  { queue := [], index := [], nextSeq := 1, place := 0, jstat := 0, jsel := 0, jnewest := 0, joldest := 0
    jdrop := 0, jent := Vector.replicate 8 0, seconds := 0, restored := false }

/-- The sticky registers, masks and health after a POR (04 R91). -/
def Trouble.fresh : Trouble :=
  { g0 := 0, g1 := 0, g2 := 0, g3 := 0, maskA := 0, maskB := 0xE0000000, why := 0, eccCor := 0, entRun := 0
    stamps := [] }

/-- The configuration registers before the ROM loads them (05 R117). -/
def ConfigRec.fresh : ConfigRec :=
  { chcfgt := Vector.replicate 16 0, tamperCfg := 0, lgCfg := 0, loaded := false, dirty := 0, busy := false
    err := false, again := false, snap := Vector.replicate 18 0 }

/-- Tamper, life cycle and debug after a POR. -/
def LifeCycle.fresh : LifeCycle :=
  { lcstate := 0, shown := false, lcreq := 0, nonce := [], nonceValid := false
    token := Vector.replicate 128 0, checking := false, accepted := none, transit := false
    dbgOpen := false, dbgUnlocked := false, dbgHalt := false, dbgUsed := false, dbgDone := false
    dbgErr := false, dbgData := 0, jtagIr := 0x1, scan := 0, tamperBlock := false, tamperOpen := 0 }

/-- Boot state after reset: the ROM has not run. -/
def Boot.fresh : Boot :=
  { boot := 0, bootStat := 0, progVer := 0, progMeas := [], confirmRun := false, confirmRemain := 0, confirmLeft := 1000
    program := 0, sram := [], loaderBaud := none, loaderOut := [], mgmtArg := Vector.replicate 4 0
    mgmtRes := 0, mgmt := none }

/-- The gate after reset: stopped. -/
def Gate.fresh : Gate :=
  { stat := 0, page := 0, info := 0, ver := 0, digests := [], pages := [], fetch := none, queued := none
    starting := false }

/-- The class of a domain (16 Table 16.1). -/
def domClass (d : Nat) : Nat :=
  if d = 1 ∨ d = 2 ∨ d = 4 then 0 else if d = 3 then 1 else if d ≤ 11 then 2 else if d ≤ 19 then 3
  else if d ≤ 23 then 4 else if d ≤ 27 then 5 else if d ≤ 59 then 6 else if d ≤ 91 then 7 else 6

/-- The factory delays of a class and step (16 Table 16.3). -/
def factorySeq (c s : Nat) : Word :=
  if c = 0 ∨ c = 6 then (if s = 0 then 0x0030000C else 0x000C0006)
  else if c = 2 then
    (if s = 0 then 0x00C0000C else if s = 1 then 0x00180006 else if s = 2 then 0x00300006 else 0x00180006)
  else if c = 5 then
    (if s = 0 then 0x00D8000C else if s = 1 then 0x00180006 else if s = 2 then 0x00240006 else 0x000C0006)
  else if c = 7 then (if s = 0 then 0x0060000C else 0x000C0006)
  else (if s = 0 then 0x0060000C else if s = 1 then 0x000C0006 else if s = 2 then 0x00180006 else 0x000C0006)

/-- The factory sequencing table. -/
def factoryTable : Vector Word 32 := Vector.ofFn (fun i => factorySeq (i.val / 4) (i.val % 4))

/-- The power controller when the ROM starts: the interfaces, the flash port and the class-2 domains are
on, D4 waits for the ROM (13 R315, 16 R374). -/
def Power.fresh : Power :=
  { st := .run
    doms := Vector.ofFn (fun i => ⟨if i.val ≤ 11 && i.val != 4 then .on else .off, false, false⟩)
    req := Vector.replicate 5 0, deny := Vector.replicate 5 0, keep := Vector.replicate 5 0
    seq := factoryTable, keepKeys := false, pwrStat := 0, wakeCfg := 0, wakeStat := 0, wakeTmr := 0
    wakeLeft := 0, latched := [], latchedKeys := false, latchedWake := 0, latchedTmr := 0
    supplyStop := false, woken := false, held := [] }

/-- The supply monitor, ride-through table and last-gasp signer after a POR (17 Table 17.5). -/
def Supply.fresh : Supply :=
  { vin := 0, hold := 0, vinLow := 0, holdLow := 0, lowFresh := true, supCfg := 2, pfwCfg := 0x10
    pfw := false, ride := Vector.replicate 16 ⟨0, .idle, 0⟩, level := 0, lgStat := 0, arm := none
    gasp := none, fired := false, marks := [], mailbox := Vector.replicate 64 0, sealed := false }

/-- Clocks and calibration after reset: the active values are those of CALF. -/
def Clocks.fresh (calf : Vector Word 6) : Clocks :=
  { clkCfg := 0, clkStat := 0, calib := calf, calRec := [], calStat := 0, temp := 0 }

/-- The core after a POR on a given OTP and flash. -/
def Dev.fresh (otp : Otp) (flash : Flash) : Dev :=
  { pins := ⟨true, Vector.replicate 3 (some .v33), 0⟩, flash := flash, otp := otp, boot := .fresh, lc := .fresh
    cfg := .fresh, trouble := .fresh, journal := .fresh, chans := Vector.replicate 16 .fresh
    pool := ⟨[], [], [], [], [], []⟩, sched := .fresh, engines := Vector.replicate 16 ⟨.inn, 0, 0, none⟩
    cores := Vector.replicate 4 ⟨none, [], false⟩, drbg := ⟨false, [], [], 0⟩
    entropy := ⟨0, false, [], 0, []⟩, presig := ⟨[], 0, 0⟩, ks := .fresh, gate := .fresh
    phrases := ⟨[], 0, none⟩, power := .fresh, supply := .fresh, clocks := .fresh otp.calf, rst := .none, ctr := 0 }

/-- A port shell after reset (03 Table 03.7, R70). -/
def PortShell.fresh : PortShell := ⟨8, [], 0, []⟩

/-- The machine right after a POR, the ROM not yet run, on a device fresh from the factory: OTP blank, a
16 MiB flash that is erased (log entries 12, 13). -/
def State.reset : State :=
  { pending := [], shell := ⟨.fresh, .fresh⟩, dev := Dev.fresh .blank ⟨true, 0x1000000, []⟩ }

end Sys2Proof.Machine
end

