-- ==== Sys2Proof/Machine/Ops.lean ====
section
/-!
DEFINITION. The named operations over the state that every family uses: sparse memory, word fields,
channel updates, GSTAT and its parts, sticky bits with their journal entries, free values.
-/

namespace Sys2Proof.Machine

/-! ### Sparse memory -/

/-- The byte at an address; `dflt` is what an unlisted address reads as. -/
def Mem.get (dflt : Byte) : Mem → Nat → Byte
  | [], _ => dflt
  | (k, v) :: m, a => if k = a then v else if a < k then dflt else Mem.get dflt m a

/-- The cells of a byte string placed from an address: the default value is not listed. -/
def Mem.cells (dflt : Byte) (a : Nat) : Bytes → Mem
  | [] => []
  | b :: bs => if b = dflt then Mem.cells dflt (a + 1) bs else (a, b) :: Mem.cells dflt (a + 1) bs

/-- A byte string written from an address, in canonical form: what lies below it, its cells, what lies
above it. -/
def Mem.write (dflt : Byte) (m : Mem) (a : Nat) (bs : Bytes) : Mem :=
  m.filter (fun c => c.1 < a) ++ Mem.cells dflt a bs ++ m.filter (fun c => a + bs.length ≤ c.1)

/-- `n` bytes from address `a` on of a memory that lists nothing below `a`. -/
def Mem.readFrom (dflt : Byte) : Nat → Nat → Mem → Bytes
  | 0, _, _ => []
  | n + 1, a, [] => dflt :: Mem.readFrom dflt n (a + 1) []
  | n + 1, a, (k, v) :: m =>
    if k = a then v :: Mem.readFrom dflt n (a + 1) m else dflt :: Mem.readFrom dflt n (a + 1) ((k, v) :: m)

/-- `n` bytes read from an address. -/
def Mem.read (dflt : Byte) (m : Mem) (a n : Nat) : Bytes := Mem.readFrom dflt n a (m.dropWhile (fun c => c.1 < a))

/-- Every byte from `a` to `a + n - 1` returned to the default. -/
def Mem.wipe (m : Mem) (a n : Nat) : Mem := m.filter (fun c => c.1 < a || a + n ≤ c.1)

/-- The word at an address. -/
def Mem.word (dflt : Byte) (m : Mem) (a : Nat) : Word := bytesWord (Mem.read dflt m a 4)

/-- One word written. -/
def Mem.setWord (dflt : Byte) (m : Mem) (a : Nat) (w : Word) : Mem := Mem.write dflt m a (wordBytes w)

/-- The canonical form: addresses strictly rising above `lo`, no entry equal to the default. -/
def Mem.wfFrom (dflt : Byte) : Nat → Mem → Bool
  | _, [] => true
  | lo, (k, v) :: m => lo ≤ k && v != dflt && Mem.wfFrom dflt (k + 1) m

/-- The canonical form of a memory. -/
def Mem.wf (dflt : Byte) (m : Mem) : Bool := Mem.wfFrom dflt 0 m

/-! ### Word fields -/

/-- The field [hi:lo] of a word as a number. -/
def fld (w : Word) (hi lo : Nat) : Nat := w.toNat / 2 ^ lo % 2 ^ (hi + 1 - lo)

/-- Bit `i` of a word. -/
def bit (w : Word) (i : Nat) : Bool := w.getLsbD i

/-- A word with one bit set. -/
def setBit (w : Word) (i : Nat) : Word := w ||| (1#32 <<< i)

/-- A word with one bit cleared. -/
def clrBit (w : Word) (i : Nat) : Word := w &&& ~~~(1#32 <<< i)

/-- A word with one bit put. -/
def putBit (w : Word) (i : Nat) (b : Bool) : Word := if b then setBit w i else clrBit w i

/-- The word whose field from `lo` holds `v`. -/
def at_ (v lo : Nat) : Word := BitVec.ofNat 32 (v * 2 ^ lo)

/-- A flag as a number. -/
def flag (b : Bool) : Nat := b.toNat

/-- The high half of a word. -/
def hi16 (w : Word) : Nat := w.toNat / 65536

/-- The low half of a word. -/
def lo16 (w : Word) : Nat := w.toNat % 65536

/-- The field [hi:lo] of `old` replaced by that of `new`. -/
def putFld (old new : Word) (hi lo : Nat) : Word :=
  let m : Word := BitVec.ofNat 32 ((2 ^ (hi + 1 - lo) - 1) * 2 ^ lo)
  (old &&& ~~~m) ||| (new &&& m)

/-- The member of a vector, or a default beyond its end. -/
def vget {α : Type} {n : Nat} (v : Vector α n) (i : Nat) (d : α) : α := v.toList.getD i d

/-- A member of a vector replaced, nothing beyond its end. -/
def vset {α : Type} {n : Nat} (v : Vector α n) (i : Nat) (x : α) : Vector α n :=
  if h : i < n then v.set i x h else v

/-- A member of a vector changed, nothing beyond its end. -/
def vmod {α : Type} {n : Nat} (v : Vector α n) (i : Nat) (f : α → α) : Vector α n :=
  if h : i < n then v.set i (f v[i]) h else v

/-! ### Channels -/

/-- The channel `n`. -/
def Dev.chan (d : Dev) (n : Chn) : Chan := d.chans[n.val]

/-- The channel `n` replaced. -/
def setChan (n : Chn) (c : Chan) (d : Dev) : Dev := { d with chans := d.chans.set n.val c n.isLt }

/-- The channel `n` changed. -/
def modChan (n : Chn) (f : Chan → Chan) (d : Dev) : Dev := setChan n (f (d.chan n)) d

/-- The rings of channel `n` changed. -/
def modRings (n : Chn) (f : Rings → Rings) (d : Dev) : Dev :=
  modChan n (fun c => { c with rings := f c.rings }) d

/-- The sentence of a channel with a given id. -/
def Dev.sent (d : Dev) (n : Chn) (sid : Nat) : Option Sentence :=
  (d.chan n).sents.find? (fun s => s.sid = sid)

/-- One sentence of a channel changed. -/
def modSent (n : Chn) (sid : Nat) (f : Sentence → Sentence) (d : Dev) : Dev :=
  modChan n (fun c => { c with sents := c.sents.map (fun s => if s.sid = sid then f s else s) }) d

/-- The running clause of a sentence changed. -/
def modJob (n : Chn) (sid : Nat) (f : Job → Job) (d : Dev) : Dev :=
  modSent n sid (fun s => { s with job := s.job.map f }) d

/-- Whether a channel takes part: OPEN or DRAINING. -/
def ChanState.active : ChanState → Bool
  | .opened => true
  | .draining => true
  | _ => false

/-- The code of a channel state (Table 05.1). -/
def ChanState.code : ChanState → Nat
  | .closed => 0
  | .opening => 1
  | .opened => 2
  | .draining => 3
  | .resetting => 4

/-- The port a channel is bound to (05_channels.md R452). -/
def Dev.bound (d : Dev) (n : Chn) : Port :=
  let w := match (d.chan n).state with
    | .opened | .draining | .resetting => (d.chan n).cfg
    | .closed | .opening => d.cfg.chcfgt[n.val]
  if bit w 30 then .B else .A

/-- All channel numbers in order. -/
def allChns : List Chn := List.finRange 16

/-- All engine indexes in order. -/
def allEngs : List Eng := List.finRange 16

/-! ### Free values -/

/-- The counter advanced: the next free value is another. -/
def bump (d : Dev) : Dev := { d with ctr := d.ctr + 1 }

/-! ### GSTAT (04_status_and_trouble.md R85) -/

/-- CHATTN[n]: a posted NOTIFY record not returned, or a CH_STICKY bit (R86). -/
def Dev.chattn (d : Dev) (n : Chn) : Bool :=
  (d.chan n).rings.notify.any id || (d.chan n).sticky != 0

/-- GSTAT.FAULT (R85). -/
def Dev.gFault (d : Dev) : Bool :=
  d.trouble.g0 != 0 || d.trouble.g1 != 0 || d.trouble.g2 != 0 || d.trouble.g3 != 0

/-- GSTAT.REPLACE (R85). -/
def Dev.gReplace (d : Dev) : Bool := d.trouble.why != 0

/-- GSTAT.SUPPLY (R85): filtered PFW, or a ride-through action other than NONE in effect. -/
def Dev.gSupply (d : Dev) : Bool := d.supply.pfw || d.supply.level != 0

/-- Whether a domain is executing a switch step. -/
def DomPhase.stepping : DomPhase → Bool
  | .up _ => true
  | .down _ => true
  | _ => false

/-- GSTAT.SEQBUSY (R85; 16 R378: also the handshake of a STOP exit). -/
def Dev.gSeqBusy (d : Dev) : Bool :=
  d.power.doms.toList.any (fun x => x.phase.stepping) || d.power.st == .exit

/-- GSTAT.RUN (R85). -/
def Dev.gRun (d : Dev) : Bool := d.power.st == .run || d.power.st == .entry

/-- The CHATTN field as seen through a filter of channels. -/
def Dev.gChattn (d : Dev) (see : Chn → Bool) : Nat :=
  (allChns.map (fun n => if d.chattn n && see n then 2 ^ n.val else 0)).sum

/-- GSTAT for a choice of WPEND and of the visible channels (R80, R85). -/
def Dev.gstat (d : Dev) (wpend : Bool) (see : Chn → Bool) : Word :=
  BitVec.ofNat 32 (
    flag d.gFault * 2 ^ 31 + flag d.gReplace * 2 ^ 30 + flag d.gSupply * 2 ^ 29
    + flag d.supply.sealed * 2 ^ 28 + flag d.gRun * 2 ^ 27 + flag wpend * 2 ^ 26
    + d.boot.boot % 4 * 2 ^ 24 + (if d.lc.shown then d.lc.lcstate % 16 else 0) * 2 ^ 20
    + flag d.ks.ready * 2 ^ 19 + flag d.gSeqBusy * 2 ^ 18 + flag (bit d.gate.stat 31) * 2 ^ 17
    + d.gChattn see)

/-- GSTAT as an entry holds it: CHATTN and WPEND 0 (R98, and the entry of the worked example of 04). -/
def Dev.gstatCore (d : Dev) : Word := d.gstat false (fun _ => false)

/-! ### The journal queue (R97–R99) -/

/-- The entry of an event with source, bit or subcode, detail, register value and second detail. -/
def Dev.entry (d : Dev) (src sub detail : Nat) (val w5 : Word) : JEntry :=
  { sec := d.journal.seconds.toNat, restored := d.journal.restored
    w2 := at_ src 24 ||| at_ sub 16 ||| at_ (detail % 65536) 0
    w3 := d.gstatCore, w4 := val, w5 := w5 }

/-- An entry queued, or dropped when sixteen wait: JDROP counts it and JRNLERR is set without an
entry of its own (R99). -/
def queueEntry (e : JEntry) (d : Dev) : Dev :=
  if d.journal.queue.length < 16 then
    { d with journal := { d.journal with queue := d.journal.queue ++ [e] } }
  else
    { d with
      journal := { d.journal with jdrop := min (d.journal.jdrop + 1) 0xFFFFFFFF }
      trouble := { d.trouble with g2 := setBit d.trouble.g2 12 } }

/-- The register GSTICKYk. -/
def Trouble.g (t : Trouble) (k : Nat) : Word :=
  match k with
  | 0 => t.g0
  | 1 => t.g1
  | 2 => t.g2
  | _ => t.g3

/-- GSTICKYk replaced. -/
def Trouble.setG (t : Trouble) (k : Nat) (w : Word) : Trouble :=
  match k with
  | 0 => { t with g0 := w }
  | 1 => { t with g1 := w }
  | 2 => { t with g2 := w }
  | _ => { t with g3 := w }

/-- A bit of GSTICKYk set: a journal entry when it was clear (R92, R97). -/
def noteGx (k b eng : Nat) (w5 : Word) (d : Dev) : Dev :=
  if bit (d.trouble.g k) b then d
  else
    let d := { d with trouble := d.trouble.setG k (setBit (d.trouble.g k) b) }
    queueEntry (d.entry k b eng (d.trouble.g k) w5) d

/-- A bit of GSTICKYk set where no engine and no clause is involved. -/
def noteG (k b : Nat) (d : Dev) : Dev := noteGx k b 0 0 d

/-- A bit of GSTICKY0 in [12:0] set by a frame of a port: FROMA or FROMB with it (Table 04.3). -/
def noteLink (p : Port) (b : Nat) (d : Dev) : Dev :=
  noteG 0 (match p with | .A => 29 | .B => 30) (noteG 0 b d)

/-- A bit of CH_STICKY set (Table 04.7). -/
def noteCh (n : Chn) (b eng : Nat) (w5 : Word) (d : Dev) : Dev :=
  if bit (d.chan n).sticky b then d
  else
    let d := modChan n (fun c => { c with sticky := setBit c.sticky b }) d
    queueEntry (d.entry (0x10 + n.val) b eng (d.chan n).sticky w5) d

/-! ### Health (R102–R105) -/

/-- The age of a stamp in seconds. -/
def Dev.age (d : Dev) (t : Word) : Nat := (d.journal.seconds - t).toNat

/-- FAULT24: the kept stamps younger than 86,400 s (R103). -/
def Dev.fault24 (d : Dev) : Nat :=
  min 63 ((d.trouble.stamps.filter (fun t => d.age t < 86400)).length)

/-- The failure count of an engine, a count raised but not burnt included (08 R191). -/
def Dev.katf (d : Dev) (e : Eng) : Nat := min 3 (d.otp.quar[e.val] + (d.engines[e.val]).raised)

/-- Engines permanently quarantined. -/
def Dev.quarCount (d : Dev) : Nat := (allEngs.filter (fun e => 3 ≤ d.katf e)).length

/-- The number of the current epoch: the highest row with USED set; 0 while there is none (13 R308). -/
def Otp.rowIdx (o : Otp) : Nat :=
  (List.range o.rows.length).foldl (fun m i => if (o.rows.getD i .blank).used then i else m) 0

/-- EPOCHS.LEFT and HEALTH.EPOCHLEFT (13 R309). -/
def Dev.epochLeft (d : Dev) : Nat := 7 - d.otp.rowIdx

/-- The highest erase count of the key store sectors. -/
def Dev.maxErase (d : Dev) : Nat := d.ks.erases.foldl max 0

/-- HEALTH (R102); its recomputed fields are zero until the ROM has recomputed them. -/
def Dev.health (d : Dev) : Word :=
  if d.cfg.loaded then
    at_ (min 255 d.trouble.eccCor) 24 ||| at_ d.fault24 18 ||| at_ (min 3 d.trouble.entRun) 16
      ||| at_ d.quarCount 11 ||| at_ (min 7 d.epochLeft) 8
      ||| at_ (min 100 (d.maxErase * 100 / 100000)) 0
  else at_ (min 255 d.trouble.eccCor) 24 ||| at_ (min 3 d.trouble.entRun) 16

/-- A replace cause raised: its bit, and its journal entry (R104). -/
def raiseWhy (b eng : Nat) (d : Dev) : Dev :=
  if bit d.trouble.why b then d
  else
    let d := { d with trouble := { d.trouble with why := setBit d.trouble.why b } }
    queueEntry (d.entry 4 b eng d.trouble.why d.health) d

/-- FAULTRATE raised when FAULT24 has come from `before` to 17 or more (R104); a FAULT24 that a reset has left there
is the ROM's to judge (R105). -/
def judgeFault24 (before : Nat) (d : Dev) : Dev := if before < 17 && 17 ≤ d.fault24 then raiseWhy 4 0 d else d

/-- A FAULT24 event stamped: the 63 newest stamps are kept (R103). -/
def stampFault (d : Dev) : Dev :=
  let s := d.trouble.stamps ++ [d.journal.seconds]
  judgeFault24 d.fault24 { d with trouble := { d.trouble with stamps := s.drop (s.length - 63) } }

/-- An uncorrectable SECDED error: ECCUNC, the owner's sticky bit, the FAULT24 stamp (07 R171). -/
def noteUncorrectable (owner : Option Chn) (eng : Nat) (w5 : Word) (d : Dev) : Dev :=
  let d := noteGx 2 8 eng w5 d
  let d := match owner with
    | some n => noteCh n 7 eng (w5 &&& 0xFFFF) d
    | none => d
  stampFault d

/-- A corrected single-bit error: ECCCOR and its count (07 R171). -/
def noteCorrected (d : Dev) : Dev :=
  noteG 2 7 { d with trouble := { d.trouble with eccCor := min 255 (d.trouble.eccCor + 1) } }

/-- One INVARIANT result counted: the field saturates at 7 and every result makes an entry
(R93, R97). -/
def noteInvar (eng : Nat) (w5 : Word) (d : Dev) : Dev :=
  let c := min 7 (fld d.trouble.g2 2 0 + 1)
  let d := { d with trouble := { d.trouble with g2 := putFld d.trouble.g2 (at_ c 0) 2 0 } }
  queueEntry (d.entry 2 0 eng d.trouble.g2 w5) d

/-- GSTICKY3 bit: a persistent slot failed. -/
def noteSlotFail (d : Dev) : Dev := noteG 3 4 d

/-- GSTICKY3 bit: an OTP program or read failed. -/
def noteOtpErr (d : Dev) : Dev := noteG 3 9 d

/-! ### Attention outputs (R89, R104) -/

/-- Whether an attention output is asserted for a mask and a view of GSTAT. -/
def attnOf (mask g : Word) : Bool :=
  (bit g 31 && !bit mask 31) || (bit g 30 && !bit mask 30) || (bit g 29 && !bit mask 29)
    || (bit g 28 && !bit mask 28) || ((g &&& ~~~mask &&& 0xFFFF) != 0)

/-- ATTN_A# asserted. -/
def Dev.attnA (d : Dev) : Bool :=
  attnOf d.trouble.maskA (d.gstat false (fun n => d.bound n == .A))

/-- ATTN_B# asserted: high-impedance while bank B is down (02 R30). -/
def Dev.attnB (d : Dev) : Bool :=
  d.pins.bank[1].isSome && attnOf d.trouble.maskB (d.gstat false (fun n => d.bound n == .B))

/-- SERVICE# asserted (R104). -/
def Dev.service (d : Dev) : Bool := d.gReplace

end Sys2Proof.Machine
end

