-- ==== Sys2Proof/Machine/Pool.lean ====
section
/-!
DEFINITION. The buffer pool: handles and generations, placement, allocation, freeing, zeroing, the
pool window and the pool's books (07_buffer_pool.md).
-/

namespace Sys2Proof.Machine

/-- The generation of a granule: 1 unless listed (R156). -/
def Pool.gen (p : Pool) (g : Nat) : Nat := (p.gens.lookup g).getD 1

/-- The handle of a buffer by its first granule (R156). -/
def Pool.handle (p : Pool) (first : Nat) : Nat := p.gen first * 4096 + first

/-- The generation after `v` for granule `g`: it wraps to 1 after 15, or after 14 for the last four
granules (R156). -/
def nextGen (g v : Nat) : Nat :=
  if g < 0xFFC then (if v < 15 then v + 1 else 1) else (if v < 14 then v + 1 else 1)

/-- The generation of a granule advanced. -/
def Pool.advance (p : Pool) (g : Nat) : Pool :=
  let v := nextGen g (p.gen g)
  let rest := p.gens.filter (fun x => x.1 != g)
  { p with gens := if v = 1 then rest else (g, v) :: rest }

/-- The buffer whose first granule is `g`. -/
def Pool.buf (p : Pool) (g : Nat) : Option Buf := p.bufs.find? (fun b => b.first = g)

/-- The buffer a granule lies in. -/
def Pool.holder (p : Pool) (g : Nat) : Option Buf :=
  p.bufs.find? (fun b => b.first ≤ g && g < b.first + b.count)

/-- Whether a domain is named in PDDENY. -/
def Dev.denied (d : Dev) (dom : Nat) : Bool := bit (vget d.power.deny (dom / 32) 0) (dom % 32)

/-- Whether a domain is on. -/
def Dev.domOn (d : Dev) (dom : Nat) : Bool :=
  match (vget d.power.doms dom ⟨.off, false, false⟩).phase with
  | .on => true
  | _ => false

/-- A domain demanded on by a use. -/
def demandOn (dom : Nat) (d : Dev) : Dev :=
  { d with power := { d.power with
      doms := vmod d.power.doms dom (fun x => { x with demand := true }) } }

/-- The demand on a domain withdrawn. -/
def demandOff (dom : Nat) (d : Dev) : Dev :=
  { d with power := { d.power with
      doms := vmod d.power.doms dom (fun x => { x with demand := false }) } }

/-- A write that STOP entry holds back (16 R381). -/
def holdWrite (w : HeldWrite) (d : Dev) : Dev :=
  { d with power := { d.power with held := d.power.held ++ [w] } }

/-- The run a pending host allocation of a channel has selected. -/
def Dev.picked (d : Dev) (n : Chn) : List (Nat × Nat) :=
  match (d.chan n).alloc with
  | some ⟨c, some f, _⟩ => [(f, c)]
  | _ => []

/-- The runs taken: buffers, and runs selected by allocations in progress (R162). -/
def Dev.taken (d : Dev) : List (Nat × Nat) :=
  d.pool.bufs.map (fun b => (b.first, b.count)) ++ allChns.flatMap d.picked

/-- Whether an allocation of `c` granules may start at granule `g` (R158). -/
def Dev.fits (d : Dev) (c g : Nat) : Bool :=
  g % 128 + c ≤ 128 && d.taken.all (fun r => g + c ≤ r.1 || r.1 + r.2 ≤ g)
    && !d.pool.failed.contains (g / 128) && !d.denied (60 + g / 128)

/-- The lowest-numbered place for `c` granules (R158). -/
def Dev.firstFit (d : Dev) (c : Nat) : Option Nat := (List.range 4096).find? (d.fits c)

/-- Granules in live and dying buffers of a channel: CH_HELD.HELD. -/
def Dev.held (d : Dev) (n : Chn) : Nat :=
  ((d.pool.bufs.filter (fun b => b.owner = n && b.st != .inflight)).map (·.count)).sum

/-- Granules in INFLIGHT buffers of a channel: CH_HELD.INFL. -/
def Dev.infl (d : Dev) (n : Chn) : Nat :=
  ((d.pool.bufs.filter (fun b => b.owner = n && b.st == .inflight)).map (·.count)).sum

/-- Whether `c` more granules keep a channel within its quota, an allocation in progress counted
(R159, R162). -/
def Dev.inQuota (d : Dev) (n : Chn) (c : Nat) : Bool :=
  d.held n + d.infl n + ((d.picked n).map (·.2)).sum + c ≤ (d.chan n).quota

/-- The outcome of selecting a run: the first granule, or RESULT 1 QUOTA, 2 NOSPACE (R159). -/
def Dev.select (d : Dev) (n : Chn) (c : Nat) : Option Nat × Nat :=
  if d.inQuota n c then
    match d.firstFit c with
    | some g => (some g, 0)
    | none => (none, 2)
  else (none, 1)

/-- Granules zeroed: their bytes, their dirty marks and the error marks of their words. -/
def zeroGran (g c : Nat) (p : Pool) : Pool :=
  { p with
    mem := p.mem.wipe (g * 512) (c * 512)
    dirty := p.dirty.filter (fun x => x < g || g + c ≤ x)
    broken := p.broken.filter (fun x => x < g * 512 || (g + c) * 512 ≤ x) }

/-- A buffer placed on zeroed granules. -/
def placeBuf (b : Buf) (d : Dev) : Dev :=
  let p := zeroGran b.first b.count d.pool
  { d with pool := { p with bufs := b :: p.bufs } }

/-- A buffer's granules returned to FREE, dirty. -/
def dropBuf (first : Nat) (d : Dev) : Dev :=
  match d.pool.buf first with
  | none => d
  | some b =>
    { d with pool := { d.pool with
        bufs := d.pool.bufs.filter (fun x => x.first != first)
        dirty := (List.range b.count).map (fun i => first + i) ++ d.pool.dirty } }

/-- A buffer freed: its generation advances and its granules become FREE and dirty (R164). -/
def freeBuf (first : Nat) (d : Dev) : Dev :=
  dropBuf first { d with pool := d.pool.advance first }

/-- The buffer's state changed. -/
def setBuf (first : Nat) (st : BufState) (d : Dev) : Dev :=
  { d with pool := { d.pool with
      bufs := d.pool.bufs.map (fun b => if b.first = first then { b with st := st } else b) } }

/-- The first granules a clause names in W2, W4 and W6. -/
def Clause.names (c : Clause) : List Nat :=
  [c.w2, c.w4, c.w6].filterMap (fun w => if hi16 w < 0xFFFC then some (hi16 w % 4096) else none)

/-- Whether a dispatched clause of a channel uses the buffer (R164, R165; a suspended context counts
as dispatched). -/
def Dev.bufUsed (d : Dev) (n : Chn) (first : Nat) : Bool :=
  (d.chan n).sents.any (fun s => match s.job, s.clauses[s.idx]? with
    | some _, some c => c.names.contains first
    | _, _ => false)

/-- Dying buffers of a channel that no dispatched clause uses any more are released (R165). -/
def releaseDying (n : Chn) (d : Dev) : Dev :=
  (d.pool.bufs.filter (fun b => b.owner = n && b.st == .dying && !d.bufUsed n b.first)).foldl
    (fun d b => dropBuf b.first d) d

/-- CH_FREE's judgement of a handle (Table 07.2). -/
def judgeFree (n : Chn) (h : Nat) (d : Dev) : Dev :=
  let g := h % 4096
  match d.pool.buf g with
  | none => noteCh n 4 0 0 d
  | some b =>
    if 0xFFFC ≤ h || h / 4096 = 0 || b.st == .inflight || h / 4096 != d.pool.gen g then
      noteCh n 4 0 0 d
    else if b.owner != n then noteCh n 5 0 0 d
    else if b.st == .dying then noteCh n 4 0 0 d
    else if d.bufUsed n g then
      setBuf g .dying { d with pool := d.pool.advance g }
    else freeBuf g d

/-- Every buffer of a channel freed (R110, R111). -/
def freeAll (n : Chn) (d : Dev) : Dev :=
  (d.pool.bufs.filter (fun b => b.owner = n)).foldl
    (fun d b => if b.st == .dying then dropBuf b.first d else freeBuf b.first d) d

/-! ### The books (R168, Table 07.6) -/

/-- POOLSTAT1.HELD: granules in live and dying buffers. -/
def Pool.heldSum (p : Pool) : Nat := ((p.bufs.filter (fun b => b.st != .inflight)).map (·.count)).sum

/-- POOLSTAT0.INFLIGHT: granules in INFLIGHT buffers. -/
def Pool.inflSum (p : Pool) : Nat := ((p.bufs.filter (fun b => b.st == .inflight)).map (·.count)).sum

/-- POOLSTAT0.FREE. -/
def Pool.freeSum (p : Pool) : Nat := 4096 - p.heldSum - p.inflSum

/-- FREE granules outside failed banks. -/
def Pool.usable (p : Pool) : Nat :=
  ((List.range 4096).filter (fun g => (p.holder g).isNone && !p.failed.contains (g / 128))).length

/-- The longest run an allocation could take now, 0–64. -/
def Dev.largest (d : Dev) : Nat :=
  ((List.range 65).filter (fun c => c = 0 || (d.firstFit c).isSome)).foldl max 0

/-- POOLSTAT0. -/
def Dev.poolStat0 (d : Dev) : Word := at_ d.pool.inflSum 16 ||| at_ d.pool.freeSum 0

/-- POOLSTAT1. -/
def Dev.poolStat1 (d : Dev) : Word := at_ d.pool.heldSum 16 ||| at_ d.pool.dirty.length 0

/-- POOLSTAT2. -/
def Dev.poolStat2 (d : Dev) : Word := at_ d.largest 16 ||| at_ d.pool.usable 0

/-- POOLBANKF. -/
def Dev.poolBankF (d : Dev) : Word :=
  ((List.range 32).filter d.pool.failed.contains).foldl setBit 0

/-! ### The pool window (R167) -/

/-- What a word of the pool window meets. -/
inductive PoolHit where
  /-- a live buffer of the frame's port, its owner OPEN or DRAINING -/
  | served (owner : Chn)
  /-- a buffer of a channel bound to the other port -/
  | view
  /-- anything else -/
  | nothing
  deriving DecidableEq, Repr

/-- What the word at a pool byte offset meets for a port (R167). -/
def Dev.poolHit (d : Dev) (p : Port) (off : Nat) : PoolHit :=
  match d.pool.holder (off / 512) with
  | none => .nothing
  | some b =>
    if d.bound b.owner != p then .view
    else if b.st == .live && (d.chan b.owner).state.active
        && !d.pool.failed.contains (off / 512 / 128) then .served b.owner
    else .nothing

end Sys2Proof.Machine
end

