-- ==== Sys2Proof/Machine/Ring.lean ====
section
/-!
DEFINITION. Ring pointers, the placement of the rings, posting completion records, OUT records,
ring resets and stream banks (06_rings_and_clauses.md).
-/

namespace Sys2Proof.Machine

/-! ### Pointers -/

/-- A pointer pair holding a value and its complement (R128). -/
def PtrPair.of (v : Nat) : PtrPair := ⟨BitVec.ofNat 14 v, ~~~(BitVec.ofNat 14 v)⟩

/-- Whether the two copies agree. -/
def PtrPair.good (p : PtrPair) : Bool := p.cmp == ~~~p.val

/-- The pointer's value. -/
def PtrPair.nat (p : PtrPair) : Nat := p.val.toNat

/-- Whether both pointer pairs of a ring agree. -/
def RingRegs.good (r : RingRegs) : Bool := r.head.good && r.tail.good

/-- An empty ring of given base and size. -/
def RingRegs.fresh (base size : Nat) : RingRegs := ⟨base, size, .of 0, .of 0⟩

/-- A ring outside OPEN and DRAINING: no place, no size. -/
def RingRegs.none : RingRegs := .fresh 0 0

/-- Entries or bytes between HEAD and TAIL. -/
def RingRegs.used (r : RingRegs) : Nat := (r.tail.nat + r.size - r.head.nat) % r.size

/-- Free entries of a SUB or CPL ring: one place always stays empty (R125). -/
def RingRegs.free (r : RingRegs) : Nat := (r.head.nat + 2 * r.size - r.tail.nat - 1) % r.size

/-- The ring of a kind. -/
def Rings.ring (r : Rings) : RingK → RingRegs
  | .subp => r.subp
  | .subb => r.subb
  | .cpl => r.cpl
  | .out => r.out

/-- The ring of a kind replaced. -/
def Rings.setRing (r : Rings) (k : RingK) (x : RingRegs) : Rings :=
  match k with
  | .subp => { r with subp := x }
  | .subb => { r with subb := x }
  | .cpl => { r with cpl := x }
  | .out => { r with out := x }

/-- The number of a ring within its channel. -/
def RingK.num : RingK → Nat
  | .subp => 0
  | .subb => 1
  | .cpl => 2
  | .out => 3

/-- The four rings in order. -/
def RingK.all : List RingK := [.subp, .subb, .cpl, .out]

/-- Base and size of a ring under a split (Table 06.1). -/
def splitPlace (split : Nat) : RingK → Nat × Nat
  | .subp => (0, if split = 0 then 64 else if split = 3 then 128 else 32)
  | .subb =>
    if split = 0 then (0x0800, 128) else if split = 1 then (0x0400, 64)
    else if split = 2 then (0x0400, 224) else (0x1000, 128)
  | .cpl =>
    if split = 0 then (0x1800, 256) else if split = 1 then (0x0C00, 128) else (0x2000, 256)
  | .out =>
    if split = 0 then (0x2800, 6144) else if split = 1 then (0x1400, 11264) else (0x3000, 4096)

/-- A ring as entry to OPEN sets it (R109, R124). -/
def freshRing (split : Nat) (k : RingK) : RingRegs :=
  .fresh (splitPlace split k).1 (splitPlace split k).2

/-- The rings of a channel that is not open any more: only the count of consumed records goes on, so that
no later record is taken for one read before. -/
def Rings.ended (r : Rings) : Rings := { Rings.dead with recNo := r.recNo + 1 }

/-- The rings at entry to OPEN. -/
def Rings.opened (split recNo : Nat) : Rings :=
  { mem := [], split := split, subp := freshRing split .subp, subb := freshRing split .subb
    cpl := freshRing split .cpl, out := freshRing split .out, starts := [], openRec := none
    cursor := 0, recNo := recNo, reserved := 0, notify := [] }

/-- The bytes a ring occupies of ring memory. -/
def RingRegs.bytes (r : RingRegs) : RingK → Nat
  | .subp => 32 * r.size
  | .subb => 32 * r.size
  | .cpl => 16 * r.size
  | .out => r.size

/-- A 32-byte entry of a SUB ring read as a clause (R124, R130). -/
def Rings.clauseAt (r : Rings) (k : RingK) (e : Nat) : Clause :=
  let a := (r.ring k).base + 32 * e
  let w (i : Nat) := r.mem.word 0 (a + 4 * i)
  ⟨w 0, w 1, w 2, w 3, w 4, w 5, w 6, w 7⟩

/-! ### Clause fields (Table 06.4) -/

/-- The verb of a clause. -/
def Clause.verb (c : Clause) : Nat := fld c.w0 31 24

/-- LINK. -/
def Clause.link (c : Clause) : Bool := bit c.w0 23

/-- FENCE, or the verb FENCE (R206). -/
def Clause.fence (c : Clause) : Bool := bit c.w0 22 || c.verb == 1

/-- NOTIFY. -/
def Clause.notify (c : Clause) : Bool := bit c.w0 21

/-- USEPRESIG. -/
def Clause.usePresig (c : Clause) : Bool := bit c.w0 20

/-- The tag. -/
def Clause.tag (c : Clause) : Nat := lo16 c.w0

/-- The key slot field. -/
def Clause.keySlot (c : Clause) : Nat := hi16 c.w1

/-- The destination slot field. -/
def Clause.dstSlot (c : Clause) : Nat := lo16 c.w1

/-- The input length. -/
def Clause.inLen (c : Clause) : Nat := c.w3.toNat

/-- The output capacity. -/
def Clause.outCap (c : Clause) : Nat := c.w5.toNat

/-- The AAD length. -/
def Clause.aadLen (c : Clause) : Nat := hi16 c.w7

/-- The parameter length. -/
def Clause.parLen (c : Clause) : Nat := lo16 c.w7

/-- The clause and channel details of a journal entry: channel and tag (Table 04.9). -/
def Clause.detail (n : Chn) (c : Clause) : Word := at_ n.val 16 ||| at_ c.tag 0

/-! ### Ring reset (R129) -/

/-- One ring reset: pointers 0, its memory zeroed, its bookkeeping as Table 06.3 states. -/
def Rings.resetRing (r : Rings) (k : RingK) : Rings :=
  let x := r.ring k
  let r := { r with mem := r.mem.wipe x.base (x.bytes k) }
  let r := r.setRing k (.fresh x.base x.size)
  match k with
  | .subp => r
  | .subb => r
  | .cpl => { r with notify := [] }
  | .out => { r with starts := [], openRec := none, cursor := 0, recNo := r.recNo + 1 }

/-- The sentences of a channel marked by a reset of their SUB ring, or their OUT records taken
away by a reset of the OUT ring. -/
def markSents (k : RingK) (openSid : Option Nat) (ss : List Sentence) : List Sentence :=
  match k with
  | .subp => ss.map (fun s => if s.prio then { s with ringReset := true } else s)
  | .subb => ss.map (fun s => if s.prio then s else { s with ringReset := true })
  | .cpl => ss
  | .out => ss.map (fun s =>
      if some s.sid = openSid then { s with job := s.job.map (fun j => { j with outGone := true }) }
      else s)

/-- A ring reset on a pointer mismatch (R129): the stickies, the FAULT24 stamp, the reset. -/
def resetOnMismatch (n : Chn) (k : RingK) (d : Dev) : Dev :=
  let openSid := ((d.chan n).rings.openRec).map (·.sid)
  let d := modChan n (fun c => { c with rings := c.rings.resetRing k, sents := markSents k openSid c.sents }) d
  stampFault (noteG 2 9 (noteCh n k.num 0 0 d))

/-- One ring compared. -/
def scrubRing (n : Chn) (d : Dev) (k : RingK) : Dev :=
  if ((d.chan n).rings.ring k).good then d else resetOnMismatch n k d

/-! ### Statuses -/

/-- The code of a status (Table 06.8). -/
def Status.code : Status → Nat
  | .ok => 0x00
  | .authFail => 0x01
  | .keyDenied => 0x02
  | .keySpent => 0x03
  | .badVerb => 0x04
  | .badHandle => 0x05
  | .notOwner => 0x06
  | .quota => 0x07
  | .aborted => 0x08
  | .ringReset => 0x09
  | .invariant => 0x0A
  | .outFull => 0x0B
  | .tooLong => 0x0C
  | .supply => 0x0D
  | .skipped => 0x0E
  | .engineFault => 0x0F
  | .entropy => 0x10
  | .noEngine => 0x11
  | .outputDiscarded => 0x12
  | .replay => 0x13
  | .badParam => 0x14

/-- Whether a status ends its sentence: all but OK, RING_RESET and OUTPUT_DISCARDED (R136). -/
def Status.failure : Status → Bool
  | .ok => false
  | .ringReset => false
  | .outputDiscarded => false
  | _ => true

/-! ### Posting (R137, R139) -/

/-- The four words of a completion record (Table 06.7). -/
def cplWords (st : Status) (eng tag w1 w2 h idx : Nat) : List Word :=
  [at_ st.code 24 ||| at_ eng 16 ||| at_ tag 0, BitVec.ofNat 32 w1, BitVec.ofNat 32 w2,
   at_ h 16 ||| at_ idx 0]

/-- One record posted at CPL_TAIL with a reserved credit (R139). -/
def Rings.post (r : Rings) (ws : List Word) (notify : Bool) : Rings :=
  let t := r.cpl.tail.nat
  { r with
    mem := r.mem.write 0 (r.cpl.base + 16 * t) (wordsBytes ws)
    cpl := { r.cpl with tail := .of ((t + 1) % r.cpl.size) }
    reserved := r.reserved - 1
    notify := r.notify ++ [notify] }

/-- The sticky consequences of a status: KEYSPENT, AUTHFAIL, ENGFAULT, NOENG, INVAR. -/
def noteStatus (n : Chn) (st : Status) (eng : Nat) (c : Clause) (d : Dev) : Dev :=
  match st with
  | .keySpent => noteCh n 10 eng (at_ c.tag 0) d
  | .authFail => noteCh n 9 eng (at_ c.tag 0) d
  | .engineFault => noteGx 2 10 eng (c.detail n) d
  | .noEngine => noteGx 2 11 eng (c.detail n) d
  | .invariant => noteInvar eng (c.detail n) d
  | _ => d

/-- The record of one clause posted, the CPL ring's pointers compared before (R128). -/
def postRecord (n : Chn) (c : Clause) (idx : Nat) (st : Status) (eng w1 w2 h : Nat) (d : Dev) : Dev :=
  noteStatus n st eng c
    (modRings n (fun r => r.post (cplWords st eng c.tag w1 w2 h idx) c.notify) (scrubRing n d .cpl))

/-- W3[31:16] of a record whose clause holds no buffer: 0xFFFD reads 0xFFFC (Table 06.7). -/
def Clause.w3hi (c : Clause) : Nat := if hi16 c.w4 = 0xFFFD then 0xFFFC else hi16 c.w4

/-- SKIPPED records for clauses `cs` from index `i` (R136). -/
def postSkipped (n : Chn) : List Clause → Nat → Dev → Dev
  | [], _, d => d
  | c :: cs, i, d => postSkipped n cs (i + 1) (postRecord n c i .skipped 0xFF 0 0 c.w3hi d)

/-! ### OUT records (R140–R144) -/

/-- Free bytes of the OUT ring (R141). -/
def Rings.outFree (r : Rings) : Nat :=
  r.out.size - 4 - r.out.used - (r.openRec.map (·.reserve)).getD 0

/-- The bytes a record of capacity `cap` reserves. -/
def recBytes (cap : Nat) : Nat := 4 + roundUp 4 cap

/-- Whether a record of `k` bytes needs a pad, and the pad's span (R141). -/
def Rings.padSpan (r : Rings) (k : Nat) : Nat :=
  if r.out.tail.nat + k ≤ r.out.size then 0 else r.out.size - r.out.tail.nat

/-- Whether a record of `k` bytes can open now. -/
def Rings.canOpen (r : Rings) (k : Nat) : Bool :=
  r.openRec.isNone && r.padSpan k + k ≤ r.outFree

/-- A record opened for a sentence: the pad word where one is needed, the zero length word, the
reservation (R141). -/
def Rings.openOut (r : Rings) (k sid : Nat) : Rings :=
  let t := r.out.tail.nat
  if r.padSpan k = 0 then
    { r with mem := r.mem.setWord 0 (r.out.base + t) 0
             openRec := some ⟨t, k, 0, sid⟩ }
  else
    { r with mem := (r.mem.setWord 0 (r.out.base + t) 0x7FFFFFFF).setWord 0 r.out.base 0
             out := { r.out with tail := .of 0 }
             starts := r.starts ++ [(t, true)]
             openRec := some ⟨0, k, 0, sid⟩ }

/-- The length word of a sealed record (Table 06.9). -/
def lenWord (authFail void : Bool) (len : Nat) : Word :=
  at_ 1 31 ||| at_ (flag authFail) 30 ||| at_ (flag void) 29 ||| at_ len 0

/-- The open record sealed with its payload: zero padding of the last word, the length word, TAIL
past the record, the reservation given back (R142). -/
def Rings.seal (r : Rings) (w : Word) (payload : Bytes) : Rings :=
  match r.openRec with
  | none => r
  | some o =>
    let e := o.start + 4 + roundUp 4 payload.length
    { r with
      mem := (r.mem.write 0 (r.out.base + o.start + 4) (padMul 4 payload)).setWord 0
        (r.out.base + o.start) w
      out := { r.out with tail := .of (if e = r.out.size then 0 else e) }
      starts := r.starts ++ [(o.start, false)]
      openRec := none }

/-- The pads dropped from the front of a list of starts. -/
def dropPads : List (Nat × Bool) → List (Nat × Bool)
  | (_, true) :: l => dropPads l
  | l => l

/-- The record at OUT_HEAD consumed, with any pad before it; the cursor returns to 0. HEAD comes to
the next start, a pad's included, or to TAIL (03 R75, R77). -/
def Rings.consume (r : Rings) : Rings :=
  match dropPads r.starts with
  | [] => r
  | _ :: keep =>
    let h := match keep with
      | (s, _) :: _ => .of s
      | [] => r.out.tail
    { r with out := { r.out with head := h }, starts := keep, cursor := 0, recNo := r.recNo + 1 }

/-- The payload written so far into the open record, at its start onward. -/
def Rings.writeOpen (r : Rings) (off : Nat) (bs : Bytes) : Rings :=
  match r.openRec with
  | none => r
  | some o =>
    { r with mem := r.mem.write 0 (r.out.base + o.start + 4 + off) bs
             openRec := some { o with written := max o.written (off + bs.length) } }

/-- A SKIP of the open record at OUT_HEAD: payload zeroed, sealed VOID, TAIL and HEAD past it
(R143). -/
def Rings.skipOpen (r : Rings) : Rings :=
  match r.openRec with
  | none => r
  | some o =>
    let r := r.seal (lenWord false true o.written) (zeros o.written)
    { r with out := { r.out with head := r.out.tail }, starts := [], cursor := 0
             recNo := r.recNo + 1 }

/-! ### Stream banks (R145–R148) -/

/-- The stream at entry to OPEN: bank 0 FILL, bank 1 FREE. -/
def Stream.fresh : Stream :=
  { mem := [], bank0 := ⟨.fill, 0, 0⟩, bank1 := ⟨.free, 0, 0⟩, submitted := 0, owned := 0, ranges := [] }

/-- A bank by number. -/
def Stream.bank (s : Stream) (b : Nat) : Bank := if b = 0 then s.bank0 else s.bank1

/-- A bank replaced. -/
def Stream.setBank (s : Stream) (b : Nat) (x : Bank) : Stream :=
  if b = 0 then { s with bank0 := x } else { s with bank1 := x }

/-- The number of the FILL bank. -/
def Stream.fillBank (s : Stream) : Option Nat :=
  if s.bank0.st == .fill then some 0 else if s.bank1.st == .fill then some 1 else none

/-- The bytes of a submitted bank that have been consumed or discarded. -/
def Stream.consumed (s : Stream) (b : Bank) : Nat :=
  (s.ranges.map (fun r => min (r.start + r.used) (b.start + b.count) - max r.start b.start)).sum

/-- A submitted bank whose last byte has been consumed becomes FREE. -/
def Stream.release (s : Stream) (b : Nat) : Stream :=
  let x := s.bank b
  if x.st == .submitted && s.consumed x == x.count then s.setBank b ⟨.free, 0, 0⟩ else s

/-- The lowest-numbered FREE bank becomes FILL when no FILL bank exists. -/
def Stream.refill (s : Stream) : Stream :=
  match s.fillBank with
  | some _ => s
  | none =>
    if s.bank0.st == .free then s.setBank 0 ⟨.fill, 0, 0⟩
    else if s.bank1.st == .free then s.setBank 1 ⟨.fill, 0, 0⟩ else s

/-- Discarded ranges take what has arrived, consumed banks become FREE, and a FREE bank becomes FILL
(R145, R146). -/
def Stream.settle (s : Stream) : Stream :=
  let rs := s.ranges.map (fun r =>
    if r.drop then { r with used := min r.len (s.submitted - r.start) } else r)
  let s := { s with ranges := rs }
  ((s.release 0).release 1).refill

/-- SUBMIT of `count` bytes of the FILL bank `b` (R145). -/
def Stream.submit (s : Stream) (b count : Nat) : Stream :=
  let s' := { s.setBank b ⟨.submitted, count, s.submitted⟩ with submitted := s.submitted + count }
  (s'.refill).settle

/-- A submitted bank cut after the last owned byte (R148). -/
def Stream.cut (s : Stream) (b : Nat) : Stream :=
  let x := s.bank b
  if x.st == .submitted then
    if s.owned ≤ x.start then s.setBank b ⟨.free, 0, 0⟩
    else s.setBank b { x with count := min x.count (s.owned - x.start) }
  else if x.st == .fill then s.setBank b ⟨.fill, 0, 0⟩ else s

/-- FLUSH: every byte not owned by a taken clause is discarded; banks whose bytes are all consumed then become
FREE, and the lowest-numbered FREE bank becomes FILL when none is (R148). -/
def Stream.flush (s : Stream) : Stream :=
  let s := (s.cut 0).cut 1
  ({ s with submitted := min s.submitted s.owned }).settle

/-- The byte of the stream at an absolute position, from whichever bank holds it. -/
def Stream.byteAt (s : Stream) (p : Nat) : Byte :=
  if s.bank0.st == .submitted && s.bank0.start ≤ p && p < s.bank0.start + s.bank0.count then
    s.mem.get 0 (p - s.bank0.start)
  else s.mem.get 0 (0x2000 + (p - s.bank1.start))

/-- The bytes submitted and neither consumed nor discarded: CH_BANKSTAT.AVAIL. -/
def Stream.avail (s : Stream) : Nat :=
  let left (b : Bank) := if b.st == .submitted then b.count - s.consumed b else 0
  left s.bank0 + left s.bank1

/-- The range a clause owns. -/
def Stream.range (s : Stream) (sid idx : Nat) : Option StreamRange :=
  s.ranges.find? (fun r => r.sid = sid && r.idx = idx)

/-- One range changed. -/
def Stream.modRange (s : Stream) (sid idx : Nat) (f : StreamRange → StreamRange) : Stream :=
  { s with ranges := s.ranges.map (fun r => if r.sid = sid && r.idx = idx then f r else r) }

/-- Ranges wholly consumed that lie in no bank any more are forgotten. -/
def Stream.forget (s : Stream) : Stream :=
  let lo (b : Bank) := if b.st == .submitted then b.start else s.submitted
  let m := min (lo s.bank0) (lo s.bank1)
  { s with ranges := s.ranges.filter (fun r => r.used < r.len || m < r.start + r.len) }

/-- The rest of a clause's bytes discarded as they arrive (R146). -/
def Stream.discard (s : Stream) (sid idx : Nat) : Stream :=
  ((s.modRange sid idx (fun r => { r with drop := true })).settle).forget

/-- `k` more bytes of a clause's range consumed by its engine. -/
def Stream.take (s : Stream) (sid idx k : Nat) : Stream :=
  (s.modRange sid idx (fun r => { r with used := min r.len (r.used + k) })).settle

/-- Bytes assigned to a clause at the take (R146). -/
def Stream.assign (s : Stream) (sid idx len : Nat) : Stream :=
  { s with ranges := s.ranges ++ [⟨sid, idx, s.owned, len, 0, false⟩], owned := s.owned + len }

/-- CH_BANKSTAT (R153). While NOFILL is 1, FILLB is meaningless and the manual gives FILLOFS no value: both read 0
(DESIGN CHOICE, log entry 68). -/
def Stream.stat (s : Stream) : Word :=
  let fb := s.fillBank
  at_ s.avail 16 ||| at_ (fb.getD 0) 15 ||| at_ (flag fb.isNone) 14
    ||| at_ ((fb.map (fun b => (s.bank b).count)).getD 0) 0

/-- One channel's pairs compared, by the scrub or before the device uses them (R128). -/
def scrubChan (d : Dev) (n : Chn) : Dev :=
  if (d.chan n).state.active then RingK.all.foldl (scrubRing n) d else d

end Sys2Proof.Machine
end

