-- ==== Sys2Proof/Machine/Sched.lean ====
section
/-!
DEFINITION. The scheduler: engine classes, the dispatch set, eligible work, tags and their charges,
the choice of channel, work and engine (08_scheduler_and_engines.md).
-/

namespace Sys2Proof.Machine

/-! ### Classes and engines (R173, R174) -/

/-- The class of a verb; none for the verbs the ring controller completes and for unassigned ones. -/
def verbClass (v : Nat) : Option Cls :=
  if v = 0x04 ∨ v = 0x05 ∨ (0x11 ≤ v ∧ v ≤ 0x1C) then some .cipher
  else if 0x20 ≤ v ∧ v ≤ 0x2F then some .hash
  else if (0x40 ≤ v ∧ v ≤ 0x4C) ∨ (0x50 ≤ v ∧ v ≤ 0x5F) then some .bignum
  else if v = 0x02 ∨ v = 0x03 ∨ v = 0x31 ∨ v = 0x32 ∨ (0x60 ≤ v ∧ v ≤ 0x65) then some .service
  else none

/-- Whether a verb number is unassigned (Table 06.6, check 2). -/
def unassigned (v : Nat) : Bool :=
  (0x06 ≤ v && v ≤ 0x10) || (0x1D ≤ v && v ≤ 0x1F) || v == 0x27 || v == 0x2D || v == 0x30
    || (0x33 ≤ v && v ≤ 0x3F) || (0x4D ≤ v && v ≤ 0x4F) || (0x66 ≤ v)

/-- Whether a verb is a public-key verb, sequenced by the service processor (11 0x50–0x5F). -/
def isPublic (v : Nat) : Bool := 0x50 ≤ v && v ≤ 0x5F

/-- The engine id of an engine index (06 Table 06.7). -/
def engId (e : Nat) : Nat := if e < 8 then e else if e < 12 then 0x10 + (e - 8) else 0x20 + (e - 12)

/-- The engines of a class, by index. -/
def Cls.engines : Cls → List Nat
  | .cipher => List.range 8
  | .hash => (List.range 4).map (· + 8)
  | .bignum => (List.range 4).map (· + 12)
  | .service => []

/-- The step a dispatched clause makes or makes next (R173). -/
def Job.step (j : Job) : Option Step := j.steps.head?

/-- The engine id a step runs on. -/
def Step.engs (t : Step) : List Nat := if t.phase == .run then [t.engine] else []

/-- Whether a dispatched clause is on its engine: a public-key clause whose step claims its core is on none
yet (11 R256). -/
def Job.onEngine (j : Job) : Bool :=
  (j.phase == .run || j.phase == .starved) && !((j.steps.any (·.own)))

/-- The engine ids that a sentence's clause and its step run on. -/
def Sentence.engs (s : Sentence) : List Nat :=
  match s.job with
  | none => []
  | some j => (if j.onEngine then [j.engine] else []) ++ ((j.step.map Step.engs).getD [])

/-- The selections held for a sentence: of its clause and of its step. -/
def Sentence.sels (s : Sentence) : List Sel :=
  s.sel.toList ++ ((s.job.bind Job.step).bind (·.sel)).toList

/-- The class-H work of a channel's open check (05 R121). -/
def Chan.check (c : Chan) : Option Step :=
  match c.phase with
  | .checking _ _ _ t => some t
  | _ => none

/-- The engine ids a channel's dispatches run on. -/
def Chan.engs (c : Chan) : List Nat := c.sents.flatMap Sentence.engs ++ ((c.check.map Step.engs).getD [])

/-- The selections held for a channel's work (R184). -/
def Chan.sels (c : Chan) : List Sel := c.sents.flatMap Sentence.sels ++ (c.check.bind (·.sel)).toList

/-- Whether a dispatch runs on engine id `id`. -/
def Dev.engBusy (d : Dev) (id : Nat) : Bool := allChns.any (fun n => (d.chan n).engs.contains id)

/-- The selections held in the whole device. -/
def Dev.sels (d : Dev) : List Sel := allChns.flatMap (fun n => (d.chan n).sels)

/-- Whether engine `e` is selected for a dispatch that waits for its switch-on. -/
def Dev.engSel (d : Dev) (e : Nat) : Bool := d.sels.any (fun x => x.eng == e)

/-- Whether engine `e` is in the dispatch set: IN and not denied (R186, R185). -/
def Dev.inSet (d : Dev) (e : Nat) : Bool :=
  (vget d.engines e ⟨.quar, 0, 0, none⟩).svc == .inn && !d.denied (12 + e)

/-- Whether the last-gasp full path signs on engine `e` (17 R409). -/
def Dev.gaspOn (d : Dev) (e : Nat) : Bool :=
  match d.supply.gasp with
  | some g => match g.full with
    | some (c, _) => 12 + c.val == e
    | none => false
  | none => false

/-- Whether engine `e` is in the dispatch set and free. -/
def Dev.engFree (d : Dev) (e : Nat) : Bool :=
  d.inSet e && !d.engBusy (engId e) && !d.engSel e && !d.gaspOn e

/-- Whether a sentence holds a service slot: its clause is of class S and dispatched; a template of a phrase
runs on the phrase's own. -/
def Sentence.onSlot (s : Sentence) : Bool :=
  s.parent.isNone && (match s.job with
    | some j => (j.phase == .run || j.phase == .starved) && verbClass j.verb == some .service
    | none => false)

/-- The number of service slots taken by clauses and by selections. -/
def Dev.svcBusy (d : Dev) : Nat :=
  (allChns.map (fun n => ((d.chan n).sents.filter Sentence.onSlot).length)).sum
    + (d.sels.filter (fun x => x.eng == 16)).length

/-- The engine the scheduler prefers among free ones `es`: the lowest powered, else the lowest
(R184). -/
def Dev.prefer (d : Dev) (es : List Nat) : Option Nat :=
  match es.find? (fun e => d.domOn (12 + e)) with
  | some e => some e
  | none => es.head?

/-- Whether a class has an engine in the dispatch set. -/
def Dev.classHas (d : Dev) (c : Cls) : Bool :=
  match c with
  | .service => !d.lc.dbgHalt
  | _ => c.engines.any d.inSet

/-! ### Reading a clause's buffers -/

/-- Bytes of a buffer handle from an offset. -/
def Dev.readBuf (d : Dev) (h off len : Nat) : Bytes := d.pool.mem.read 0 (h % 4096 * 512 + off) len

/-- The parameter bytes of a clause. -/
def Dev.params (d : Dev) (c : Clause) : Bytes :=
  if hi16 c.w6 = 0xFFFC then [] else d.readBuf (hi16 c.w6) (lo16 c.w6) c.parLen

/-- Two bytes of a parameter block as a number. -/
def par16 (bs : Bytes) (i : Nat) : Nat := beNat (slice i 2 bs)

/-- One byte of a parameter block. -/
def par8 (bs : Bytes) (i : Nat) : Nat := (bs.getD i 0).toNat

/-- The operand names of a primitive clause other than 0xFFFF (10 R238). -/
def opNames (ps : Bytes) : List Nat :=
  [par16 ps 0, par16 ps 2, par16 ps 4, par16 ps 6].filter (· != 0xFFFF)

/-- The core a primitive clause is bound to (R183, 10 R233). -/
def Dev.boundCore (d : Dev) (c : Clause) : Option Nat :=
  if 0x40 ≤ c.verb ∧ c.verb ≤ 0x4C then (opNames (d.params c)).head?.map (· / 16384) else none

/-- Whether a public-key clause has a message to hash before it claims a core (11 R256): with a message block,
unless PREHASHED is set; always for Ed25519 and ML-DSA. -/
def hashFirst (v : Nat) (ps : Bytes) : Bool :=
  if v = 0x50 ∨ v = 0x51 ∨ v = 0x56 ∨ v = 0x57 then par8 ps 1 % 2 == 0
  else v == 0x54 || v == 0x55 || v == 0x5C || v == 0x5D

/-- The class whose engine the scheduler gives a clause at its dispatch; none where no engine is selected: the ring
controller completes it, the service processor hashes its message first, or it is a template of class S,
which runs on its phrase's service slot. -/
def Dev.workClass (d : Dev) (s : Sentence) (c : Clause) : Option Cls :=
  if hashFirst c.verb (d.params c) then none
  else if s.parent.isSome && verbClass c.verb == some .service then none
  else verbClass c.verb

/-! ### Waits judged from the state (06 R454) -/

/-- The stream range a sentence's clause reads from, and the offset of its first byte in it: a phrase's template
reads what the phrase owns, after the earlier templates (15 R366). -/
def Sentence.source (s : Sentence) : Nat × Nat × Nat :=
  match s.parent with
  | none => (s.sid, s.idx, 0)
  | some p => (p.sid, p.idx, p.used)

/-- The stream range of a sentence's clause. -/
def Dev.rangeOf (d : Dev) (n : Chn) (s : Sentence) : Option StreamRange :=
  (d.chan n).stream.range s.source.1 s.source.2.1

/-- Whether the bytes of a stream clause up to `need` have been submitted. -/
def Dev.streamUpTo (d : Dev) (n : Chn) (s : Sentence) (c : Clause) (need : Nat) : Bool :=
  if hi16 c.w2 = 0xFFFF then
    match d.rangeOf n s with
    | none => true
    | some r => r.start + s.source.2.2 + need ≤ (d.chan n).stream.submitted
  else true

/-- Whether the start of a clause's stream bytes has been submitted (06 R147). -/
def Dev.streamReady (d : Dev) (n : Chn) (s : Sentence) (c : Clause) : Bool :=
  d.streamUpTo n s c (match verbClass c.verb with
    | some .cipher => min c.inLen 4096
    | some .hash => min c.inLen 4096
    | _ => c.inLen)

/-- Whether an output record can open, where the clause needs one and one can ever fit (06 R141); a phrase's
template writes into the record the phrase has open. -/
def Dev.outReady (d : Dev) (n : Chn) (s : Sentence) (c : Clause) : Bool :=
  if hi16 c.w4 = 0xFFFE ∧ s.parent.isNone then
    let r := (d.chan n).rings
    r.out.size - 4 < recBytes c.outCap || r.canOpen (recBytes c.outCap)
  else true

/-- The suspended contexts of a sentence: its clause's or its step's. -/
def Sentence.isSusp (s : Sentence) : Bool :=
  match s.job with
  | none => false
  | some j => j.phase == .susp || (j.step.map (·.phase)) == some .susp

/-- CH_STAT.SUSP. -/
def Chan.susp (c : Chan) : Nat := (c.sents.filter Sentence.isSusp).length

/-- Bytes of a clause's input from `from_` to `to_`: from the stream or its buffer. -/
def Dev.inputBytes (d : Dev) (n : Chn) (s : Sentence) (c : Clause) (from_ to_ : Nat) : Bytes :=
  if hi16 c.w2 = 0xFFFF then
    match d.rangeOf n s with
    | none => []
    | some r => (List.range (to_ - from_)).map (fun i =>
        (d.chan n).stream.byteAt (r.start + s.source.2.2 + from_ + i))
  else if hi16 c.w2 = 0xFFFC then []
  else d.readBuf (hi16 c.w2) (lo16 c.w2 + from_) (to_ - from_)

/-- The header length of a received record of a context: fixed for TLS, from the first byte for DTLS
(15 R357). -/
def recHeaderLen (proto cid b0 : Nat) : Nat :=
  if proto = 1 then 5
  else 1 + cid + (if b0.testBit 3 then 2 else 1) + (if b0.testBit 2 then 2 else 0)

/-- The payload an open would hold: its input less AAD and tag, or less header and tag for a record
(09 R209, R212, R213, 15 R357). -/
def Dev.openLen (d : Dev) (n : Chn) (s : Sentence) (c : Clause) : Nat :=
  let ps := d.params c
  if c.verb = 0x61 then
    match vget (d.chan n).recs (par8 ps 1) none with
    | some r => c.inLen - recHeaderLen r.proto r.cid.length (par8 (d.inputBytes n s c 0 1) 0) - 16
    | none => 0
  else c.inLen - c.aadLen - (if c.verb = 0x17 then par8 ps 0 else 16)

/-- Whether a clause is an open to which AEADF applies (09 R213; 15 R357). -/
def Dev.isOpen (d : Dev) (c : Clause) : Bool :=
  c.verb == 0x15 || c.verb == 0x17 || c.verb == 0x1A || (c.verb == 0x61 && par8 (d.params c) 0 == 2)

/-- Whether a channel is in HOLD mode. -/
def Chan.holdMode (c : Chan) : Bool := !bit c.cfg 27

/-- The bytes held by an open of the channel, when one holds the hold buffer. -/
def Chan.holding (c : Chan) : Option Nat :=
  c.sents.findSome? (fun s => s.job.bind (fun j => if j.phase == .persist then none else j.hold))

/-- Whether the hold buffer admits an open of a given payload (09 R213); one that can never be held
is judged, not waited for. -/
def Dev.holdReady (d : Dev) (n : Chn) (s : Sentence) (c : Clause) : Bool :=
  if d.isOpen c && (d.chan n).holdMode then
    let p := d.openLen n s c
    16384 < p || ((d.chan n).holding.isNone && p + 512 * (d.chan n).susp ≤ 16384)
  else true

/-- Whether the user area a primitive clause names is not another channel's (10 R232). -/
def Dev.areaReady (d : Dev) (n : Chn) (c : Clause) : Bool :=
  match d.boundCore c with
  | none => true
  | some k =>
    match (vget d.cores k ⟨none, [], false⟩).owner with
    | none => true
    | some m => m == n

/-- Whether a sentence's noted wait still holds it back. -/
def Wait.holds : Wait → Bool
  | .checkpoint _ => true
  | .ksready => true
  | _ => false

/-- Whether the next clause of a sentence is eligible work of class `k` (R176); one already selected is not. -/
def Dev.clauseReady (d : Dev) (n : Chn) (k : Cls) (s : Sentence) : Bool :=
  match s.job, s.clauses[s.idx]? with
  | none, some c =>
    d.workClass s c == some k && s.sel.isNone && !s.wait.holds && d.streamReady n s c && d.outReady n s c
      && d.holdReady n s c && d.areaReady n c
  | _, _ => false

/-- Whether the next bytes of a suspended or starved clause have been submitted: up to the next
4 KiB boundary (06 R147, R181). -/
def Dev.moreReady (d : Dev) (n : Chn) (s : Sentence) (j : Job) : Bool :=
  match s.clauses[s.idx]? with
  | none => false
  | some c => d.streamUpTo n s c (min c.inLen (j.input.length + 4096))

/-- Whether a suspended context is eligible work of class `k`. -/
def Dev.ctxReady (d : Dev) (n : Chn) (k : Cls) (s : Sentence) : Bool :=
  match s.job with
  | some j => j.phase == .susp && s.sel.isNone && verbClass j.verb == some k && d.moreReady n s j
  | none => false

/-- Whether a step is eligible work of class `k`: queued, or suspended. -/
def Step.ready (k : Cls) (t : Step) : Bool :=
  t.cls == k && t.sel.isNone && (t.phase == .queued || t.phase == .susp)

/-- Whether a sentence has a step that is eligible work of class `k`. -/
def Sentence.stepReady (k : Cls) (s : Sentence) : Bool :=
  match s.job with
  | some j => (j.step.map (Step.ready k)).getD false
  | none => false

/-- Whether a sentence has eligible work of class `k`. -/
def Dev.sentReady (d : Dev) (n : Chn) (k : Cls) (s : Sentence) : Bool :=
  d.clauseReady n k s || d.ctxReady n k s || s.stepReady k

/-- Whether a channel's open check is eligible work of class `k` (05 R121). -/
def Chan.checkReady (k : Cls) (c : Chan) : Bool := (c.check.map (Step.ready k)).getD false

/-- Whether a sentence's work of class `k` ranks as SUBP work: it came from SUBP, or it is a step a clause
queued (R180). -/
def Sentence.ranksP (k : Cls) (s : Sentence) : Bool :=
  s.prio || (s.stepReady k && ((s.job.bind Job.step).map (fun t => !t.own)).getD false)

/-- Whether a channel has eligible work of class `k`. -/
def Dev.eligible (d : Dev) (k : Cls) (n : Chn) : Bool :=
  (d.chan n).sents.any (d.sentReady n k) || (d.chan n).checkReady k

/-- Whether a channel has eligible SUBB work of class `k`. -/
def Dev.eligibleB (d : Dev) (k : Cls) (n : Chn) : Bool :=
  (d.chan n).sents.any (fun s => !s.ranksP k && d.sentReady n k s)

/-! ### Tags (R177, R178) -/

/-- The scheduling state of a class. -/
def Sched.cls (s : Sched) : Cls → ClassSched
  | .cipher => s.clsC
  | .hash => s.clsH
  | .bignum => s.clsB
  | .service => s.clsS

/-- The scheduling state of a class replaced. -/
def Sched.setCls (s : Sched) (k : Cls) (x : ClassSched) : Sched :=
  match k with
  | .cipher => { s with clsC := x }
  | .hash => { s with clsH := x }
  | .bignum => { s with clsB := x }
  | .service => { s with clsS := x }

/-- The four classes. -/
def Cls.all : List Cls := [.cipher, .hash, .bignum, .service]

/-- The weight in force for a channel (R178, R196). -/
def Dev.weight (d : Dev) (n : Chn) : Nat :=
  let e := fld (d.chan n).cfg 23 20
  fld (vget d.sched.weights (e / 4) 0) (8 * (e % 4) + 6) (8 * (e % 4))

/-- A tag of a class. -/
def ClassSched.tag (x : ClassSched) (n : Chn) : Nat := x.tags[n.val]

/-- A tag of a class replaced. -/
def ClassSched.setTag (x : ClassSched) (n : Chn) (v : Nat) : ClassSched :=
  { x with tags := x.tags.set n.val v n.isLt }

/-- The least of some numbers, or a default. -/
def leastOr (dflt : Nat) : List Nat → Nat
  | [] => dflt
  | a :: l => l.foldl min a

/-- Rule 1 of R177 for one channel: its tag lifted when it gains eligible work. Of several channels that gain work
in one core update the lower comes first and counts as eligible for the next (DESIGN CHOICE, log entry 72). -/
def liftTag (now : Chn → Bool) (x : ClassSched) (n : Chn) : ClassSched :=
  if now n && !x.elig[n.val] then
    let others := (allChns.filter (fun m => x.elig[m.val])).map x.tag
    let m := leastOr (x.tag x.last) others
    { (x.setTag n (max (x.tag n) m)) with elig := x.elig.set n.val true n.isLt }
  else x

/-- Rules 1 and 4 of R177 and the restart of the SUBP count (R180), once per core update. -/
def settleCls (now nowB : Chn → Bool) (x : ClassSched) : ClassSched :=
  let x := { x with elig := Vector.ofFn (fun i => x.elig[i.val] && now i) }
  let x := allChns.foldl (liftTag now) x
  let x := { x with runP := Vector.ofFn (fun i => if nowB i then x.runP[i.val] else 0) }
  if allChns.any now then x else { x with tags := Vector.replicate 16 0 }

/-- The scheduler's bookkeeping brought up to date with the eligible work of every class. -/
def settle (d : Dev) : Dev :=
  let one (s : Sched) (k : Cls) := s.setCls k (settleCls (d.eligible k) (d.eligibleB k) (s.cls k))
  { d with sched := Cls.all.foldl one d.sched }

/-- Rule 5 of R177: all tags lowered when one would reach 2^47. -/
def foldTags (now : Chn → Bool) (x : ClassSched) : ClassSched :=
  if x.tags.toList.any (fun t => 2 ^ 47 ≤ t) then
    let dl := leastOr 0 ((allChns.filter now).map x.tag)
    { x with tags := x.tags.map (fun t => t - dl), folded := x.folded + dl }
  else x

/-- The provisional charge at selection (rule 2). -/
def chargeTag (k : Cls) (n : Chn) (d : Dev) : Dev :=
  let x := d.sched.cls k
  let x := foldTags (d.eligible k) (x.setTag n (x.tag n + 4096 * 64 / max 1 (d.weight n)))
  { d with sched := d.sched.setCls k { x with last := n } }

/-- A tag after the correction for `b` busy cycles (rule 3): it rises, or falls to no less than it was before
the selection; a tag that rule 4 has set below that falls no further. `before` counts from before every
subtraction of Δ. -/
def ClassSched.corrected (x : ClassSched) (n : Chn) (w before b : Nat) : Nat :=
  let t := x.tag n
  if 4096 ≤ b then t + (b - 4096) * 64 / max 1 w
  else max (min t (before - x.folded)) (t - (4096 - b) * 64 / max 1 w)

/-- The correction for a dispatch that was selected with weight `w` and ran `b` cycles. -/
def refundTag (k : Cls) (n : Chn) (w before b : Nat) (d : Dev) : Dev :=
  let x := d.sched.cls k
  { d with sched := d.sched.setCls k (foldTags (d.eligible k) (x.setTag n (x.corrected n w before b))) }

/-- The correction at the end of a dispatch of weight `w` whose tag stood at `before` (rule 3). The
busy cycles are a free value: timing is not modelled. -/
def correctTag (k : Cls) (n : Chn) (w before : Nat) (d : Dev) : Dev :=
  bump (refundTag k n w before (Config.busyCycles d.ctr) d)

/-! ### The choice (R176, R180) -/

/-- PCAP in force. -/
def Dev.pcap (d : Dev) : Nat := fld d.sched.cfg 3 0

/-- The sentence whose work of class `k` a selected channel gives, among those `ok` admits: SUBP
before SUBB, oldest first, the SUBP cap observed. -/
def Dev.chooseSent (d : Dev) (k : Cls) (n : Chn) (ok : Sentence → Bool) : Option Sentence :=
  let ss := (d.chan n).sents.filter ok
  let p := ss.find? (·.ranksP k)
  let b := ss.find? (fun s => !s.ranksP k)
  match p, b with
  | some x, some y => if d.pcap ≤ (d.sched.cls k).runP[n.val] then some y else some x
  | some x, none => some x
  | none, y => y

/-- The channel with the least tag among those `has` admits, the lower number first. -/
def leastChan (x : ClassSched) (has : Chn → Bool) : Option Chn :=
  (allChns.filter has).foldl (fun best n => match best with
    | none => some n
    | some m => if x.tag n < x.tag m then some n else some m) none

/-- Whether work of a sentence can start on one of the free engines `es`: a bound clause needs its
own core (R183). -/
def Dev.canStart (d : Dev) (n : Chn) (k : Cls) (es : List Nat) (s : Sentence) : Bool :=
  d.sentReady n k s &&
    (match k with
    | .service => d.svcBusy < 8 && !d.lc.dbgHalt
    | _ =>
      match s.job, s.clauses[s.idx]? with
      | none, some c => !(d.lc.dbgHalt && isPublic c.verb) && match d.boundCore c with
        | some b => es.contains (12 + b)
        | none => !es.isEmpty
      | _, _ => !es.isEmpty)

/-- The scheduler's pick in class `k`: channel and sentence; for a channel in OPENING, which has no sentence,
its open check. -/
def Dev.pick (d : Dev) (k : Cls) : Option (Chn × Nat) :=
  let es := k.engines.filter d.engFree
  let ok (n : Chn) (s : Sentence) := d.canStart n k es s
  let check (n : Chn) : Bool := (d.chan n).checkReady k && !es.isEmpty
  match leastChan (d.sched.cls k) (fun n => (d.chan n).sents.any (ok n) || check n) with
  | none => none
  | some n => if check n then some (n, 0) else (d.chooseSent k n (ok n)).map (fun s => (n, s.sid))

/-- The engine index a clause of class `k` is given: its bound core, or the preferred free one. -/
def Dev.engineFor (d : Dev) (k : Cls) (c : Clause) : Option Nat :=
  match d.boundCore c with
  | some b => if d.engFree (12 + b) then some (12 + b) else none
  | none => d.prefer (k.engines.filter d.engFree)

/-- The count of SUBP dispatches after one more dispatch (R180). -/
def countDispatch (k : Cls) (n : Chn) (prio : Bool) (d : Dev) : Dev :=
  let x := d.sched.cls k
  let r := if prio then (if d.eligibleB k n then x.runP[n.val] + 1 else 0) else 0
  { d with sched := d.sched.setCls k { x with runP := x.runP.set n.val r n.isLt } }

/-- One selection made (R177, R180): the tag charged, the SUBP count moved, the engine taken. -/
def selectFor (k : Cls) (n : Chn) (prio : Bool) (e : Nat) (doms : List Nat) (d : Dev) : Sel × Dev :=
  let x := d.sched.cls k
  (⟨e, d.weight n, x.tag n + x.folded, doms⟩, countDispatch k n prio (chargeTag k n d))

/-- A selection given up before its dispatch started: its charge is corrected for no cycle (R177, R193). -/
def dropSel (k : Cls) (n : Chn) (x : Sel) (d : Dev) : Dev := refundTag k n x.weight x.before 0 d

/-- The domains one channel's session needs: ring memory, both stream banks, hold-and-context
(05 R109). -/
def chanDoms (n : Nat) : List Nat := [44 + n, 92 + 2 * n, 93 + 2 * n, 124 + n]

end Sys2Proof.Machine
end

