-- ==== Sys2Proof/Machine/Sha.lean ====
section
/-!
DEFINITION. SHA-256, SHA-384 and SHA-512 with their intermediate states, HMAC, HKDF, the TLS 1.3
expand-label and the SP 800-108 counter mode. The manual names FIPS 180-4, RFC 2104, RFC 5869,
RFC 8446 and SP 800-108 (00_scope.md R18) without repeating them: the algorithms are PRESUMED from
those documents (log entry 2).
-/

namespace Sys2Proof.Machine

/-- The primes below `n` found by trial division, in rising order. -/
def primesBelow (n : Nat) : List Nat :=
  (List.range n).filter (fun p => 2 ≤ p ∧ (List.range p).all (fun d => d < 2 || p % d != 0))

/-- The largest `x < 2^k` (from `acc`) with `x^e ≤ v`, bit by bit. -/
def rootFuel (e v : Nat) : Nat → Nat → Nat
  | 0, acc => acc
  | k + 1, acc => if (acc + 2 ^ k) ^ e ≤ v then rootFuel e v k (acc + 2 ^ k) else rootFuel e v k acc

/-- The first 64 bits of the fractional part of the cube root of `p`. -/
def cbrtFrac (p : Nat) : BitVec 64 := BitVec.ofNat 64 (rootFuel 3 (p * 2 ^ 192) 70 0)

/-- The first 64 bits of the fractional part of the square root of `p`. -/
def sqrtFrac (p : Nat) : BitVec 64 := BitVec.ofNat 64 (rootFuel 2 (p * 2 ^ 128) 70 0)

/-- The eighty round constants of SHA-512: cube roots of the first eighty primes. -/
def sha512K : List (BitVec 64) := (primesBelow 410).map cbrtFrac

/-- The sixty-four round constants of SHA-256: the leading halves of the first sixty-four. -/
def sha256K : List Word := (sha512K.take 64).map (fun (k : BitVec 64) => (k >>> (32 : Nat)).setWidth 32)

/-- The eight chaining words of SHA-512 and SHA-384. -/
structure Sha512Chain where
  a : BitVec 64
  b : BitVec 64
  c : BitVec 64
  d : BitVec 64
  e : BitVec 64
  f : BitVec 64
  g : BitVec 64
  h : BitVec 64
  deriving DecidableEq, Repr

/-- The eight chaining words of SHA-256. -/
structure Sha256Chain where
  a : Word
  b : Word
  c : Word
  d : Word
  e : Word
  f : Word
  g : Word
  h : Word
  deriving DecidableEq, Repr

/-- Eight chaining words taken from a list. -/
def sha512Of (l : List (BitVec 64)) : Sha512Chain :=
  ⟨l.getD 0 0, l.getD 1 0, l.getD 2 0, l.getD 3 0, l.getD 4 0, l.getD 5 0, l.getD 6 0, l.getD 7 0⟩

/-- Eight chaining words taken from a list. -/
def sha256Of (l : List Word) : Sha256Chain :=
  ⟨l.getD 0 0, l.getD 1 0, l.getD 2 0, l.getD 3 0, l.getD 4 0, l.getD 5 0, l.getD 6 0, l.getD 7 0⟩

/-- The chaining words as a list. -/
def Sha512Chain.words (s : Sha512Chain) : List (BitVec 64) := [s.a, s.b, s.c, s.d, s.e, s.f, s.g, s.h]

/-- The chaining words as a list. -/
def Sha256Chain.words (s : Sha256Chain) : List Word := [s.a, s.b, s.c, s.d, s.e, s.f, s.g, s.h]

/-- The initial chaining value of SHA-512. -/
def sha512Iv : Sha512Chain := sha512Of ((primesBelow 20).map sqrtFrac)

/-- The initial chaining value of SHA-384: the ninth to sixteenth primes. -/
def sha384Iv : Sha512Chain := sha512Of (((primesBelow 54).drop 8).map sqrtFrac)

/-- The initial chaining value of SHA-256. -/
def sha256Iv : Sha256Chain :=
  sha256Of ((primesBelow 20).map (fun p => (sqrtFrac p >>> 32).setWidth 32))

/-- The message schedule, newest word first, extended `n` times. -/
def sha512Ext : Nat → List (BitVec 64) → List (BitVec 64)
  | 0, w => w
  | n + 1, w =>
    let x := w.getD 14 0
    let y := w.getD 1 0
    let s0 := x.rotateRight 1 ^^^ x.rotateRight 8 ^^^ (x >>> 7)
    let s1 := y.rotateRight 19 ^^^ y.rotateRight 61 ^^^ (y >>> 6)
    sha512Ext n ((w.getD 15 0 + s0 + w.getD 6 0 + s1) :: w)

/-- The message schedule, newest word first, extended `n` times. -/
def sha256Ext : Nat → List Word → List Word
  | 0, w => w
  | n + 1, w =>
    let x := w.getD 14 0
    let y := w.getD 1 0
    let s0 := x.rotateRight 7 ^^^ x.rotateRight 18 ^^^ (x >>> 3)
    let s1 := y.rotateRight 17 ^^^ y.rotateRight 19 ^^^ (y >>> 10)
    sha256Ext n ((w.getD 15 0 + s0 + w.getD 6 0 + s1) :: w)

/-- One round of SHA-512. -/
def sha512Round (s : Sha512Chain) (kw : BitVec 64) : Sha512Chain :=
  let t1 := s.h + (s.e.rotateRight 14 ^^^ s.e.rotateRight 18 ^^^ s.e.rotateRight 41)
    + ((s.e &&& s.f) ^^^ (~~~s.e &&& s.g)) + kw
  let t2 := (s.a.rotateRight 28 ^^^ s.a.rotateRight 34 ^^^ s.a.rotateRight 39)
    + ((s.a &&& s.b) ^^^ (s.a &&& s.c) ^^^ (s.b &&& s.c))
  ⟨t1 + t2, s.a, s.b, s.c, s.d + t1, s.e, s.f, s.g⟩

/-- One round of SHA-256. -/
def sha256Round (s : Sha256Chain) (kw : Word) : Sha256Chain :=
  let t1 := s.h + (s.e.rotateRight 6 ^^^ s.e.rotateRight 11 ^^^ s.e.rotateRight 25)
    + ((s.e &&& s.f) ^^^ (~~~s.e &&& s.g)) + kw
  let t2 := (s.a.rotateRight 2 ^^^ s.a.rotateRight 13 ^^^ s.a.rotateRight 22)
    + ((s.a &&& s.b) ^^^ (s.a &&& s.c) ^^^ (s.b &&& s.c))
  ⟨t1 + t2, s.a, s.b, s.c, s.d + t1, s.e, s.f, s.g⟩

/-- The compression of one 128-byte block. -/
def sha512Block (s : Sha512Chain) (blk : Bytes) : Sha512Chain :=
  let w := (chunks 8 blk).map (fun c => BitVec.ofNat 64 (beNat c))
  let sched := (sha512Ext 64 w.reverse).reverse
  let r := (List.zipWith (· + ·) sha512K sched).foldl sha512Round s
  ⟨s.a + r.a, s.b + r.b, s.c + r.c, s.d + r.d, s.e + r.e, s.f + r.f, s.g + r.g, s.h + r.h⟩

/-- The compression of one 64-byte block. -/
def sha256Block (s : Sha256Chain) (blk : Bytes) : Sha256Chain :=
  let w := (chunks 4 blk).map (fun c => BitVec.ofNat 32 (beNat c))
  let sched := (sha256Ext 48 w.reverse).reverse
  let r := (List.zipWith (· + ·) sha256K sched).foldl sha256Round s
  ⟨s.a + r.a, s.b + r.b, s.c + r.c, s.d + r.d, s.e + r.e, s.f + r.f, s.g + r.g, s.h + r.h⟩

/-- The padding of a message of `len` bytes for block size `blk` with a length field of `lf` bytes. -/
def mdPad (blk lf len : Nat) : Bytes :=
  0x80 :: zeros ((2 * blk - (len + 1 + lf) % blk) % blk) ++ natBE lf (8 * len)

/-- The chaining value after whole blocks of input. -/
def sha256Absorb (s : Sha256Chain) (bs : Bytes) : Sha256Chain := (chunks 64 bs).foldl sha256Block s

/-- The chaining value after whole blocks of input. -/
def sha512Absorb (s : Sha512Chain) (bs : Bytes) : Sha512Chain := (chunks 128 bs).foldl sha512Block s

/-- The digest bytes of a chaining value. -/
def sha256Out (s : Sha256Chain) : Bytes := s.words.flatMap (fun w => natBE 4 w.toNat)

/-- The digest bytes of a chaining value. -/
def sha512Out (s : Sha512Chain) : Bytes := s.words.flatMap (fun w => natBE 8 w.toNat)

/-- The digest from chaining value `s`, `done` bytes already absorbed and `tail` left. -/
def sha256Finish (s : Sha256Chain) (done : Nat) (tail : Bytes) : Bytes :=
  sha256Out (sha256Absorb s (tail ++ mdPad 64 8 (done + tail.length)))

/-- The 64-byte result from chaining value `s`, `done` bytes already absorbed and `tail` left. -/
def sha512Finish (s : Sha512Chain) (done : Nat) (tail : Bytes) : Bytes :=
  sha512Out (sha512Absorb s (tail ++ mdPad 128 16 (done + tail.length)))

/-- SHA-256. -/
def sha256 (m : Bytes) : Bytes := sha256Finish sha256Iv 0 m

/-- SHA-512. -/
def sha512 (m : Bytes) : Bytes := sha512Finish sha512Iv 0 m

/-- SHA-384. -/
def sha384 (m : Bytes) : Bytes := (sha512Finish sha384Iv 0 m).take 48

/-- The two hashes that HMAC and HKDF use (09_symmetric_and_hash_verbs.md R218). -/
inductive HmacHash where
  | sha256
  | sha384
  deriving DecidableEq, Repr

/-- The hash itself. -/
def HmacHash.hash : HmacHash → Bytes → Bytes
  | .sha256, m => Machine.sha256 m
  | .sha384, m => Machine.sha384 m

/-- The length of its digest. -/
def HmacHash.len : HmacHash → Nat
  | .sha256 => 32
  | .sha384 => 48

/-- The length of its block. -/
def HmacHash.block : HmacHash → Nat
  | .sha256 => 64
  | .sha384 => 128

/-- HMAC (RFC 2104). -/
def hmac (h : HmacHash) (key msg : Bytes) : Bytes :=
  let k := padTo h.block (if key.length > h.block then h.hash key else key)
  h.hash (k.map (· ^^^ 0x5c) ++ h.hash (k.map (· ^^^ 0x36) ++ msg))

/-- HKDF-Extract (RFC 5869). -/
def hkdfExtract (h : HmacHash) (salt ikm : Bytes) : Bytes := hmac h salt ikm

/-- The blocks T(i), T(i+1), … of HKDF-Expand, `n` of them. -/
def hkdfBlocks (h : HmacHash) (prk info : Bytes) : Nat → Nat → Bytes → Bytes
  | 0, _, _ => []
  | n + 1, i, t =>
    let t' := hmac h prk (t ++ info ++ [BitVec.ofNat 8 i])
    t' ++ hkdfBlocks h prk info n (i + 1) t'

/-- HKDF-Expand of `len` bytes (RFC 5869). -/
def hkdfExpand (h : HmacHash) (prk info : Bytes) (len : Nat) : Bytes :=
  (hkdfBlocks h prk info (ceilDiv len h.len) 1 []).take len

/-- The HkdfLabel structure with the given prefix (RFC 8446, section 7.1). -/
def hkdfLabel (pre : String) (label context : Bytes) (len : Nat) : Bytes :=
  let full := ascii pre ++ label
  natBE 2 len ++ [BitVec.ofNat 8 full.length] ++ full ++ [BitVec.ofNat 8 context.length] ++ context

/-- HKDF-Expand-Label with the given prefix. -/
def expandLabel (h : HmacHash) (pre : String) (secret label context : Bytes) (len : Nat) : Bytes :=
  hkdfExpand h secret (hkdfLabel pre label context len) len

/-- The blocks of the SP 800-108 counter mode with HMAC-SHA-384, `n` of them from counter `i`. -/
def kdfBlocks (key fixed : Bytes) : Nat → Nat → Bytes
  | 0, _ => []
  | n + 1, i => hmac .sha384 key (natBE 4 i ++ fixed) ++ kdfBlocks key fixed n (i + 1)

end Sys2Proof.Machine
end

