-- ==== Sys2Proof/Machine/Nvm.lean ====
section
/-!
DEFINITION. Nonvolatile memory: programming and erasing the external flash, records held in two
copies, burning OTP bits, and the key derivation (14 R450, R451; 12 R291).
-/

namespace Sys2Proof.Machine

/-- The outcome of the next flash or OTP operation and the outcomes after it; an operation beyond the
list succeeds. -/
def popOk : List Bool → Bool × List Bool
  | [] => (true, [])
  | b :: bs => (b, bs)

/-- Whether a flash answers with a density the ROM recognizes (14 R320). -/
def Flash.known (f : Flash) : Bool :=
  f.present && (f.size == 0x800000 || f.size == 0x1000000 || f.size == 0x2000000)

/-- Whether the flash can be operated: one is present and its domain has not failed (16 Table 16.4). -/
def Dev.flashUp (d : Dev) : Bool :=
  d.flash.known && !(vget d.power.doms 3 ⟨.off, false, false⟩).failed

/-- The outcome of the next flash operation on a device. -/
def Dev.outcome (d : Dev) (vs : List Bool) : Bool × List Bool :=
  let o := popOk vs
  (o.1 && d.flashUp, o.2)

/-- Torn bytes left by a failed operation. -/
def tornBytes (k n : Nat) : Bytes := (List.range n).map (fun i => Config.tornByte k i)

/-- Bytes read from the flash. -/
def Dev.flashRead (d : Dev) (a n : Nat) : Bytes := d.flash.mem.read 0xFF a n

/-- Bytes programmed; a failed program leaves torn bytes. -/
def flashProgram (a : Nat) (bs : Bytes) (ok : Bool) (d : Dev) : Dev :=
  if !d.flashUp then d
  else if ok then { d with flash := { d.flash with mem := d.flash.mem.write 0xFF a bs } }
  else bump { d with flash := { d.flash with
    mem := d.flash.mem.write 0xFF a (tornBytes d.ctr bs.length) } }

/-- `k` sectors of 4 KiB erased from address `a`. -/
def flashErase (a k : Nat) (d : Dev) : Dev :=
  if !d.flashUp then d
  else { d with flash := { d.flash with mem := d.flash.mem.wipe a (4096 * k) } }

/-- An erase that failed leaves torn bytes over the sector. -/
def flashEraseTorn (a : Nat) (d : Dev) : Dev :=
  if !d.flashUp then d
  else bump { d with flash := { d.flash with
    mem := d.flash.mem.write 0xFF a (tornBytes d.ctr 4096) } }

/-! ### Records in two copies (R450) -/

/-- Which copy counts, from the sequences of the valid copies: false for A. -/
def countingCopy : Option Nat → Option Nat → Option Bool
  | some a, some b => some (a < b)
  | some _, none => some false
  | none, some _ => some true
  | none, none => none

/-- The copy the next write replaces: true for B. -/
def targetCopy (a b : Option Nat) : Bool :=
  match countingCopy a b with
  | none => false
  | some x => !x

/-- The sequence after `n`; 0 is never written. -/
def nextSeqNo (n : Nat) : Nat := if n + 1 < 2 ^ 32 then n + 1 else 1

/-- The sequence the next write carries. -/
def writeSeq (a b : Option Nat) : Nat :=
  match countingCopy a b, a, b with
  | some false, some x, _ => nextSeqNo x
  | some true, _, some x => nextSeqNo x
  | _, _, _ => 1

/-- The erase count the next write carries, from the sequences and counts of the copies. -/
def writeErase (a b : Option Nat) (ea eb : Nat) : Nat :=
  let rep := if targetCopy a b then (b, eb) else (a, ea)
  let other := if targetCopy a b then (a, ea) else (b, eb)
  match rep.1, other.1 with
  | some _, _ => rep.2 + 1
  | none, some _ => other.2 + 1
  | none, none => 1

/-- The check word of a record: CRC-16, then its complement. -/
def crcCheck (bs : Bytes) : Bytes :=
  natBE 2 (crc16 bs).toNat ++ natBE 2 (~~~(crc16 bs)).toNat

/-- Whether a record of `n` bytes ends in its right check word. -/
def crcGood (n : Nat) (bs : Bytes) : Bool := crcCheck (bs.take n) == slice n 4 bs

/-- A record held in two copies: where they lie, how many sectors and bytes each has, when a copy is
valid, where its sequence and its erase count stand (none: the record carries no count). -/
structure TwoCopies where
  a : Nat
  b : Nat
  sectors : Nat
  len : Nat
  valid : Bytes → Bool
  seqAt : Nat
  eraseAt : Option Nat

/-- The bytes of a copy. -/
def Dev.copyBytes (d : Dev) (r : TwoCopies) (addr : Nat) : Bytes := d.flashRead addr r.len

/-- The sequence of a copy, none where it is not valid. -/
def Dev.copySeq (d : Dev) (r : TwoCopies) (addr : Nat) : Option Nat :=
  let bs := d.copyBytes r addr
  if d.flashUp && r.valid bs then some (beNat (slice r.seqAt 4 bs)) else none

/-- The copy that counts. -/
def Dev.copyNow (d : Dev) (r : TwoCopies) : Option Bytes :=
  (countingCopy (d.copySeq r r.a) (d.copySeq r r.b)).map
    (fun x => d.copyBytes r (if x then r.b else r.a))

/-- The erase count a copy carries. -/
def Dev.copyErase (d : Dev) (r : TwoCopies) (addr : Nat) : Nat :=
  match r.eraseAt with
  | some i => beNat (slice i 4 (d.copyBytes r addr))
  | none => 0

/-- A new record written to the copy that does not count; `mk` makes it from its sequence and erase
count. -/
def writeCopy (r : TwoCopies) (mk : Nat → Nat → Bytes) (ok : Bool) (d : Dev) : Dev :=
  let sa := d.copySeq r r.a
  let sb := d.copySeq r r.b
  let addr := if targetCopy sa sb then r.b else r.a
  flashProgram addr (mk (writeSeq sa sb) (writeErase sa sb (d.copyErase r r.a) (d.copyErase r r.b))) ok
    (flashErase addr r.sectors d)

/-! ### OTP (12 R279, R280) -/

/-- The outcome of burning a bit in at most three attempts. -/
def burnBit : List Bool → Bool × List Bool
  | [] => (true, [])
  | true :: l => (true, l)
  | [false] => (true, [])
  | false :: true :: l => (true, l)
  | [false, false] => (true, [])
  | false :: false :: b :: l => (b, l)

/-- The next unused epoch row (13 R307). -/
def Otp.nextRow (o : Otp) : Nat := if o.rows.any (·.used) then o.rowIdx + 1 else 0

/-- The newest used epoch row. -/
def Otp.row (o : Otp) : EpochRow :=
  o.rows.getD o.rowIdx ⟨false, 0, [], false, [], [], 0⟩

/-- The newest used epoch row changed. -/
def modRow (f : EpochRow → EpochRow) (d : Dev) : Dev :=
  { d with otp := { d.otp with rows := d.otp.rows.set d.otp.rowIdx (f d.otp.row) } }

/-- The life-cycle state held in OTP: the newest row's, or END (05 R117). -/
def Otp.lcCode (o : Otp) : Nat := if o.endFuse then 0xF else o.row.lc

/-! ### Derivation (12 R291, R292) -/

/-- KDF(K, Label, Context, L) with L in bits. -/
def kdf (key : Bytes) (label : String) (ctx : Bytes) (bits : Nat) : Bytes :=
  (kdfBlocks key (ascii label ++ [0x00] ++ ctx ++ natBE 4 bits) (ceilDiv bits 384) 1).take (bits / 8)

/-- The UID's sixteen bytes. -/
def uidBytes : Bytes := natBE 16 Config.uid.toNat

/-- Whether ROOT has been programmed. -/
def Otp.rooted (o : Otp) : Bool := o.root != []

/-- EPOCH_KEY of the newest row. -/
def Otp.epochKey (o : Otp) : Bytes :=
  kdf o.root "AY-EPOCH" [BitVec.ofNat 8 o.rowIdx, BitVec.ofNat 8 o.row.lc] 256

/-- STORE_KEK as derived at the epoch's first boot. -/
def Otp.storeKek (o : Otp) : Bytes := kdf o.epochKey "AY-STORE" uidBytes 256

/-- PROG_KEY of a measurement and version. -/
def Otp.progKey (o : Otp) (meas : Bytes) (ver : Nat) : Bytes :=
  kdf o.epochKey "AY-PROG" (meas ++ natBE 4 ver) 256

/-- HDR_KEY of a STORE_KEK. -/
def hdrKey (kek : Bytes) : Bytes := kdf kek "AY-HDR" uidBytes 256

/-- CNT_KEY of a STORE_KEK. -/
def cntKey (kek : Bytes) : Bytes := kdf kek "AY-COUNT" uidBytes 256

/-- CFG_KEY. -/
def Otp.cfgKey (o : Otp) : Bytes := kdf o.root "AY-CFG" uidBytes 256

end Sys2Proof.Machine
end

