-- ==== Sys2Proof/Machine/Keys.lean ====
section
/-!
DEFINITION. Key classes and attribute blocks, slots and their states, check 10, use budgets,
checkpoints, slot and counter records in the flash (09 R199–R204, 11 R253, R254, 12 R274–R290).
-/

namespace Sys2Proof.Machine

/-! ### Classes (Tables 09.1, 11.1) -/

/-- The length in bytes of the stored value of a class; 0 for a reserved class. -/
def classLen (c : Nat) : Nat :=
  if c = 0x10 ∨ c = 0x12 then 16
  else if c = 0x11 ∨ c = 0x13 ∨ c = 0x14 ∨ c = 0x15 ∨ c = 0x18 ∨ c = 0x1A then 32
  else if c = 0x19 ∨ c = 0x1B then 48
  else if c = 0x20 ∨ c = 0x21 ∨ c = 0x24 ∨ c = 0x25 ∨ c = 0x34 ∨ c = 0x38 then 32
  else if c = 0x22 ∨ c = 0x23 then 48
  else if c = 0x30 ∨ c = 0x31 then 64
  else if c = 0x28 then 644
  else if c = 0x29 then 964
  else if c = 0x2A then 1284
  else 0

/-- Whether a class is symmetric (Table 09.1). -/
def isSym (c : Nat) : Bool := (0x10 ≤ c && c ≤ 0x15) || (0x18 ≤ c && c ≤ 0x1B)

/-- Whether a class is asymmetric (Table 11.1). -/
def isAsym (c : Nat) : Bool := 0x20 ≤ c && c < 0x40 && classLen c != 0

/-- Whether a class is one of the RSA classes. -/
def isRsa (c : Nat) : Bool := 0x28 ≤ c && c ≤ 0x2A

/-- The usage bits a class permits (Table 09.1, R254), as a mask. -/
def classUsage (c : Nat) : Nat :=
  if c = 0x10 ∨ c = 0x11 then 0x47
  else if c = 0x12 ∨ c = 0x13 ∨ c = 0x14 then 0x43
  else if c = 0x15 then 0x30
  else if c = 0x18 ∨ c = 0x19 then 0x44
  else if c = 0x1A ∨ c = 0x1B then 0x48
  else if c = 0x20 ∨ c = 0x22 ∨ c = 0x25 ∨ (0x28 ≤ c ∧ c ≤ 0x2A) ∨ c = 0x34 then 0x01
  else 0x02

/-- The highest limit of a class. -/
def classLimit (c : Nat) : Nat :=
  if 0x12 ≤ c ∧ c ≤ 0x15 then 2 ^ 32 else 2 ^ 40 - 1

/-- Usage bit ENC, and so on (Table 09.2). -/
def uENC : Nat := 0x01
/-- Usage bit DEC. -/
def uDEC : Nat := 0x02
/-- Usage bit MAC. -/
def uMAC : Nat := 0x04
/-- Usage bit DERIVE. -/
def uDERIVE : Nat := 0x08
/-- Usage bit WRAP. -/
def uWRAP : Nat := 0x10
/-- Usage bit UNWRAP. -/
def uUNWRAP : Nat := 0x20
/-- Usage bit EXPORT. -/
def uEXPORT : Nat := 0x40
/-- Usage bit SIGN of an asymmetric class (R254). -/
def uSIGN : Nat := 0x01
/-- Usage bit AGREE of an asymmetric class (R254). -/
def uAGREE : Nat := 0x02

/-- Whether a usage mask names any bit of `m`. -/
def uses (u m : Nat) : Bool := u &&& m != 0

/-! ### Key attribute blocks (Table 09.3) -/

/-- A key attribute block read from eight bytes. -/
structure Kab where
  cls : Nat
  usage : Nat
  origin : Bool
  len : Nat
  limit : Nat
  deriving DecidableEq, Repr

/-- The block at an offset of a byte string. -/
def kabAt (bs : Bytes) (i : Nat) : Kab :=
  { cls := par8 bs i, usage := par8 bs (i + 1), origin := 128 ≤ par8 bs (i + 2)
    len := par8 bs (i + 2) % 128, limit := beNat (slice (i + 3) 5 bs) }

/-- The eight bytes of a slot's block, ORIGIN as given. -/
def kabBytes (cls usage : Nat) (origin : Bool) (limit : Nat) : Bytes :=
  [BitVec.ofNat 8 cls, BitVec.ofNat 8 usage,
   BitVec.ofNat 8 (flag origin * 128 + (if isSym cls then classLen cls / 8 else 0))] ++ natBE 5 limit

/-- Validity of a symmetric block (R201), ORIGIN apart. -/
def Kab.symBody (k : Kab) : Bool :=
  isSym k.cls && k.usage != 0 && (k.usage &&& classUsage k.cls) == k.usage
    && k.len * 8 == classLen k.cls && 1 ≤ k.limit && k.limit ≤ classLimit k.cls

/-- Validity of a symmetric block in a parameter (R201). -/
def Kab.symOk (k : Kab) : Bool := k.symBody && !k.origin

/-- Validity of an asymmetric block (R201, R254). -/
def Kab.asymOk (k : Kab) : Bool :=
  isAsym k.cls && k.usage == classUsage k.cls && k.len == 0 && !k.origin
    && 1 ≤ k.limit && k.limit ≤ classLimit k.cls

/-- The destination a block gives a slot. -/
def Kab.dest (k : Kab) (slot : Nat) : DestKey := ⟨slot, k.cls, k.usage, k.limit⟩

/-! ### Slots (Table 12.1) -/

/-- A standard persistent slot number, 0x0000 apart (R275). -/
def isStd (s : Nat) : Bool := 0 < s && s ≤ 0xEF

/-- A large persistent slot number. -/
def isLarge (s : Nat) : Bool := 0xF0 ≤ s && s ≤ 0xFF

/-- A persistent slot number. -/
def isPer (s : Nat) : Bool := isStd s || isLarge s

/-- A volatile slot number. -/
def isVol (s : Nat) : Bool := 0x400 ≤ s && s ≤ 0x7FF

/-- Whether a kind of slot may hold a class (Table 12.1). -/
def kindHolds (s c : Nat) : Bool :=
  if isLarge s then isRsa c
  else if isStd s then !isRsa c && c != 0x10 && c != 0x11
  else !isRsa c

/-- The attributes of a slot that holds an entry. -/
def KeyStore.slot (k : KeyStore) (s : Nat) : Option KeySlot :=
  if isVol s then k.vol.find? (fun x => x.slot = s) else k.per.find? (fun x => x.slot = s)

/-- Whether a slot is EMPTY: no entry, not reserved. -/
def KeyStore.empty (k : KeyStore) (s : Nat) : Bool :=
  (k.slot s).isNone && !k.reserved.contains s

/-- Whether the record area of a persistent slot has a free location (R289). -/
def KeyStore.room (k : KeyStore) (s : Nat) : Bool :=
  if isLarge s then k.largeNext < 20 else k.stdNext < 336

/-- A slot's entry changed. -/
def KeyStore.mod (k : KeyStore) (s : Nat) (f : KeySlot → KeySlot) : KeyStore :=
  { k with vol := k.vol.map (fun x => if x.slot = s then f x else x)
           per := k.per.map (fun x => if x.slot = s then f x else x) }

/-- The core's key store changed. -/
def modKs (f : KeyStore → KeyStore) (d : Dev) : Dev := { d with ks := f d.ks }

/-- The key value of a slot record in the flash, unwrapped under STORE_KEK (R284, R290): the KAB and
owner stand before it. -/
def Dev.recordPlain (d : Dev) (addr : Nat) (large : Bool) : Option Bytes :=
  keyUnwrap d.ks.kek (d.flashRead (addr + 8) (if large then 1560 else 88))

/-- The value of a key: a volatile slot's own, a persistent slot's from the cache or its record. -/
def Dev.keyValue (d : Dev) (s : Nat) : Bytes :=
  match d.ks.slot s with
  | none => []
  | some x =>
    if isVol s then x.value
    else
      match d.ks.cache.lookup s with
      | some v => v
      | none => (((d.recordPlain x.addr (isLarge s)).getD []).drop 16).take (classLen x.cls)

/-- Whether the key in a slot can be had: it is volatile, cached, or its record unwraps (R302). -/
def Dev.keyReadable (d : Dev) (s : Nat) : Bool :=
  isVol s || (d.ks.cache.lookup s).isSome || (match d.ks.slot s with
    | some x => (d.recordPlain x.addr (isLarge s)).isSome
    | none => false)

/-- A LIVE slot whose record no longer unwraps becomes UNREADABLE (R302; 12, edge ledger). -/
def dropRecord (d : Dev) (s : Nat) : Dev :=
  if d.keyReadable s || !((d.ks.slot s).any (fun x => x.st == .live)) then d
  else noteG 3 4 (modKs (fun k => k.mod s (fun x => { x with st := .unreadable })) d)

/-- The key cache after a use of a persistent slot: the entry moves to the front, 32 are kept
(R284). -/
def touchCache (s : Nat) (d : Dev) : Dev :=
  if isPer s then
    let v := d.keyValue s
    modKs (fun k => { k with cache := ((s, v) :: k.cache.filter (fun x => x.1 != s)).take 32 }) d
  else d

/-! ### Check 10 (Table 12.3a) -/

/-- A source slot a verb uses: its number, the classes the entry permits, and the usage bits of
which one must be set. -/
structure SrcReq where
  slot : Nat
  classes : List Nat
  usage : Nat
  deriving DecidableEq, Repr

/-- The slots of a clause that check 10 judges: sources in order, destination with the class it will
take, charges, and slots that must have budget left without being charged (09 R215). A class not
known before the dispatch stands as 0xFF. -/
structure SlotPlan where
  srcs : List SrcReq
  dest : Option (Nat × Nat)
  charges : List (Nat × Nat)
  remain : List Nat
  deriving DecidableEq, Repr

/-- No slot at all. -/
def SlotPlan.none : SlotPlan := ⟨[], .none, [], []⟩

/-- The class a destination block names, 0xFF where it names a reserved class. -/
def Kab.planCls (k : Kab) : Nat := if classLen k.cls = 0 then 0xFF else k.cls

/-- Row 1: the number lies in a range and is not 0x0000. -/
def slotNumOk (s : Nat) : Bool := isPer s || isVol s

/-- Rows 1 to 3 for a source. -/
def Dev.srcOk (d : Dev) (n : Chn) (r : SrcReq) : Bool :=
  slotNumOk r.slot && (isVol r.slot || d.ks.ready) &&
    match d.ks.slot r.slot with
    | some x =>
      x.st == .live && x.owner == n.val && r.classes.contains x.cls
        && (r.usage == 0 || uses x.usage r.usage) && d.keyReadable r.slot
    | none => false

/-- Rows 1, 2 and 4 for a destination; the RSA classes need a large slot (11 R256). -/
def Dev.destOk (d : Dev) (s c : Nat) : Bool :=
  slotNumOk s && (isVol s || d.ks.ready) && d.ks.empty s && kindHolds s c
    && (isVol s || d.ks.room s)

/-- The length of the key in a slot. -/
def Dev.slotLen (d : Dev) (s : Nat) : Nat := ((d.ks.slot s).map (fun k => classLen k.cls)).getD 0

/-- The counter and limit of a slot. -/
def KeyStore.budget (k : KeyStore) (s : Nat) : Nat × Nat :=
  match k.slot s with
  | some x => (x.ctr, x.limit)
  | none => (0, 0)

/-- Row 5 for a charge: the units charged to one slot by earlier charges of the clause counted. -/
def Dev.chargesOk (d : Dev) (cs : List (Nat × Nat)) : Bool :=
  cs.all (fun x =>
    let b := d.ks.budget x.1
    b.1 + ((cs.filter (fun y => y.1 = x.1)).map (·.2)).sum ≤ b.2)

/-- Check 10 (R278). -/
def Dev.check10 (d : Dev) (n : Chn) (p : SlotPlan) : Option Status :=
  if !p.srcs.all (d.srcOk n) then some .keyDenied
  else if !(match p.dest with
      | some (s, c) => d.destOk s c
      | none => true) then some .keyDenied
  else if !d.chargesOk p.charges then some .keySpent
  else if p.remain.any (fun x => (d.ks.budget x).2 ≤ (d.ks.budget x).1) then some .keySpent
  else none

/-- The sources of a refused clause whose records have been found not to unwrap. -/
def dropUnreadable (st : Status) (p : SlotPlan) (d : Dev) : Dev :=
  if st == .keyDenied then (p.srcs.map (·.slot)).foldl dropRecord d else d

/-- The persistent slots a plan names. -/
def SlotPlan.persistent (p : SlotPlan) : List Nat :=
  ((p.srcs.map (·.slot)) ++ (p.dest.map (·.1)).toList).filter isPer

/-! ### Charges and checkpoints (R285) -/

/-- The newest counter record of a slot. -/
def KeyStore.newest (k : KeyStore) (s : Nat) : Option CtrRec := k.recs.find? (fun r => r.slot = s)

/-- Whether a charge of `u` units to a slot can be made now (R285); volatile slots always. -/
def Dev.chargeNow (d : Dev) (s u : Nat) : Bool :=
  if isVol s then true
  else
    match d.ks.newest s with
    | some r => r.flags % 2 = 0 && (d.ks.budget s).1 + u ≤ r.v + 4096
    | none => false

/-- The first slot of a plan whose charge waits for a checkpoint. -/
def Dev.needsCkpt (d : Dev) (cs : List (Nat × Nat)) : Option Nat :=
  (cs.find? (fun x => !d.chargeNow x.1 x.2)).map (·.1)

/-- A checkpoint of a slot started unless one runs: its record carries the counter as it stands. -/
def startCkpt (s : Nat) (d : Dev) : Dev :=
  if d.ks.ckpts.any (fun x => x.1 == s) then d
  else modKs (fun k => { k with ckpts := k.ckpts ++ [(s, (k.budget s).1)] }) d

/-- Units charged to a slot. -/
def charge (d : Dev) (x : Nat × Nat) : Dev :=
  modKs (fun k => k.mod x.1 (fun s => { s with ctr := s.ctr + x.2 })) d

/-! ### The counter log (R289, R290) -/

/-- The base of the key store area (14 Table 14.1). -/
def ksBase : Nat := 0x20000

/-- The address of a place of the counter log. -/
def logAddr (sec pos : Nat) : Nat := ksBase + (20 + sec) * 4096 + 16 + 32 * pos

/-- A sector header: magic, erase count, sector sequence (R289). -/
def sectorHeader (erases seq : Nat) : Bytes := ascii "AYKS" ++ natBE 4 erases ++ natBE 4 seq ++ zeros 4

/-- The erase count of sector `i`'s next header: one above its own; where its header cannot be read, one above the
highest of the 36; 1 when there is none (R289). -/
def Dev.nextErase (d : Dev) (i : Nat) : Nat :=
  if d.flashRead (ksBase + 4096 * i) 4 == ascii "AYKS" then d.ks.erases.getD i 0 + 1 else d.maxErase + 1

/-- A counter record (Table 12.5). -/
def ctrRecord (kek : Bytes) (slot epoch v seq flags : Nat) : Bytes :=
  let b := natBE 2 slot ++ [BitVec.ofNat 8 flags, BitVec.ofNat 8 epoch] ++ natBE 5 v
    ++ zeros 3 ++ natBE 4 seq
  b ++ (hmac .sha384 (cntKey kek) b).take 16

/-- The sector after the current one, in ring order. -/
def KeyStore.nextSec (k : KeyStore) : Nat := (k.logSec + 1) % 16

/-- The slots whose newest record lies in the next sector: those that are copied before it is
erased. -/
def KeyStore.inNext (k : KeyStore) : List CtrRec :=
  k.recs.filter (fun r => logAddr k.nextSec 0 ≤ r.addr && r.addr < logAddr k.nextSec 127)

/-- A counter record programmed at the next place; the place is used whatever the verify says. The
index of newest records takes it when it verified. -/
def logRecord (slot v flags : Nat) (ok : Bool) (d : Dev) : Dev :=
  let k := d.ks
  let a := logAddr k.logSec k.logPos
  let d := flashProgram a (ctrRecord k.kek slot d.otp.rowIdx v (nextSeqNo k.recSeq) flags) ok d
  modKs (fun k => { k with
    logPos := k.logPos + 1, recSeq := nextSeqNo k.recSeq
    recs := if ok then ⟨slot, v, flags, a⟩ :: k.recs.filter (fun r => r.slot != slot) else k.recs }) d

/-- A record copied into the current sector, in at most `tries` attempts, while it has places. -/
def logCopyOne (r : CtrRec) : Nat → List Bool → Dev → Dev × List Bool
  | 0, vs, d => (d, vs)
  | t + 1, vs, d =>
    if 127 ≤ d.ks.logPos then (d, vs)
    else
      let o := d.outcome vs
      let d := logRecord r.slot r.v r.flags o.1 d
      if o.1 then (d, o.2) else logCopyOne r t o.2 d

/-- The newest records of the next sector copied into the current one. -/
def logCopy : List CtrRec → List Bool → Dev → Dev × List Bool
  | [], vs, d => (d, vs)
  | r :: rs, vs, d =>
    let q := logCopyOne r 2 vs d
    logCopy rs q.2 q.1

/-- The log moved into the next sector: it is erased and given its header (R289); a record that lay only there is
lost. -/
def logMove (d : Dev) : Dev :=
  let s := d.ks.nextSec
  let e := d.nextErase (20 + s)
  let a := ksBase + (20 + s) * 4096
  let d := flashProgram a (sectorHeader e (d.ks.logSeq + 1)) true (flashErase a 1 d)
  let d := modKs (fun k => { k with
    logSec := s, logPos := 0, logSeq := k.logSeq + 1, erases := k.erases.set (20 + s) e
    recs := k.recs.filter (fun r => r.addr < a || a + 4096 ≤ r.addr) }) d
  let d := if 90000 < e then raiseWhy 3 0 (noteG 3 8 d) else d
  d

/-- Room made in the counter log before a record or mark is appended (R289). -/
def logRoom (vs : List Bool) (d : Dev) : Dev × List Bool :=
  if d.ks.logPos + d.ks.inNext.length < 127 then (d, vs)
  else
    let p := logCopy d.ks.inNext vs d
    (logMove p.1, p.2)

/-- A counter record appended in at most `tries` attempts, each at the next place with the next
record sequence (R288). -/
def logAppend (slot v flags : Nat) : Nat → List Bool → Dev → Bool × Dev × List Bool
  | 0, vs, d => (false, d, vs)
  | t + 1, vs, d =>
    let r := logRoom vs d
    let o := r.1.outcome r.2
    let d := logRecord slot v flags o.1 r.1
    if o.1 then (true, d, o.2) else logAppend slot v flags t o.2 d

/-- The persistent slots that R286 gives a clean record: counter other than the newest record's, or
that record open, or none. -/
def Dev.needsClean (d : Dev) : List KeySlot :=
  d.ks.per.filter (fun x => x.st == .live &&
    match d.ks.newest x.slot with
    | none => true
    | some r => r.flags % 2 = 0 || r.v != x.ctr)

/-- Clean records written for some slots; a record that fails three times sets CKPTFAIL. Answers
whether all were written. -/
def writeClean : List KeySlot → List Bool → Dev → Bool × Dev × List Bool
  | [], vs, d => (true, d, vs)
  | x :: xs, vs, d =>
    let r := logAppend x.slot x.ctr 1 3 vs d
    let d := if r.1 then r.2.1 else noteG 3 5 r.2.1
    let q := writeClean xs r.2.2 d
    (r.1 && q.1, q.2)

/-! ### Slot records (R280, R290) -/

/-- The address of location `i` of a slot record area. -/
def slotAddr (large : Bool) (i : Nat) : Nat :=
  if large then ksBase + (10 + i / 2) * 4096 + 16 + 1568 * (i % 2)
  else ksBase + (2 + i / 42) * 4096 + 16 + 96 * (i % 42)

/-- A slot record (Table 12.5). -/
def slotRecord (kek : Bytes) (epoch owner : Nat) (dk : DestKey) (value : Bytes) : Bytes :=
  let large := isLarge dk.slot
  let plain := [BitVec.ofNat 8 owner] ++ zeros 7 ++ kabBytes dk.cls dk.usage false dk.limit
    ++ padTo (if large then 1536 else 64) value
  natBE 2 dk.slot ++ [BitVec.ofNat 8 (flag large), BitVec.ofNat 8 epoch] ++ zeros 4
    ++ keyWrap kek plain

/-- A slot record written at the next free location, retried once (R280): its address. -/
def writeSlotRecord (owner : Nat) (dk : DestKey) (value : Bytes) :
    Nat → List Bool → Dev → Option Nat × Dev × List Bool
  | 0, vs, d => (none, d, vs)
  | t + 1, vs, d =>
    if !d.ks.room dk.slot then (none, d, vs)
    else
      let large := isLarge dk.slot
      let a := slotAddr large (if large then d.ks.largeNext else d.ks.stdNext)
      let o := d.outcome vs
      let d := flashProgram a (slotRecord d.ks.kek d.otp.rowIdx owner dk value) o.1 d
      let d := modKs (fun k =>
        if large then { k with largeNext := k.largeNext + 1 } else { k with stdNext := k.stdNext + 1 }) d
      if o.1 then (some a, d, o.2) else writeSlotRecord owner dk value t o.2 d

/-- A volatile slot filled. -/
def putVolatile (owner : Nat) (dk : DestKey) (value : Bytes) (d : Dev) : Dev :=
  modKs (fun k => { k with
    vol := ⟨dk.slot, owner, dk.cls, dk.usage, dk.limit, 0, .live, value, 0⟩
      :: k.vol.filter (fun x => x.slot != dk.slot)
    reserved := k.reserved.filter (· != dk.slot) }) d

/-- A persistent slot become LIVE (R280, step 4). -/
def putPersistent (owner : Nat) (dk : DestKey) (addr : Nat) (d : Dev) : Dev :=
  modKs (fun k => { k with
    per := ⟨dk.slot, owner, dk.cls, dk.usage, dk.limit, 0, .live, [], addr⟩
      :: k.per.filter (fun x => x.slot != dk.slot)
    reserved := k.reserved.filter (· != dk.slot) }) d

/-- A reservation released: the slot stays EMPTY (R219). -/
def unreserve (s : Nat) (d : Dev) : Dev :=
  modKs (fun k => { k with reserved := k.reserved.filter (· != s) }) d

/-- A destination reserved at dispatch (R219). -/
def reserveSlot (s : Nat) (d : Dev) : Dev := modKs (fun k => { k with reserved := s :: k.reserved }) d

/-- The first `k` of the three steps of a persistent destination: record, counter record, WRITTEN bit (R280). True
when the slot became LIVE. The outcomes list serves the flash operations first, then the burn. -/
def persistSteps (k owner : Nat) (dk : DestKey) (value : Bytes) (vs burns : List Bool) (d : Dev) : Bool × Dev :=
  if k = 0 then (false, d)
  else
    match writeSlotRecord owner dk value 2 vs d with
    | (none, d, _) => (false, d)
    | (some a, d, vs) =>
      if k = 1 then (false, d)
      else
        let r := logAppend dk.slot 0 1 2 vs d
        if !r.1 || k = 2 then (false, r.2.1)
        else
          let b := burnBit burns
          if b.1 then
            (true, putPersistent owner dk a (modRow (fun x => { x with written := dk.slot :: x.written }) r.2.1))
          else (false, noteOtpErr r.2.1)

/-- The writes of a persistent destination, all three steps. -/
def writePersistent (owner : Nat) (dk : DestKey) (value : Bytes) (vs burns : List Bool) (d : Dev) : Bool × Dev :=
  persistSteps 3 owner dk value vs burns d

/-- A volatile slot emptied. -/
def emptyVolatile (s : Nat) (d : Dev) : Dev :=
  modKs (fun k => { k with vol := k.vol.filter (fun x => x.slot != s) }) d

/-- A persistent slot made RETIRED, its cache entry dropped; the bit burnt when the burn succeeds
(R281). -/
def retirePersistent (s : Nat) (burns : List Bool) (d : Dev) : Dev :=
  let d := modKs (fun k => { k.mod s (fun x => { x with st := .retired }) with
    cache := k.cache.filter (fun x => x.1 != s) }) d
  if (burnBit burns).1 then modRow (fun x => { x with retired := s :: x.retired }) d
  else noteOtpErr (modKs (fun k => { k with retiredNow := s :: k.retiredNow }) d)

/-- A slot retired or emptied. -/
def retireSlot (s : Nat) (burns : List Bool) (d : Dev) : Dev :=
  if isVol s then emptyVolatile s d else retirePersistent s burns d

/-- KSSTAT (R303): LOCK is TRANSIT during a change of epoch (13 R313); PWRITTEN is set by the ROM with the unlock. -/
def Dev.ksStat (d : Dev) : Word :=
  at_ (flag d.ks.ready) 31 ||| at_ (if d.ks.ready then 0 else if d.lc.transit then 6 else d.ks.lock) 28
    ||| at_ (flag (d.ks.ready && (d.ks.stdNext == 336 || d.ks.largeNext == 20))) 27
    ||| at_ (flag (!d.ks.ckpts.isEmpty)) 26 ||| at_ (if d.boot.boot = 1 ∨ d.boot.boot = 2 then d.otp.row.written.length else 0) 16
    ||| at_ (d.ks.vol.length + (d.ks.reserved.filter isVol).length) 0

end Sys2Proof.Machine
end

