-- ==== Sys2Proof/Machine/Drbg.lean ====
section
/-!
DEFINITION. The CTR_DRBG with AES-256 and the derivation function (09 R207; SP 800-90A, log entry 2),
and its use by the core.
-/

namespace Sys2Proof.Machine

/-- The chaining of BCC over 16-byte blocks. -/
def bcc (key : Bytes) : List Bytes → Bytes → Bytes
  | [], x => x
  | b :: bs, x => bcc key bs (aesEncrypt key (xorBytes x b))

/-- `k` blocks of output of a chain of encryptions from `x`. -/
def ofbChain (key : Bytes) : Nat → Bytes → Bytes
  | 0, _ => []
  | k + 1, x => let y := aesEncrypt key x; y ++ ofbChain key k y

/-- The derivation function to 48 bytes. -/
def drbgDf (input : Bytes) : Bytes :=
  let s := padMul 16 (natBE 4 input.length ++ natBE 4 48 ++ input ++ [0x80])
  let k0 : Bytes := (List.range 32).map (BitVec.ofNat 8)
  let part (i : Nat) := bcc k0 (chunks 16 (natBE 4 i ++ zeros 12 ++ s)) (zeros 16)
  let t := part 0 ++ part 1 ++ part 2
  ofbChain (t.take 32) 3 (slice 32 16 t)

/-- `k` blocks of the generator's counter mode from `v`, and the last counter. -/
def drbgBlocks (key : Bytes) : Nat → Nat → Bytes × Nat
  | 0, v => ([], v)
  | k + 1, v =>
    let v' := (v + 1) % 2 ^ 128
    let r := drbgBlocks key k v'
    (aesEncrypt key (natBE 16 v') ++ r.1, r.2)

/-- The update function. -/
def Drbg.update (g : Drbg) (data : Bytes) : Drbg :=
  let t := xorBytes (drbgBlocks g.key 3 (beNat g.v)).1 data
  { g with key := t.take 32, v := slice 32 16 t }

/-- Instantiation from entropy. -/
def Drbg.instantiate (entropy : Bytes) : Drbg :=
  ({ ready := true, key := zeros 32, v := zeros 16, reqs := 0 } : Drbg).update
    (drbgDf (entropy ++ Config.drbgNonce))

/-- A reseed. -/
def Drbg.reseed (g : Drbg) (entropy : Bytes) : Drbg :=
  { g.update (drbgDf entropy) with reqs := 0 }

/-- One generate request of `n` bytes with additional input. After a reseed asked for by PR the additional input
enters this step alone and not the reseed too: the manual passes it to the generate function and says no more
(DESIGN CHOICE, log entry 78). -/
def Drbg.generate (g : Drbg) (n : Nat) (add : Bytes) : Bytes × Drbg :=
  let a := if add = [] then zeros 48 else drbgDf add
  let g := if add = [] then g else g.update a
  let r := drbgBlocks g.key (ceilDiv n 16) (beNat g.v)
  let g := { g with v := natBE 16 r.2 }
  (r.1.take n, { g.update a with reqs := g.reqs + 1 })

/-- A request without prediction resistance. -/
def DrawReq.plain (n : Nat) : DrawReq := ⟨n, false, []⟩

/-- Whether the DRBG refuses entropy-dependent work (09 R207). -/
def Dev.entropyOut (d : Dev) : Bool := bit d.trouble.why 1 || !d.drbg.ready

/-- Whether a request is preceded by a reseed (09 R207). -/
def Dev.reseedDue (d : Dev) (r : DrawReq) : Bool := r.pr || 2 ^ 20 ≤ d.drbg.reqs

/-- Bits packed into bytes, first bit first; a last group of fewer than eight is dropped. -/
def bitBytes : List Bool → Bytes
  | a :: b :: c :: d :: e :: f :: g :: h :: l =>
    BitVec.ofNat 8 ([a, b, c, d, e, f, g, h].foldl (fun x y => 2 * x + y.toNat) 0) :: bitBytes l
  | _ => []

/-- A request served: the bytes, and the DRBG after it. -/
def serveDraw (r : DrawReq) (d : Dev) : Bytes × Dev :=
  let g := d.drbg.generate r.len r.add
  (g.1, { d with drbg := g.2 })

/-- An occasion of the entropy source started when none runs. -/
def startOccasion (d : Dev) : Dev :=
  if d.entropy.busy then d
  else { d with entropy := { d.entropy with busy := true, bits := [], passed := 0 } }

/-- A request reaches the DRBG (09 R207): served at once when none waits before it and no reseed is due; else it
waits in the queue, and one that comes to its head starts the occasion of its reseed. -/
def enterDraw (who : DrawFor) (r : DrawReq) (d : Dev) : Option Bytes × Dev :=
  if d.entropy.queue.isEmpty && !d.reseedDue r then
    let g := serveDraw r d
    (some g.1, g.2)
  else (none, startOccasion { d with entropy := { d.entropy with queue := d.entropy.queue ++ [(who, r)] } })

end Sys2Proof.Machine
end

