-- ==== Sys2Proof/Machine/Template.lean ====
section
/-!
DEFINITION. The templates of a running phrase: the copy taken at dispatch, the selectors, the clause a template
becomes, its place among the taken sentences (15_protocol_services.md R364–R367).
-/

namespace Sys2Proof.Machine

/-- Word `i` of template `k` of a copied phrase; word 8 is the selector word. -/
def tmWord (t : Bytes) (k i : Nat) : Word := bytesWord (slice (36 * k + 4 * i) 4 t)

/-- The selector of word `i` of template `k` (R365). -/
def tmSel (t : Bytes) (k i : Nat) : Nat := fld (tmWord t k 8) (4 * i + 3) (4 * i)

/-- The number of templates of a copied phrase. -/
def PhraseRun.count (r : PhraseRun) : Nat := r.tmpl.length / 36

/-- W2 of the record of a PHRASE: the deciding template and the input bytes consumed (R367). -/
def PhraseRun.w2 (r : PhraseRun) : Nat := r.idx * 2 ^ 28 + r.used

/-- Word `i` of a clause. -/
def Clause.word (c : Clause) : Nat → Word
  | 0 => c.w0
  | 1 => c.w1
  | 2 => c.w2
  | 3 => c.w3
  | 4 => c.w4
  | 5 => c.w5
  | 6 => c.w6
  | _ => c.w7

/-- One word of a substituted template (Table 15.3) for the PHRASE clause `u` with parameters `ps`; none for
0xC without a scratch buffer. -/
def substWord (r : PhraseRun) (u : Clause) (ps : Bytes) (k i : Nat) : Option Word :=
  let w := tmWord r.tmpl k i
  let uw := u.word i
  let s := tmSel r.tmpl k i
  if s = 0 then some w
  else if s ≤ 8 then some (bytesWord (slice (4 + 4 * (s - 1)) 4 ps))
  else if s = 9 then some (at_ (hi16 uw) 16 ||| at_ (lo16 w) 0)
  else if s = 0xA then some (at_ (hi16 w) 16 ||| at_ (lo16 uw) 0)
  else if s = 0xB then some uw
  else r.scratch.head?.map (fun h => at_ h 16 ||| at_ (lo16 w) 0)

/-- A substituted template. -/
def substTemplate (r : PhraseRun) (u : Clause) (ps : Bytes) (k : Nat) : Option Clause :=
  let g := substWord r u ps k
  match g 0, g 1, g 2, g 3, g 4, g 5, g 6, g 7 with
  | some a, some b, some c, some d, some e, some f, some h, some i => some ⟨a, b, c, d, e, f, h, i⟩
  | _, _, _, _, _, _, _, _ => none

/-- The sentence a template becomes: SUBP work of the channel, without fence. -/
def templateSent (sid psid pidx : Nat) (u : Clause) (r : PhraseRun) (c : Clause) : Sentence :=
  { sid := sid, prio := true, fence := false, clauses := [c], idx := 0, overlong := false, ringReset := false
    wait := .none, judged := false, sel := none
    parent := some
      { sid := psid, idx := pidx
        inLen := if hi16 u.w2 = 0xFFFF then some u.inLen else none, used := r.used
        cap := if hi16 u.w4 = 0xFFFE then some u.outCap else none, off := r.out.length }
    job := none }

/-- A sentence placed right behind the sentence of its phrase. -/
def placeAfter (psid : Nat) (x : Sentence) : List Sentence → List Sentence
  | [] => []
  | s :: ss => if s.sid = psid then s :: x :: ss else s :: placeAfter psid x ss

/-- What keeps a template from being a clause of its phrase: stream and record only where the phrase owns them,
within what it owns (R366). -/
def Sentence.fits (s : Sentence) (c : Clause) : Option Status :=
  match s.parent with
  | none => none
  | some p =>
    if hi16 c.w2 = 0xFFFF ∧ p.inLen = none then some .badHandle
    else if hi16 c.w4 = 0xFFFE ∧ p.cap = none then some .badHandle
    else if hi16 c.w2 = 0xFFFF ∧ p.inLen.getD 0 < p.used + c.inLen then some .badParam
    else if hi16 c.w4 = 0xFFFE ∧ p.cap.getD 0 < p.off + c.outCap then some .outFull
    else none

/-- The template of a phrase that runs or waits. -/
def Dev.childOf (d : Dev) (n : Chn) (psid : Nat) : Option Sentence :=
  (d.chan n).sents.find? (fun s => (s.parent.map (·.sid)) == some psid)

/-- A phrase goes on to template `k`: its clause becomes SUBP work of the channel, or the phrase has its result
when the templates are done or the selector 0xC finds no scratch buffer. `st` is the status of the last
template. -/
def phraseNext (n : Chn) (s : Sentence) (u : Clause) (j : Job) (r : PhraseRun) (k : Nat) (d : Dev) : Dev :=
  let ends (st : Status) (r : PhraseRun) :=
    modJob n s.sid (fun j => { j with phrase := some r, result := some ⟨st, r.out, r.w2, [], []⟩ }) d
  if r.count ≤ k then ends .ok r
  else
    let r := { r with idx := k }
    match substTemplate r u j.params k with
    | none => ends .badHandle r
    | some c =>
      modChan n (fun ch => { ch with
          sents := placeAfter s.sid (templateSent ch.nextSid s.sid s.idx u r c) ch.sents
          nextSid := ch.nextSid + 1 })
        (modJob n s.sid (fun j => { j with phrase := some r }) d)

/-- The result of a phrase a template of which has failed. -/
def phraseFails (n : Chn) (s : Sentence) (r : PhraseRun) (st : Status) (d : Dev) : Dev :=
  modJob n s.sid (fun j => { j with phrase := some r, result := some ⟨st, r.out, r.w2, [], []⟩ }) d

end Sys2Proof.Machine
end

