-- ==== Sys2Proof/Machine/Clause.lean ====
section
/-!
DEFINITION. The life of a clause: the dispatch checks (Table 06.6), the waits, the dispatch update,
segments and contexts, completion, failure, abort (06 R135–R149, R454; 08 R176–R182; 09 R202–R219;
10 R241–R246).
-/

namespace Sys2Proof.Machine

/-- The outcomes of a command. -/
abbrev Out := Host.Outcome State Fault Refusal

/-- A port shell after a reset: its captured frames are gone; SOFT keeps HLCFG (00_scope.md R15, R17), and so does the
DOM reset of D1, whose HLCFG is copied from D0 (03 R70). -/
def PortShell.reset (r : Rst) (p : PortShell) : PortShell :=
  match r with
  | .none => p
  | .shellB => { PortShell.fresh with hlcfg := p.hlcfg }
  | .soft => { PortShell.fresh with hlcfg := p.hlcfg }
  | .pin => .fresh
  | .por => .fresh

/-- What port A's shell, in D0, follows: every reset but the DOM reset of D1. -/
def Rst.ofA : Rst → Rst
  | .shellB => .none
  | r => r

/-- The state with a core that may just have made a reset. -/
def State.withDev (s : State) (d : Dev) : State :=
  { s with shell := ⟨s.shell.a.reset d.rst.ofA, s.shell.b.reset d.rst⟩, dev := { d with rst := .none } }

/-- Whether VIN, bank A or bank F is below its threshold: the power-on reset stays asserted (19 R434). -/
def Dev.inPor (d : Dev) : Bool := !d.pins.vin || d.pins.bank[0].isNone || d.pins.bank[2].isNone

/-- The state after an effect on the core: the scheduler's books follow it (08 R177), and the port shells
follow a reset it made. -/
def State.through (f : Dev → Dev) (s : State) : State := s.withDev (settle (f s.dev))

/-- A command that acts on the core; while the power-on reset is asserted nothing happens. -/
def onDev (f : Dev → Dev) (s : State) : Out := .next (if s.dev.inPor then s else s.through f)

/-- A committed write from port `p`: none commits outside RUN and STOP entry (03 R69), in END every one
is ignored (03 R82), and a tamper block ignores port A's and records VIEW (12 R301). -/
def portWrite (p : Port) (f : Dev → Dev) (d : Dev) : Dev :=
  if !d.gRun || d.otp.endFuse then d
  else if p == .A && d.lc.tamperBlock then noteLink p 6 d
  else f d

/-- A command that is a committed write from port `p`. -/
def onWrite (p : Port) (f : Dev → Dev) (s : State) : Out := onDev (portWrite p f) s

/-- A write to a register that port A alone sees: port B's is ignored and records VIEW (03 R79). -/
def aOnly (p : Port) (f : Dev → Dev) (d : Dev) : Dev :=
  match p with
  | .A => f d
  | .B => noteLink .B 6 d

/-- A command that is a committed write to a register of port A. -/
def onA (p : Port) (f : Dev → Dev) (s : State) : Out := onWrite p (aOnly p f) s

/-- A command that is a committed write to channel `n`'s page, from the port the channel is bound to. -/
def onPage (n : Chn) (f : Dev → Dev) (s : State) : Out := onDev (fun d => portWrite (d.bound n) f d) s

/-! ### What a verb is -/

/-- What a verb's checks see. -/
structure Ask where
  d : Dev
  n : Chn
  c : Clause
  ps : Bytes
  inp : Bytes
  /-- the bytes the clause needs at dispatch have been submitted (06 R147): the checks that read the
  input are made -/
  ready : Bool
  /-- what keeps a template from being a clause of its phrase (15 R366); none for other clauses -/
  fits : Option Status

/-- What a verb's work sees. -/
structure Work where
  d : Dev
  n : Chn
  c : Clause
  ps : Bytes
  inp : Bytes
  key : Bytes
  key2 : Bytes
  ctr : Nat
  rnd : Bytes
  hold : Bool
  presig : Option (Nat × Nat × Nat)
  primes : List Nat

/-- The meaning of a verb: the slots check 10 judges, its own checks (check 11), the DRBG request it
makes, its destination, the slots it takes keys from, what it changes at dispatch, the operand cells
it touches, the steps it makes (08 R173), whether it runs in rounds (11 R261), its work, and the output a
streaming verb has written before its end. -/
structure VerbSpec where
  plan : Ask → SlotPlan := fun _ => SlotPlan.none
  own : Ask → Option Status
  draw : Ask → Option DrawReq := fun _ => none
  dest : Ask → Option DestKey := fun _ => none
  atRefuse : Ask → Status → Dev → Dev := fun _ _ d => d
  atDispatch : Ask → Dev → Dev := fun _ d => d
  presig : Ask → Option (Nat × Nat × Nat) := fun _ => none
  filling : Ask → Nat := fun _ => 0
  touched : Ask → List (Nat × Nat × Nat) := fun _ => []
  steps : Ask → List Step := fun _ => []
  rounds : Ask → Bool := fun _ => false
  run : Work → JobResult
  partialOut : Work → Bytes := fun _ => []

/-- A result OK with output. -/
def okOut (out : Bytes) (w2 : Nat) : JobResult := ⟨.ok, out, w2, [], []⟩

/-- A result that fails after dispatch, having written `out`. -/
def failOut (st : Status) (out : Bytes) (w2 : Nat) : JobResult := ⟨st, out, w2, [], []⟩

/-- A step over `len` bytes, queued at the dispatch. -/
def Step.of (k : Cls) (len : Nat) : Step := ⟨k, false, len, 0, .queued, none, 0, 0, 0, false⟩

/-- A step queued once the clause's own work has come to it. -/
def Step.after (k : Cls) (len : Nat) : Step := { Step.of k len with phase := .later }

/-- The core a public-key clause claims (11 R256). -/
def Step.core : Step := { Step.of .bignum 0 with own := true }

/-! ### Fields a verb uses (09 R198) -/

/-- The forms of input a verb accepts. -/
inductive InForm where
  | no
  /-- a buffer or 0xFFFF -/
  | data
  /-- also 0xFFFC with W3 = 0 (DEDUCED, log entry 5) -/
  | data0
  deriving DecidableEq, Repr

/-- The forms of output a verb accepts. -/
inductive OutForm where
  | no
  | data
  | bufOnly
  deriving DecidableEq, Repr

/-- Whether a clause holds what R198 asks in every field: `key`, `dst`, `par` and `aad` say which fields the verb
uses. A parameter handle with W7[15:0] = 0 is BAD_PARAM for every verb: where the parameters are optional the manual
lets length 0 mean none and does not say what W6 then holds (DESIGN CHOICE, log entry 77). -/
def Clause.fieldsOk (c : Clause) (key dst : Bool) (i : InForm) (o : OutForm) (par aad : Bool) : Bool :=
  (key || c.keySlot == 0) && (dst || c.dstSlot == 0) && (aad || c.aadLen == 0)
    && (match i with
      | .no => hi16 c.w2 == 0xFFFC
      | .data => hi16 c.w2 != 0xFFFC
      | .data0 => true)
    && (match o with
      | .no => hi16 c.w4 == 0xFFFC
      | .data => hi16 c.w4 != 0xFFFC
      | .bufOnly => hi16 c.w4 < 0xFFFC)
    && (hi16 c.w6 == 0xFFFC || (par && c.parLen != 0))

/-- The first failing status of a list of checks. -/
def firstFail : List (Bool × Status) → Option Status
  | [] => none
  | (true, _) :: l => firstFail l
  | (false, s) :: _ => some s

/-- An output of exact length `len` fits W5. -/
def Clause.room (c : Clause) (len : Nat) : Bool := len ≤ c.outCap

/-! ### The dispatch checks (Table 06.6) -/

/-- Checks 4 and 5: the special handles. -/
def Clause.specials (c : Clause) : Option Status :=
  let h2 := hi16 c.w2
  let h4 := hi16 c.w4
  let h6 := hi16 c.w6
  firstFail [
    (h2 != 0xFFFE && h2 != 0xFFFD, .badHandle),
    (h4 != 0xFFFF, .badHandle),
    (h6 < 0xFFFD, .badHandle),
    (h2 < 0xFFFC || lo16 c.w2 == 0, .badParam),
    (h2 != 0xFFFC || c.inLen == 0, .badParam),
    (h4 < 0xFFFC || lo16 c.w4 == 0, .badParam),
    (h4 != 0xFFFD || (1 ≤ c.outCap && c.outCap ≤ 32768), .badParam),
    (h4 != 0xFFFC || c.outCap == 0, .badParam),
    (h6 < 0xFFFC || lo16 c.w6 == 0, .badParam),
    (h6 != 0xFFFC || c.parLen == 0, .badParam)]

/-- Check 6 for one handle: a live buffer with the current generation. -/
def Dev.liveHandle (d : Dev) (h : Nat) : Bool :=
  match d.pool.buf (h % 4096) with
  | some b => b.st == .live && h / 4096 == d.pool.gen b.first && h / 4096 != 0
  | none => false

/-- Check 7 for one handle. -/
def Dev.ownsHandle (d : Dev) (n : Chn) (h : Nat) : Bool :=
  match d.pool.buf (h % 4096) with
  | some b => b.owner == n
  | none => false

/-- Check 8 for one handle. -/
def Dev.inBuf (d : Dev) (h off len : Nat) : Bool :=
  match d.pool.buf (h % 4096) with
  | some b => off + len ≤ 512 * b.count
  | none => false

/-- Checks 6 to 8: the buffer handles. -/
def Dev.handles (d : Dev) (n : Chn) (c : Clause) : Option Status :=
  let h2 := hi16 c.w2
  let h4 := hi16 c.w4
  let h6 := hi16 c.w6
  firstFail [
    (0xFFFC ≤ h2 || d.liveHandle h2, .badHandle),
    (0xFFFC ≤ h4 || d.liveHandle h4, .badHandle),
    (0xFFFC ≤ h6 || d.liveHandle h6, .badHandle),
    (0xFFFC ≤ h2 || d.ownsHandle n h2, .notOwner),
    (0xFFFC ≤ h4 || d.ownsHandle n h4, .notOwner),
    (0xFFFC ≤ h6 || d.ownsHandle n h6, .notOwner),
    (0xFFFC ≤ h2 || d.inBuf h2 (lo16 c.w2) c.inLen, .badParam),
    (0xFFFC ≤ h4 || d.inBuf h4 (lo16 c.w4) c.outCap, .badParam),
    (0xFFFC ≤ h6 || d.inBuf h6 (lo16 c.w6) c.parLen, .badParam)]

/-- Checks 1 to 3. -/
def Clause.headChecks (c : Clause) : Option Status :=
  firstFail [(fld c.w0 19 16 == 0, .badParam), (!unassigned c.verb, .badVerb),
    (!c.usePresig || c.verb == 0x50, .badParam)]

/-- Check 9: an OUT record that can never fit. -/
def Dev.neverFits (d : Dev) (n : Chn) (c : Clause) : Option Status :=
  if hi16 c.w4 = 0xFFFE ∧ (d.chan n).rings.out.size - 4 < recBytes c.outCap then some .outFull else none

/-- Check 12: the allocation for output 0xFFFD. -/
def Dev.quotaCheck (d : Dev) (n : Chn) (c : Clause) : Option Status :=
  if hi16 c.w4 = 0xFFFD ∧ (d.select n (ceilDiv c.outCap 512)).1.isNone then some .quota else none

/-- Checks 1 to 9; `fits` is what a phrase adds for its templates. -/
def Dev.preChecks (d : Dev) (n : Chn) (c : Clause) (fits : Option Status) : Option Status :=
  c.headChecks <|> c.specials <|> d.handles n c <|> fits <|> d.neverFits n c

/-- Whether the DRBG cannot serve what a clause draws (09 R207). -/
def Dev.drawCheck (d : Dev) (r : Option DrawReq) : Option Status :=
  match r with
  | none => none
  | some _ => if d.entropyOut then some .entropy else none

/-- Whether the user area a primitive clause names is not another channel's: the owner rule, which waits and
after which the later checks are made (10 R240). -/
def Ask.area (a : Ask) : Bool := a.d.areaReady a.n a.c

/-- Every check of Table 06.6 in order. -/
def VerbSpec.judge (v : VerbSpec) (a : Ask) : Option Status :=
  a.d.preChecks a.n a.c a.fits <|> a.d.check10 a.n (v.plan a) <|> v.own a
    <|> (if a.area then a.d.drawCheck (v.draw a) <|> a.d.quotaCheck a.n a.c else none)

/-! ### Input -/

/-- Whether a range of a buffer holds a word with an uncorrectable error (07 R171). -/
def Dev.brokenIn (d : Dev) (h off len : Nat) : Bool :=
  h < 0xFFFC && 0 < len && d.pool.broken.any (fun w =>
    w < h % 4096 * 512 + off + len && h % 4096 * 512 + off < w + 4)

/-- Whether the class of a verb runs in segments (08 R181). -/
def segmented (v : Nat) : Bool :=
  match verbClass v with
  | some .cipher => true
  | some .hash => true
  | _ => false

/-- The input length up to which a clause has been given to its engine after `k` bytes; what a PHRASE owns is
read by its templates (15 R366). -/
def nextLen (c : Clause) (k : Nat) : Nat :=
  if c.verb = 0x65 then 0 else if segmented c.verb then min c.inLen (k + 4096) else c.inLen

/-- `k` more bytes of a clause's input consumed from the stream when it comes from there. -/
def consumeStream (n : Chn) (s : Sentence) (c : Clause) (k : Nat) (d : Dev) : Dev :=
  if hi16 c.w2 = 0xFFFF then
    modChan n (fun ch => { ch with stream := ch.stream.take s.source.1 s.source.2.1 k }) d
  else d

/-- The rest of a clause's stream bytes discarded as they arrive. -/
def discardStream (n : Chn) (sid idx : Nat) (d : Dev) : Dev :=
  modChan n (fun ch => { ch with stream := ch.stream.discard sid idx }) d

/-! ### Operand memory (10 R231, R241, R246) -/

/-- The cells of a slot meet a run. -/
def OpSlot.meets (s : OpSlot) (first len : Nat) : Bool := s.first < first + len && first < s.first + s.len

/-- Slots after unwriting those `gone` names, with every RESIDUE bound to an unwritten CONTEXT. -/
def unwrite (gone : OpSlot → Bool) (ss : List OpSlot) : List OpSlot :=
  let ctxs := (ss.filter (fun s => gone s && s.kind == .context)).map (·.first)
  ss.filter (fun s => !gone s && !(s.kind == .residue && ctxs.contains s.ctx))

/-- The user area of a core with other slots, unowned when none is written (R232). -/
def setArea (core : Nat) (ss : List OpSlot) (d : Dev) : Dev :=
  { d with cores := vmod d.cores core (fun b =>
      { b with slots := ss, owner := if ss.isEmpty then none else b.owner }) }

/-- The user area of a core. -/
def Dev.area (d : Dev) (core : Nat) : List OpSlot := (vget d.cores core ⟨none, [], false⟩).slots

/-- Every slot a job touched unwritten and zeroed. -/
def zeroTouched (ts : List (Nat × Nat × Nat)) (d : Dev) : Dev :=
  ts.foldl (fun d t =>
    setArea t.1 (unwrite (fun s => s.meets t.2.1 t.2.2) (d.area t.1)) d) d

/-! ### Effects at the end of a clause -/

/-- Presignatures that were being filled returned to EMPTY. -/
def unfill (k : Nat) (d : Dev) : Dev :=
  { d with presig := { d.presig with filling := d.presig.filling - k } }

/-- A record context of a channel replaced. -/
def setRec (n : Chn) (i : Nat) (r : Option RecCtx) (d : Dev) : Dev :=
  modChan n (fun c => { c with recs := vset c.recs i r }) d

/-- The record context of a channel. -/
def Dev.rec_ (d : Dev) (n : Chn) (i : Nat) : Option RecCtx := vget (d.chan n).recs i none

/-- Whether the window of a receive context has accepted a number (15 R357). -/
def RecCtx.seen (r : RecCtx) (seq : Nat) : Bool :=
  seq < r.high && (128 ≤ r.high - 1 - seq || r.window.testBit (r.high - 1 - seq))

/-- The window after accepting a number. -/
def RecCtx.accept (r : RecCtx) (seq : Nat) : RecCtx :=
  if r.high ≤ seq then
    { r with high := seq + 1, window := (r.window * 2 ^ (seq + 1 - r.high) + 1) % 2 ^ 128 }
  else { r with window := r.window ||| 2 ^ (r.high - 1 - seq) }

/-- The end of an unprotected record: the window of a DTLS context, the failure count, SPENT and
FAILED (15 R357). -/
def RecCtx.done (r : RecCtx) (seq : Nat) (auth : Bool) : RecCtx :=
  if auth then (if r.proto = 2 then r.accept seq else { r with high := max r.high (seq + 1) })
  else
    let r := { r with fails := r.fails + 1 }
    if r.limit ≤ r.fails then { r with st := .spent }
    else if r.proto = 1 then { r with st := .failed } else r

/-- Presignatures become AVAILABLE. -/
def addPresigs (ts : List (Nat × Nat × Nat)) (d : Dev) : Dev :=
  { d with presig := { d.presig with avail := d.presig.avail ++ ts } }

/-- One effect applied. -/
def applyEffect (n : Chn) (d : Dev) : Effect → Dev
  | .putKey dk v => putVolatile n.val dk v d
  | .area k ss => setArea k.val ss d
  | .recCtx i r => setRec n i r d
  | .recDone i gen seq auth =>
    match d.rec_ n i with
    | some r => if r.gen == gen then setRec n i (some (r.done seq auth)) d else d
    | none => d
  | .arm a =>
    { d with supply := { d.supply with
        arm := some a, mailbox := Vector.replicate 64 0, sealed := false, lgStat := 0 } }
  | .presig ts => addPresigs ts d
  | .retire s burns =>
    let d := retireSlot s burns d
    match d.supply.arm with
    | some a => if a.slot = s then { d with supply := { d.supply with arm := none } } else d
    | none => d

/-! ### Completion -/

/-- The class-B core of an engine id. -/
def coreOf (eng : Nat) : Option Nat := if 0x20 ≤ eng ∧ eng < 0x24 then some (eng - 0x20) else none

/-- The job area of a core released at the end of its job (10 R229); a test that waited for the job then zeroes
the user area (08 R188). -/
def releaseCore (eng : Nat) (d : Dev) : Dev :=
  match coreOf eng with
  | none => d
  | some k =>
    let test := (vget d.engines (12 + k) ⟨.quar, 0, 0, none⟩).svc == .test
    { d with cores := vmod d.cores k (fun b =>
        if test then ⟨none, [], false⟩ else { b with jobArea := false }) }

/-- CH_PROGk in the core update that posts the record of a job (10 R251); `stated` where the manual gives the
progress of the job (11 R261). -/
def progEnds (n : Chn) (eng : Nat) (ok stated : Bool) (d : Dev) : Dev :=
  match coreOf eng with
  | none => d
  | some k => modChan n (fun c => { c with prog := vmod c.prog k (fun p =>
      { p with active := false
               done := if ok then 255 else if stated then p.done else Config.freeNat d.ctr % 256 }) }) d

/-- A job on a core ends: CH_PROGk, and the job area. -/
def endProg (n : Chn) (eng : Nat) (ok stated : Bool) (d : Dev) : Dev :=
  releaseCore eng (progEnds n eng ok stated d)

/-- Output written to a buffer: its bytes, and the error marks of the words written whole gone. -/
def writePool (addr : Nat) (bs : Bytes) (d : Dev) : Dev :=
  { d with pool := { d.pool with
      mem := d.pool.mem.write 0 addr bs
      broken := d.pool.broken.filter (fun w => w < addr || addr + bs.length < w + 4) } }

/-- The output of a clause at its end, and W3[31:16] of its record (R136, R142, R161); `sid` is the sentence
whose record a template appends to. -/
def finishOut (n : Chn) (sid : Nat) (j : Job) (c : Clause) (st : Status) (out : Bytes) (w1 : Nat) (d : Dev) :
    Dev × Nat :=
  let bs := if st.failure then zeros w1 else out
  match j.dst with
  | .none => (d, c.w3hi)
  | .ring =>
    if j.outGone then (d, c.w3hi)
    else
      let w := lenWord (st == .authFail) st.failure w1
      (modRings n (fun r => r.seal w bs) d, c.w3hi)
  | .append off =>
    (modRings n (fun r => if r.openRec.any (fun o => o.sid == sid) then r.writeOpen off bs else r) d, c.w3hi)
  | .buf first off => (writePool (first * 512 + off) bs d, c.w3hi)
  | .alloc first =>
    if st.failure then (freeBuf first d, 0xFFFC)
    else (setBuf first .live (writePool (first * 512) bs d), d.pool.handle first)

/-- A sentence gone from the taken ones. -/
def removeSent (n : Chn) (sid : Nat) (d : Dev) : Dev :=
  modChan n (fun c => { c with sents := c.sents.filter (fun s => s.sid != sid) }) d

/-- The remaining clauses of a sentence SKIPPED, their stream bytes dropped, the sentence gone (R136,
R146). -/
def skipRest (n : Chn) (sid from_ : Nat) (rest : List Clause) (d : Dev) : Dev :=
  let d := (List.range rest.length).foldl (fun d i => discardStream n sid (from_ + i) d) d
  removeSent n sid (postSkipped n rest from_ d)

/-- The sentence after a record of its clause `idx` has posted; the next clause has still to be judged. -/
def advanceSent (n : Chn) (sid idx : Nat) (failed : Bool) (cs : List Clause) (d : Dev) : Dev :=
  let d := discardStream n sid idx d
  if failed then skipRest n sid (idx + 1) (cs.drop (idx + 1)) d
  else if idx + 1 < cs.length then
    modSent n sid (fun s => { s with idx := idx + 1, wait := .none, judged := false, sel := none, job := none }) d
  else removeSent n sid d

/-- The status a clause posts: OUTPUT_DISCARDED and RING_RESET replace OK (R143, R129). -/
def postedStatus (j : Job) (s : Sentence) (st : Status) : Status :=
  if st.failure then st
  else if j.outGone then .outputDiscarded
  else if s.ringReset then .ringReset else .ok

/-- A step leaves: its lane or core is released and its charge corrected, or the selection held for it is
dropped. -/
def leaveStep (n : Chn) (ok : Bool) (t : Step) (d : Dev) : Dev :=
  if t.phase == .run then endProg n t.engine ok false (correctTag t.cls n t.weight t.tagBefore d)
  else
    match t.sel with
    | some x => dropSel t.cls n x d
    | none => d

/-- A clause leaves its engine (08 R177): the charge of a running dispatch is corrected, a clause that waits on
its lane has none outstanding; a selection held for its context is dropped; the step under way leaves. -/
def leaveEngine (n : Chn) (s : Sentence) (j : Job) (d : Dev) : Dev :=
  let d := match j.step with
    | some t => leaveStep n false t d
    | none => d
  match verbClass j.verb with
  | none => d
  | some k =>
    let d := match s.sel with
      | some x => dropSel k n x d
      | none => d
    if j.phase == .run && j.onEngine && j.weight != 0 then correctTag k n j.weight j.tagBefore d else d

/-- The scratch buffers of a phrase freed (15 R366). -/
def freeScratch (hs : List Nat) (d : Dev) : Dev :=
  hs.foldl (fun d h => if d.liveHandle h then freeBuf (h % 4096) d else d) d

/-- What every end of a dispatched clause does before a record posts: the OUT ring's pointers are compared
(R128), the engine is left, output and effects are made, the reservation and the presignature places are
released. Answers the job as it then stands, and W3[31:16]. -/
def endWork (n : Chn) (s : Sentence) (j : Job) (c : Clause) (st : Status) (out : Bytes) (w1 : Nat)
    (es : List Effect) (d : Dev) : Dev × Nat :=
  let d := leaveEngine n s j d
  let fo := finishOut n ((s.parent.map (·.sid)).getD s.sid) j c st out w1 d
  let d := es.foldl (applyEffect n) fo.1
  let d := match j.dest with
    | some dk => if st.failure then unreserve dk.slot d else d
    | none => d
  let d := unfill j.filling d
  let d := if j.phase != .persist then endProg n j.engine (!st.failure) j.primes.isSome d
    else if (d.chan n).engs.contains j.engine then d
    else progEnds n j.engine (!st.failure) j.primes.isSome d
  (freeScratch ((j.phrase.map (·.scratch)).getD []) d, fo.2)

/-- The OUT ring compared before a clause that writes into it ends; the job as it stands after that. -/
def checkOut (n : Chn) (s : Sentence) (j : Job) (d : Dev) : Job × Dev :=
  match j.dst with
  | .ring =>
    let d := scrubRing n d .out
    ({ j with outGone := j.outGone || (((d.sent n s.sid).bind (·.job)).map (·.outGone)).getD false }, d)
  | .append _ => (j, scrubRing n d .out)
  | _ => (j, d)

/-- A dispatched clause of a sentence ends: output, effects, record, the rest of its sentence, in one core
update. -/
def finishRoot (n : Chn) (s : Sentence) (j : Job) (st : Status) (out : Bytes) (w2 : Nat)
    (es : List Effect) (d : Dev) : Dev :=
  match s.clauses[s.idx]? with
  | none => d
  | some c =>
    let jd := checkOut n s j d
    let st := postedStatus jd.1 s st
    let w1 := if st.failure then max j.written out.length else out.length
    let r := endWork n s jd.1 c st out w1 es jd.2
    let d := postRecord n c s.idx st j.engine w1 w2 r.2 r.1
    releaseDying n (advanceSent n s.sid s.idx st.failure s.clauses d)

/-- What a template that has ended leaves with its phrase: the output it put into the record, the stream bytes
it consumed, its scratch buffer, its status; then the phrase goes on, has its result, or, with an abort
waiting, ends (R149, 15 R366). -/
def templateEnds (n : Chn) (s : Sentence) (p : Parent) (st : Status) (out : Bytes) (used : Nat)
    (buf : Option Nat) (d : Dev) : Dev :=
  let d := removeSent n s.sid d
  match d.sent n p.sid with
  | none => d
  | some ps =>
    match ps.job, ps.clauses[ps.idx]? with
    | some j, some u =>
      match j.phrase with
      | none => d
      | some r =>
        let r := { r with used := r.used + used, out := r.out ++ out, scratch := buf.toList ++ r.scratch }
        let j := { j with phrase := some r, written := r.out.length }
        let d := modJob n p.sid (fun _ => j) d
        if j.abort then finishRoot n ps j .aborted [] r.w2 [] d
        else if st.failure then phraseFails n ps r st d
        else phraseNext n ps u j r (r.idx + 1) d
    | _, _ => d

/-- A template's clause ends: as any clause, but nothing posts and no sticky bit is set; its phrase learns how
it ended. -/
def finishTemplate (n : Chn) (s : Sentence) (p : Parent) (j : Job) (st : Status) (out : Bytes)
    (es : List Effect) (d : Dev) : Dev :=
  match s.clauses[s.idx]? with
  | none => d
  | some c =>
    let jd := checkOut n s j d
    let w1 := if st.failure then max j.written out.length else out.length
    let r := endWork n s jd.1 c st out w1 es jd.2
    let put := if hi16 c.w4 = 0xFFFE then (if st.failure then zeros w1 else out) else []
    let used := if hi16 c.w2 = 0xFFFF then (if st.failure then j.input.length else c.inLen) else 0
    let buf := if hi16 c.w4 = 0xFFFD ∧ st.failure = false then some r.2 else none
    releaseDying n (templateEnds n s p st put used buf r.1)

/-- A dispatched clause ends with a status, output, W2 and effects. -/
def finishClause (n : Chn) (s : Sentence) (j : Job) (st : Status) (out : Bytes) (w2 : Nat)
    (es : List Effect) (d : Dev) : Dev :=
  match s.parent with
  | none => finishRoot n s j st out w2 es d
  | some p => finishTemplate n s p j st out es d

/-- A clause that is not dispatched completes: its record with an engine id, the rest SKIPPED. -/
def failClause (n : Chn) (s : Sentence) (st : Status) (eng : Nat) (d : Dev) : Dev :=
  match s.clauses[s.idx]? with
  | none => d
  | some c =>
    let d := match s.sel, verbClass c.verb with
      | some x, some k => dropSel k n x d
      | _, _ => d
    match s.parent with
    | none => advanceSent n s.sid s.idx true s.clauses (postRecord n c s.idx st eng 0 0 c.w3hi d)
    | some p => templateEnds n s p st [] 0 none d

/-- The effects of a dispatched clause that is ended before its work was done: those of its failure; none at an
abort or a supply action. -/
def earlyEffects (j : Job) (st : Status) : List Effect :=
  if st == .aborted || st == .supply then [] else (j.result.map (·.bad)).getD []

/-- The operand slots a clause touched, zeroed by an abort or a supply action (10 R246). -/
def earlyZero (j : Job) (st : Status) (d : Dev) : Dev :=
  if st == .aborted || st == .supply then zeroTouched j.touched d else d

/-- The key a result puts into a persistent slot. -/
def persistentKey (es : List Effect) : Option (DestKey × Bytes) :=
  es.findSome? (fun e => match e with
    | .putKey dk v => if isPer dk.slot then some (dk, v) else none
    | _ => none)

/-- The writes of a persistent key that a channel reset meets (12 R280): the step running completes, none starts
after it. Which of the three runs is a free value, since their times are not modelled. -/
def cutPersist (n : Chn) (j : Job) (vfy burns : List Bool) (d : Dev) : Dev :=
  match j.phase, persistentKey ((j.result.map (·.good)).getD []) with
  | .persist, some k => (persistSteps (1 + Config.freeNat d.ctr % 3) n.val k.1 k.2 vfy burns (bump d)).2
  | _, _ => d

/-- One dispatched clause ended by a reset of its channel (05 R111): no record posts, the slots its job touched
are zeroed, its reservation and its presignature places are released. -/
def dropJob (n : Chn) (s : Sentence) (j : Job) (d : Dev) : Dev :=
  let d := leaveEngine n s j d
  let d := if j.phase == .persist then d else endProg n j.engine false j.primes.isSome d
  let d := zeroTouched j.touched (unfill j.filling d)
  let d := match j.dest with
    | some dk => unreserve dk.slot d
    | none => d
  freeScratch ((j.phrase.map (·.scratch)).getD []) d

/-- One sentence discarded by a reset of its channel. -/
def dropOne (n : Chn) (s : Sentence) (d : Dev) : Dev :=
  removeSent n s.sid (match s.job with
    | some j => dropJob n s j d
    | none =>
      match s.sel, (s.clauses[s.idx]?).bind (fun c => verbClass c.verb) with
      | some x, some k => dropSel k n x d
      | _, _ => d)

/-- A sentence discarded by a reset of its channel, and with a template its phrase. -/
def dropSent (n : Chn) (s : Sentence) (d : Dev) : Dev :=
  let d := dropOne n s d
  match s.parent.bind (fun p => d.sent n p.sid) with
  | some r => dropOne n r d
  | none => d

/-- The template of a phrase that runs or waits, ended with the phrase. -/
def endTemplate (n : Chn) (sid : Nat) (st : Status) (d : Dev) : Dev :=
  match d.childOf n sid with
  | none => d
  | some s =>
    match s.parent, s.job with
    | some p, some j => finishTemplate n s p j st [] (earlyEffects j st) (earlyZero j st d)
    | some _, none => failClause n s st 0xFF d
    | none, _ => d

/-- A dispatched clause ended before its work was done (ABORTED, SUPPLY, ENGINE_FAULT, NO_ENGINE,
KEY_DENIED): what it wrote zeroed; an abort or a supply action also zeroes the operand slots it
touched (10 R246). A phrase's template ends with it, and W2 of a phrase's record keeps its form (15 R367). In a
channel that is being reset no record posts (05 R111). -/
def endEarly (n : Chn) (s : Sentence) (j : Job) (st : Status) (d : Dev) : Dev :=
  if (d.chan n).state == .resetting then dropSent n s d
  else
  match s.parent, j.phrase with
  | none, some r =>
    let d := endTemplate n s.sid st (modJob n s.sid (fun j => { j with abort := false }) d)
    let j := ((d.sent n s.sid).bind (·.job)).getD j
    finishRoot n s j st [] ((j.phrase.getD r).w2) [] d
  | _, _ => finishClause n s j st [] j.input.length (earlyEffects j st) (earlyZero j st d)

/-! ### Dispatch -/

/-- The power domains a dispatch on engine index `e` needs on: the engine's, and for a core the
operand banks its job uses (08 R184, 10 R250). -/
def jobDoms (v e : Nat) (ts : List (Nat × Nat × Nat)) : List Nat :=
  if 16 ≤ e then []
  else if e < 12 then [12 + e]
  else if 0x50 ≤ v then [12 + e, 28 + 4 * (e - 12), 29 + 4 * (e - 12)]
  else
    let b := 28 + 4 * (e - 12)
    [12 + e] ++ (if ts.any (fun t => t.2.1 < 256) then [b + 2] else [])
      ++ (if ts.any (fun t => 256 < t.2.1 + t.2.2) then [b + 3] else [])

/-- A wait noted. -/
def noteWait (n : Chn) (sid : Nat) (w : Wait) (d : Dev) : Dev := modSent n sid (fun s => { s with wait := w }) d

/-- The selection held for a sentence given up: the work is eligible again, its charge corrected. -/
def giveUpSel (n : Chn) (s : Sentence) (k : Cls) (d : Dev) : Dev :=
  match s.sel with
  | some x => dropSel k n x (modSent n s.sid (fun s => { s with sel := none }) d)
  | none => d

/-- The work of a job from what has been gathered. -/
def Job.work (j : Job) (n : Chn) (c : Clause) (d : Dev) : Work :=
  { d := d, n := n, c := c, ps := j.params, inp := j.input, key := j.key, key2 := j.key2
    ctr := j.ctr, rnd := j.rnd, hold := j.hold.isSome, presig := j.presig, primes := j.primes.getD [] }

/-- Whether nothing is missing for a job's result: its input is whole, its draw has been served, its primes
are accepted. -/
def Job.whole (j : Job) (c : Clause) : Bool :=
  j.input.length == c.inLen && !j.drawing && 2 ≤ ((j.primes.map (·.length)).getD 2)

/-- The result of a job computed, when nothing is missing for it, from the core as it stands in `pre`; the free
values it drew are not drawn again (10 R235). A job that an uncorrectable word has ended keeps that result
(07 R171). -/
def settleResult (v : VerbSpec) (n : Chn) (sid : Nat) (c : Clause) (j : Job) (pre d : Dev) : Dev :=
  if j.whole c && j.result.isNone then
    bump (modSent n sid (fun s => { s with job := some { j with result := some (v.run (j.work n c pre)) } }) d)
  else modSent n sid (fun s => { s with job := some j }) d

/-- The result of a clause that an uncorrectable error reached (07 R171, 10 R248): of what its own failure would
change, only its operand slots. -/
def JobResult.faulted (r : JobResult) : JobResult :=
  { r with status := .engineFault, out := [], good := r.bad.filter isArea, bad := r.bad.filter isArea }
where
  isArea : Effect → Bool
    | .area _ _ => true
    | _ => false

/-- The failure of a clause that met an uncorrectable error in its input or parameters (07 R171). -/
def faultResult (v : VerbSpec) (n : Chn) (c : Clause) (j : Job) (pre : Dev) : JobResult :=
  let r := if j.whole c then v.run (j.work n c pre) else okOut [] 0
  { r.faulted with w2 := j.input.length }

/-- The next input of a job gathered from the core as it stood before the dispatch, `pre`; its result
computed once nothing is missing. A word with an uncorrectable error makes the result ENGINE_FAULT
(07 R171). -/
def gather (v : VerbSpec) (n : Chn) (s : Sentence) (c : Clause) (j : Job) (pre d : Dev) : Dev :=
  let k := j.input.length
  let to_ := nextLen c k
  let j := { j with input := j.input ++ pre.inputBytes n s c k to_ }
  let hit := pre.brokenIn (hi16 c.w2) (lo16 c.w2 + k) (to_ - k)
    || (k == 0 && pre.brokenIn (hi16 c.w6) (lo16 c.w6) c.parLen)
  let d := consumeStream n s c (to_ - k) (noteWait n s.sid .none d)
  if hit then
    noteUncorrectable (some n) j.engine (c.detail n)
      (modSent n s.sid (fun s => { s with job := some { j with result := some (faultResult v n c j pre) } }) d)
  else settleResult v n s.sid c j pre d

/-- Where a clause writes, its record or buffer opened in the dispatch update (R141, R161), the OUT ring's
pointers compared before (R128). -/
def openDst (n : Chn) (s : Sentence) (c : Clause) (d : Dev) : Dest × Dev :=
  let h := hi16 c.w4
  if h = 0xFFFE then
    match s.parent with
    | some p => (.append p.off, d)
    | none => (.ring, modRings n (fun r => r.openOut (recBytes c.outCap) s.sid) (scrubRing n d .out))
  else if h = 0xFFFD then
    let g := ceilDiv c.outCap 512
    match d.firstFit g with
    | some f => (.alloc f, placeBuf ⟨f, g, n, .inflight⟩ d)
    | none => (.none, d)
  else if h = 0xFFFC then (.none, d)
  else (.buf (h % 4096) (lo16 c.w4), d)

/-- CH_PROGk at dispatch, the job area taken by a service job, and the user area owned by a channel
whose primitive job will write it (10 R229, R232, R251). -/
def startProg (n : Chn) (c : Clause) (e : Nat) (d : Dev) : Dev :=
  if 12 ≤ e ∧ e < 16 then
    let k := e - 12
    let d := modChan n (fun ch => { ch with prog := vset ch.prog k ⟨true, 0, BitVec.ofNat 16 c.tag⟩ }) d
    { d with cores := vmod d.cores k (fun b =>
        if 0x50 ≤ c.verb then { b with jobArea := true } else { b with owner := b.owner <|> some n }) }
  else d

/-- The plaintext an open of a channel holds, none in ZERO mode (09 R213). -/
def Dev.holdOf (d : Dev) (n : Chn) (s : Sentence) (c : Clause) : Option Nat :=
  if d.isOpen c && (d.chan n).holdMode then some (d.openLen n s c) else none

/-- The engine id of an engine index; 0x30 where the service processor runs the clause. -/
def engIdOf (e : Nat) : Nat := if e < 16 then engId e else 0x30

/-- A dispatch on no engine: the service processor starts the clause (11 R256), or a template of class S runs on
its phrase's slot. Nothing is charged. -/
def Sel.service : Sel := ⟨17, 0, 0, []⟩

/-- The dispatch update of a clause the scheduler has selected, `x`: charges, reservation, randomness, output
place, first input, all from the core as the checks saw it. -/
def dispatchNow (v : VerbSpec) (a : Ask) (s : Sentence) (x : Sel) (d : Dev) : Dev :=
  let n := a.n
  let c := a.c
  let p := v.plan a
  let srcs := p.srcs.map (·.slot)
  let key := ((srcs.head?).map a.d.keyValue).getD []
  let key2 := ((srcs[1]?).map a.d.keyValue).getD []
  let ctr := ((p.charges.head?).map (fun x => (a.d.ks.budget x.1).1)).getD 0
  let d := modSent n s.sid (fun s => { s with sel := none }) d
  let d := srcs.foldl (fun d x => touchCache x d) d
  let d := p.charges.foldl charge d
  let dk := v.dest a
  let d := match dk with
    | some dk => reserveSlot dk.slot d
    | none => d
  let rd := match v.draw a with
    | some r => enterDraw (.clause n s.sid) r d
    | none => (some [], d)
  let d := v.atDispatch a rd.2
  let o := openDst n s c d
  let d := startProg n c x.eng o.2
  let j : Job :=
    { verb := c.verb, engine := engIdOf x.eng, phase := .run, input := []
      params := a.ps, key := key, key2 := key2, rnd := rd.1.getD [], slots := srcs, ctr := ctr, dst := o.1
      written := 0, dest := dk, hold := a.d.holdOf n s c, weight := x.weight, tagBefore := x.before
      presig := v.presig a, filling := v.filling a, touched := v.touched a, raced := false
      abort := false, outGone := false, drawing := rd.1.isNone, steps := v.steps a, runOn := false
      primes := if v.rounds a then some [] else none, phrase := none, result := none }
  gather v n s c j a.d d

/-- Whether every needed domain is on. -/
def Dev.allOn (d : Dev) (ds : List Nat) : Bool := ds.all d.domOn

/-- Dispatches are stopped by a ride-through level of 3 or more, and outside RUN (17 R401, 16). -/
def Dev.stopped (d : Dev) : Bool := 3 ≤ d.supply.level || d.power.st != .run

/-- What a verb's checks see of the next clause of a sentence. -/
def Dev.ask (d : Dev) (n : Chn) (s : Sentence) (c : Clause) : Ask :=
  { d := d, n := n, c := c, ps := d.params c
    inp := d.inputBytes n s c 0 (nextLen c 0), ready := d.streamReady n s c, fits := s.fits c }

/-- The domain of the bank an output allocation selects. -/
def Dev.allocDoms (d : Dev) (c : Clause) : List Nat :=
  if hi16 c.w4 = 0xFFFD then
    match d.firstFit (ceilDiv c.outCap 512) with
    | some f => [60 + f / 128]
    | none => []
  else []

/-- The domains a dispatch of a clause on engine index `e` needs on. -/
def VerbSpec.needs (v : VerbSpec) (a : Ask) (e : Nat) : List Nat :=
  jobDoms a.c.verb e (v.touched a) ++ a.d.allocDoms a.c

/-- The domain of a selected engine demanded on (08 R184). -/
def demandEngine (e : Nat) (d : Dev) : Dev := if e < 16 then demandOn (12 + e) d else d

/-- A selected clause is dispatched once the domains it needs are on; until then the selection is held and they
are demanded (08 R184). -/
def startSelected (v : VerbSpec) (a : Ask) (s : Sentence) (x : Sel) (d : Dev) : Dev :=
  let ds := v.needs a x.eng
  if d.allOn ds then dispatchNow v a s x d
  else
    modSent a.n s.sid (fun s => { s with sel := some { x with doms := ds }, wait := .engine })
      (demandEngine x.eng d)

/-- The next clause of a sentence, when it has verb `verb` and none of its clauses runs. -/
def Sentence.next (s : Sentence) (verb : Nat) : Option Clause :=
  match s.job, s.clauses[s.idx]? with
  | none, some c => if c.verb = verb then some c else none
  | _, _ => none

/-- The waits that are not failures and hold back a clause whose checks are judged later: stream
bytes, OUT space, the hold buffer, a core's user area. -/
def Dev.bodyWait (d : Dev) (n : Chn) (s : Sentence) (c : Clause) : Option Wait :=
  if !d.streamReady n s c then some .stream
  else if !d.outReady n s c then some .outSpace
  else if !d.holdReady n s c then some .hold
  else if !d.areaReady n c then some .userArea
  else none

/-- The selection held for a clause goes on, unless its engine has left the dispatch set (08 R185, R186). -/
def Dev.selStands (d : Dev) (x : Sel) : Bool := 16 ≤ x.eng || d.inSet x.eng

/-- The scheduler selects an engine of class `k` for a clause that is its pick: the charge, and the dispatch
when the domains are on. -/
def pickAndStart (v : VerbSpec) (a : Ask) (s : Sentence) (k : Cls) (d : Dev) : Dev :=
  if d.pick k = some (a.n, s.sid) then
    match (if k == .service then some 16 else d.engineFor k a.c) with
    | some e =>
      let r := selectFor k a.n (s.ranksP k) e [] d
      startSelected v a s r.1 r.2
    | none => noteWait a.n s.sid .engine d
  else noteWait a.n s.sid .engine d

/-- A judged clause that waits for nothing but its engine: the selection it holds goes on, or one is made; a
clause that needs none yet starts on the service processor (11 R256, 15 R366). -/
def dispatchOrWait (v : VerbSpec) (a : Ask) (s : Sentence) (d : Dev) : Dev :=
  match s.sel, d.workClass s a.c with
  | some x, _ =>
    if d.selStands x then startSelected v a s x d
    else
      match verbClass a.c.verb with
      | some k => noteWait a.n s.sid .engine (giveUpSel a.n s k d)
      | none => d
  | none, some k => pickAndStart v a s k d
  | none, none => if d.lc.dbgHalt then noteWait a.n s.sid .engine d else startSelected v a s .service d

/-- A judged clause held back by a wait: a selection it held is given up. -/
def waitWith (n : Chn) (s : Sentence) (c : Clause) (w : Wait) (d : Dev) : Dev :=
  match verbClass c.verb with
  | some k => noteWait n s.sid w (giveUpSel n s k d)
  | none => noteWait n s.sid w d

/-- Whether a clause that reaches check 10 with a persistent slot waits for KSREADY (12 R297). -/
def VerbSpec.awaitsStore (v : VerbSpec) (a : Ask) : Bool :=
  a.d.ks.unlocking && !(v.plan a).persistent.isEmpty && (a.d.preChecks a.n a.c a.fits).isNone

/-- The judgement and the dispatch of a clause (R454). -/
def judgeAndStart (v : VerbSpec) (n : Chn) (s : Sentence) (c : Clause) (d : Dev) : Dev :=
  let a := d.ask n s c
  if v.awaitsStore a then waitWith n s c .ksready d
  else
    match v.judge a with
    | some st => failClause n s st 0xFF (v.atRefuse a st (dropUnreadable st (v.plan a) d))
    | none =>
      match d.bodyWait n s c with
      | some w => waitWith n s c w d
      | none =>
        match d.needsCkpt ((v.plan a).charges.filter (fun x => isPer x.1)) with
        | some x => waitWith n s c (.checkpoint x) (startCkpt x d)
        | none => dispatchOrWait v a s d

/-- Whether a checkpoint keeps the next clause from being judged now. -/
def Sentence.holds (s : Sentence) : Bool :=
  match s.wait with
  | .checkpoint _ => true
  | _ => false

/-- The judgement and dispatch of the next clause of sentence `sid` of channel `n`, which must have that
verb. -/
def judgeNext (verb : Nat) (v : VerbSpec) (n : Chn) (sid : Nat) (d : Dev) : Dev :=
  match d.sent n sid with
  | none => d
  | some s =>
    match s.next verb with
    | some c =>
      if d.stopped || !(d.chan n).state.active || s.holds || (verbClass verb).isNone then d
      else if s.overlong then failClause n s .badParam 0xFF d
      else judgeAndStart v n s c d
    | none => d

/-- A verb command: the pointer pairs of the channel compared (06 R128), then the judgement. -/
def dispatchVerb (verb : Nat) (v : VerbSpec) (n : Chn) (sid : Nat) (d : Dev) : Dev :=
  judgeNext verb v n sid (scrubChan d n)

/-! ### NOP, FENCE and unassigned verbs (09 R206; 06 Table 06.6) -/

/-- The checks of a clause the ring controller completes. -/
def Dev.ringChecks (d : Dev) (n : Chn) (s : Sentence) (c : Clause) : Option Status :=
  d.preChecks n c (s.fits c) <|> d.check10 n SlotPlan.none
    <|> firstFail [(c.fieldsOk false false .no .no false false, .badParam)]

/-- NOP and FENCE, and the clauses check 2 refuses: the ring controller completes them (09 R206). -/
def completeInRing (verb : Nat) (n : Chn) (sid : Nat) (d : Dev) : Dev :=
  match d.sent n sid with
  | none => d
  | some s =>
    match s.next verb with
    | none => d
    | some c =>
      if d.stopped || !(d.chan n).state.active then d
      else if s.overlong then failClause n s .badParam 0xFF d
      else
        match d.ringChecks n s c with
        | some st => failClause n s st 0xFF d
        | none =>
          match s.parent with
          | some p => templateEnds n s p .ok [] 0 none d
          | none =>
            let st := if s.ringReset then .ringReset else .ok
            let d := postRecord n c s.idx st 0xFF 0 0 c.w3hi d
            advanceSent n sid s.idx false s.clauses d

end Sys2Proof.Machine
end

