-- ==== Sys2Proof/Machine/Curve.lean ====
section
/-!
DEFINITION. Modular arithmetic, the curves P-256 and P-384 with ECDSA and ECDH, X25519 and Ed25519.
The manual names FIPS 186-5, RFC 7748 and RFC 8032 (00_scope.md R18) without repeating them: the
algorithms and curve constants are PRESUMED from those documents (log entry 2).
-/

namespace Sys2Proof.Machine

/-- `b^e mod m` over the bits of the exponent, least significant first. -/
def powModBits (m : Nat) : List Bool → Nat → Nat → Nat
  | [], _, acc => acc
  | c :: cs, b, acc => powModBits m cs (b * b % m) (if c then acc * b % m else acc)

/-- `b^e mod m`. -/
def powMod (b e m : Nat) : Nat := powModBits m (natBits (e.log2 + 1) e) (b % m) (1 % m)

/-- The extended Euclidean walk: remainders `r0`, `r1` with coefficients `t0`, `t1` modulo `m`. -/
def invWalk (m : Nat) : Nat → Nat → Nat → Nat → Nat → Option Nat
  | 0, _, _, _, _ => none
  | f + 1, r0, r1, t0, t1 =>
    if r1 = 0 then (if r0 = 1 then some t0 else none)
    else invWalk m f r1 (r0 % r1) t1 ((t0 + (m - t1 % m) * (r0 / r1)) % m)

/-- The inverse of `a` modulo `m`, when there is one. -/
def invMod (a m : Nat) : Option Nat := invWalk m (2 * m.log2 + 4) m (a % m) 0 (1 % m)

/-- The difference modulo `m`. -/
def subMod (a b m : Nat) : Nat := (a + (m - b % m)) % m

/-- A short Weierstrass curve y² = x³ - 3x + b with a base point of prime order. -/
structure Curve where
  p : Nat
  b : Nat
  gx : Nat
  gy : Nat
  n : Nat
  len : Nat
  deriving DecidableEq, Repr

/-- P-256. -/
def p256 : Curve where
  p := 0xffffffff00000001000000000000000000000000ffffffffffffffffffffffff
  b := 0x5ac635d8aa3a93e7b3ebbd55769886bc651d06b0cc53b0f63bce3c3e27d2604b
  gx := 0x6b17d1f2e12c4247f8bce6e563a440f277037d812deb33a0f4a13945d898c296
  gy := 0x4fe342e2fe1a7f9b8ee7eb4a7c0f9e162bce33576b315ececbb6406837bf51f5
  n := 0xffffffff00000000ffffffffffffffffbce6faada7179e84f3b9cac2fc632551
  len := 32

/-- P-384. -/
def p384 : Curve where
  p := 2 ^ 384 - 2 ^ 128 - 2 ^ 96 + 2 ^ 32 - 1
  b := 0xb3312fa7e23ee7e4988e056be3f82d19181d9c6efe8141120314088f5013875ac656398d8a2ed19d2a85c8edd3ec2aef
  gx := 0xaa87ca22be8b05378eb1c71ef320ad746e1d3b628ba79b9859f741e082542a385502f25dbf55296c3a545e3872760ab7
  gy := 0x3617de4a96262c6f5d9e98bf9292dc29f8f41dbd289a147ce9da3113b5f0b8c00a60b1ce1d7e819d7a431d7c90ea0e5f
  n := 0xffffffffffffffffffffffffffffffffffffffffffffffffc7634d81f4372ddf581a0db248b0a77aecec196accc52973
  len := 48

/-- A point: none is the point at infinity. -/
abbrev Point := Option (Nat × Nat)

/-- The chord or tangent with slope `l`. -/
def Curve.chord (c : Curve) (l x1 y1 x2 : Nat) : Point :=
  let x3 := subMod (l * l) (x1 + x2) c.p
  some (x3, subMod (l * subMod x1 x3 c.p) y1 c.p)

/-- The sum of two points. -/
def Curve.add (c : Curve) : Point → Point → Point
  | none, q => q
  | p, none => p
  | some (x1, y1), some (x2, y2) =>
    if x1 = x2 then
      if y1 = y2 then
        (invMod (2 * y1) c.p).bind (fun i => c.chord (subMod (3 * x1 * x1) 3 c.p * i % c.p) x1 y1 x2)
      else none
    else (invMod (subMod x2 x1 c.p) c.p).bind
      (fun i => c.chord (subMod y2 y1 c.p * i % c.p) x1 y1 x2)

/-- The multiple of a point over the bits of the scalar, least significant first. -/
def Curve.mulBits (c : Curve) : List Bool → Point → Point → Point
  | [], _, acc => acc
  | b :: bs, p, acc => c.mulBits bs (c.add p p) (if b then c.add acc p else acc)

/-- The multiple of a point. -/
def Curve.mul (c : Curve) (k : Nat) (p : Point) : Point := c.mulBits (natBits (8 * c.len) k) p none

/-- The base point. -/
def Curve.g (c : Curve) : Point := some (c.gx, c.gy)

/-- The curve equation for a finite point, both coordinates reduced. -/
def Curve.on (c : Curve) (x y : Nat) : Bool :=
  x < c.p && y < c.p && (y * y % c.p == (subMod (x * x * x) (3 * x) c.p + c.b) % c.p)

/-- The uncompressed encoding 0x04 ‖ X ‖ Y (11_public_key_and_lattice.md R253). -/
def Curve.encode (c : Curve) : Point → Bytes
  | none => []
  | some (x, y) => 4 :: natBE c.len x ++ natBE c.len y

/-- A peer's point validated as R263 states: 0x04, both coordinates below p, on the curve. -/
def Curve.decode (c : Curve) (bs : Bytes) : Option (Nat × Nat) :=
  match bs with
  | t :: r =>
    let x := beNat (r.take c.len)
    let y := beNat (r.drop c.len)
    if t = 4 ∧ r.length = 2 * c.len ∧ c.on x y then some (x, y) else none
  | [] => none

/-- The x-coordinate, 0 at infinity. -/
def pointX : Point → Nat
  | none => 0
  | some (x, _) => x

/-- The leading bits of a digest as an integer, the curve's bit length of them (R256). -/
def Curve.digest (c : Curve) (h : Bytes) : Nat := beNat (h.take c.len)

/-- The ECDSA signature with nonce `k` of inverse `ki` and abscissa `r`. -/
def Curve.signWith (c : Curve) (d e r ki : Nat) : Nat := ki * (e + r * d) % c.n

/-- The invariant of R267: s · k = e + r · d modulo n. -/
def Curve.signHolds (c : Curve) (d e r k s : Nat) : Bool := s * k % c.n == (e + r * d) % c.n

/-- ECDSA verification. -/
def Curve.verify (c : Curve) (q : Nat × Nat) (e r s : Nat) : Bool :=
  if r = 0 ∨ c.n ≤ r ∨ s = 0 ∨ c.n ≤ s then false
  else
    match invMod s c.n with
    | none => false
    | some w =>
      match c.add (c.mul (e * w % c.n) c.g) (c.mul (r * w % c.n) (some q)) with
      | none => false
      | some (x, _) => x % c.n == r

/-- The field of Curve25519. -/
def p25519 : Nat := 2 ^ 255 - 19

/-- One step of the Montgomery ladder on (x2 : z2) and (x3 : z3) with base x1. -/
def ladderStep (x1 x2 z2 x3 z3 : Nat) : Nat × Nat × Nat × Nat :=
  let p := p25519
  let a := x2 + z2
  let aa := a * a % p
  let b := subMod x2 z2 p
  let bb := b * b % p
  let e := subMod aa bb p
  let da := subMod x3 z3 p * a % p
  let cb := (x3 + z3) * b % p
  let u := (da + cb) % p
  let v := subMod da cb p
  (aa * bb % p, e * (aa + 121665 * e) % p, u * u % p, x1 * (v * v % p) % p)

/-- The ladder over the scalar's bits, most significant first. -/
def ladder (x1 : Nat) : List Bool → Nat → Nat → Nat → Nat → Nat × Nat
  | [], x2, z2, _, _ => (x2, z2)
  | c :: cs, x2, z2, x3, z3 =>
    if c then
      let r := ladderStep x1 x3 z3 x2 z2
      ladder x1 cs r.2.2.1 r.2.2.2 r.1 r.2.1
    else
      let r := ladderStep x1 x2 z2 x3 z3
      ladder x1 cs r.1 r.2.1 r.2.2.1 r.2.2.2

/-- The scalar of 32 bytes with the clamping of RFC 7748. -/
def clamp (bs : Bytes) : Nat := (leNat bs % 2 ^ 254 / 8 * 8) + 2 ^ 254

/-- X25519 of scalar bytes and u-coordinate bytes. -/
def x25519 (k u : Bytes) : Bytes :=
  let x1 := leNat u % 2 ^ 255 % p25519
  let r := ladder x1 (natBits 255 (clamp k)).reverse 1 0 x1 1
  natLE 32 (r.1 * powMod r.2 (p25519 - 2) p25519 % p25519)

/-- The base u-coordinate 9. -/
def x25519Base : Bytes := natLE 32 9

/-- The constant of the Edwards curve. -/
def edD : Nat := (p25519 - 121665) * powMod 121666 (p25519 - 2) p25519 % p25519

/-- The order of the base point. -/
def edL : Nat := 2 ^ 252 + 27742317777372353535851937790883648493

/-- The sum of two points of the Edwards curve. -/
def edAdd (a b : Nat × Nat) : Nat × Nat :=
  let p := p25519
  let t := edD * (a.1 * b.1 % p) % p * (a.2 * b.2 % p) % p
  ((a.1 * b.2 + b.1 * a.2) % p * powMod (1 + t) (p - 2) p % p,
   (a.2 * b.2 + a.1 * b.1) % p * powMod (subMod 1 t p) (p - 2) p % p)

/-- The multiple of a point over the scalar's bits, least significant first. -/
def edMulBits : List Bool → Nat × Nat → Nat × Nat → Nat × Nat
  | [], _, acc => acc
  | b :: bs, q, acc => edMulBits bs (edAdd q q) (if b then edAdd acc q else acc)

/-- The multiple of a point. -/
def edMul (k : Nat) (q : Nat × Nat) : Nat × Nat := edMulBits (natBits 256 k) q (0, 1)

/-- The curve equation -x² + y² = 1 + d x² y². -/
def edOn (q : Nat × Nat) : Bool :=
  let p := p25519
  let xx := q.1 * q.1 % p
  let yy := q.2 * q.2 % p
  subMod yy xx p == (1 + edD * (xx * yy % p)) % p

/-- The x of a y with a given parity. -/
def edRecover (y : Nat) (odd : Bool) : Option Nat :=
  let p := p25519
  if p ≤ y then none
  else
    let yy := y * y % p
    let xx := subMod yy 1 p * powMod (edD * yy + 1) (p - 2) p % p
    let c := powMod xx ((p + 3) / 8) p
    let x := if c * c % p = xx then c else c * powMod 2 ((p - 1) / 4) p % p
    if x * x % p ≠ xx then none
    else if x = 0 ∧ odd then none
    else some (if (x % 2 == 1) == odd then x else (p - x) % p)

/-- A point from its 32 bytes. -/
def edDecode (bs : Bytes) : Option (Nat × Nat) :=
  let v := leNat bs
  (edRecover (v % 2 ^ 255) (v.testBit 255)).map (fun x => (x, v % 2 ^ 255))

/-- The 32 bytes of a point. -/
def edEncode (q : Nat × Nat) : Bytes := natLE 32 (q.2 + if q.1 % 2 = 1 then 2 ^ 255 else 0)

/-- The base point: y = 4/5, x even. -/
def edB : Nat × Nat :=
  let y := 4 * powMod 5 (p25519 - 2) p25519 % p25519
  ((edRecover y false).getD 0, y)

/-- The secret scalar and the prefix of a seed. -/
def edExpand (seed : Bytes) : Nat × Bytes :=
  let h := sha512 seed
  (clamp (h.take 32), h.drop 32)

/-- The public key of a seed. -/
def edPublic (seed : Bytes) : Bytes := edEncode (edMul (edExpand seed).1 edB)

/-- Ed25519 signing. -/
def edSign (seed m : Bytes) : Bytes :=
  let e := edExpand seed
  let a := edPublic seed
  let r := leNat (sha512 (e.2 ++ m)) % edL
  let rb := edEncode (edMul r edB)
  let k := leNat (sha512 (rb ++ a ++ m)) % edL
  rb ++ natLE 32 ((r + k * e.1) % edL)

/-- Ed25519 verification with the cofactored equation (11_public_key_and_lattice.md R263), on a
decoded public key. -/
def edVerify (a : Nat × Nat) (ab m sig : Bytes) : Bool :=
  match edDecode (sig.take 32) with
  | none => false
  | some r =>
    let s := leNat (sig.drop 32)
    if edL ≤ s then false
    else
      let k := leNat (sha512 (sig.take 32 ++ ab ++ m)) % edL
      edMul (8 * s) edB == edAdd (edMul 8 r) (edMul 8 (edMul k a))

end Sys2Proof.Machine
end

