-- ==== Sys2Proof/Machine/Keccak.lean ====
section
/-!
DEFINITION. SHA3-256, SHA3-512, SHAKE128 and SHAKE256 with the sponge state. The manual names
FIPS 202 (00_scope.md R18) without repeating it: the algorithm is PRESUMED from it (log entry 2).
-/

namespace Sys2Proof.Machine

/-- The twenty-five lanes of the sponge, lane (x, y) at place x + 5 y. -/
abbrev Keccak := List (BitVec 64)

/-- The empty sponge. -/
def keccakZero : Keccak := List.replicate 25 0

/-- The lane at (x, y), both taken modulo 5. -/
def klane (s : Keccak) (x y : Nat) : BitVec 64 := s.getD (x % 5 + 5 * (y % 5)) 0

/-- The places of the lanes, x running first. -/
def kplaces : List (Nat × Nat) := (List.range 25).map (fun i => (i % 5, i / 5))

/-- The rotation offset of each lane: the walk (x, y) to (y, 2x + 3y) with triangular offsets. -/
def krhoWalk : Nat → Nat → Nat → Nat → List ((Nat × Nat) × Nat)
  | 0, _, _, _ => []
  | n + 1, t, x, y =>
    ((x, y), ((t + 1) * (t + 2) / 2) % 64) :: krhoWalk n (t + 1) y ((2 * x + 3 * y) % 5)

/-- The rotation offset table in lane order. -/
def krho : List Nat :=
  kplaces.map (fun p => ((krhoWalk 24 0 1 0).lookup p).getD 0)

/-- One bit of the round-constant generator x^8 + x^6 + x^5 + x^4 + 1. -/
def klfsrStep (r : Nat) : Nat := if r ≥ 128 then ((2 * r) ^^^ 0x71) % 256 else 2 * r

/-- Round constants: seven generator bits per round land at bit places 2^j - 1. -/
def krcBits : Nat → Nat → Nat → BitVec 64 → BitVec 64 × Nat
  | 0, _, r, acc => (acc, r)
  | n + 1, j, r, acc =>
    krcBits n (j + 1) (klfsrStep r)
      (if r % 2 = 1 then acc ^^^ (1#64 <<< (2 ^ j - 1)) else acc)

/-- `n` round constants from generator state `r`. -/
def krcs : Nat → Nat → List (BitVec 64)
  | 0, _ => []
  | n + 1, r => let p := krcBits 7 0 r 0; p.1 :: krcs n p.2

/-- The twenty-four round constants. -/
def krc : List (BitVec 64) := krcs 24 1

/-- The column mixing theta. -/
def ktheta (s : Keccak) : Keccak :=
  let c := (List.range 5).map (fun x =>
    klane s x 0 ^^^ klane s x 1 ^^^ klane s x 2 ^^^ klane s x 3 ^^^ klane s x 4)
  let d := (List.range 5).map (fun x =>
    c.getD ((x + 4) % 5) 0 ^^^ (c.getD ((x + 1) % 5) 0).rotateLeft 1)
  kplaces.map (fun p => klane s p.1 p.2 ^^^ d.getD p.1 0)

/-- The lane rotation and transposition rho and pi. -/
def krhopi (s : Keccak) : Keccak :=
  let r := List.zipWith (fun l n => l.rotateLeft n) s krho
  kplaces.map (fun p => klane r (p.1 + 3 * p.2) p.1)

/-- The row step chi and the constant iota. -/
def kchi (s : Keccak) (rc : BitVec 64) : Keccak :=
  let t := kplaces.map (fun p =>
    klane s p.1 p.2 ^^^ (~~~(klane s (p.1 + 1) p.2) &&& klane s (p.1 + 2) p.2))
  match t with
  | [] => []
  | a :: r => (a ^^^ rc) :: r

/-- The permutation. -/
def keccakF (s : Keccak) : Keccak := krc.foldl (fun s rc => kchi (krhopi (ktheta s)) rc) s

/-- A block of at most 200 bytes exclusive-ored into the lanes. -/
def kxor (s : Keccak) (blk : Bytes) : Keccak :=
  List.zipWith (fun l c => l ^^^ BitVec.ofNat 64 (leNat c)) s (chunks 8 (padTo 200 blk))

/-- Whole blocks of `rate` bytes absorbed. -/
def kabsorb (rate : Nat) (s : Keccak) (bs : Bytes) : Keccak :=
  (chunks rate bs).foldl (fun s b => keccakF (kxor s b)) s

/-- The bytes of the lanes. -/
def kbytes (s : Keccak) : Bytes := s.flatMap (fun l => natLE 8 l.toNat)

/-- The padding after `n` bytes for the suffix byte `suf`. -/
def kpad (rate : Nat) (suf : Byte) (n : Nat) : Bytes :=
  let z := rate - n % rate
  if z = 1 then [suf ||| 0x80] else suf :: zeros (z - 2) ++ [0x80]

/-- Squeezed output, `n` blocks of `rate` bytes. -/
def ksqueeze (rate : Nat) : Nat → Keccak → Bytes
  | 0, _ => []
  | n + 1, s => (kbytes s).take rate ++ ksqueeze rate n (keccakF s)

/-- The output of `len` bytes from a sponge that has absorbed whole blocks, with `tail` left. -/
def kfinish (rate : Nat) (suf : Byte) (len : Nat) (s : Keccak) (tail : Bytes) : Bytes :=
  (ksqueeze rate (ceilDiv len rate) (kabsorb rate s (tail ++ kpad rate suf tail.length))).take len

/-- SHA3-256. -/
def sha3_256 (m : Bytes) : Bytes := kfinish 136 0x06 32 keccakZero m

/-- SHA3-512. -/
def sha3_512 (m : Bytes) : Bytes := kfinish 72 0x06 64 keccakZero m

/-- SHAKE128 of `len` bytes. -/
def shake128 (len : Nat) (m : Bytes) : Bytes := kfinish 168 0x1f len keccakZero m

/-- SHAKE256 of `len` bytes. -/
def shake256 (len : Nat) (m : Bytes) : Bytes := kfinish 136 0x1f len keccakZero m

end Sys2Proof.Machine
end

