-- ==== Sys2Proof/Machine/Lattice.lean ====
section
/-!
DEFINITION. The polynomial arithmetic of ML-KEM and ML-DSA: NTT, inverse NTT, products, sampling,
then ML-KEM-768/1024 and ML-DSA-65. The manual names FIPS 203 and FIPS 204 (00_scope.md R18,
10_big_number_engine.md R237, R243, R244) without repeating them: the algorithms are PRESUMED from
those documents (log entry 2).
-/

namespace Sys2Proof.Machine

/-- A polynomial of 256 coefficients, coefficient 0 first. -/
abbrev Poly := List Nat

/-- The two rings of R237. -/
inductive Ring where
  | kem
  | dsa
  deriving DecidableEq, Repr

/-- The modulus q of a ring. -/
def Ring.q : Ring → Nat
  | .kem => 3329
  | .dsa => 8380417

/-- The ring code of R237. -/
def Ring.ofCode (c : Nat) : Option Ring :=
  if c = 1 then some .kem else if c = 2 then some .dsa else none

/-- The number of layers of the transform. -/
def Ring.layers : Ring → Nat
  | .kem => 7
  | .dsa => 8

/-- The root of unity of the transform. -/
def Ring.root : Ring → Nat
  | .kem => 17
  | .dsa => 1753

/-- The `n` low bits of `k` reversed. -/
def bitrev (n k : Nat) : Nat := bitsNat (natBits n k).reverse

/-- `b^e mod m` by plain recursion, for small exponents. -/
def smallPow (b m : Nat) : Nat → Nat
  | 0 => 1 % m
  | e + 1 => smallPow b m e * b % m

/-- The factor of block `k` of the transform. -/
def Ring.zeta (r : Ring) (k : Nat) : Nat := smallPow r.root r.q (bitrev r.layers k)

/-- Coefficient-wise combination modulo q. -/
def polyZip (f : Nat → Nat → Nat) (a b : Poly) : Poly := List.zipWith f a b

/-- The sum of two polynomials. -/
def polyAdd (r : Ring) (a b : Poly) : Poly := polyZip (fun x y => (x + y) % r.q) a b

/-- The difference of two polynomials. -/
def polySub (r : Ring) (a b : Poly) : Poly :=
  polyZip (fun x y => (x + (r.q - y % r.q)) % r.q) a b

/-- A polynomial times a constant. -/
def polyScale (r : Ring) (c : Nat) (a : Poly) : Poly := a.map (fun x => c * x % r.q)

/-- The layers of the transform from block `k` downwards. -/
def nttGo (r : Ring) : Nat → Nat → Poly → Poly
  | 0, _, a => a
  | n + 1, k, a =>
    let h := a.length / 2
    let t := polyScale r (r.zeta k) (a.drop h)
    nttGo r n (2 * k) (polyAdd r (a.take h) t) ++ nttGo r n (2 * k + 1) (polySub r (a.take h) t)

/-- The forward transform (R243). -/
def ntt (r : Ring) (a : Poly) : Poly := nttGo r r.layers 1 a

/-- The inverse of `a` modulo the ring's prime. -/
def Ring.inv (r : Ring) (a : Nat) : Nat := bitsPow r.q (natBits 24 (r.q - 2)) a 1
where
  /-- Square and multiply over bits, least significant first. -/
  bitsPow (m : Nat) : List Bool → Nat → Nat → Nat
    | [], _, acc => acc
    | c :: cs, b, acc => bitsPow m cs (b * b % m) (if c then acc * b % m else acc)

/-- The layers of the inverse transform, without the scaling. -/
def inttGo (r : Ring) : Nat → Nat → Poly → Poly
  | 0, _, a => a
  | n + 1, k, a =>
    let h := a.length / 2
    let lo := inttGo r n (2 * k) (a.take h)
    let hi := inttGo r n (2 * k + 1) (a.drop h)
    polyAdd r lo hi ++ polyScale r (r.inv (r.zeta k)) (polySub r lo hi)

/-- The inverse transform with the final scaling (R243). -/
def intt (r : Ring) (a : Poly) : Poly :=
  polyScale r (r.inv (2 ^ r.layers)) (inttGo r r.layers 1 a)

/-- The products of degree-1 residues of ML-KEM, pair by pair from pair `i`. -/
def baseMul : Nat → Poly → Poly → Poly
  | i, a0 :: a1 :: as, b0 :: b1 :: bs =>
    let g := smallPow 17 3329 (2 * bitrev 7 i + 1)
    (a0 * b0 + a1 * b1 % 3329 * g) % 3329 :: (a0 * b1 + a1 * b0) % 3329 :: baseMul (i + 1) as bs
  | _, _, _ => []

/-- The product in the transform domain (R243). -/
def nttMul (r : Ring) (a b : Poly) : Poly :=
  match r with
  | .kem => baseMul 0 a b
  | .dsa => polyZip (fun x y => x * y % 8380417) a b

/-- The sum of products of two runs of polynomials. -/
def nttDot (r : Ring) (a b : List Poly) : Poly :=
  (List.zipWith (nttMul r) a b).foldl (polyAdd r) (List.replicate 256 0)

/-- Rejection sampling of at most `n` values from pieces of a stream. -/
def takeSome {α : Type} (n : Nat) (l : List (Option α)) : List α := (l.filterMap id).take n

/-- The two candidates of three bytes for SampleNTT. -/
def kemCands : List Bytes → List (Option Nat)
  | [] => []
  | c :: cs =>
    let v := leNat c
    let d1 := v % 4096
    let d2 := v / 4096
    (if d1 < 3329 then some d1 else none) :: (if d2 < 3329 then some d2 else none) :: kemCands cs

/-- The candidate of three bytes for RejNTTPoly. -/
def dsaCand (c : Bytes) : Option Nat :=
  let v := leNat c % 2 ^ 23
  if v < 8380417 then some v else none

/-- The two candidates of a byte for RejBoundedPoly. -/
def boundedCands (eta : Nat) (b : Byte) : List (Option Nat) :=
  let f (v : Nat) : Option Nat :=
    if eta = 2 then (if v < 15 then some ((2 + 8380417 - v % 5) % 8380417) else none)
    else (if v < 9 then some ((4 + 8380417 - v) % 8380417) else none)
  [f (b.toNat % 16), f (b.toNat / 16)]

/-- SampleNTT and RejNTTPoly: uniform coefficients from SHAKE128 (R244). -/
def sampleUniform (r : Ring) (seed : Bytes) : Poly :=
  match r with
  | .kem => takeSome 256 (kemCands (chunks 3 (shake128 (168 * 16) seed)))
  | .dsa => takeSome 256 ((chunks 3 (shake128 (168 * 16) seed)).map dsaCand)

/-- SamplePolyCBD of a string of bits (R244). -/
def cbdBits (eta : Nat) : Nat → List Bool → Poly
  | 0, _ => []
  | n + 1, bs =>
    let x := ((bs.take eta).filter id).length
    let y := (((bs.drop eta).take eta).filter id).length
    (x + 3329 - y) % 3329 :: cbdBits eta n (bs.drop (2 * eta))

/-- SamplePolyCBD through PRF (R244). -/
def sampleCbd (eta : Nat) (seed : Bytes) : Poly :=
  cbdBits eta 256 (bytesBits (shake256 (64 * eta) seed))

/-- RejBoundedPoly (R244). -/
def sampleBounded (eta : Nat) (seed : Bytes) : Poly :=
  takeSome 256 ((shake256 (136 * 12) seed).flatMap (boundedCands eta))

/-- Numbers packed in `w` bits each, least significant bit first. -/
def packBits (w : Nat) (a : List Nat) : Bytes :=
  (natLE (ceilDiv (w * a.length) 8) (a.foldr (fun x acc => x % 2 ^ w + 2 ^ w * acc) 0))

/-- `n` numbers of `w` bits each. -/
def unpackNat (w : Nat) : Nat → Nat → List Nat
  | 0, _ => []
  | n + 1, v => v % 2 ^ w :: unpackNat w n (v / 2 ^ w)

/-- 256 numbers of `w` bits each from bytes. -/
def unpackBits (w : Nat) (bs : Bytes) : Poly := unpackNat w 256 (leNat bs)

/-! ### ML-KEM -/

/-- The parameters of ML-KEM-768 and ML-KEM-1024; η1 = η2 = 2 for both. -/
structure KemParams where
  k : Nat
  du : Nat
  dv : Nat
  deriving DecidableEq, Repr

/-- ML-KEM-768. -/
def kem768 : KemParams := ⟨3, 10, 4⟩

/-- ML-KEM-1024. -/
def kem1024 : KemParams := ⟨4, 11, 5⟩

/-- The length of an encapsulation key. -/
def KemParams.ekLen (p : KemParams) : Nat := 384 * p.k + 32

/-- The length of a ciphertext. -/
def KemParams.ctLen (p : KemParams) : Nat := 32 * (p.du * p.k + p.dv)

/-- Row `i` of the matrix, transposed or not, from ρ. -/
def kemRow (p : KemParams) (rho : Bytes) (tr : Bool) (i : Nat) : List Poly :=
  (List.range p.k).map (fun j =>
    let ij : Bytes := if tr then [BitVec.ofNat 8 i, BitVec.ofNat 8 j]
      else [BitVec.ofNat 8 j, BitVec.ofNat 8 i]
    sampleUniform .kem (rho ++ ij))

/-- A run of `n` CBD polynomials with nonces from `c`. -/
def kemNoise (seed : Bytes) (n c : Nat) : List Poly :=
  (List.range n).map (fun i => sampleCbd 2 (seed ++ [BitVec.ofNat 8 (c + i)]))

/-- An expanded ML-KEM key. -/
structure KemKey where
  ek : Bytes
  s : List Poly
  h : Bytes
  z : Bytes
  deriving DecidableEq, Repr

/-- ML-KEM.KeyGen_internal (FIPS 203). -/
def kemKeyGen (p : KemParams) (d z : Bytes) : KemKey :=
  let g := sha3_512 (d ++ [BitVec.ofNat 8 p.k])
  let rho := g.take 32
  let s := (kemNoise (g.drop 32) p.k 0).map (ntt .kem)
  let e := (kemNoise (g.drop 32) p.k p.k).map (ntt .kem)
  let t := (List.range p.k).map (fun i =>
    polyAdd .kem (nttDot .kem (kemRow p rho false i) s) (e.getD i []))
  let ek := t.flatMap (packBits 12) ++ rho
  { ek := ek, s := s, h := sha3_256 ek, z := z }

/-- Compression to `d` bits, rounding to the nearest. -/
def compress (d x : Nat) : Nat := ((2 ^ (d + 1) * x + 3329) / 6658) % 2 ^ d

/-- Decompression from `d` bits. -/
def decompress (d y : Nat) : Nat := (2 * 3329 * y + 2 ^ d) / 2 ^ (d + 1)

/-- K-PKE.Encrypt of a 32-byte message with randomness `r`. -/
def kemEncrypt (p : KemParams) (ek m r : Bytes) : Bytes :=
  let t := (chunks 384 (ek.take (384 * p.k))).map (unpackBits 12)
  let rho := ek.drop (384 * p.k)
  let y := (kemNoise r p.k 0).map (ntt .kem)
  let e1 := kemNoise r p.k p.k
  let e2 := sampleCbd 2 (r ++ [BitVec.ofNat 8 (2 * p.k)])
  let u := (List.range p.k).map (fun i =>
    polyAdd .kem (intt .kem (nttDot .kem (kemRow p rho true i) y)) (e1.getD i []))
  let mu := (bytesBits m).map (fun b => decompress 1 b.toNat)
  let v := polyAdd .kem (polyAdd .kem (intt .kem (nttDot .kem t y)) e2) mu
  u.flatMap (fun a => packBits p.du (a.map (compress p.du)))
    ++ packBits p.dv (v.map (compress p.dv))

/-- K-PKE.Decrypt. -/
def kemDecrypt (p : KemParams) (s : List Poly) (c : Bytes) : Bytes :=
  let u := (chunks (32 * p.du) (c.take (32 * p.du * p.k))).map
    (fun b => ntt .kem ((unpackBits p.du b).map (decompress p.du)))
  let v := (unpackBits p.dv (c.drop (32 * p.du * p.k))).map (decompress p.dv)
  packBits 1 ((polySub .kem v (intt .kem (nttDot .kem s u))).map (compress 1))

/-- The modulus check of an encapsulation key: every coefficient is reduced. -/
def kemEkOk (p : KemParams) (ek : Bytes) : Bool :=
  ek.length == p.ekLen &&
    ((chunks 384 (ek.take (384 * p.k))).all (fun b => (unpackBits 12 b).all (fun x => x < 3329)))

/-- ML-KEM.Encaps_internal: the ciphertext and the shared secret. -/
def kemEncaps (p : KemParams) (ek m : Bytes) : Bytes × Bytes :=
  let g := sha3_512 (m ++ sha3_256 ek)
  (kemEncrypt p ek m (g.drop 32), g.take 32)

/-- ML-KEM.Decaps_internal with implicit rejection (R265). -/
def kemDecaps (p : KemParams) (k : KemKey) (c : Bytes) : Bytes :=
  let m := kemDecrypt p k.s c
  let g := sha3_512 (m ++ k.h)
  if sameBytes (kemEncrypt p k.ek m (g.drop 32)) c then g.take 32 else shake256 32 (k.z ++ c)

/-! ### ML-DSA-65 -/

/-- q of ML-DSA. -/
def dsaQ : Nat := 8380417

/-- The signed reading of a residue as its distance from 0. -/
def dsaAbs (x : Nat) : Nat := if x ≤ dsaQ / 2 then x else dsaQ - x

/-- The largest distance from 0 in a run of polynomials. -/
def dsaNorm (v : List Poly) : Nat := v.flatten.foldl (fun a x => max a (dsaAbs x)) 0

/-- Power2Round: the high part. -/
def dsaT1 (x : Nat) : Nat := (x + 4095) / 8192

/-- Power2Round: the low part as a residue. -/
def dsaT0 (x : Nat) : Nat := (x + dsaQ - dsaT1 x * 8192) % dsaQ

/-- 2 γ2. -/
def dsaAlpha : Nat := 523776

/-- HighBits: the high part of Decompose. -/
def dsaHigh (x : Nat) : Nat :=
  let h := (x + dsaAlpha / 2 - 1) / dsaAlpha
  if h = 16 then 0 else h

/-- LowBits: the low part of Decompose as a residue. -/
def dsaLow (x : Nat) : Nat := (x + dsaQ - dsaHigh x * dsaAlpha % dsaQ) % dsaQ

/-- LowBits where the high part wrapped: x - (q - 1) lies one below. -/
def dsaLowAbs (x : Nat) : Nat :=
  if (x + dsaAlpha / 2 - 1) / dsaAlpha = 16 then dsaQ - x else dsaAbs (dsaLow x)

/-- MakeHint for z and r, given as residues: whether the high part changes. -/
def dsaMakeHint (z r : Nat) : Nat := if dsaHigh r ≠ dsaHigh ((r + z) % dsaQ) then 1 else 0

/-- Whether LowBits of `x` is positive. -/
def dsaLowPos (x : Nat) : Bool :=
  (x + dsaAlpha / 2 - 1) / dsaAlpha != 16 && dsaLow x != 0 && dsaLow x ≤ dsaQ / 2

/-- UseHint: the high part corrected by the hint. -/
def dsaUseHint (h x : Nat) : Nat :=
  if h = 0 then dsaHigh x else if dsaLowPos x then (dsaHigh x + 1) % 16 else (dsaHigh x + 15) % 16

/-- The matrix row `i` from ρ. -/
def dsaRow (rho : Bytes) (i : Nat) : List Poly :=
  (List.range 5).map (fun j => sampleUniform .dsa (rho ++ [BitVec.ofNat 8 j, BitVec.ofNat 8 i]))

/-- The matrix times a vector in the transform domain. -/
def dsaMatVec (a : List (List Poly)) (v : List Poly) : List Poly := a.map (fun r => nttDot .dsa r v)

/-- A run of `n` bounded polynomials with nonces from `c`. -/
def dsaBounded (seed : Bytes) (n c : Nat) : List Poly :=
  (List.range n).map (fun i => sampleBounded 4 (seed ++ natLE 2 (c + i)))

/-- An expanded ML-DSA-65 key. -/
structure DsaKey where
  rho : Bytes
  key : Bytes
  tr : Bytes
  s1 : List Poly
  s2 : List Poly
  t0 : List Poly
  pk : Bytes
  deriving DecidableEq, Repr

/-- ML-DSA.KeyGen_internal (FIPS 204). -/
def dsaKeyGen (xi : Bytes) : DsaKey :=
  let h := shake256 128 (xi ++ [6, 5])
  let rho := h.take 32
  let rho' := slice 32 64 h
  let s1 := dsaBounded rho' 5 0
  let s2 := dsaBounded rho' 6 5
  let a := (List.range 6).map (dsaRow rho)
  let t := List.zipWith (fun x y => polyAdd .dsa (intt .dsa x) y)
    (dsaMatVec a (s1.map (ntt .dsa))) s2
  let pk := rho ++ t.flatMap (fun p => packBits 10 (p.map dsaT1))
  { rho := rho, key := h.drop 96, tr := shake256 64 pk, s1 := s1, s2 := s2,
    t0 := t.map (fun p => p.map dsaT0), pk := pk }

/-- The places of SampleInBall: one exchange per byte that is small enough. -/
def ballGo : Nat → Nat → Bytes → List Bool → List Nat → List Nat
  | 0, _, _, _, c => c
  | _ + 1, _, [], _, c => c
  | n + 1, i, j :: js, signs, c =>
    if i < 256 then
      if j.toNat ≤ i then
        ballGo n (i + 1) js (signs.drop 1)
          ((c.set i (c.getD j.toNat 0)).set j.toNat (if signs.headD false then dsaQ - 1 else 1))
      else ballGo n i js signs c
    else c

/-- SampleInBall with τ = 49. -/
def sampleInBall (ct : Bytes) : Poly :=
  let s := shake256 (136 * 4) ct
  ballGo (136 * 4) 207 (s.drop 8) (bytesBits (s.take 8)) (List.replicate 256 0)

/-- The mask vector with nonces from `kappa`. -/
def dsaMask (rho : Bytes) (kappa : Nat) : List Poly :=
  (List.range 5).map (fun i =>
    (unpackBits 20 (shake256 640 (rho ++ natLE 2 (kappa + i)))).map
      (fun x => (524288 + dsaQ - x) % dsaQ))

/-- w1Encode. -/
def dsaW1 (w : List Poly) : Bytes := w.flatMap (packBits 4)

/-- The hint packed as places and running counts. -/
def hintPack (h : List Poly) : Bytes :=
  let idx := h.map (fun p => (List.range 256).filter (fun i => p.getD i 0 == 1))
  let places := idx.flatten.map (fun i => BitVec.ofNat 8 i)
  let counts := (List.range 6).map (fun i => BitVec.ofNat 8 ((idx.take (i + 1)).flatten.length))
  padTo 55 places ++ counts

/-- The signature bytes. -/
def dsaSigEncode (ct : Bytes) (z h : List Poly) : Bytes :=
  ct ++ z.flatMap (fun p => packBits 20 (p.map (fun x => (524288 + dsaQ - x) % dsaQ))) ++ hintPack h

/-- One attempt of the signing loop. -/
def dsaAttempt (k : DsaKey) (a : List (List Poly)) (mu rho'' : Bytes) (kappa : Nat) : Option Bytes :=
  let y := dsaMask rho'' kappa
  let w := (dsaMatVec a (y.map (ntt .dsa))).map (intt .dsa)
  let ct := shake256 48 (mu ++ dsaW1 (w.map (fun p => p.map dsaHigh)))
  let c := ntt .dsa (sampleInBall ct)
  let times (v : List Poly) := v.map (fun p => intt .dsa (nttMul .dsa c (ntt .dsa p)))
  let z := List.zipWith (polyAdd .dsa) y (times k.s1)
  let r := List.zipWith (polySub .dsa) w (times k.s2)
  let lowBad := r.flatten.any (fun x => 261888 - 196 ≤ dsaLowAbs x)
  if dsaNorm z ≥ 524288 - 196 ∨ lowBad then none
  else
    let ct0 := times k.t0
    let h := List.zipWith (List.zipWith (fun t x => dsaMakeHint ((dsaQ - t) % dsaQ) ((x + t) % dsaQ))) ct0 r
    if dsaNorm ct0 ≥ 261888 ∨ (h.flatten.filter (· == 1)).length > 55 then none
    else some (dsaSigEncode ct z h)

/-- The signing loop with at most `n` attempts (R264). -/
def dsaLoop (k : DsaKey) (a : List (List Poly)) (mu rho'' : Bytes) : Nat → Nat → Option Bytes
  | 0, _ => none
  | n + 1, kappa =>
    match dsaAttempt k a mu rho'' kappa with
    | some s => some s
    | none => dsaLoop k a mu rho'' n (kappa + 5)

/-- The message representative of a message and its context (R264). -/
def dsaMu (tr ctx m : Bytes) : Bytes :=
  shake256 64 (tr ++ (0x00 :: BitVec.ofNat 8 ctx.length :: ctx) ++ m)

/-- ML-DSA.Sign with randomness `rnd`, giving up after 1,000 attempts (R264). -/
def dsaSign (k : DsaKey) (ctx m rnd : Bytes) : Option Bytes :=
  let mu := dsaMu k.tr ctx m
  dsaLoop k ((List.range 6).map (dsaRow k.rho)) mu (shake256 64 (k.key ++ rnd ++ mu)) 1000 0

/-- Whether a list rises strictly. -/
def rising : List Nat → Bool
  | [] => true
  | [_] => true
  | a :: b :: l => a < b && rising (b :: l)

/-- One row of the hint per count, from place `from`. -/
def hintRows (places : List Nat) : Nat → List Nat → Option (List Poly)
  | start, [] => if (places.drop start).all (· == 0) then some [] else none
  | start, c :: cs =>
    if c < start ∨ 55 < c then none
    else
      let row := (places.take c).drop start
      if rising row then
        (hintRows places c cs).map
          (fun rs => ((List.range 256).map (fun i => if row.contains i then 1 else 0)) :: rs)
      else none

/-- The hint unpacked, or none where its encoding is invalid (R263). -/
def hintUnpack (bs : Bytes) : Option (List Poly) :=
  hintRows ((bs.take 55).map (·.toNat)) 0 ((bs.drop 55).map (·.toNat))

/-- ML-DSA.Verify. -/
def dsaVerify (pk ctx m sig : Bytes) : Bool :=
  let ct := sig.take 48
  let z := (chunks 640 (slice 48 3200 sig)).map
    (fun b => (unpackBits 20 b).map (fun x => (524288 + dsaQ - x) % dsaQ))
  match hintUnpack (sig.drop 3248) with
  | none => false
  | some h =>
    let rho := pk.take 32
    let t1 := (chunks 320 (pk.drop 32)).map (unpackBits 10)
    let mu := dsaMu (shake256 64 pk) ctx m
    let c := ntt .dsa (sampleInBall ct)
    let az := dsaMatVec ((List.range 6).map (dsaRow rho)) (z.map (ntt .dsa))
    let w := List.zipWith (fun x t =>
      intt .dsa (polySub .dsa x (nttMul .dsa c (ntt .dsa (polyScale .dsa 8192 t))))) az t1
    let w1 := List.zipWith (List.zipWith dsaUseHint) h w
    dsaNorm z < 524288 - 196 && sameBytes ct (shake256 48 (mu ++ dsaW1 w1))

end Sys2Proof.Machine
end

