-- ==== Sys2Proof/Machine/BigNum.lean ====
section
/-!
DEFINITION. The primitive verbs 0x40–0x4C over operand memory (10_big_number_engine.md R230–R246).
-/

namespace Sys2Proof.Machine

/-! ### The operand parameter block (R238) -/

/-- The fields of an operand parameter block. -/
structure OpBlock where
  dst : Nat
  srcA : Nat
  srcB : Nat
  mod : Nat
  fmt : Nat
  flags : Nat
  ring : Nat
  count : Nat
  eta : Nat
  nonce : Nat
  last : Nat
  deriving DecidableEq, Repr

/-- The block read from the parameter bytes. -/
def opBlock (ps : Bytes) : OpBlock :=
  { dst := par16 ps 0, srcA := par16 ps 2, srcB := par16 ps 4, mod := par16 ps 6, fmt := par8 ps 8
    flags := par8 ps 9, ring := par8 ps 10, count := par8 ps 11, eta := par8 ps 12
    nonce := par16 ps 13, last := par8 ps 15 }

/-- The SECRET flag. -/
def OpBlock.secret (b : OpBlock) : Bool := b.flags.testBit 0

/-- ALL of BN_CLEAR, NTTD of BN_LOAD. -/
def OpBlock.bit1 (b : OpBlock) : Bool := b.flags.testBit 1

/-- A name that means a slot. -/
def named (x : Nat) : Bool := x != 0xFFFF

/-- The core of a name. -/
def nameCore (x : Nat) : Nat := x / 16384

/-- The first cell of a name. -/
def nameCell (x : Nat) : Nat := x % 512

/-- The supported modulus size classes. -/
def sizeClasses : List Nat := [256, 384, 2048, 3072, 4096]

/-- v(S) (Table 10.1). -/
def cellsOf (s : Nat) : Nat := ceilDiv (s / 8 + 8) 64

/-- The names of a block are well-formed, on one core, at least one present (R230, R233). -/
def OpBlock.namesOk (b : OpBlock) : Bool :=
  let ns := [b.dst, b.srcA, b.srcB, b.mod].filter named
  !ns.isEmpty && ns.all (fun x => x / 512 % 32 == 0 && nameCore x == nameCore (ns.headD 0))

/-- Which names a verb uses: destination, first and second source, CONTEXT. -/
structure Uses where
  dst : Bool
  a : Bool
  b : Bool
  m : Bool

/-- Names a verb does not use are none, which the manual asks of MOD alone (DESIGN CHOICE, log entry 69); its
destination is given. -/
def OpBlock.usesOk (k : OpBlock) (u : Uses) : Bool :=
  (u.dst == named k.dst) && (u.a || !named k.srcA) && (u.b || !named k.srcB) && (u.m || !named k.mod)

/-- The core of a block. -/
def OpBlock.core (b : OpBlock) : Nat :=
  nameCore (([b.dst, b.srcA, b.srcB, b.mod].filter named).headD 0)

/-- The slot a name names, written with its first cell there (R231); 0xFFFF names none (R230). -/
def slotAt (ss : List OpSlot) (x : Nat) : Option OpSlot :=
  if named x then ss.find? (fun s => s.first = nameCell x) else none

/-- A run of `k` slots of length `len` placed back to back from a name (R239). -/
def slotRun (ss : List OpSlot) (x k len : Nat) : List (Option OpSlot) :=
  (List.range k).map (fun t => if named x then ss.find? (fun s => s.first = nameCell x + t * len) else none)

/-- The shape of a destination run: its length in cells and number. -/
structure DstShape where
  len : Nat
  count : Nat

/-- A destination run lies in the user area and meets a source only as the same slot (R240). -/
def dstOk (x : Nat) (sh : DstShape) (srcs : List OpSlot) : Bool :=
  nameCell x + sh.count * sh.len ≤ 512 && (List.range sh.count).all (fun t =>
    srcs.all (fun s => !s.meets (nameCell x + t * sh.len) sh.len
      || (s.first == nameCell x + t * sh.len && s.len == sh.len)))

/-- What step 3 to 5 of R240 and the work of a verb need: sources in order, destination shape. -/
structure OpPlan where
  srcs : List (Option OpSlot)
  extra : Bool
  dst : Option DstShape

/-- Slots after R241: written slots other than sources that meet the destination run are unwritten. -/
def clearDst (ss srcs : List OpSlot) (x : Nat) (sh : DstShape) : List OpSlot :=
  unwrite (fun s => s.meets (nameCell x) (sh.count * sh.len) && !srcs.contains s) ss

/-- Slots with the destination run unwritten altogether: what a failed job leaves. -/
def dropDst (ss : List OpSlot) (x : Nat) (sh : DstShape) : List OpSlot :=
  unwrite (fun s => s.meets (nameCell x) (sh.count * sh.len)) ss

/-- New slots written over a run. -/
def writeSlots (ss : List OpSlot) (x : Nat) (sh : DstShape) (new : List OpSlot) : List OpSlot :=
  dropDst ss x sh ++ new

/-! ### The common form of a primitive verb -/

/-- A primitive verb: its fixed checks, its names, the plan of its slots, and its new slots or output.
`make` answers the status after the run, the values of the destination slots, and the output. -/
structure Prim where
  uses : OpBlock → Uses
  form : Ask → OpBlock → Bool
  plan : Ask → OpBlock → List OpSlot → OpPlan
  store : Bool := false
  outLen : Ask → OpBlock → List OpSlot → Nat := fun _ _ _ => 0
  draw : OpBlock → List OpSlot → Option DrawReq := fun _ _ => none
  steps : Ask → OpBlock → List Step := fun _ _ => []
  make : Work → OpBlock → List OpSlot → Status × List (OpSlot) × Bytes
  clear : OpBlock → List OpSlot → List OpSlot := fun _ ss => ss

/-- The sources of a plan that are written. -/
def OpPlan.written (p : OpPlan) : List OpSlot := p.srcs.filterMap id

/-- The fields every primitive clause has (R238). -/
def primFields (a : Ask) (b : OpBlock) : Bool :=
  a.c.w1 == 0 && a.c.aadLen == 0 && hi16 a.c.w6 != 0xFFFC
    && a.c.parLen == (if a.c.verb = 0x4C then 16 else 12) && b.flags ≤ 3
    && 1 ≤ b.count && b.count ≤ 8

/-- Steps 3 to 5 of R240. -/
def primSteps (p : Prim) (a : Ask) (b : OpBlock) : Option Status :=
  let ss := a.d.area b.core
  let pl := p.plan a b ss
  firstFail [
    (pl.srcs.all (·.isSome), .keyDenied), (pl.extra, .badParam),
    (match pl.dst with
      | some sh => dstOk b.dst sh pl.written
      | none => true, .badParam),
    (!p.store || pl.written.all (fun s => !s.secret), .keyDenied),
    (a.c.room (p.outLen a b ss), .outFull)]

/-- The checks of R240; the owner rule of step 2 waits, and the steps after it are then judged
later. -/
def primOwn (p : Prim) (a : Ask) : Option Status :=
  let b := opBlock a.ps
  if !(primFields a b && b.namesOk && b.usesOk (p.uses b) && p.form a b) then some .badParam
  else if a.d.areaReady a.n a.c then primSteps p a b else none

/-- The verb of a primitive. -/
def Prim.spec (p : Prim) : VerbSpec where
  own := primOwn p
  draw a := p.draw (opBlock a.ps) (a.d.area (opBlock a.ps).core)
  atDispatch a d :=
    let b := opBlock a.ps
    let ss := a.d.area b.core
    let pl := p.plan a b ss
    match pl.dst with
    | some sh => setArea b.core (clearDst ss pl.written b.dst sh) d
    | none => d
  touched a :=
    let b := opBlock a.ps
    let ss := a.d.area b.core
    let pl := p.plan a b ss
    (pl.written.map (fun s => (b.core, s.first, s.len)))
      ++ (match pl.dst with
        | some sh => [(b.core, nameCell b.dst, sh.count * sh.len)]
        | none => [])
  steps a := p.steps a (opBlock a.ps)
  run w :=
    let b := opBlock w.ps
    let ss := w.d.area b.core
    let a : Ask := ⟨w.d, w.n, w.c, w.ps, w.inp, true, none⟩
    let pl := p.plan a b ss
    let r := p.make w b ss
    let core : Fin 4 := Fin.ofNat 4 b.core
    match pl.dst with
    | some sh =>
      let base := clearDst ss pl.written b.dst sh
      ⟨r.1, r.2.2, w.inp.length, [.area core (writeSlots base b.dst sh r.2.1)],
        [.area core (dropDst base b.dst sh)]⟩
    | none =>
      ⟨r.1, r.2.2, w.inp.length, [.area core (p.clear b ss)], []⟩

/-- A job that ends OK with values for its destination slots. -/
def madeOk (ss : List OpSlot) : Status × List OpSlot × Bytes := (.ok, ss, [])

/-- The random multiple of the `t`th stored form of a clause (R235): a free value, drawn afresh at every write. -/
def maskOf (w : Work) (t : Nat) : Nat := Config.maskWord w.d.ctr t % 2 ^ 64

/-- Whether any of some slots carries SECRET. -/
def anySecret (b : OpBlock) (srcs : List OpSlot) : Bool := b.secret || srcs.any (·.secret)

/-- A RESIDUE slot. -/
def residue (w : Work) (b : OpBlock) (m : OpSlot) (sec : Bool) (t v : Nat) : OpSlot :=
  { first := nameCell b.dst + t * cellsOf m.size, len := cellsOf m.size, kind := .residue, size := m.size
    ring := 0, ntt := false, ctx := m.first, secret := sec, value := [v], mask := maskOf w t }

/-- A POLY slot. -/
def polySlot (b : OpBlock) (sec nt : Bool) (t : Nat) (v : List Nat) : OpSlot :=
  { first := nameCell b.dst + t * 16, len := 16, kind := .poly, size := 0, ring := b.ring, ntt := nt
    ctx := 0, secret := sec, value := v, mask := 0 }

/-- The integer of a slot. -/
def OpSlot.num (s : OpSlot) : Nat := s.value.headD 0

/-- No handle but the parameters is used. -/
def noData (a : Ask) : Bool := hi16 a.c.w2 == 0xFFFC && hi16 a.c.w4 == 0xFFFC

/-- Only the input is used. -/
def inData (a : Ask) : Bool := hi16 a.c.w2 != 0xFFFC && hi16 a.c.w4 == 0xFFFC

/-- Only the output is used. -/
def outData (a : Ask) : Bool := hi16 a.c.w2 == 0xFFFC && hi16 a.c.w4 != 0xFFFC

/-! ### Modular arithmetic (Table 10.3) -/

/-- Two sources bound to MOD, and the shape of a residue. -/
def binPlan (b : OpBlock) (ss : List OpSlot) : OpPlan :=
  let m := slotAt ss b.mod
  let x := slotAt ss b.srcA
  let y := slotAt ss b.srcB
  { srcs := [x, y, m]
    extra := match m, x, y with
      | some m, some x, some y => m.kind == .context && x.kind == .residue && y.kind == .residue
          && x.ctx == m.first && y.ctx == m.first
      | _, _, _ => true
    dst := some ⟨cellsOf ((m.map (·.size)).getD 256), 1⟩ }

/-- A modular operation of two residues. -/
def binPrim (f : Nat → Nat → Nat → Nat) : Prim where
  uses _ := ⟨true, true, true, true⟩
  form a b := noData a && b.fmt == 0 && b.ring == 0 && b.count == 1 && !b.bit1
  plan _ b ss := binPlan b ss
  make w b ss :=
    match slotAt ss b.mod, slotAt ss b.srcA, slotAt ss b.srcB with
    | some m, some x, some y =>
      madeOk [residue w b m (anySecret b [x, y]) 0 (f x.num y.num m.num)]
    | _, _, _ => madeOk []

/-- BN_MODADD. -/
def execBnModadd (n : Chn) (sid : Nat) (s : State) : Out :=
  onDev (dispatchVerb 0x42 (binPrim (fun x y m => (x + y) % m)).spec n sid) s

/-- BN_MODSUB. -/
def execBnModsub (n : Chn) (sid : Nat) (s : State) : Out :=
  onDev (dispatchVerb 0x43 (binPrim (fun x y m => (x + m - y) % m)).spec n sid) s

/-- BN_MODMUL. -/
def execBnModmul (n : Chn) (sid : Nat) (s : State) : Out :=
  onDev (dispatchVerb 0x44 (binPrim (fun x y m => x * y % m)).spec n sid) s

/-- BN_MODINV: a value without inverse gives BAD_PARAM after the job, DST unwritten. -/
def invPrim : Prim where
  uses _ := ⟨true, true, false, true⟩
  form a b := noData a && b.fmt == 0 && b.ring == 0 && b.count == 1 && !b.bit1
  plan _ b ss :=
    let m := slotAt ss b.mod
    let x := slotAt ss b.srcA
    { srcs := [x, m]
      extra := match m, x with
        | some m, some x => m.kind == .context && x.kind == .residue && x.ctx == m.first
        | _, _ => true
      dst := some ⟨cellsOf ((m.map (·.size)).getD 256), 1⟩ }
  make w b ss :=
    match slotAt ss b.mod, slotAt ss b.srcA with
    | some m, some x =>
      match invMod x.num m.num with
      | some y => madeOk [residue w b m (anySecret b [x]) 0 y]
      | none => (.badParam, [], [])
    | _, _ => madeOk []

/-- BN_MODINV. -/
def execBnModinv (n : Chn) (sid : Nat) (s : State) : Out :=
  onDev (dispatchVerb 0x45 invPrim.spec n sid) s

/-- BN_MODEXP: a residue base, a RAW exponent; an exponent of 0 gives 1. -/
def expPrim : Prim where
  uses _ := ⟨true, true, true, true⟩
  form a b := noData a && b.fmt == 0 && b.ring == 0 && b.count == 1 && !b.bit1
  plan _ b ss :=
    let m := slotAt ss b.mod
    let x := slotAt ss b.srcA
    let y := slotAt ss b.srcB
    { srcs := [x, y, m]
      extra := match m, x, y with
        | some m, some x, some y => m.kind == .context && x.kind == .residue && y.kind == .raw
            && x.ctx == m.first
        | _, _, _ => true
      dst := some ⟨cellsOf ((m.map (·.size)).getD 256), 1⟩ }
  make w b ss :=
    match slotAt ss b.mod, slotAt ss b.srcA, slotAt ss b.srcB with
    | some m, some x, some y =>
      madeOk [residue w b m (anySecret b [x, y]) 0 (powMod x.num y.num m.num)]
    | _, _, _ => madeOk []

/-- BN_MODEXP. -/
def execBnModexp (n : Chn) (sid : Nat) (s : State) : Out :=
  onDev (dispatchVerb 0x46 expPrim.spec n sid) s

/-- Whether a number is a modulus of a size class (R238). -/
def modulusOk (s v : Nat) : Bool :=
  v % 2 == 1 && 1 < v && 2 ^ (s - 32) ≤ v && v < 2 ^ s

/-- BN_SETMOD: a CONTEXT from the input. -/
def setmodPrim : Prim where
  uses _ := ⟨true, false, false, false⟩
  form a b := inData a && b.fmt == 0 && b.ring == 0 && b.count == 1 && b.flags == 0
  plan a _ _ :=
    { srcs := [], extra := sizeClasses.contains (8 * a.c.inLen)
        && (!a.ready || modulusOk (8 * a.c.inLen) (beNat a.inp))
      dst := some ⟨3 * cellsOf (8 * a.c.inLen), 1⟩ }
  make w b _ :=
    let s := 8 * w.c.inLen
    madeOk [{ first := nameCell b.dst, len := 3 * cellsOf s, kind := .context, size := s, ring := 0
              ntt := false, ctx := 0, secret := false, value := [beNat w.inp], mask := 0 }]

/-- BN_SETMOD. -/
def execBnSetmod (n : Chn) (sid : Nat) (s : State) : Out :=
  onDev (dispatchVerb 0x47 setmodPrim.spec n sid) s

/-- BN_CLEAR: one slot, or with ALL every written slot of the core's user area. -/
def clearPrim : Prim where
  uses _ := ⟨false, true, false, false⟩
  form a b := noData a && b.fmt == 0 && b.ring == 0 && b.count == 1 && (!b.bit1 || nameCell b.srcA == 0)
  plan _ b ss :=
    { srcs := if b.bit1 then ss.map some else [slotAt ss b.srcA], extra := true, dst := none }
  make _ _ _ := madeOk []
  clear b ss := if b.bit1 then [] else unwrite (fun s => s.first == nameCell b.srcA) ss

/-- BN_CLEAR. -/
def execBnClear (n : Chn) (sid : Nat) (s : State) : Out :=
  onDev (dispatchVerb 0x48 clearPrim.spec n sid) s

/-! ### Load and store -/

/-- The size class a load writes: MOD's, or for RAW the input's. -/
def loadSize (b : OpBlock) (inLen : Nat) (ss : List OpSlot) : Nat :=
  if b.fmt = 2 then 8 * (inLen / b.count) else ((slotAt ss b.mod).map (·.size)).getD 256

/-- The values of a load as integers. -/
def loadInts (b : OpBlock) (s : Nat) (inp : Bytes) : List Nat :=
  (List.range b.count).map (fun t => beNat (slice (t * (s / 8)) (s / 8) inp))

/-- The coefficients of the external form of polynomials (R237). -/
def loadPolys (k : Nat) (inp : Bytes) : List (List Nat) :=
  (List.range k).map (fun t => (List.range 256).map (fun i => beNat (slice (1024 * t + 4 * i) 4 inp)))

/-- The modulus q of a ring code. -/
def ringQ (r : Nat) : Nat := ((Ring.ofCode r).map (·.q)).getD 0

/-- The length and value checks of a load. -/
def loadOk (a : Ask) (b : OpBlock) (ss : List OpSlot) : Bool :=
  let s := loadSize b a.c.inLen ss
  let m := slotAt ss b.mod
  if b.fmt = 0x10 then
    a.c.inLen == 1024 * b.count
      && (!a.ready || (loadPolys b.count a.inp).all (fun p => p.all (fun x => x < ringQ b.ring)))
  else if b.fmt = 2 then sizeClasses.contains s && a.c.inLen == b.count * (s / 8)
  else (m.map (·.kind)) == some .context && (b.fmt == 3 || a.c.inLen == b.count * (s / 8))
    && (b.fmt != 0 || !a.ready || (loadInts b s a.inp).all (fun v => v < ((m.map (·.num)).getD 0)))

/-- BN_LOAD: residues, reduced values, raw integers, random residues, polynomials. -/
def loadPrim : Prim where
  uses b := ⟨true, false, false, b.fmt == 0 || b.fmt == 1 || b.fmt == 3⟩
  form a b :=
    (if b.fmt = 3 then noData a else inData a) && [0, 1, 2, 3, 0x10].contains b.fmt
      && (if b.fmt = 0x10 then (Ring.ofCode b.ring).isSome else b.ring == 0 && !b.bit1)
  plan a b ss :=
    let s := loadSize b a.c.inLen ss
    { srcs := if b.fmt = 2 ∨ b.fmt = 0x10 then [] else [slotAt ss b.mod]
      extra := loadOk a b ss
      dst := some ⟨if b.fmt = 0x10 then 16 else cellsOf s, b.count⟩ }
  draw b ss := if b.fmt = 3 then some (.plain (b.count * (loadSize b 0 ss / 8 + 8))) else none
  make w b ss :=
    let s := loadSize b w.c.inLen ss
    if b.fmt = 0x10 then
      madeOk ((loadPolys b.count w.inp).zipIdx.map (fun p => polySlot b b.secret b.bit1 p.2 p.1))
    else if b.fmt = 2 then
      madeOk ((loadInts b s w.inp).zipIdx.map (fun p =>
        { first := nameCell b.dst + p.2 * cellsOf s, len := cellsOf s, kind := .raw, size := s, ring := 0
          ntt := false, ctx := 0, secret := b.secret, value := [p.1], mask := 0 }))
    else
      match slotAt ss b.mod with
      | none => madeOk []
      | some m =>
        let vs := if b.fmt = 3 then
            (List.range b.count).map (fun t =>
              1 + Config.scalarOf m.num (slice (t * (s / 8 + 8)) (s / 8 + 8) w.rnd) % (m.num - 1))
          else (loadInts b s w.inp).map (· % m.num)
        madeOk (vs.zipIdx.map (fun p => residue w b m b.secret p.2 p.1))

/-- BN_LOAD. -/
def execBnLoad (n : Chn) (sid : Nat) (s : State) : Out :=
  onDev (dispatchVerb 0x40 loadPrim.spec n sid) s

/-- The length in cells of the slots a store reads. -/
def storeSize (b : OpBlock) (ss : List OpSlot) : Nat := ((slotAt ss b.srcA).map (·.size)).getD 256

/-- The cells per slot of a store. -/
def storeLen (b : OpBlock) (ss : List OpSlot) : Nat := ((slotAt ss b.srcA).map (·.len)).getD 1

/-- Whether the slots of a store are of one kind, and MOD the bound CONTEXT of residues. A later slot of the run
that is not written fails here (DESIGN CHOICE, log entry 69). -/
def storeOk (b : OpBlock) (ss : List OpSlot) : Bool :=
  match slotAt ss b.srcA with
  | none => true
  | some x =>
    (slotRun ss b.srcA b.count x.len).all (fun o => match o with
      | some y => y.kind == x.kind && y.size == x.size && y.ring == x.ring && y.ctx == x.ctx
          && y.ntt == x.ntt
      | none => false)
      && (match x.kind with
        | .residue => b.ring == 0 && nameCell b.mod == x.ctx
        | .raw => b.ring == 0 && !named b.mod
        | .poly => b.ring == x.ring && !named b.mod
        | .context => false)

/-- BN_STORE: the canonical form of slots that do not carry SECRET. -/
def storePrim : Prim where
  uses _ := ⟨false, true, false, true⟩
  form a b := outData a && b.fmt == 0 && !b.bit1 && (b.ring == 0 || (Ring.ofCode b.ring).isSome)
  plan _ b ss :=
    { srcs := [slotAt ss b.srcA] ++ ((slotRun ss b.srcA b.count (storeLen b ss)).filter (·.isSome))
        ++ (if named b.mod || ((slotAt ss b.srcA).map (·.kind)) == some .residue then [slotAt ss b.mod] else [])
      extra := storeOk b ss, dst := none }
  store := true
  outLen _ b ss := if b.ring = 0 then b.count * (storeSize b ss / 8) else 1024 * b.count
  make _ b ss :=
    let run := (slotRun ss b.srcA b.count (storeLen b ss)).filterMap id
    (.ok, [], run.flatMap (fun s =>
      if b.ring = 0 then natBE (s.size / 8) s.num else s.value.flatMap (natBE 4)))

/-- BN_STORE. -/
def execBnStore (n : Chn) (sid : Nat) (s : State) : Out :=
  onDev (dispatchVerb 0x41 storePrim.spec n sid) s

/-! ### Polynomials (Tables 10.4, 10.5) -/

/-- Whether a run of `k` polynomials of the block's ring stands at a name. -/
def polyRun (b : OpBlock) (ss : List OpSlot) (x : Nat) : List (Option OpSlot) := slotRun ss x b.count 16

/-- Every slot of a run is a polynomial of the block's ring in a domain: the named first slot that is not written
fails step 3 of R240, a later one fails here (DESIGN CHOICE, log entry 69). -/
def polysOk (b : OpBlock) (run : List (Option OpSlot)) (dom : Bool → Bool) : Bool :=
  run.all (fun o => match o with
    | some s => s.kind == .poly && s.ring == b.ring && dom s.ntt
    | none => false)

/-- The ring of a block. -/
def OpBlock.ringOf (b : OpBlock) : Ring := (Ring.ofCode b.ring).getD .kem

/-- LAT_NTT and LAT_INTT. -/
def nttPrim (fwd : Bool) : Prim where
  uses _ := ⟨true, true, false, false⟩
  form a b := noData a && b.fmt == 0 && (Ring.ofCode b.ring).isSome && !b.bit1
  plan _ b ss :=
    let r := polyRun b ss b.srcA
    { srcs := [slotAt ss b.srcA] ++ r.filter (·.isSome)
      extra := polysOk b r (fun t => t == !fwd), dst := some ⟨16, b.count⟩ }
  make _ b ss :=
    let src := (polyRun b ss b.srcA).filterMap id
    let f := if fwd then ntt b.ringOf else intt b.ringOf
    madeOk (src.zipIdx.map (fun p => polySlot b (anySecret b src) fwd p.2 (f p.1.value)))

/-- LAT_NTT. -/
def execLatNtt (n : Chn) (sid : Nat) (s : State) : Out :=
  onDev (dispatchVerb 0x49 (nttPrim true).spec n sid) s

/-- LAT_INTT. -/
def execLatIntt (n : Chn) (sid : Nat) (s : State) : Out :=
  onDev (dispatchVerb 0x4A (nttPrim false).spec n sid) s

/-- The results of LAT_PMUL over two runs. -/
def pmulValues (b : OpBlock) (xs ys : List Poly) : List Poly :=
  match b.fmt with
  | 0 => List.zipWith (nttMul b.ringOf) xs ys
  | 1 => [nttDot b.ringOf xs ys]
  | 2 => List.zipWith (polyAdd b.ringOf) xs ys
  | _ => List.zipWith (polySub b.ringOf) xs ys

/-- LAT_PMUL: MUL, MAC, ADD, SUB. -/
def pmulPrim : Prim where
  uses _ := ⟨true, true, true, false⟩
  form a b := noData a && b.fmt ≤ 3 && (Ring.ofCode b.ring).isSome && !b.bit1
  plan _ b ss :=
    let x := polyRun b ss b.srcA
    let y := polyRun b ss b.srcB
    let dom := ((slotAt ss b.srcA).map (·.ntt)).getD true
    { srcs := [slotAt ss b.srcA, slotAt ss b.srcB] ++ (x ++ y).filter (·.isSome)
      extra := polysOk b (x ++ y) (fun t => if b.fmt ≤ 1 then t else t == dom)
      dst := some ⟨16, if b.fmt = 1 then 1 else b.count⟩ }
  make _ b ss :=
    let x := (polyRun b ss b.srcA).filterMap id
    let y := (polyRun b ss b.srcB).filterMap id
    let dom := if b.fmt ≤ 1 then true else ((slotAt ss b.srcA).map (·.ntt)).getD true
    madeOk ((pmulValues b (x.map (·.value)) (y.map (·.value))).zipIdx.map (fun p =>
      polySlot b (anySecret b (x ++ y)) dom p.2 p.1))

/-- LAT_PMUL. -/
def execLatPmul (n : Chn) (sid : Nat) (s : State) : Out :=
  onDev (dispatchVerb 0x4B pmulPrim.spec n sid) s

/-- Whether the fields of a sampling mode are in range (Table 10.5). -/
def sampleOk (b : OpBlock) (inLen : Nat) : Bool :=
  let t := b.count - 1
  match b.fmt with
  | 0 => (Ring.ofCode b.ring).isSome && inLen == 32 && b.eta == 0 && b.nonce / 256 + t ≤ 255
  | 1 => b.ring == 1 && inLen == 32 && (b.eta == 2 || b.eta == 3) && b.nonce % 256 + t ≤ 255
  | 2 => b.ring == 2 && inLen == 64 && (b.eta == 2 || b.eta == 4) && b.nonce + t ≤ 65535
  | _ => false

/-- Polynomial `t` of a sampling run. -/
def samplePoly (b : OpBlock) (seed : Bytes) (t : Nat) : Poly :=
  match b.fmt with
  | 0 => sampleUniform b.ringOf (seed ++ [BitVec.ofNat 8 (b.nonce / 256 + t), BitVec.ofNat 8 b.nonce])
  | 1 => sampleCbd b.eta (seed ++ [BitVec.ofNat 8 (b.nonce + t)])
  | _ => sampleBounded b.eta (seed ++ natLE 2 (b.nonce + t))

/-- LAT_SAMPLE: the byte stream of each polynomial is drawn by a queued class-H step (R244). -/
def samplePrim : Prim where
  uses _ := ⟨true, false, false, false⟩
  steps a b := List.replicate b.count (Step.of .hash a.c.inLen)
  form a b := inData a && !b.bit1 && b.last == 0 && sampleOk b a.c.inLen
  plan _ b _ := { srcs := [], extra := true, dst := some ⟨16, b.count⟩ }
  make w b _ :=
    madeOk ((List.range b.count).map (fun t =>
      polySlot b (b.secret || b.fmt != 0) (b.fmt == 0) t (samplePoly b w.inp t)))

/-- LAT_SAMPLE. -/
def execLatSample (n : Chn) (sid : Nat) (s : State) : Out :=
  onDev (dispatchVerb 0x4C samplePrim.spec n sid) s

/-- Whether a verb makes an invariant check of Table 10.6 or 11.5 that a fault can trip. -/
def invariantVerb (v : Nat) : Bool :=
  ((0x40 ≤ v && v ≤ 0x4C) && v != 0x48 && v != 0x4B) || ((0x50 ≤ v && v ≤ 0x5F) && v != 0x56 && v != 0x5C)

end Sys2Proof.Machine
end

