-- ==== Sys2Proof/Machine/Control.lean ====
section
/-!
DEFINITION. The control verbs 0x02–0x05, KEY_GEN and KEY_INFO (09 R206, R207, R225, R226; 12 R281).
-/

namespace Sys2Proof.Machine

/-- Every class a slot can have. -/
def allClasses : List Nat := (List.range 0x40).filter (fun c => classLen c != 0)

/-- RETIRE_KEY (R206, 12 R281): `burns` are the outcomes of burning the RETIRED bit. -/
def retireKey (burns : List Bool) : VerbSpec where
  plan a := ⟨[⟨a.c.keySlot, allClasses, 0⟩], none, [], []⟩
  own a := firstFail [(a.c.fieldsOk true false .no .no false false, .badParam)]
  run w := { okOut [] 0 with good := [.retire w.c.keySlot burns] }

/-- RETIRE_KEY. -/
def execRetireKey (n : Chn) (sid : Nat) (burns : List Bool) (s : State) : Out :=
  onDev (dispatchVerb 0x02 (retireKey burns) n sid) s

/-- RANDOM (R206, R207): one generate request of W5 bytes, PR and additional input as given. -/
def random : VerbSpec where
  own a := firstFail [
    (a.c.fieldsOk false false .no .data true false, .badParam),
    (1 ≤ a.c.outCap && a.c.outCap ≤ 32768, .badParam),
    (a.c.parLen ≤ 33 && (par8 a.ps 0 ≤ 1), .badParam)]
  draw a := some ⟨a.c.outCap, par8 a.ps 0 == 1, a.ps.drop 1⟩
  run w := okOut w.rnd 0

/-- RANDOM. -/
def execRandom (n : Chn) (sid : Nat) (s : State) : Out := onDev (dispatchVerb 0x03 random n sid) s

/-- COPY (R206). -/
def copyVerb : VerbSpec where
  own a := firstFail [
    (a.c.fieldsOk false false .data .data false false, .badParam),
    (1 ≤ a.c.inLen, .badParam), (a.c.room a.c.inLen, .outFull)]
  run w := okOut w.inp w.inp.length
  partialOut w := w.inp

/-- COPY. -/
def execCopy (n : Chn) (sid : Nat) (s : State) : Out := onDev (dispatchVerb 0x04 copyVerb n sid) s

/-- ZERO (R206). -/
def zeroVerb : VerbSpec where
  own a := firstFail [
    (a.c.fieldsOk false false .no .bufOnly false false, .badParam),
    (1 ≤ a.c.outCap && a.c.outCap ≤ 32768, .badParam)]
  run w := okOut (zeros w.c.outCap) 0

/-- ZERO. -/
def execZero (n : Chn) (sid : Nat) (s : State) : Out := onDev (dispatchVerb 0x05 zeroVerb n sid) s

/-- KEY_GEN (R225): a random key of the parameter KAB's class into the destination. -/
def keyGen : VerbSpec where
  plan a := ⟨[], some (a.c.dstSlot, (kabAt a.ps 0).planCls), [], []⟩
  own a := firstFail [
    (a.c.fieldsOk false true .no .no true false, .badParam),
    (a.c.parLen == 8 && (kabAt a.ps 0).symOk, .badParam)]
  draw a := some (.plain (classLen (kabAt a.ps 0).cls))
  dest a := some ((kabAt a.ps 0).dest a.c.dstSlot)
  run w := { okOut [] 0 with good := [.putKey ((kabAt w.ps 0).dest w.c.dstSlot) w.rnd] }

/-- KEY_GEN. -/
def execKeyGen (n : Chn) (sid : Nat) (s : State) : Out := onDev (dispatchVerb 0x31 keyGen n sid) s

/-- The 24 bytes of KEY_INFO (Table 09.10). -/
def keyInfoBytes (k : KeySlot) : Bytes :=
  kabBytes k.cls k.usage false k.limit ++ natBE 8 k.ctr
    ++ [if k.ctr < k.limit then 0x01 else 0x02,
        if isVol k.slot then 0x02 else if isLarge k.slot then 0x01 else 0x00]
    ++ natBE 2 k.slot ++ zeros 4

/-- KEY_INFO (R226). -/
def keyInfo : VerbSpec where
  plan a := ⟨[⟨a.c.keySlot, allClasses, 0⟩], none, [], []⟩
  own a := firstFail [
    (a.c.fieldsOk true false .no .data false false, .badParam), (a.c.room 24, .outFull)]
  run w := okOut (((w.d.ks.slot w.c.keySlot).map keyInfoBytes).getD []) 0

/-- KEY_INFO. -/
def execKeyInfo (n : Chn) (sid : Nat) (s : State) : Out := onDev (dispatchVerb 0x32 keyInfo n sid) s

end Sys2Proof.Machine
end

