-- ==== Sys2Proof/Machine/Phrase.lean ====
section
/-!
DEFINITION. The phrase table and PHRASE as its own checks see it (15_protocol_services.md R364–R367).
-/

namespace Sys2Proof.Machine

/-! ### Phrase tables (R364) -/

/-- The number of templates of a table. -/
def ptCount (t : Bytes) : Nat := par16 t 6

/-- The first template and the count of phrase `i`. -/
def ptIndex (t : Bytes) (i : Nat) : Nat × Nat := (par16 t (16 + 8 * i), par8 t (18 + 8 * i))

/-- Word `i` of template `k`; word 8 is the selector word. -/
def ptWord (t : Bytes) (k i : Nat) : Word := bytesWord (slice (528 + 36 * k + 4 * i) 4 t)

/-- The selector of word `i` of template `k` (R365). -/
def ptSel (t : Bytes) (k i : Nat) : Nat := fld (ptWord t k 8) (4 * i + 3) (4 * i)

/-- Whether template `k` is one a table may hold. -/
def ptTemplateOk (t : Bytes) (k : Nat) : Bool :=
  let v := fld (ptWord t k 0) 31 24
  v != 0x65 && !unassigned v && fld (ptWord t k 0) 23 21 == 0 && ptSel t k 0 == 0
    && (List.range 8).all (fun i => ptSel t k i ≤ 0xC)

/-- Whether phrase `i` is defined as the table allows. -/
def ptPhraseOk (t : Bytes) (i : Nat) : Bool :=
  let p := ptIndex t i
  p.2 ≤ 16 && (p.2 == 0 || p.1 + p.2 ≤ ptCount t) && par8 t (19 + 8 * i) == 0

/-- Whether a byte string starts with a valid phrase table (R364). -/
def ptValid (t : Bytes) : Bool :=
  let n := ptCount t
  let len := 528 + 36 * n + 4
  t.take 4 == ascii "AYPT" && par8 t 4 == 1 && par8 t 5 == 0 && n ≤ 768 && len ≤ t.length
    && beNat (slice 12 4 t) == len && crcGood (len - 4) (t.take len)
    && (List.range 64).all (ptPhraseOk t) && (List.range n).all (ptTemplateOk t)

/-- The number of defined phrases. -/
def ptDefined (t : Bytes) : Nat := ((List.range 64).filter (fun i => (ptIndex t i).2 != 0)).length

/-! ### PHRASE (R365–R367) -/

/-- Whether every argument a phrase selects was given. -/
def argsGiven (t : Bytes) (p : Nat × Nat) (count : Nat) : Bool :=
  (List.range p.2).all (fun k => (List.range 8).all (fun i =>
    let s := ptSel t (p.1 + k) i
    s == 0 || 8 < s || s ≤ count))

/-- PHRASE as its checks see it; its work is done by its templates. -/
def phraseVerb : VerbSpec where
  own a :=
    let t := a.d.phrases.table
    let p := ptIndex t (par8 a.ps 0)
    let k := par8 a.ps 1
    firstFail [
      (hi16 a.c.w4 != 0xFFFD, .badParam),
      (4 ≤ a.c.parLen && par8 a.ps 0 ≤ 63 && k ≤ 8 && par16 a.ps 2 == 0 && a.c.parLen == 4 + 4 * k,
        .badParam),
      (t != [] && p.2 != 0 && argsGiven t p k, .badParam), (a.c.inLen < 2 ^ 28, .tooLong)]
  run _ := okOut [] 0

/-- The templates of phrase `i` of a table, as the device copies them at dispatch (R366). -/
def ptCopy (t : Bytes) (i : Nat) : Bytes := slice (528 + 36 * (ptIndex t i).1) (36 * (ptIndex t i).2) t

/-- A PHRASE just dispatched runs its first template. -/
def startPhrase (n : Chn) (sid : Nat) (d : Dev) : Dev :=
  match d.sent n sid with
  | none => d
  | some s =>
    match s.job, s.clauses[s.idx]? with
    | some j, some c =>
      if (j.result.map (fun r => r.status.failure)).getD false then d
      else phraseNext n s c j ⟨ptCopy d.phrases.table (par8 j.params 0), 0, 0, [], []⟩ 0
        (modJob n sid (fun j => { j with result := none }) d)
    | _, _ => d

/-- PHRASE (R366): dispatched as any clause of class S; then its templates run, one after the other. -/
def dispatchPhrase (n : Chn) (sid : Nat) (d : Dev) : Dev :=
  match d.sent n sid with
  | none => d
  | some s =>
    let d1 := dispatchVerb 0x65 phraseVerb n sid d
    if s.job.isNone && ((d1.sent n sid).bind (·.job)).isSome then startPhrase n sid d1 else d1

end Sys2Proof.Machine
end

