-- ==== Sys2Proof/Machine/Cbor.lean ====
section
/-!
DEFINITION. Deterministic CBOR (15_protocol_services.md R361): heads in their shortest form, byte and
text strings.
-/

namespace Sys2Proof.Machine

/-- The head of major type `m` with argument `n`. -/
def cborHead (m n : Nat) : Bytes :=
  let b (x : Nat) : Byte := BitVec.ofNat 8 (32 * m + x)
  if n < 24 then [b n]
  else if n < 2 ^ 8 then b 24 :: natBE 1 n
  else if n < 2 ^ 16 then b 25 :: natBE 2 n
  else if n < 2 ^ 32 then b 26 :: natBE 4 n
  else b 27 :: natBE 8 n

/-- An unsigned integer. -/
def cborUint (n : Nat) : Bytes := cborHead 0 n

/-- The negative integer -1 - n. -/
def cborNint (n : Nat) : Bytes := cborHead 1 n

/-- A byte string. -/
def cborBytes (bs : Bytes) : Bytes := cborHead 2 bs.length ++ bs

/-- A text string of ASCII characters. -/
def cborText (s : String) : Bytes := cborHead 3 s.length ++ ascii s

/-- The head of an array of `n` items. -/
def cborArray (n : Nat) : Bytes := cborHead 4 n

/-- The head of a map of `n` pairs. -/
def cborMap (n : Nat) : Bytes := cborHead 5 n

/-- The head of tag `n`. -/
def cborTag (n : Nat) : Bytes := cborHead 6 n

/-- A boolean. -/
def cborBool (b : Bool) : Bytes := [if b then 0xF5 else 0xF4]

/-- A COSE Sig_structure (RFC 9052, section 4.4). -/
def sigStructure (protected_ aad payload : Bytes) : Bytes :=
  cborArray 4 ++ cborText "Signature1" ++ cborBytes protected_ ++ cborBytes aad ++ cborBytes payload

/-- A tagged COSE_Sign1 with an empty unprotected map. -/
def coseSign1 (protected_ payload sig : Bytes) : Bytes :=
  cborTag 18 ++ cborArray 4 ++ cborBytes protected_ ++ cborMap 0 ++ cborBytes payload ++ cborBytes sig

end Sys2Proof.Machine
end

