-- ==== Sys2Proof/Machine/Chacha.lean ====
section
/-!
DEFINITION. ChaCha20 and ChaCha20-Poly1305. The manual names RFC 8439 (00_scope.md R18) without
repeating it: the algorithm is PRESUMED from it (log entry 2).
-/

namespace Sys2Proof.Machine

/-- The quarter round on four words. -/
def chQuarter (a b c d : Word) : Word × Word × Word × Word :=
  let a := a + b
  let d := (d ^^^ a).rotateLeft 16
  let c := c + d
  let b := (b ^^^ c).rotateLeft 12
  let a := a + b
  let d := (d ^^^ a).rotateLeft 8
  let c := c + d
  let b := (b ^^^ c).rotateLeft 7
  (a, b, c, d)

/-- The quarter round at four places of the state. -/
def chAt (s : List Word) (i j k l : Nat) : List Word :=
  let r := chQuarter (s.getD i 0) (s.getD j 0) (s.getD k 0) (s.getD l 0)
  (((s.set i r.1).set j r.2.1).set k r.2.2.1).set l r.2.2.2

/-- A column round and a diagonal round. -/
def chDouble (s : List Word) : List Word :=
  let s := chAt (chAt (chAt (chAt s 0 4 8 12) 1 5 9 13) 2 6 10 14) 3 7 11 15
  chAt (chAt (chAt (chAt s 0 5 10 15) 1 6 11 12) 2 7 8 13) 3 4 9 14

/-- `n` double rounds. -/
def chRounds : Nat → List Word → List Word
  | 0, s => s
  | n + 1, s => chRounds n (chDouble s)

/-- Little-endian words of a byte string. -/
def leWords (bs : Bytes) : List Word := (chunks 4 bs).map (fun c => BitVec.ofNat 32 (leNat c))

/-- One key stream block. -/
def chachaBlock (key : Bytes) (ctr : Nat) (nonce : Bytes) : Bytes :=
  let s := leWords (ascii "expand 32-byte k" ++ key ++ natLE 4 ctr ++ nonce)
  (List.zipWith (· + ·) s (chRounds 10 s)).flatMap (fun w => natLE 4 w.toNat)

/-- The key stream from block `i` exclusive-ored into pieces of the message. -/
def chachaBlocks (key nonce : Bytes) : List Bytes → Nat → Bytes
  | [], _ => []
  | b :: bs, i => xorBytes b (chachaBlock key i nonce) ++ chachaBlocks key nonce bs (i + 1)

/-- ChaCha20 from block 1, as the AEAD uses it. -/
def chachaCrypt (key nonce m : Bytes) : Bytes := chachaBlocks key nonce (chunks 64 m) 1

/-- The Poly1305 accumulator over 16-byte pieces. -/
def polyAcc (r : Nat) (bs : List Bytes) : Nat :=
  bs.foldl (fun a b => (a + leNat b + 2 ^ (8 * b.length)) * r % (2 ^ 130 - 5)) 0

/-- The Poly1305 tag. -/
def poly1305 (key m : Bytes) : Bytes :=
  let r := leNat (key.take 16) &&& 0x0ffffffc0ffffffc0ffffffc0fffffff
  natLE 16 (polyAcc r (chunks 16 m) + leNat (key.drop 16))

/-- The tag of the AEAD. -/
def chachaTag (key nonce aad ct : Bytes) : Bytes :=
  poly1305 ((chachaBlock key 0 nonce).take 32)
    (padMul 16 aad ++ padMul 16 ct ++ natLE 8 aad.length ++ natLE 8 ct.length)

/-- ChaCha20-Poly1305 seal: ciphertext followed by the tag. -/
def chachaSeal (key nonce aad pt : Bytes) : Bytes :=
  chachaCrypt key nonce pt ++ chachaTag key nonce aad (chachaCrypt key nonce pt)

/-- ChaCha20-Poly1305 open: the plaintext when the tag is right. -/
def chachaOpen (key nonce aad ct tag : Bytes) : Option Bytes :=
  if sameBytes (chachaTag key nonce aad ct) tag then some (chachaCrypt key nonce ct) else none

end Sys2Proof.Machine
end

