-- ==== Sys2Proof/Machine/Cipher.lean ====
section
/-!
DEFINITION. The cipher verbs 0x11–0x1C (09 R208–R216).
-/

namespace Sys2Proof.Machine

/-- The block classes. -/
def blockClasses : List Nat := [0x10, 0x11]

/-- The classes of GCM and CCM. -/
def aeadClasses : List Nat := [0x12, 0x13]

/-- A plan of one charged key slot. -/
def keyPlan (slot : Nat) (classes : List Nat) (usage units : Nat) : SlotPlan :=
  ⟨[⟨slot, classes, usage⟩], none, [(slot, units)], []⟩

/-! ### CBC, CTR, CMAC (R208) -/

/-- AES-CBC in the direction `enc`. -/
def cbcVerb (enc : Bool) : VerbSpec where
  plan a := keyPlan a.c.keySlot blockClasses (if enc then uENC else uDEC) (a.c.inLen / 16)
  own a := firstFail [
    (a.c.fieldsOk true false .data .data true false, .badParam),
    (a.c.parLen == 16, .badParam),
    (a.c.inLen != 0 && a.c.inLen % 16 == 0, .badParam),
    (a.c.room a.c.inLen, .outFull)]
  run w := okOut (if enc then cbcEncrypt w.key w.ps w.inp else cbcDecrypt w.key w.ps w.inp) w.inp.length
  partialOut w := if enc then cbcEncrypt w.key w.ps w.inp else cbcDecrypt w.key w.ps w.inp

/-- AES_CBC_ENCRYPT. -/
def execAesCbcEncrypt (n : Chn) (sid : Nat) (s : State) : Out :=
  onDev (dispatchVerb 0x11 (cbcVerb true) n sid) s

/-- AES_CBC_DECRYPT. -/
def execAesCbcDecrypt (n : Chn) (sid : Nat) (s : State) : Out :=
  onDev (dispatchVerb 0x12 (cbcVerb false) n sid) s

/-- AES-CTR over the whole 128-bit counter block. -/
def ctrVerb : VerbSpec where
  plan a := keyPlan a.c.keySlot blockClasses (uENC + uDEC) (ceilDiv a.c.inLen 16)
  own a := firstFail [
    (a.c.fieldsOk true false .data .data true false, .badParam),
    (a.c.parLen == 16, .badParam), (1 ≤ a.c.inLen, .badParam), (a.c.room a.c.inLen, .outFull)]
  run w := okOut (ctrCrypt w.key 16 w.ps w.inp) w.inp.length
  partialOut w := ctrCrypt w.key 16 w.ps w.inp

/-- AES_CTR. -/
def execAesCtr (n : Chn) (sid : Nat) (s : State) : Out := onDev (dispatchVerb 0x13 ctrVerb n sid) s

/-- AES-CMAC: generation, or verification of a 16-byte tag. -/
def cmacVerb : VerbSpec where
  plan a := keyPlan a.c.keySlot blockClasses uMAC (max 1 (ceilDiv a.c.inLen 16))
  own a := firstFail [
    (a.c.fieldsOk true false .data0 (if a.c.parLen = 0 then .data else .no) true false, .badParam),
    (a.c.parLen == 0 || a.c.parLen == 16, .badParam),
    (a.c.parLen != 0 || a.c.room 16, .outFull)]
  run w :=
    let t := cmac w.key w.inp
    if w.ps = [] then okOut t w.inp.length
    else if sameBytes t w.ps then okOut [] w.inp.length else failOut .authFail [] w.inp.length

/-- AES_CMAC. -/
def execAesCmac (n : Chn) (sid : Nat) (s : State) : Out := onDev (dispatchVerb 0x18 cmacVerb n sid) s

/-! ### AEAD seal and open (R209–R214) -/

/-- One AEAD: text transformation and tag of a key, nonce and tag length. -/
structure AeadAlg where
  crypt : Bytes → Bytes → Bytes → Bytes
  tag : Bytes → Bytes → Nat → Bytes → Bytes → Bytes

/-- AES-GCM. -/
def gcmAlg : AeadAlg := ⟨gcmCrypt, fun key iv _ aad ct => gcmTag key iv aad ct⟩

/-- ChaCha20-Poly1305. -/
def chachaAlg : AeadAlg := ⟨chachaCrypt, fun key iv _ aad ct => chachaTag key iv aad ct⟩

/-- AES-CCM; its tag is over the plaintext, which the transformation gives back. -/
def ccmAlg : AeadAlg := ⟨ccmCrypt, fun key n t aad ct => ccmTag key n t aad (ccmCrypt key n ct)⟩

/-- The IV of a clause in the explicit or the counter form (Table 09.8). -/
def ivOf (ps : Bytes) (ctr : Nat) : Bytes :=
  if ps.length = 4 then ps ++ zeros 3 ++ natBE 5 ctr else ps

/-- The output of a seal: the IV when the device builds it, ciphertext, tag. -/
def sealOut (alg : AeadAlg) (prefix_ key iv : Bytes) (tlen : Nat) (aad pt : Bytes) : Bytes :=
  let ct := alg.crypt key iv pt
  prefix_ ++ ct ++ alg.tag key iv tlen aad ct

/-- The result of an open of ciphertext and tag: in HOLD mode nothing is written on a tag failure, in
ZERO mode the plaintext has been (R213, R214). -/
def openOut (alg : AeadAlg) (key iv : Bytes) (tlen : Nat) (aad ct tag : Bytes) (hold : Bool)
    (w2 : Nat) : JobResult :=
  let pt := alg.crypt key iv ct
  if sameBytes (alg.tag key iv tlen aad ct) tag then okOut pt w2
  else failOut .authFail (if hold then [] else pt) w2

/-- The payload of a seal. -/
def Work.payload (w : Work) : Bytes := w.inp.drop w.c.aadLen

/-- The AAD. -/
def Work.aad (w : Work) : Bytes := w.inp.take w.c.aadLen

/-- The ciphertext of an open with a tag of `t` bytes, as far as it has been read. -/
def Work.openCt (w : Work) (t : Nat) : Bytes := slice w.c.aadLen (w.c.inLen - w.c.aadLen - t) w.inp

/-- GCM and ChaCha20-Poly1305 seal (R209, R210). -/
def sealVerb (alg : AeadAlg) (classes : List Nat) : VerbSpec where
  plan a := keyPlan a.c.keySlot classes uENC 1
  own a := firstFail [
    (a.c.fieldsOk true false .data0 .data true true, .badParam),
    (a.c.aadLen ≤ a.c.inLen, .badParam),
    (a.c.parLen == 12 || a.c.parLen == 4, .badParam),
    (a.c.room (a.c.inLen - a.c.aadLen + 16 + (if a.c.parLen = 4 then 12 else 0)), .outFull)]
  run w :=
    let iv := ivOf w.ps w.ctr
    okOut (sealOut alg (if w.ps.length = 4 then iv else []) w.key iv 16 w.aad w.payload) w.inp.length
  partialOut w :=
    let iv := ivOf w.ps w.ctr
    (if w.ps.length = 4 then iv else []) ++ alg.crypt w.key iv w.payload

/-- GCM and ChaCha20-Poly1305 open (R209, R210, R213, R214). -/
def openVerb (alg : AeadAlg) (classes : List Nat) : VerbSpec where
  plan a := keyPlan a.c.keySlot classes uDEC 1
  own a := firstFail [
    (a.c.fieldsOk true false .data .data true true, .badParam),
    (a.c.aadLen + 16 ≤ a.c.inLen, .badParam), (a.c.parLen == 12, .badParam),
    (!(a.d.chan a.n).holdMode || a.c.inLen - a.c.aadLen - 16 ≤ 16384, .tooLong),
    (a.c.room (a.c.inLen - a.c.aadLen - 16), .outFull)]
  run w := openOut alg w.key w.ps 16 w.aad (w.openCt 16) (w.inp.drop (w.c.inLen - 16)) w.hold
    w.inp.length
  partialOut w := if w.hold then [] else alg.crypt w.key w.ps (w.openCt 16)

/-- AES_GCM_SEAL. -/
def execAesGcmSeal (n : Chn) (sid : Nat) (s : State) : Out :=
  onDev (dispatchVerb 0x14 (sealVerb gcmAlg aeadClasses) n sid) s

/-- AES_GCM_OPEN. -/
def execAesGcmOpen (n : Chn) (sid : Nat) (s : State) : Out :=
  onDev (dispatchVerb 0x15 (openVerb gcmAlg aeadClasses) n sid) s

/-- CHACHA_POLY_SEAL. -/
def execChachaPolySeal (n : Chn) (sid : Nat) (s : State) : Out :=
  onDev (dispatchVerb 0x19 (sealVerb chachaAlg [0x14]) n sid) s

/-- CHACHA_POLY_OPEN. -/
def execChachaPolyOpen (n : Chn) (sid : Nat) (s : State) : Out :=
  onDev (dispatchVerb 0x1A (openVerb chachaAlg [0x14]) n sid) s

/-- Whether a CCM parameter block is one R212 accepts. -/
def ccmParOk (c : Clause) (ps : Bytes) : Bool :=
  [4, 6, 8, 10, 12, 14, 16].contains (par8 ps 0) && 7 ≤ par8 ps 1 && par8 ps 1 ≤ 13
    && c.parLen == 2 + par8 ps 1

/-- Whether a payload is short enough for the nonce length (R212). -/
def ccmFits (ps : Bytes) (len : Nat) : Bool := len < 2 ^ (8 * (15 - par8 ps 1))

/-- AES-CCM seal. -/
def ccmSealVerb : VerbSpec where
  plan a := keyPlan a.c.keySlot aeadClasses uENC 1
  own a := firstFail [
    (a.c.fieldsOk true false .data0 .data true true, .badParam),
    (a.c.aadLen ≤ a.c.inLen, .badParam), (ccmParOk a.c a.ps, .badParam),
    (ccmFits a.ps (a.c.inLen - a.c.aadLen), .tooLong),
    (a.c.room (a.c.inLen - a.c.aadLen + par8 a.ps 0), .outFull)]
  run w := okOut (sealOut ccmAlg [] w.key (w.ps.drop 2) (par8 w.ps 0) w.aad w.payload) w.inp.length
  partialOut w := ccmCrypt w.key (w.ps.drop 2) w.payload

/-- AES-CCM open. -/
def ccmOpenVerb : VerbSpec where
  plan a := keyPlan a.c.keySlot aeadClasses uDEC 1
  own a := firstFail [
    (a.c.fieldsOk true false .data .data true true, .badParam),
    (ccmParOk a.c a.ps, .badParam),
    (a.c.aadLen + par8 a.ps 0 ≤ a.c.inLen, .badParam),
    (ccmFits a.ps (a.c.inLen - a.c.aadLen - par8 a.ps 0), .tooLong),
    (!(a.d.chan a.n).holdMode || a.c.inLen - a.c.aadLen - par8 a.ps 0 ≤ 16384, .tooLong),
    (a.c.room (a.c.inLen - a.c.aadLen - par8 a.ps 0), .outFull)]
  run w :=
    let t := par8 w.ps 0
    openOut ccmAlg w.key (w.ps.drop 2) t w.aad (w.openCt t) (w.inp.drop (w.c.inLen - t)) w.hold
      w.inp.length
  partialOut w := if w.hold then [] else ccmCrypt w.key (w.ps.drop 2) (w.openCt (par8 w.ps 0))

/-- AES_CCM_SEAL. -/
def execAesCcmSeal (n : Chn) (sid : Nat) (s : State) : Out :=
  onDev (dispatchVerb 0x16 ccmSealVerb n sid) s

/-- AES_CCM_OPEN. -/
def execAesCcmOpen (n : Chn) (sid : Nat) (s : State) : Out :=
  onDev (dispatchVerb 0x17 ccmOpenVerb n sid) s

/-! ### Key wrap and unwrap (R215, R216) -/

/-- The classes KEY_WRAP exports. -/
def wrapClasses : List Nat := [0x10, 0x11, 0x12, 0x13, 0x14, 0x18, 0x19, 0x1A, 0x1B]

/-- KEY_WRAP: the subject's KAB, ORIGIN 1 and limit its remaining budget, and its key, under the KEK. -/
def keyWrapVerb : VerbSpec where
  plan a := ⟨[⟨a.c.keySlot, [0x15], uWRAP⟩, ⟨a.c.dstSlot, wrapClasses, uEXPORT⟩], none,
    [(a.c.keySlot, 1)], [a.c.dstSlot]⟩
  own a := firstFail [
    (a.c.fieldsOk true true .no .data false false, .badParam),
    (a.c.room (16 + a.d.slotLen a.c.dstSlot), .outFull)]
  run w :=
    match w.d.ks.slot w.c.dstSlot with
    | some k => okOut (keyWrap w.key (kabBytes k.cls k.usage true (k.limit - k.ctr) ++ w.key2)) 0
    | none => okOut [] 0

/-- KEY_WRAP. -/
def execKeyWrap (n : Chn) (sid : Nat) (s : State) : Out := onDev (dispatchVerb 0x1B keyWrapVerb n sid) s

/-- What a recovered blob leads to (R216); a class its slot kind cannot hold is KEY_DENIED
(12 R278, row 4). -/
def unwrapResult (dst len : Nat) (m : Option Bytes) : JobResult :=
  match m with
  | none => failOut .authFail [] len
  | some pt =>
    let k := kabAt pt 0
    if k.origin then failOut .keyDenied [] len
    else if !k.symBody || 8 + 8 * k.len + 8 != len then failOut .badParam [] len
    else if !kindHolds dst k.cls then failOut .keyDenied [] len
    else { okOut [] len with good := [.putKey (k.dest dst) (slice 8 (8 * k.len) pt)] }

/-- KEY_UNWRAP. -/
def keyUnwrapVerb : VerbSpec where
  plan a := ⟨[⟨a.c.keySlot, [0x15], uUNWRAP⟩], some (a.c.dstSlot, 0xFF), [(a.c.keySlot, 1)], []⟩
  own a := firstFail [
    (a.c.fieldsOk true true .data .no false false, .badParam),
    (a.c.inLen == 32 || a.c.inLen == 48 || a.c.inLen == 64, .badParam)]
  dest a := some ⟨a.c.dstSlot, 0, 0, 0⟩
  run w := unwrapResult w.c.dstSlot w.inp.length (keyUnwrap w.key w.inp)

/-- KEY_UNWRAP. -/
def execKeyUnwrap (n : Chn) (sid : Nat) (s : State) : Out :=
  onDev (dispatchVerb 0x1C keyUnwrapVerb n sid) s

end Sys2Proof.Machine
end

