-- ==== Sys2Proof/Machine/Hashing.lean ====
section
/-!
DEFINITION. The hash verbs 0x20–0x2F: digests, XOFs, HMAC, HKDF, saved hash states (09 R217–R224).
-/

namespace Sys2Proof.Machine

/-! ### Digests (R217) -/

/-- A digest verb of `len` bytes. -/
def digestVerb (len : Nat) (h : Bytes → Bytes) : VerbSpec where
  own a := firstFail [
    (a.c.fieldsOk false false .data0 .data false false, .badParam), (a.c.room len, .outFull)]
  run w := okOut (h w.inp) w.inp.length

/-- An XOF verb: exactly W5 bytes. -/
def xofVerb (h : Nat → Bytes → Bytes) : VerbSpec where
  own a := firstFail [
    (a.c.fieldsOk false false .data0 .data false false, .badParam),
    (1 ≤ a.c.outCap && a.c.outCap ≤ 32768, .badParam)]
  run w := okOut (h w.c.outCap w.inp) w.inp.length

/-- SHA_256. -/
def execSha256 (n : Chn) (sid : Nat) (s : State) : Out :=
  onDev (dispatchVerb 0x20 (digestVerb 32 sha256) n sid) s

/-- SHA_384. -/
def execSha384 (n : Chn) (sid : Nat) (s : State) : Out :=
  onDev (dispatchVerb 0x21 (digestVerb 48 sha384) n sid) s

/-- SHA_512. -/
def execSha512 (n : Chn) (sid : Nat) (s : State) : Out :=
  onDev (dispatchVerb 0x22 (digestVerb 64 sha512) n sid) s

/-- SHA3_256. -/
def execSha3256 (n : Chn) (sid : Nat) (s : State) : Out :=
  onDev (dispatchVerb 0x23 (digestVerb 32 sha3_256) n sid) s

/-- SHA3_512. -/
def execSha3512 (n : Chn) (sid : Nat) (s : State) : Out :=
  onDev (dispatchVerb 0x24 (digestVerb 64 sha3_512) n sid) s

/-- SHAKE128. -/
def execShake128 (n : Chn) (sid : Nat) (s : State) : Out :=
  onDev (dispatchVerb 0x25 (xofVerb shake128) n sid) s

/-- SHAKE256. -/
def execShake256 (n : Chn) (sid : Nat) (s : State) : Out :=
  onDev (dispatchVerb 0x26 (xofVerb shake256) n sid) s

/-! ### HMAC (R218) -/

/-- The secret classes. -/
def secretClasses : List Nat := [0x1A, 0x1B]

/-- HMAC: generation, or verification of 16 to HashLen leading bytes. -/
def hmacVerb (h : HmacHash) (cls : Nat) : VerbSpec where
  plan a := ⟨[⟨a.c.keySlot, [cls], uMAC⟩], none, [(a.c.keySlot, 1)], []⟩
  own a := firstFail [
    (a.c.fieldsOk true false .data0 (if a.c.parLen = 0 then .data else .no) true false, .badParam),
    (a.c.parLen == 0 || (16 ≤ a.c.parLen && a.c.parLen ≤ h.len), .badParam),
    (a.c.parLen != 0 || a.c.room h.len, .outFull)]
  run w :=
    let t := hmac h w.key w.inp
    if w.ps = [] then okOut t w.inp.length
    else if sameBytes (t.take w.ps.length) w.ps then okOut [] w.inp.length
    else failOut .authFail [] w.inp.length

/-- HMAC_SHA256. -/
def execHmacSha256 (n : Chn) (sid : Nat) (s : State) : Out :=
  onDev (dispatchVerb 0x28 (hmacVerb .sha256 0x18) n sid) s

/-- HMAC_SHA384. -/
def execHmacSha384 (n : Chn) (sid : Nat) (s : State) : Out :=
  onDev (dispatchVerb 0x29 (hmacVerb .sha384 0x19) n sid) s

/-! ### Derivation into slots (R219–R222) -/

/-- The hash a HASH byte names. -/
def hashOfCode (c : Nat) : HmacHash := if c = 2 then .sha384 else .sha256

/-- Whether a HASH byte is defined. -/
def hashCodeOk (c : Nat) : Bool := c == 1 || c == 2

/-- HKDF_EXTRACT flags. -/
def zeroIkm (ps : Bytes) : Bool := (par8 ps 1).testBit 0

/-- SALTSLOT of HKDF_EXTRACT. -/
def saltSlot (ps : Bytes) : Bool := (par8 ps 1).testBit 1

/-- A destination key put by a run. -/
def putResult (dk : DestKey) (value : Bytes) (w2 : Nat) : JobResult :=
  { okOut [] w2 with good := [.putKey dk (value.take (classLen dk.cls))] }

/-- HKDF_EXTRACT (R220). -/
def extractVerb : VerbSpec where
  plan a :=
    let ikm := if zeroIkm a.ps then [] else [(a.c.keySlot, 1)]
    let salt := if saltSlot a.ps then [(par16 a.ps 2, 1)] else []
    ⟨(ikm ++ salt).map (fun x => ⟨x.1, secretClasses, uDERIVE⟩),
      some (a.c.dstSlot, (kabAt a.ps 4).planCls), ikm ++ salt, []⟩
  own a := firstFail [
    (a.c.fieldsOk (!zeroIkm a.ps) true (if saltSlot a.ps then .no else .data0) .no true false, .badParam),
    (a.c.parLen == 12 && hashCodeOk (par8 a.ps 0) && par8 a.ps 1 ≤ 3
      && (saltSlot a.ps || par16 a.ps 2 == 0), .badParam),
    ((kabAt a.ps 4).symOk && (kabAt a.ps 4).cls == (if par8 a.ps 0 = 1 then 0x1A else 0x1B), .badParam),
    (saltSlot a.ps || a.c.inLen ≤ 128, .tooLong)]
  dest a := some ((kabAt a.ps 4).dest a.c.dstSlot)
  run w :=
    let h := hashOfCode (par8 w.ps 0)
    let ikm := if zeroIkm w.ps then zeros h.len else w.key
    let salt := if saltSlot w.ps then (if zeroIkm w.ps then w.key else w.key2)
      else if w.inp = [] then zeros h.len else w.inp
    putResult ((kabAt w.ps 4).dest w.c.dstSlot) (hkdfExtract h salt ikm) w.inp.length

/-- HKDF_EXTRACT. -/
def execHkdfExtract (n : Chn) (sid : Nat) (s : State) : Out :=
  onDev (dispatchVerb 0x2A extractVerb n sid) s

/-- TOOUT of an expansion. -/
def toOut (ps : Bytes) : Bool := (par8 ps 1).testBit 0

/-- The slots of an expansion: with TOOUT the source also carries EXPORT. -/
def expandPlan (a : Ask) : SlotPlan :=
  let src : SrcReq := ⟨a.c.keySlot, secretClasses, uDERIVE⟩
  if toOut a.ps then ⟨[src, { src with usage := uEXPORT }], none, [(a.c.keySlot, 1)], []⟩
  else ⟨[src], some (a.c.dstSlot, (kabAt a.ps 4).planCls), [(a.c.keySlot, 1)], []⟩

/-- The checks an expansion shares with TLS13_EXPAND_LABEL: HASH, PRK length, L and the KAB
(R221). -/
def expandOk (a : Ask) : Bool :=
  let h := hashOfCode (par8 a.ps 0)
  let l := par16 a.ps 2
  hashCodeOk (par8 a.ps 0) && h.len ≤ a.d.slotLen a.c.keySlot
    && (if toOut a.ps then 1 ≤ l && l ≤ 255 * h.len && slice 4 8 a.ps == zeros 8
        else (kabAt a.ps 4).symOk && l == classLen (kabAt a.ps 4).cls)

/-- The destination of an expansion. -/
def expandDest (a : Ask) : Option DestKey :=
  if toOut a.ps then none else some ((kabAt a.ps 4).dest a.c.dstSlot)

/-- The end of an expansion: its bytes to the output or the slot. -/
def expandEnd (w : Work) (okm : Bytes) : JobResult :=
  if toOut w.ps then okOut okm w.inp.length
  else putResult ((kabAt w.ps 4).dest w.c.dstSlot) okm w.inp.length

/-- HKDF_EXPAND (R221). -/
def expandVerb : VerbSpec where
  plan := expandPlan
  own a := firstFail [
    (a.c.fieldsOk true (!toOut a.ps) .data0 (if toOut a.ps then .data else .no) true false, .badParam),
    (a.c.parLen == 12 && par8 a.ps 1 ≤ 1, .badParam), (expandOk a, .badParam),
    (a.c.inLen ≤ 1024, .tooLong), (!toOut a.ps || a.c.room (par16 a.ps 2), .outFull)]
  dest := expandDest
  run w := expandEnd w (hkdfExpand (hashOfCode (par8 w.ps 0)) w.key w.inp (par16 w.ps 2))

/-- HKDF_EXPAND. -/
def execHkdfExpand (n : Chn) (sid : Nat) (s : State) : Out :=
  onDev (dispatchVerb 0x2B expandVerb n sid) s

/-- TLS13_EXPAND_LABEL (R222). -/
def labelVerb : VerbSpec where
  plan := expandPlan
  own a := firstFail [
    (a.c.fieldsOk true (!toOut a.ps) .data0 (if toOut a.ps then .data else .no) true false, .badParam),
    (a.c.parLen == 13 + par8 a.ps 12 && 1 ≤ par8 a.ps 12 && par8 a.ps 12 ≤ 64 && par8 a.ps 1 ≤ 3,
      .badParam),
    (expandOk a, .badParam), (a.c.inLen ≤ 64, .tooLong),
    (!toOut a.ps || a.c.room (par16 a.ps 2), .outFull)]
  dest := expandDest
  run w :=
    let pre := if (par8 w.ps 1).testBit 1 then "dtls13" else "tls13 "
    expandEnd w (expandLabel (hashOfCode (par8 w.ps 0)) pre w.key (w.ps.drop 13) w.inp (par16 w.ps 2))

/-- TLS13_EXPAND_LABEL. -/
def execTls13ExpandLabel (n : Chn) (sid : Nat) (s : State) : Out :=
  onDev (dispatchVerb 0x2C labelVerb n sid) s

/-! ### Saved hash state (R223, R224) -/

/-- The block (SHA-2) or rate (SHA-3) of an algorithm of Table 09.9. -/
def algBlock (alg : Nat) : Nat :=
  if alg = 0x20 then 64 else if alg = 0x21 ∨ alg = 0x22 then 128
  else if alg = 0x24 then 72 else if alg = 0x25 then 168 else 136

/-- Whether an algorithm is SHA-2. -/
def algSha2 (alg : Nat) : Bool := alg == 0x20 || alg == 0x21 || alg == 0x22

/-- The full record length of an algorithm. -/
def algRecord (alg : Nat) : Nat := if alg = 0x20 then 104 else if algSha2 alg then 200 else 208

/-- The digest length of an algorithm; 0 for the XOFs. -/
def algOut (alg : Nat) : Nat :=
  if alg = 0x20 ∨ alg = 0x23 then 32 else if alg = 0x21 then 48
  else if alg = 0x22 ∨ alg = 0x24 then 64 else 0

/-- The count of a record. -/
def recCount (ps : Bytes) : Nat := beNat (slice 2 6 ps)

/-- The bytes past the tail of a SHA-2 record are zero. -/
def tailZero (ps : Bytes) : Bool :=
  let alg := par8 ps 0
  let h := if alg = 0x20 then 32 else 64
  !algSha2 alg || (ps.drop (8 + h + recCount ps % algBlock alg)).all (· == 0)

/-- Whether a state record may be a parameter (R224). -/
def recordOk (c : Clause) (ps : Bytes) : Bool :=
  let alg := par8 ps 0
  0x20 ≤ alg && alg ≤ 0x26 && par8 ps 1 == 1
    && ((c.parLen == 8 && recCount ps == 0) || (c.parLen == algRecord alg && tailZero ps))

/-- Keccak lanes from the byte string of a state. -/
def keccakOf (bs : Bytes) : Keccak := (chunks 8 bs).map (fun c => BitVec.ofNat 64 (leNat c))

/-- Eight-byte words of SHA-384 and SHA-512. -/
def words64 (bs : Bytes) : List (BitVec 64) := (chunks 8 bs).map (fun c => BitVec.ofNat 64 (beNat c))

/-- Four-byte words of SHA-256. -/
def words32 (bs : Bytes) : List Word := (chunks 4 bs).map (fun c => BitVec.ofNat 32 (beNat c))

/-- The chaining value of a SHA-256 record. -/
def chain256 (ps : Bytes) : Sha256Chain :=
  if ps.length = 8 then sha256Iv else sha256Of (words32 (slice 8 32 ps))

/-- The chaining value of a SHA-384 or SHA-512 record. -/
def chain512 (ps : Bytes) : Sha512Chain :=
  if ps.length = 8 then (if par8 ps 0 = 0x21 then sha384Iv else sha512Iv)
  else sha512Of (words64 (slice 8 64 ps))

/-- The sponge of a SHA-3 or SHAKE record. -/
def spongeOf (ps : Bytes) : Keccak := if ps.length = 8 then keccakZero else keccakOf (slice 8 200 ps)

/-- The unprocessed bytes of a record: the tail of SHA-2; for SHA-3, zeros in place of the bytes that
already stand in the sponge. -/
def recTail (ps : Bytes) : Bytes :=
  let alg := par8 ps 0
  let k := recCount ps % algBlock alg
  if algSha2 alg then (if ps.length = 8 then [] else slice (if alg = 0x20 then 40 else 72) k ps)
  else zeros k

/-- The record after absorbing input (R223). -/
def saveRecord (ps inp : Bytes) : Bytes :=
  let alg := par8 ps 0
  let b := algBlock alg
  let m := recTail ps ++ inp
  let whole := m.take (m.length / b * b)
  let tail := m.drop (m.length / b * b)
  let head := [BitVec.ofNat 8 alg, 0x01] ++ natBE 6 (recCount ps + inp.length)
  if alg = 0x20 then head ++ sha256Out (sha256Absorb (chain256 ps) whole) ++ padTo 64 tail
  else if algSha2 alg then head ++ sha512Out (sha512Absorb (chain512 ps) whole) ++ padTo 128 tail
  else head ++ kbytes (kxor (kabsorb b (spongeOf ps) whole) tail)

/-- The digest from a record and further input: `len` bytes for an XOF (R224). -/
def resumeDigest (ps inp : Bytes) (len : Nat) : Bytes :=
  let alg := par8 ps 0
  let done := recCount ps - (recTail ps).length
  let m := recTail ps ++ inp
  if alg = 0x20 then sha256Finish (chain256 ps) done m
  else if algSha2 alg then (sha512Finish (chain512 ps) done m).take (algOut alg)
  else if alg = 0x25 ∨ alg = 0x26 then kfinish (algBlock alg) 0x1f len (spongeOf ps) m
  else kfinish (algBlock alg) 0x06 (algOut alg) (spongeOf ps) m

/-- HASH_SAVE (R224). -/
def hashSaveVerb : VerbSpec where
  own a := firstFail [
    (a.c.fieldsOk false false .data0 .data true false, .badParam), (recordOk a.c a.ps, .badParam),
    (recCount a.ps + a.c.inLen < 2 ^ 48, .tooLong), (a.c.room (algRecord (par8 a.ps 0)), .outFull)]
  run w := okOut (saveRecord w.ps w.inp) w.inp.length

/-- HASH_SAVE. -/
def execHashSave (n : Chn) (sid : Nat) (s : State) : Out :=
  onDev (dispatchVerb 0x2E hashSaveVerb n sid) s

/-- HASH_RESUME (R224). -/
def hashResumeVerb : VerbSpec where
  own a :=
    let xof := par8 a.ps 0 == 0x25 || par8 a.ps 0 == 0x26
    firstFail [
      (a.c.fieldsOk false false .data0 .data true false, .badParam), (recordOk a.c a.ps, .badParam),
      (!xof || (1 ≤ a.c.outCap && a.c.outCap ≤ 32768), .badParam),
      (recCount a.ps + a.c.inLen < 2 ^ 48, .tooLong), (a.c.room (algOut (par8 a.ps 0)), .outFull)]
  run w := okOut (resumeDigest w.ps w.inp w.c.outCap) w.inp.length

/-- HASH_RESUME. -/
def execHashResume (n : Chn) (sid : Nat) (s : State) : Out :=
  onDev (dispatchVerb 0x2F hashResumeVerb n sid) s

end Sys2Proof.Machine
end

