-- ==== Sys2Proof/Machine/Rsa.lean ====
section
/-!
DEFINITION. RSASSA-PKCS1-v1_5 and RSASSA-PSS. The manual names RFC 8017 (00_scope.md R18) without
repeating it: the encodings are PRESUMED from it (log entry 2).
-/

namespace Sys2Proof.Machine

/-- The message hashes of the message block (11_public_key_and_lattice.md R256). -/
inductive MsgHash where
  | sha256
  | sha384
  | sha512
  deriving DecidableEq, Repr

/-- The hash named by byte 0 of the message block. -/
def MsgHash.ofCode (c : Nat) : Option MsgHash :=
  if c = 1 then some .sha256 else if c = 2 then some .sha384 else if c = 3 then some .sha512 else none

/-- The digest length. -/
def MsgHash.len : MsgHash → Nat
  | .sha256 => 32
  | .sha384 => 48
  | .sha512 => 64

/-- The digest. -/
def MsgHash.hash : MsgHash → Bytes → Bytes
  | .sha256, m => Machine.sha256 m
  | .sha384, m => Machine.sha384 m
  | .sha512, m => Machine.sha512 m

/-- The last byte of the object identifier of the hash. -/
def MsgHash.oid : MsgHash → Byte
  | .sha256 => 1
  | .sha384 => 2
  | .sha512 => 3

/-- The DigestInfo of a digest: a sequence of the algorithm identifier and the octet string. -/
def digestInfo (h : MsgHash) (dg : Bytes) : Bytes :=
  let oid : Bytes := [0x60, 0x86, 0x48, 0x01, 0x65, 0x03, 0x04, 0x02, h.oid]
  let alg : Bytes := [0x30, 0x0d, 0x06, 0x09] ++ oid ++ [0x05, 0x00]
  [0x30, BitVec.ofNat 8 (17 + h.len)] ++ alg ++ [0x04, BitVec.ofNat 8 h.len] ++ dg

/-- EMSA-PKCS1-v1_5 of `len` bytes. -/
def pkcs1Encode (h : MsgHash) (len : Nat) (dg : Bytes) : Bytes :=
  let t := digestInfo h dg
  [0x00, 0x01] ++ List.replicate (len - 3 - t.length) 0xff ++ [0x00] ++ t

/-- The blocks of MGF1. -/
def mgf1Blocks (h : MsgHash) (seed : Bytes) : Nat → Nat → Bytes
  | 0, _ => []
  | n + 1, i => h.hash (seed ++ natBE 4 i) ++ mgf1Blocks h seed n (i + 1)

/-- MGF1 of `len` bytes. -/
def mgf1 (h : MsgHash) (seed : Bytes) (len : Nat) : Bytes :=
  (mgf1Blocks h seed (ceilDiv len h.len) 0).take len

/-- The first byte without its top bit: the encoded message has one bit less than the modulus. -/
def clearTop : Bytes → Bytes
  | [] => []
  | b :: bs => (b &&& 0x7f) :: bs

/-- EMSA-PSS encoding for a modulus of `len` bytes with a given salt. -/
def pssEncode (h : MsgHash) (len : Nat) (dg salt : Bytes) : Bytes :=
  let hh := h.hash (zeros 8 ++ dg ++ salt)
  let db := zeros (len - salt.length - h.len - 2) ++ [0x01] ++ salt
  clearTop (xorBytes db (mgf1 h hh (len - h.len - 1))) ++ hh ++ [0xbc]

/-- The salt behind the zeros and the 0x01 of a data block. -/
def pssSalt : Bytes → Option Bytes
  | [] => none
  | b :: bs => if b = 0 then pssSalt bs else if b = 1 then some bs else none

/-- EMSA-PSS verification; `slen` none admits any salt length. -/
def pssVerify (h : MsgHash) (len : Nat) (dg em : Bytes) (slen : Option Nat) : Bool :=
  let db' := em.take (len - h.len - 1)
  let hh := slice (len - h.len - 1) h.len em
  let db := clearTop (xorBytes db' (mgf1 h hh (len - h.len - 1)))
  match pssSalt db with
  | none => false
  | some salt =>
    em.getLastD 0 == 0xbc && (em.headD 0).toNat < 128 &&
      (match slen with
        | none => true
        | some n => salt.length == n) &&
      h.hash (zeros 8 ++ dg ++ salt) == hh

/-- The private values of a large slot (11_public_key_and_lattice.md R253). -/
structure RsaKey where
  p : Nat
  q : Nat
  dp : Nat
  dq : Nat
  qinv : Nat
  e : Nat
  deriving DecidableEq, Repr

/-- The stored value: five values of half the modulus length and four bytes of e. -/
def RsaKey.bytes (half : Nat) (k : RsaKey) : Bytes :=
  natBE half k.p ++ natBE half k.q ++ natBE half k.dp ++ natBE half k.dq ++ natBE half k.qinv
    ++ natBE 4 k.e

/-- The stored value read back. -/
def rsaOfBytes (half : Nat) (bs : Bytes) : RsaKey :=
  { p := beNat (slice 0 half bs)
    q := beNat (slice half half bs)
    dp := beNat (slice (2 * half) half bs)
    dq := beNat (slice (3 * half) half bs)
    qinv := beNat (slice (4 * half) half bs)
    e := beNat (slice (5 * half) 4 bs) }

/-- The private operation with CRT. -/
def RsaKey.sign (k : RsaKey) (m : Nat) : Nat :=
  let mp := powMod m k.dp k.p
  let mq := powMod m k.dq k.q
  mq + k.q * (k.qinv * subMod mp mq k.p % k.p)

/-- The recombination and re-encryption checks of R267. -/
def RsaKey.signHolds (k : RsaKey) (m s : Nat) : Bool :=
  s % k.p == powMod m k.dp k.p && s % k.q == powMod m k.dq k.q && powMod s k.e (k.p * k.q) == m

/-- The odd part of a number and the exponent of 2 taken from it, with fuel. -/
def splitTwos : Nat → Nat → Nat × Nat
  | 0, n => (n, 0)
  | f + 1, n => if n % 2 = 0 then ((splitTwos f (n / 2)).1, (splitTwos f (n / 2)).2 + 1) else (n, 0)

/-- Whether a square of `x`, at most `k` times squared, is n - 1. -/
def squaresTo (n : Nat) : Nat → Nat → Bool
  | 0, _ => false
  | k + 1, x => x == n - 1 || squaresTo n k (x * x % n)

/-- One round of the Miller–Rabin test of an odd n with a base (FIPS 186-5, B.3.1). -/
def millerRabin (n b : Nat) : Bool :=
  let r := splitTwos 4096 (n - 1)
  let z := powMod b r.1 n
  z == 1 || squaresTo n r.2 z

/-- The rounds of Miller–Rabin made on a candidate: FIPS 186-5 asks for at least 5 for the sizes used. -/
def primeRounds : Nat := 5

/-- Whether a candidate of `bits` bits is accepted as the next prime after those in `ps` for the exponent e (FIPS
186-5, A.1.3): odd, at least √2 · 2^(bits - 1), p - 1 prime to e, probably prime; the second far enough from
the first, and the private exponent above 2^bits. -/
def primeOk (bits e : Nat) (ps : List Nat) (round p : Nat) : Bool :=
  p % 2 == 1 && p < 2 ^ bits && 2 ^ (2 * bits - 1) ≤ p * p && Nat.gcd (p - 1) e == 1
    && (List.range primeRounds).all (fun i => millerRabin p (2 + Config.primeBase round i % (p - 3)))
    && ps.all (fun q => (if p ≤ q then q - p else p - q) > 2 ^ (bits - 100)
      && (match invMod e (Nat.lcm (p - 1) (q - 1)) with
        | some d => 2 ^ bits < d
        | none => false))

/-- The key made from two primes and e, when e is invertible. -/
def rsaOfPrimes (p q e : Nat) : Option RsaKey :=
  match invMod e (p - 1), invMod e (q - 1), invMod q p with
  | some dp, some dq, some qi => some ⟨p, q, dp, dq, qi, e⟩
  | _, _, _ => none

end Sys2Proof.Machine
end

