-- ==== Sys2Proof/Machine/PublicKey.lean ====
section
/-!
DEFINITION. The public-key and lattice verbs 0x50–0x5F and the presignature pool
(11_public_key_and_lattice.md R253–R273), and the class-H steps of their clauses (R256, R266).
-/

namespace Sys2Proof.Machine

/-! ### Shared forms (R256) -/

/-- The message block of a signature verb. -/
structure MsgBlock where
  hash : Nat
  flags : Nat
  scheme : Nat
  salt : Nat
  deriving DecidableEq, Repr

/-- The block at the start of a parameter string. -/
def msgBlock (ps : Bytes) : MsgBlock := ⟨par8 ps 0, par8 ps 1, par8 ps 2, par8 ps 3⟩

/-- The hash it names. -/
def MsgBlock.h (b : MsgBlock) : MsgHash := (MsgHash.ofCode b.hash).getD .sha256

/-- PREHASHED. -/
def MsgBlock.pre (b : MsgBlock) : Bool := b.flags == 1

/-- A block an ECDSA verb accepts with `len` input bytes. -/
def MsgBlock.eccOk (b : MsgBlock) (len : Nat) : Bool :=
  (MsgHash.ofCode b.hash).isSome && b.flags ≤ 1 && b.scheme == 0 && b.salt == 0
    && (!b.pre || len == b.h.len)

/-- A block an RSA verb accepts with `len` input bytes; `any` admits SALT 0xFF. -/
def MsgBlock.rsaOk (b : MsgBlock) (any : Bool) (len : Nat) : Bool :=
  (MsgHash.ofCode b.hash).isSome && b.flags ≤ 1 && (b.scheme == 1 || b.scheme == 2)
    && (if b.scheme = 1 then b.salt == 0 else b.salt ≤ 64 || (any && b.salt == 0xFF))
    && (!b.pre || len == b.h.len)

/-- The digest of an input. -/
def MsgBlock.digest (b : MsgBlock) (inp : Bytes) : Bytes := if b.pre then inp else b.h.hash inp

/-- The class of a key slot, 0 where it holds none. -/
def Dev.slotCls (d : Dev) (s : Nat) : Nat := ((d.ks.slot s).map (·.cls)).getD 0

/-- The curve of a class. -/
def curveOf (cls : Nat) : Curve := if cls = 0x20 ∨ cls = 0x21 then p256 else p384

/-- A scalar of a curve from a draw, 1 to n - 1 (log entry 1). -/
def drawScalar (c : Curve) (rnd : Bytes) : Nat := Config.scalarOf (c.n - 1) rnd % (c.n - 1) + 1

/-- A digest the input string stands for, and BAD_PARAM forms a verification shares. -/
def verifyFields (a : Ask) : Bool := a.c.fieldsOk false false .data0 .no true false

/-- A verification's result: nothing written (R262). -/
def verified (ok : Bool) (w2 : Nat) : JobResult := if ok then okOut [] w2 else failOut .authFail [] w2

/-- The steps of a verb with a message: the message hash before the core is claimed (R256). -/
def messageSteps (a : Ask) : List Step :=
  if hashFirst a.c.verb a.ps then [Step.of .hash a.c.inLen, Step.core] else []

/-! ### ECDSA (R262, R263, R270) -/

/-- Whether a signing clause takes a presignature. -/
def takesPresig (a : Ask) : Bool :=
  a.c.usePresig && a.d.slotCls a.c.keySlot == 0x20 && 5 ≤ a.d.presig.avail.length

/-- The curve, the private scalar and the digest of an ECDSA_SIGN clause. -/
def signInputs (d : Dev) (slot : Nat) (key : Bytes) (ps inp : Bytes) : Curve × Nat × Nat :=
  let c := curveOf (d.slotCls slot)
  (c, beNat key, c.digest ((msgBlock ps).digest inp))

/-- Whether the presignature a clause takes gives s = 0, so that the job goes on with a fresh k (R270). -/
def presigZero (a : Ask) : Bool :=
  takesPresig a && (match a.d.presig.avail.head? with
    | some (_, r, ki) =>
      let x := signInputs a.d a.c.keySlot (a.d.keyValue a.c.keySlot) a.ps a.inp
      x.1.signWith x.2.1 x.2.2 r ki == 0
    | none => false)

/-- The full path with fresh nonces: the first that gives neither r = 0 nor s = 0. -/
def ecdsaFull (c : Curve) (key e : Nat) (rnd : Bytes) : Nat → Option (Nat × Nat)
  | 0 => none
  | t + 1 =>
    let k := drawScalar c (rnd ++ zeros t)
    let r := pointX (c.mul k c.g) % c.n
    match invMod k c.n with
    | some ki =>
      let s := c.signWith key e r ki
      if r = 0 ∨ s = 0 then ecdsaFull c key e rnd t else some (r, s)
    | none => ecdsaFull c key e rnd t

/-- A signature with a presignature, continued on the full path when s = 0. -/
def ecdsaSign (c : Curve) (key e : Nat) (rnd : Bytes) (p : Option (Nat × Nat × Nat)) : Option (Nat × Nat) :=
  match p with
  | some (_, r, ki) =>
    let s := c.signWith key e r ki
    if s = 0 then ecdsaFull c key e rnd 4 else some (r, s)
  | none => ecdsaFull c key e rnd 4

/-- The output of a signature, or INVARIANT. -/
def signOut (o : Option Bytes) (w2 : Nat) : JobResult :=
  match o with
  | some bs => okOut bs w2
  | none => failOut .invariant [] w2

/-- ECDSA_SIGN. -/
def ecdsaSignVerb : VerbSpec where
  plan a := keyPlan a.c.keySlot [0x20, 0x22] uSIGN 1
  own a := firstFail [
    (a.c.fieldsOk true false .data0 .data true false, .badParam),
    (a.c.parLen == 4 && (msgBlock a.ps).eccOk a.c.inLen, .badParam),
    (!a.c.usePresig || a.d.slotCls a.c.keySlot == 0x20, .badParam),
    (a.c.room (2 * a.d.slotLen a.c.keySlot), .outFull)]
  draw a := if takesPresig a && !presigZero a then none else some (.plain (a.d.slotLen a.c.keySlot))
  steps := messageSteps
  presig a := if takesPresig a then a.d.presig.avail.head? else none
  atDispatch a d :=
    if takesPresig a then { d with presig := { d.presig with avail := d.presig.avail.drop 1 } }
    else if a.c.usePresig then
      { d with presig := { d.presig with fallback := min 255 (d.presig.fallback + 1) } }
    else d
  run w :=
    let x := signInputs w.d w.c.keySlot w.key w.ps w.inp
    signOut ((ecdsaSign x.1 x.2.1 x.2.2 w.rnd w.presig).map
      (fun p => natBE x.1.len p.1 ++ natBE x.1.len p.2)) w.inp.length

/-- ECDSA_SIGN. -/
def execEcdsaSign (n : Chn) (sid : Nat) (s : State) : Out := onDev (dispatchVerb 0x50 ecdsaSignVerb n sid) s

/-- Verification against Q ‖ r ‖ s; a point at infinity is the invariant of R267. -/
def ecdsaCheck (c : Curve) (qrs dg : Bytes) (w2 : Nat) : JobResult :=
  match c.decode (qrs.take (1 + 2 * c.len)) with
  | none => failOut .badParam [] w2
  | some q =>
    let r := beNat (slice (1 + 2 * c.len) c.len qrs)
    let s := beNat (slice (1 + 3 * c.len) c.len qrs)
    if r = 0 ∨ c.n ≤ r ∨ s = 0 ∨ c.n ≤ s then failOut .authFail [] w2
    else
      match invMod s c.n with
      | none => failOut .invariant [] w2
      | some i =>
        let e := c.digest dg
        match c.add (c.mul (e * i % c.n) c.g) (c.mul (r * i % c.n) (some q)) with
        | none => failOut .invariant [] w2
        | some (x, _) => verified (x % c.n == r) w2

/-- ECDSA_VERIFY. -/
def ecdsaVerifyVerb : VerbSpec where
  own a := firstFail [
    (verifyFields a, .badParam), (a.c.parLen == 133 || a.c.parLen == 197, .badParam),
    ((msgBlock a.ps).eccOk a.c.inLen, .badParam)]
  steps := messageSteps
  run w := ecdsaCheck (if w.c.parLen = 133 then p256 else p384) (w.ps.drop 4)
    ((msgBlock w.ps).digest w.inp) w.inp.length

/-- ECDSA_VERIFY. -/
def execEcdsaVerify (n : Chn) (sid : Nat) (s : State) : Out :=
  onDev (dispatchVerb 0x51 ecdsaVerifyVerb n sid) s

/-! ### Ed25519 -/

/-- ED25519_SIGN. -/
def ed25519SignVerb : VerbSpec where
  plan a := keyPlan a.c.keySlot [0x25] uSIGN 1
  own a := firstFail [
    (a.c.fieldsOk true false .data0 .data false false, .badParam),
    (hi16 a.c.w2 != 0xFFFF, .badParam), (a.c.inLen ≤ 32768, .tooLong), (a.c.room 64, .outFull)]
  steps := messageSteps
  run w := okOut (edSign w.key w.inp) w.inp.length

/-- ED25519_SIGN. -/
def execEd25519Sign (n : Chn) (sid : Nat) (s : State) : Out :=
  onDev (dispatchVerb 0x54 ed25519SignVerb n sid) s

/-- ED25519_VERIFY. -/
def ed25519VerifyVerb : VerbSpec where
  own a := firstFail [(verifyFields a, .badParam), (a.c.parLen == 96, .badParam)]
  steps := messageSteps
  run w :=
    match edDecode (w.ps.take 32) with
    | none => failOut .badParam [] w.inp.length
    | some q => verified (edVerify q (w.ps.take 32) w.inp (w.ps.drop 32)) w.inp.length

/-- ED25519_VERIFY. -/
def execEd25519Verify (n : Chn) (sid : Nat) (s : State) : Out :=
  onDev (dispatchVerb 0x55 ed25519VerifyVerb n sid) s

/-! ### RSA -/

/-- The half modulus length in bytes of an RSA class. -/
def rsaHalf (cls : Nat) : Nat := if cls = 0x28 then 128 else if cls = 0x29 then 192 else 256

/-- The modulus length in bytes of an RSA_VERIFY parameter length, 0 for none. -/
def rsaVerifyLen (par : Nat) : Nat := if par = 520 then 256 else if par = 776 then 384 else if par = 1032 then 512 else 0

/-- RSA_VERIFY. -/
def rsaVerifyVerb : VerbSpec where
  own a :=
    let len := rsaVerifyLen a.c.parLen
    let n := beNat (slice 8 len a.ps)
    let e := beNat (slice 4 4 a.ps)
    firstFail [
      (verifyFields a, .badParam), (len != 0, .badParam),
      ((msgBlock a.ps).rsaOk true a.c.inLen, .badParam),
      (n % 2 == 1 && 2 ^ (8 * len - 1) ≤ n && e % 2 == 1 && 3 ≤ e, .badParam)]
  steps := messageSteps
  run w :=
    let len := rsaVerifyLen w.c.parLen
    let b := msgBlock w.ps
    let n := beNat (slice 8 len w.ps)
    let s := beNat (slice (8 + len) len w.ps)
    let em := natBE len (powMod s (beNat (slice 4 4 w.ps)) n)
    let dg := b.digest w.inp
    let ok := s < n && (if b.scheme = 1 then sameBytes em (pkcs1Encode b.h len dg)
      else pssVerify b.h len dg em (if b.salt = 0xFF then none else some b.salt))
    verified ok w.inp.length

/-- RSA_VERIFY. -/
def execRsaVerify (n : Chn) (sid : Nat) (s : State) : Out := onDev (dispatchVerb 0x56 rsaVerifyVerb n sid) s

/-- RSA_SIGN. -/
def rsaSignVerb : VerbSpec where
  plan a := keyPlan a.c.keySlot [0x28, 0x29, 0x2A] uSIGN 1
  own a := firstFail [
    (a.c.fieldsOk true false .data0 .data true false, .badParam),
    (a.c.parLen == 4 && (msgBlock a.ps).rsaOk false a.c.inLen, .badParam),
    (a.c.room (2 * rsaHalf (a.d.slotCls a.c.keySlot)), .outFull)]
  draw a :=
    let b := msgBlock a.ps
    if b.scheme = 2 ∧ b.salt ≠ 0 then some (.plain b.salt) else none
  steps := messageSteps
  run w :=
    let half := rsaHalf (w.d.slotCls w.c.keySlot)
    let b := msgBlock w.ps
    let dg := b.digest w.inp
    let em := if b.scheme = 1 then pkcs1Encode b.h (2 * half) dg else pssEncode b.h (2 * half) dg w.rnd
    let k := rsaOfBytes half w.key
    let s := k.sign (beNat em)
    signOut (if k.signHolds (beNat em) s then some (natBE (2 * half) s) else none) w.inp.length

/-- RSA_SIGN. -/
def execRsaSign (n : Chn) (sid : Nat) (s : State) : Out := onDev (dispatchVerb 0x57 rsaSignVerb n sid) s

/-! ### ML-DSA (R264) -/

/-- MLDSA_VERIFY. -/
def mldsaVerifyVerb : VerbSpec where
  own a := firstFail [
    (verifyFields a, .badParam), (a.c.parLen == 5263 + par8 a.ps 1 && par8 a.ps 0 == 0, .badParam)]
  steps := messageSteps
  run w :=
    let c := par8 w.ps 1
    verified (dsaVerify (slice (2 + c) 1952 w.ps) (slice 2 c w.ps) w.inp (slice (1954 + c) 3309 w.ps))
      w.inp.length

/-- MLDSA_VERIFY. -/
def execMldsaVerify (n : Chn) (sid : Nat) (s : State) : Out :=
  onDev (dispatchVerb 0x5C mldsaVerifyVerb n sid) s

/-- MLDSA_SIGN. -/
def mldsaSignVerb : VerbSpec where
  plan a := keyPlan a.c.keySlot [0x34] uSIGN 1
  own a := firstFail [
    (a.c.fieldsOk true false .data0 .data true false, .badParam),
    (2 ≤ a.c.parLen && a.c.parLen == 2 + par8 a.ps 1 && par8 a.ps 0 ≤ 1, .badParam),
    (a.c.room 3309, .outFull)]
  draw a := if par8 a.ps 0 = 1 then none else some (.plain 32)
  steps := messageSteps
  run w :=
    let rnd := if par8 w.ps 0 = 1 then zeros 32 else w.rnd
    signOut (dsaSign (dsaKeyGen w.key) (w.ps.drop 2) w.inp rnd) w.inp.length

/-- MLDSA_SIGN. -/
def execMldsaSign (n : Chn) (sid : Nat) (s : State) : Out := onDev (dispatchVerb 0x5D mldsaSignVerb n sid) s

/-! ### Key pairs (R255, R260, R261) -/

/-- The length of a class's public key (Table 11.1). -/
def pubLen (cls : Nat) : Nat :=
  if cls = 0x20 ∨ cls = 0x21 then 65 else if cls = 0x22 ∨ cls = 0x23 then 97
  else if cls = 0x24 ∨ cls = 0x25 then 32
  else if isRsa cls then 2 * rsaHalf cls
  else if cls = 0x30 then 1184 else if cls = 0x31 then 1568 else if cls = 0x34 then 1952 else 1216

/-- The three parts of a HYBRID-768 key: X25519 scalar, d, z (R255). -/
def hybridParts (sigma : Bytes) : Bytes × Bytes × Bytes :=
  let x := shake256 96 (ascii "AY-HYB" ++ sigma)
  (x.take 32, slice 32 32 x, x.drop 64)

/-- The ML-KEM key of a HYBRID-768 key. -/
def hybridKem (sigma : Bytes) : KemKey := kemKeyGen kem768 (hybridParts sigma).2.1 (hybridParts sigma).2.2

/-- The ML-KEM parameters of a class. -/
def kemOf (cls : Nat) : KemParams := if cls = 0x31 then kem1024 else kem768

/-- The public key of a private value. -/
def publicKey (cls : Nat) (v : Bytes) : Bytes :=
  if 0x20 ≤ cls ∧ cls ≤ 0x23 then (curveOf cls).encode ((curveOf cls).mul (beNat v) (curveOf cls).g)
  else if cls = 0x24 then x25519 v x25519Base
  else if cls = 0x25 then edPublic v
  else if isRsa cls then
    let k := rsaOfBytes (rsaHalf cls) v
    natBE (2 * rsaHalf cls) (k.p * k.q)
  else if cls = 0x30 ∨ cls = 0x31 then (kemKeyGen (kemOf cls) (v.take 32) (v.drop 32)).ek
  else if cls = 0x34 then (dsaKeyGen v).pk
  else (hybridKem v).ek ++ x25519 (hybridParts v).1 x25519Base

/-- The bytes drawn for a new key of a class. For RSA the manual does not state the draw: 48 bytes
stand for it (log entry 1). -/
def drawLen (cls : Nat) : Nat := if isRsa cls then 48 else classLen cls

/-- A new private value from a draw; for RSA from the two primes its rounds have accepted. -/
def privateKey (cls e : Nat) (rnd : Bytes) (primes : List Nat) : Option Bytes :=
  if 0x20 ≤ cls ∧ cls ≤ 0x23 then some (natBE (classLen cls) (drawScalar (curveOf cls) rnd))
  else if isRsa cls then
    (rsaOfPrimes (primes.getD 0 0) (primes.getD 1 0) e).map (RsaKey.bytes (rsaHalf cls))
  else some rnd

/-- Whether a key generation clause republishes. -/
def republishes (c : Clause) : Bool := c.keySlot != 0

/-- A key generation verb over the classes `cs`. -/
def keypairVerb (cs : List Nat) : VerbSpec where
  plan a :=
    if republishes a.c then ⟨[⟨a.c.keySlot, cs, 0⟩], none, [], []⟩
    else ⟨[], some (a.c.dstSlot, (kabAt a.ps 0).planCls), [], []⟩
  own a :=
    let k := kabAt a.ps 0
    let e := beNat (slice 8 4 a.ps)
    if republishes a.c then firstFail [
      (a.c.fieldsOk true false .no .data false false, .badParam),
      (a.c.room (pubLen (a.d.slotCls a.c.keySlot)), .outFull)]
    else firstFail [
      (a.c.fieldsOk false true .no .data true false, .badParam),
      (k.asymOk && cs.contains k.cls && a.c.parLen == (if isRsa k.cls then 12 else 8), .badParam),
      (!isRsa k.cls || (e % 2 == 1 && 2 ^ 16 < e), .badParam),
      (a.c.room (pubLen k.cls), .outFull)]
  draw a := if republishes a.c then none else some (.plain (drawLen (kabAt a.ps 0).cls))
  dest a := if republishes a.c then none else some ((kabAt a.ps 0).dest a.c.dstSlot)
  rounds a := !republishes a.c && isRsa (kabAt a.ps 0).cls
  run w :=
    if republishes w.c then okOut (publicKey (w.d.slotCls w.c.keySlot) w.key) 0
    else
      let k := kabAt w.ps 0
      match privateKey k.cls (beNat (slice 8 4 w.ps)) w.rnd w.primes with
      | none => failOut .invariant [] 0
      | some v => { okOut (publicKey k.cls v) 0 with good := [.putKey (k.dest w.c.dstSlot) v] }

/-- A round of RSA key generation (R261): the candidate it tries is accepted as the next prime, or not. -/
def roundPrimes (ps : Bytes) (rnd : Bytes) (acc : List Nat) (round : Nat) : List Nat :=
  let bits := 8 * rsaHalf (kabAt ps 0).cls
  let p := Config.primeCand bits rnd round
  if primeOk bits (beNat (slice 8 4 ps)) acc round p then acc ++ [p] else acc

/-- KEYPAIR_GEN. -/
def execKeypairGen (n : Chn) (sid : Nat) (s : State) : Out :=
  onDev (dispatchVerb 0x58
    (keypairVerb [0x20, 0x21, 0x22, 0x23, 0x24, 0x25, 0x28, 0x29, 0x2A, 0x34]) n sid) s

/-- MLKEM_KEYGEN. -/
def execMlkemKeygen (n : Chn) (sid : Nat) (s : State) : Out :=
  onDev (dispatchVerb 0x59 (keypairVerb [0x30, 0x31, 0x38]) n sid) s

/-! ### Agreement and encapsulation (R265) -/

/-- A secret KAB of the class given, with DERIVE. -/
def secretKab (k : Kab) (cls : Nat) : Bool := k.symOk && k.cls == cls && uses k.usage uDERIVE

/-- The plan of an agreement: its charged key and its destination. -/
def agreePlan (a : Ask) (classes : List Nat) : SlotPlan :=
  ⟨[⟨a.c.keySlot, classes, uAGREE⟩], some (a.c.dstSlot, (kabAt a.ps 0).planCls), [(a.c.keySlot, 1)], []⟩

/-- The secret of an agreement put into its destination. -/
def putSecret (w : Work) (out secret : Bytes) : JobResult :=
  { okOut out w.inp.length with good := [.putKey ((kabAt w.ps 0).dest w.c.dstSlot) secret] }

/-- ECDH. -/
def ecdhVerb : VerbSpec where
  plan a := agreePlan a [0x21, 0x23]
  own a :=
    let cls := a.d.slotCls a.c.keySlot
    firstFail [
      (a.c.fieldsOk true true .data .no true false, .badParam),
      (a.c.parLen == 8 && secretKab (kabAt a.ps 0) (if cls = 0x21 then 0x1A else 0x1B), .badParam),
      (a.c.inLen == pubLen cls, .badParam)]
  dest a := some ((kabAt a.ps 0).dest a.c.dstSlot)
  run w :=
    let c := curveOf (w.d.slotCls w.c.keySlot)
    match c.decode w.inp with
    | none => failOut .badParam [] w.inp.length
    | some q =>
      match c.mul (beNat w.key) (some q) with
      | none => failOut .invariant [] w.inp.length
      | some (x, _) => putSecret w [] (natBE c.len x)

/-- ECDH. -/
def execEcdh (n : Chn) (sid : Nat) (s : State) : Out := onDev (dispatchVerb 0x52 ecdhVerb n sid) s

/-- X25519. -/
def x25519Verb : VerbSpec where
  plan a := agreePlan a [0x24]
  own a := firstFail [
    (a.c.fieldsOk true true .data .no true false, .badParam),
    (a.c.parLen == 8 && secretKab (kabAt a.ps 0) 0x1A, .badParam), (a.c.inLen == 32, .badParam)]
  dest a := some ((kabAt a.ps 0).dest a.c.dstSlot)
  run w :=
    let z := x25519 w.key w.inp
    if z == zeros 32 then failOut .badParam [] w.inp.length else putSecret w [] z

/-- X25519. -/
def execX25519 (n : Chn) (sid : Nat) (s : State) : Out := onDev (dispatchVerb 0x53 x25519Verb n sid) s

/-- The parameter set of an encapsulation key length. -/
def kemOfEk (len : Nat) : KemParams := if len = 1568 then kem1024 else kem768

/-- MLKEM_ENCAPS. -/
def mlkemEncapsVerb : VerbSpec where
  plan a := ⟨[], some (a.c.dstSlot, (kabAt a.ps 0).planCls), [], []⟩
  own a := firstFail [
    (a.c.fieldsOk false true .data .data true false, .badParam),
    (a.c.parLen == 8 && secretKab (kabAt a.ps 0) 0x1A, .badParam),
    (a.c.inLen == 1184 || a.c.inLen == 1568, .badParam),
    (a.c.room (kemOfEk a.c.inLen).ctLen, .outFull)]
  draw _ := some (.plain 32)
  dest a := some ((kabAt a.ps 0).dest a.c.dstSlot)
  run w :=
    let p := kemOfEk w.c.inLen
    if kemEkOk p w.inp then
      let r := kemEncaps p w.inp w.rnd
      putSecret w r.1 r.2
    else failOut .badParam [] w.inp.length

/-- MLKEM_ENCAPS. -/
def execMlkemEncaps (n : Chn) (sid : Nat) (s : State) : Out :=
  onDev (dispatchVerb 0x5A mlkemEncapsVerb n sid) s

/-- MLKEM_DECAPS. -/
def mlkemDecapsVerb : VerbSpec where
  plan a := agreePlan a [0x30, 0x31]
  own a := firstFail [
    (a.c.fieldsOk true true .data .no true false, .badParam),
    (a.c.parLen == 8 && secretKab (kabAt a.ps 0) 0x1A, .badParam),
    (a.c.inLen == (kemOf (a.d.slotCls a.c.keySlot)).ctLen, .badParam)]
  dest a := some ((kabAt a.ps 0).dest a.c.dstSlot)
  run w :=
    let p := kemOf (w.d.slotCls w.c.keySlot)
    putSecret w [] (kemDecaps p (kemKeyGen p (w.key.take 32) (w.key.drop 32)) w.inp)

/-- MLKEM_DECAPS. -/
def execMlkemDecaps (n : Chn) (sid : Nat) (s : State) : Out :=
  onDev (dispatchVerb 0x5B mlkemDecapsVerb n sid) s

/-! ### HYBRID_KEX (R266) -/

/-- MODE of a hybrid block. -/
def hybMode (ps : Bytes) : Nat := par8 ps 0

/-- SALTSLOT of a hybrid block. -/
def hybSalt (ps : Bytes) : Bool := par8 ps 2 == 1

/-- The salt of a hybrid agreement: slot, parameter bytes or zeros. -/
def hybSaltValue (w : Work) : Bytes :=
  if hybSalt w.ps then (if hybMode w.ps = 2 then w.key2 else w.key)
  else if par8 w.ps 3 = 0 then zeros (hashOfCode (par8 w.ps 1)).len
  else slice 16 (par8 w.ps 3) w.ps

/-- Whether a hybrid block is one R266 accepts. -/
def hybridOk (a : Ask) : Bool :=
  let s := par8 a.ps 3
  (hybMode a.ps == 1 || hybMode a.ps == 2) && hashCodeOk (par8 a.ps 1) && par8 a.ps 2 ≤ 1
    && s ≤ 64 && (!hybSalt a.ps || s == 0) && (hybSalt a.ps || par16 a.ps 4 == 0) && par16 a.ps 6 == 0
    && a.c.parLen == 16 + s
    && secretKab (kabAt a.ps 8) (if par8 a.ps 1 = 1 then 0x1A else 0x1B)

/-- The PRK of a hybrid agreement into its destination. -/
def hybridEnd (w : Work) (out ssk ssx : Bytes) : JobResult :=
  if ssx == zeros 32 then failOut .badParam [] w.inp.length
  else { okOut out w.inp.length with good := [.putKey ((kabAt w.ps 8).dest w.c.dstSlot)
    (hkdfExtract (hashOfCode (par8 w.ps 1)) (hybSaltValue w) (ssk ++ ssx))] }

/-- HYBRID_KEX. -/
def hybridVerb : VerbSpec where
  plan a :=
    let key := if hybMode a.ps = 2 then [(⟨a.c.keySlot, [0x38], uAGREE⟩ : SrcReq)] else []
    let salt := if hybSalt a.ps then [(⟨par16 a.ps 4, secretClasses, uDERIVE⟩ : SrcReq)] else []
    ⟨key ++ salt, some (a.c.dstSlot, (kabAt a.ps 8).planCls),
      (key ++ salt).map (fun r => (r.slot, 1)), []⟩
  own a :=
    let enc := hybMode a.ps == 1
    firstFail [
      (hybridOk a, .badParam),
      (a.c.fieldsOk (!enc) true .data (if enc then .data else .no) true false, .badParam),
      (a.c.inLen == (if enc then 1216 else 1120), .badParam),
      (!enc || a.c.room 1120, .outFull)]
  draw a := if hybMode a.ps = 1 then some (.plain 64) else none
  dest a := some ((kabAt a.ps 8).dest a.c.dstSlot)
  steps _ := [Step.after .hash 64]
  run w :=
    if hybMode w.ps = 1 then
      let ek := w.inp.take 1184
      if kemEkOk kem768 ek then
        let r := kemEncaps kem768 ek (w.rnd.drop 32)
        let x := w.rnd.take 32
        hybridEnd w (r.1 ++ x25519 x x25519Base) r.2 (x25519 x (w.inp.drop 1184))
      else failOut .badParam [] w.inp.length
    else
      hybridEnd w [] (kemDecaps kem768 (hybridKem w.key) (w.inp.take 1088))
        (x25519 (hybridParts w.key).1 (w.inp.drop 1088))

/-- Byte `i` of the parameters of the next clause of a sentence. -/
def Dev.nextPar (d : Dev) (n : Chn) (sid i : Nat) : Nat :=
  match d.sent n sid with
  | none => 0
  | some s => match s.clauses[s.idx]? with
    | some c => par8 (d.params c) i
    | none => 0

/-- HYBRID_KEX in mode ENCAPS; a reserved mode is judged, and fails, as either mode is. -/
def execHybridKexEncaps (n : Chn) (sid : Nat) (s : State) : Out :=
  onDev (fun d => if d.nextPar n sid 0 = 2 then d else dispatchVerb 0x5F hybridVerb n sid d) s

/-- HYBRID_KEX in mode DECAPS. -/
def execHybridKexDecaps (n : Chn) (sid : Nat) (s : State) : Out :=
  onDev (fun d => if d.nextPar n sid 0 = 1 then d else dispatchVerb 0x5F hybridVerb n sid d) s

/-! ### Presignatures (R268–R272) -/

/-- The presignatures of a draw, up to the first that fails its check. -/
def makePresigs (rnd : Bytes) : Nat → List (Nat × Nat × Nat)
  | 0 => []
  | t + 1 =>
    let k := drawScalar p256 (slice (32 * t) 32 rnd)
    let r := pointX (p256.mul k p256.g) % p256.n
    match invMod k p256.n with
    | some ki => if r = 0 then [] else (k, r, ki) :: makePresigs rnd t
    | none => []

/-- The places a PRESIG_FILL clause fills. -/
def presigFill (a : Ask) : Nat :=
  min (par8 a.ps 0) (32 - a.d.presig.avail.length - a.d.presig.filling)

/-- PRESIG_FILL (R269): the triples that pass their check, each of which becomes AVAILABLE as it is done; one that
fails ends the clause. -/
def presigFillVerb : VerbSpec where
  own a := firstFail [
    (a.c.fieldsOk false false .no .no true false, .badParam),
    (a.c.parLen == 4 && 1 ≤ par8 a.ps 0 && par8 a.ps 0 ≤ 32 && slice 1 3 a.ps == zeros 3, .badParam)]
  draw a := some (.plain (32 * presigFill a))
  filling := presigFill
  atDispatch a d := { d with presig := { d.presig with filling := d.presig.filling + presigFill a } }
  run w :=
    let k := w.rnd.length / 32
    let ts := makePresigs w.rnd k
    if ts.length = k then { okOut [] 0 with good := [.presig ts] }
    else { failOut .invariant [] 0 with good := [.presig ts] }

/-- PRESIG_FILL. -/
def execPresigFill (n : Chn) (sid : Nat) (s : State) : Out :=
  onDev (dispatchVerb 0x5E presigFillVerb n sid) s

/-- Every place EMPTY (R272). -/
def clearPresig (d : Dev) : Dev := { d with presig := ⟨[], 0, d.presig.fallback⟩ }

/-- PRESIG (R273). -/
def Dev.presigReg (d : Dev) : Word :=
  at_ d.presig.filling 24 ||| at_ 4 16 ||| at_ d.presig.fallback 8 ||| at_ d.presig.avail.length 0

end Sys2Proof.Machine
end

