-- ==== Sys2Proof/Machine/Protocol.lean ====
section
/-!
DEFINITION. The protocol service verbs 0x60–0x64: record contexts, sealed telemetry, attestation, the
last-gasp arm, with the cipher, hash and big-number steps of each (15_protocol_services.md R350–R363;
17_supply_and_last_gasp.md R407; log entry 10).
-/

namespace Sys2Proof.Machine

/-! ### Record contexts (R351–R354) -/

/-- OP of a record clause. -/
def recOp (ps : Bytes) : Nat := par8 ps 0

/-- CTX of a record clause. -/
def recIdx (ps : Bytes) : Nat := par8 ps 1

/-- The HMAC hash of a suite. -/
def suiteHash (suite : Nat) : HmacHash := if suite = 0x1302 then .sha384 else .sha256

/-- The length of a suite's write key. -/
def suiteKeyLen (suite : Nat) : Nat := if suite = 0x1302 ∨ suite = 0x1303 then 32 else 16

/-- Whether a suite is one of the four. -/
def suiteOk (suite : Nat) : Bool := 0x1301 ≤ suite && suite ≤ 0x1304

/-- The protocol maximum (Table 15.1). -/
def suiteMax (protect : Bool) (suite : Nat) : Nat :=
  if suite = 0x1304 then 11863283
  else if protect then (if suite = 0x1303 then 2 ^ 40 - 1 else 23726566)
  else 2 ^ 36

/-- The parameters of an INIT. -/
def initSuite (ps : Bytes) : Nat := par16 ps 4

/-- LIMIT of an INIT, the protocol maximum for 0. -/
def initLimit (protect : Bool) (ps : Bytes) : Nat :=
  let l := beNat (slice 8 5 ps)
  if l = 0 then suiteMax protect (initSuite ps) else l

/-- Whether the block of an INIT is one R353 and R354 accept. -/
def initOk (protect : Bool) (a : Ask) : Bool :=
  let ps := a.ps
  let proto := par8 ps 2
  let cid := par8 ps 3
  (proto == 1 || proto == 2) && cid ≤ 16 && (proto == 2 || (cid == 0 && par16 ps 6 == 0))
    && suiteOk (initSuite ps) && initLimit protect ps ≤ suiteMax protect (initSuite ps)
    && slice 13 3 ps == zeros 3 && a.c.parLen == 16 + cid

/-- The context an INIT makes from its secret. -/
def initCtx (protect : Bool) (ps secret : Bytes) : RecCtx :=
  let proto := par8 ps 2
  let suite := initSuite ps
  let ex (l : String) (n : Nat) :=
    expandLabel (suiteHash suite) (if proto = 2 then "dtls13" else "tls13 ") secret (ascii l) [] n
  { gen := 0, protect := protect, proto := proto, suite := suite, epoch := par16 ps 6
    cid := slice 16 (par8 ps 3) ps
    key := ex "key" (suiteKeyLen suite), iv := ex "iv" 12
    snKey := if proto = 2 then ex "sn" (suiteKeyLen suite) else []
    seq := 0, high := 0, window := 0, limit := initLimit protect ps, fails := 0, st := .live }

/-- INIT of either verb (R353). -/
def recInitVerb (protect : Bool) : VerbSpec where
  plan a :=
    let cs := if suiteOk (initSuite a.ps) then [if initSuite a.ps = 0x1302 then 0x1B else 0x1A]
      else secretClasses
    keyPlan a.c.keySlot cs uDERIVE 1
  own a := firstFail [
    (a.c.fieldsOk true false .no .no true false, .badParam),
    (recIdx a.ps ≤ 7, .badParam), (initOk protect a, .badParam),
    ((a.d.rec_ a.n (recIdx a.ps)).isNone, .badParam)]
  steps a := List.replicate (if par8 a.ps 2 = 2 then 3 else 2) (Step.of .hash 0)
  run w := { okOut [] 0 with
    good := [.recCtx (recIdx w.ps) (some { initCtx protect w.ps w.key with gen := w.d.ctr })] }

/-- CLOSE of either verb (R359). -/
def recCloseVerb (protect : Bool) : VerbSpec where
  own a := firstFail [
    (a.c.fieldsOk false false .no .no true false, .badParam),
    (a.c.parLen == 2 && recIdx a.ps ≤ 7, .badParam),
    (((a.d.rec_ a.n (recIdx a.ps)).map (·.protect)).getD protect == protect, .keyDenied)]
  run w := { okOut [] 0 with good := [.recCtx (recIdx w.ps) none] }

/-- The 32 bytes of INFO on a context. -/
def RecCtx.info (r : RecCtx) : Bytes :=
  [match r.st with
    | .live => 1
    | .spent => 2
    | .failed => 3,
   BitVec.ofNat 8 r.proto] ++ natBE 2 r.suite ++ natBE 2 r.epoch
    ++ [if r.protect then 0x60 else 0x61, BitVec.ofNat 8 r.cid.length]
    ++ natBE 8 (if r.protect then r.seq else r.high)
    ++ natBE 8 r.limit ++ natBE 8 r.fails

/-- INFO of either verb (R359). -/
def recInfoVerb (protect : Bool) : VerbSpec where
  own a := firstFail [
    (a.c.fieldsOk false false .no .data true false, .badParam),
    (a.c.parLen == 2 && recIdx a.ps ≤ 7, .badParam),
    (((a.d.rec_ a.n (recIdx a.ps)).map (·.protect)).getD protect == protect, .keyDenied),
    (a.c.room 32, .outFull)]
  run w := okOut (((w.d.rec_ w.n (recIdx w.ps)).map RecCtx.info).getD (zeros 32)) 0

/-! ### Records (R355–R358) -/

/-- The AEAD of a suite. -/
def suiteAlg (suite : Nat) : AeadAlg :=
  if suite = 0x1303 then chachaAlg else if suite = 0x1304 then ccmAlg else gcmAlg

/-- The nonce of record `n`. -/
def RecCtx.nonce (r : RecCtx) (n : Nat) : Bytes :=
  xorBytes r.iv (natBE 12 (if r.proto = 2 then r.epoch * 2 ^ 48 + n else n))

/-- The mask of the sequence bits from the start of the encrypted record (R356). -/
def RecCtx.mask (r : RecCtx) (sample : Bytes) : Bytes :=
  if r.suite = 0x1303 then chachaBlock r.snKey (leNat (sample.take 4)) (slice 4 12 sample)
  else aesEncrypt r.snKey sample

/-- The state a record clause needs: LIVE of its own verb (R352, R355). -/
def recUsable (r : Option RecCtx) (protect : Bool) : Option Status :=
  match r with
  | none => some .keyDenied
  | some r =>
    if r.protect != protect then some .keyDenied
    else
      match r.st with
      | .live => none
      | .spent => some .keySpent
      | .failed => some .keyDenied

/-- The header of a protected record with unmasked sequence bits. -/
def RecCtx.header (r : RecCtx) (n len : Nat) : Bytes :=
  if r.proto = 1 then [0x17, 0x03, 0x03] ++ natBE 2 len
  else
    BitVec.ofNat 8 (0x20 + (if r.cid = [] then 0 else 0x10) + 0x0C + r.epoch % 4) :: r.cid
      ++ natBE 2 n ++ natBE 2 len

/-- The sequence bytes of a DTLS record masked: `len` bytes at `off`. -/
def maskSeq (off len : Nat) (mask hdr : Bytes) : Bytes :=
  hdr.take off ++ xorBytes (slice off len hdr) (mask.take len) ++ hdr.drop (off + len)

/-- One record protected. -/
def RecCtx.seal (r : RecCtx) (n typ pad : Nat) (content : Bytes) : Bytes :=
  let inner := content ++ BitVec.ofNat 8 typ :: zeros pad
  let hdr := r.header n (inner.length + 16)
  let ct := sealOut (suiteAlg r.suite) [] r.key (r.nonce n) 16 hdr inner
  (if r.proto = 1 then hdr else maskSeq (1 + r.cid.length) 2 (r.mask (ct.take 16)) hdr) ++ ct

/-- A protect clause against its context: LIVE, below its limit. -/
def protectUsable (r : Option RecCtx) : Option Status :=
  recUsable r true <|> (match r with
    | some x => if x.limit ≤ x.seq then some .keySpent else none
    | none => none)

/-- RECORD of REC_PROTECT (R355). -/
def protectVerb : VerbSpec where
  own a :=
    let r := a.d.rec_ a.n (recIdx a.ps)
    let pad := par16 a.ps 4
    firstFail [
      (a.c.fieldsOk false false .data0 .data true false, .badParam),
      (a.c.parLen == 8 && recIdx a.ps ≤ 7 && par8 a.ps 2 != 0 && par8 a.ps 3 == 0 && par16 a.ps 6 == 0,
        .badParam),
      (a.c.inLen ≤ 16384 && a.c.inLen + 1 + pad ≤ 16385, .tooLong)]
    <|> protectUsable r
    <|> firstFail [
      (a.c.room (5 + (r.map (·.cid.length)).getD 0 + a.c.inLen + 1 + pad + 16), .outFull)]
  atRefuse a st d :=
    match d.rec_ a.n (recIdx a.ps) with
    | some r =>
      if st == .keySpent && r.protect && r.st == .live then
        setRec a.n (recIdx a.ps) (some { r with st := .spent }) d
      else d
    | none => d
  atDispatch a d :=
    match d.rec_ a.n (recIdx a.ps) with
    | some r => setRec a.n (recIdx a.ps) (some { r with seq := r.seq + 1 }) d
    | none => d
  steps a :=
    let proto := ((a.d.rec_ a.n (recIdx a.ps)).map (·.proto)).getD 1
    Step.of .cipher (a.c.inLen + 1 + par16 a.ps 4) :: (if proto = 2 then [Step.of .cipher 16] else [])
  run w :=
    match w.d.rec_ w.n (recIdx w.ps) with
    | some r => okOut (r.seal r.seq (par8 w.ps 2) (par16 w.ps 4) w.inp) w.inp.length
    | none => okOut [] w.inp.length

/-- The offset and length of the sequence bytes of a received DTLS record. -/
def seqPlace (r : RecCtx) (b0 : Nat) : Nat × Nat := (1 + r.cid.length, if b0.testBit 3 then 2 else 1)

/-- Whether the header of a received record is one R357 accepts. -/
def headerOk (r : RecCtx) (inp : Bytes) : Bool :=
  let b0 := par8 inp 0
  let h := recHeaderLen r.proto r.cid.length b0
  h + 17 ≤ inp.length &&
    (if r.proto = 1 then inp.take 3 == [0x17, 0x03, 0x03] && par16 inp 3 == inp.length - 5
    else b0 / 32 == 1 && b0.testBit 4 == (r.cid != []) && slice 1 r.cid.length inp == r.cid
      && b0 % 4 == r.epoch % 4
      && (!b0.testBit 2 || par16 inp (h - 2) == inp.length - h))

/-- The header of a received record with its sequence bits unmasked. -/
def plainHeader (r : RecCtx) (inp : Bytes) : Bytes :=
  let b0 := par8 inp 0
  let h := recHeaderLen r.proto r.cid.length b0
  if r.proto = 1 then inp.take h
  else
    let p := seqPlace r b0
    maskSeq p.1 p.2 (r.mask (slice h 16 inp)) (inp.take h)

/-- The value with the low bits `low` modulo `span` closest to `want`; at equal distance the manual
names neither (log entry 1). -/
def closest (want span low : Nat) : Nat :=
  let base := want - want % span
  let cands := [base + low, base + span + low] ++ (if span ≤ base then [base - span + low] else [])
  let dist (x : Nat) := if x ≤ want then want - x else x - want
  let best := cands.foldl (fun b x => if dist x < dist b then x else b) (base + low)
  let tie := cands.find? (fun x => x != best && dist x == dist best)
  match tie with
  | some x => if Config.freeNat want % 2 = 0 then best else x
  | none => best

/-- The sequence number of a received record (R357). -/
def RecCtx.recvSeq (r : RecCtx) (inp : Bytes) : Nat :=
  if r.proto = 1 then r.seq
  else
    let p := seqPlace r (par8 inp 0)
    closest r.high (2 ^ (8 * p.2)) (beNat (slice p.1 p.2 (plainHeader r inp)))

/-- The content and type of an inner plaintext: the last non-zero byte is the type. -/
def innerSplit (pt : Bytes) : Option (Byte × Bytes) :=
  match pt.reverse.dropWhile (· == 0) with
  | [] => none
  | t :: c => some (t, c.reverse)

/-- The output of a received record: prefix and content. -/
def RecCtx.recvOut (r : RecCtx) (n : Nat) (pt : Bytes) : Bytes :=
  match innerSplit pt with
  | some (t, c) => [t, 0] ++ natBE 2 r.epoch ++ natBE 8 n ++ c
  | none => zeros 12

/-- One received record removed of its protection. -/
def RecCtx.unseal (r : RecCtx) (i : Nat) (inp : Bytes) (hold : Bool) : JobResult :=
  let h := recHeaderLen r.proto r.cid.length (par8 inp 0)
  let n := r.recvSeq inp
  let ct := slice h (inp.length - h - 16) inp
  let alg := suiteAlg r.suite
  let hdr := plainHeader r inp
  let pt := alg.crypt r.key (r.nonce n) ct
  if sameBytes (alg.tag r.key (r.nonce n) 16 hdr ct) (inp.drop (inp.length - 16)) then
    let e : List Effect := [.recDone i r.gen n true]
    match innerSplit pt with
    | some _ => ⟨.ok, r.recvOut n pt, inp.length, e, e⟩
    | none => ⟨.badParam, if hold then [] else zeros 12, inp.length, e, e⟩
  else ⟨.authFail, if hold then [] else r.recvOut n pt, inp.length, [], [.recDone i r.gen n false]⟩

/-- RECORD of REC_UNPROTECT (R357). The header and the sequence number are judged once the record has
arrived. -/
def unprotectVerb : VerbSpec where
  own a :=
    let r := a.d.rec_ a.n (recIdx a.ps)
    firstFail [
      (a.c.fieldsOk false false .data .data true false, .badParam),
      (a.c.parLen == 2 && recIdx a.ps ≤ 7, .badParam)]
    <|> recUsable r false
    <|> (match r with
      | some x =>
        let h := recHeaderLen x.proto x.cid.length (par8 a.inp 0)
        if !a.ready then none
        else firstFail [
          (headerOk x a.inp, .badParam),
          (x.proto == 1 || !x.seen (x.recvSeq a.inp), .replay),
          (!(a.d.chan a.n).holdMode || a.c.inLen - h - 16 ≤ 16384, .tooLong),
          (a.c.room (12 + a.c.inLen - h - 17), .outFull)]
      | none => none)
  atDispatch a d :=
    match d.rec_ a.n (recIdx a.ps) with
    | some r => if r.proto = 1 then setRec a.n (recIdx a.ps) (some { r with seq := r.seq + 1 }) d else d
    | none => d
  steps a :=
    let r := a.d.rec_ a.n (recIdx a.ps)
    let proto := (r.map (·.proto)).getD 1
    let h := recHeaderLen proto ((r.map (·.cid.length)).getD 0) (par8 a.inp 0)
    (if proto = 2 then [Step.of .cipher 16] else []) ++ [Step.of .cipher (a.c.inLen - h)]
  run w :=
    match w.d.rec_ w.n (recIdx w.ps) with
    | some r => r.unseal (recIdx w.ps) w.inp w.hold
    | none => okOut [] w.inp.length

/-! ### The eight record commands -/

/-- A record verb as the command of one OP judges it: a clause with another OP fails. -/
def recSpec (op : Nat) (v : VerbSpec) : VerbSpec :=
  { v with
    own := fun a => if recOp a.ps = op then v.own a else some .badParam
    plan := fun a => if recOp a.ps = op then v.plan a else SlotPlan.none }

/-- A record clause judged by the meaning its OP selects; one with a reserved OP is judged, and fails,
under any of them (R352). -/
def dispatchRec (verb op : Nat) (v : VerbSpec) (n : Chn) (sid : Nat) (d : Dev) : Dev :=
  let o := d.nextPar n sid 0
  if o = op ∨ o = 0 ∨ 4 < o then dispatchVerb verb (recSpec op v) n sid d else d

/-- REC_PROTECT INIT. -/
def execRecProtectInit (n : Chn) (sid : Nat) (s : State) : Out :=
  onDev (dispatchRec 0x60 1 (recInitVerb true) n sid) s

/-- REC_PROTECT RECORD. -/
def execRecProtectRecord (n : Chn) (sid : Nat) (s : State) : Out :=
  onDev (dispatchRec 0x60 2 protectVerb n sid) s

/-- REC_PROTECT CLOSE. -/
def execRecProtectClose (n : Chn) (sid : Nat) (s : State) : Out :=
  onDev (dispatchRec 0x60 3 (recCloseVerb true) n sid) s

/-- REC_PROTECT INFO. -/
def execRecProtectInfo (n : Chn) (sid : Nat) (s : State) : Out :=
  onDev (dispatchRec 0x60 4 (recInfoVerb true) n sid) s

/-- REC_UNPROTECT INIT. -/
def execRecUnprotectInit (n : Chn) (sid : Nat) (s : State) : Out :=
  onDev (dispatchRec 0x61 1 (recInitVerb false) n sid) s

/-- REC_UNPROTECT RECORD. -/
def execRecUnprotectRecord (n : Chn) (sid : Nat) (s : State) : Out :=
  onDev (dispatchRec 0x61 2 unprotectVerb n sid) s

/-- REC_UNPROTECT CLOSE. -/
def execRecUnprotectClose (n : Chn) (sid : Nat) (s : State) : Out :=
  onDev (dispatchRec 0x61 3 (recCloseVerb false) n sid) s

/-- REC_UNPROTECT INFO. -/
def execRecUnprotectInfo (n : Chn) (sid : Nat) (s : State) : Out :=
  onDev (dispatchRec 0x61 4 (recInfoVerb false) n sid) s

/-- Every record context of every channel FREE (R351). -/
def freeRecs (d : Dev) : Dev :=
  { d with chans := d.chans.map (fun c => { c with recs := Vector.replicate 8 none }) }

/-! ### TELEMETRY_SEAL (R360, R361) -/

/-- The classes of a FORM (Table 15.2). -/
def formClasses (form : Nat) : List Nat :=
  if form = 1 then [0x20, 0x22, 0x25] else if form = 2 then [0x12, 0x13, 0x14]
  else [0x20, 0x22, 0x25, 0x12, 0x13, 0x14]

/-- The COSE algorithm of a key class. -/
def coseAlg (cls : Nat) : Bytes :=
  if cls = 0x20 then cborNint 6 else if cls = 0x22 then cborNint 34 else if cls = 0x25 then cborNint 7
  else if cls = 0x13 then cborUint 3 else if cls = 0x12 then cborUint 1 else cborUint 24

/-- The protected header of a telemetry message. -/
def teleHeader (cls slot seq time : Nat) : Bytes :=
  cborMap 4 ++ cborUint 1 ++ coseAlg cls ++ cborUint 4 ++ cborBytes (uidBytes ++ natBE 2 slot)
    ++ cborNint 65536 ++ cborUint seq ++ cborNint 65537 ++ cborUint time

/-- What a telemetry message adds to its payload at most, per class. -/
def teleRoom (cls : Nat) : Nat := if cls = 0x22 then 154 else if cls = 0x20 ∨ cls = 0x25 then 122 else 86

/-- A COSE signature by a key of a class. -/
def coseSig (cls : Nat) (key rnd m : Bytes) : Option Bytes :=
  if cls = 0x25 then some (edSign key m)
  else
    let c := curveOf cls
    let dg := if cls = 0x20 then sha256 m else sha384 m
    (ecdsaSign c (beNat key) (c.digest dg) rnd none).map (fun p => natBE c.len p.1 ++ natBE c.len p.2)

/-- TELEMETRY_SEAL. -/
def telemetryVerb : VerbSpec where
  plan a := keyPlan a.c.keySlot (formClasses (par8 a.ps 0)) uENC 1
  own a :=
    let cls := a.d.slotCls a.c.keySlot
    firstFail [
      (a.c.fieldsOk true false .data .data true false, .badParam),
      ((par8 a.ps 0 == 1 || par8 a.ps 0 == 2) && par8 a.ps 1 ≤ 64 && par16 a.ps 2 == 0
        && (par8 a.ps 0 == 2 || slice 4 4 a.ps == zeros 4) && a.c.parLen == 8 + par8 a.ps 1, .badParam),
      (1 ≤ a.c.inLen, .badParam), (!(cls == 0x25 && hi16 a.c.w2 == 0xFFFF), .badParam),
      (a.c.inLen ≤ 16384, .tooLong), (a.c.room (a.c.inLen + teleRoom cls), .outFull)]
  draw a :=
    let cls := a.d.slotCls a.c.keySlot
    if cls = 0x20 ∨ cls = 0x22 then some (.plain (classLen cls)) else none
  steps a := if par8 a.ps 0 = 1 then [Step.of .hash a.c.inLen, Step.of .bignum 0] else [Step.of .cipher a.c.inLen]
  run w :=
    let cls := w.d.slotCls w.c.keySlot
    let prot := teleHeader cls w.c.keySlot w.ctr w.d.journal.seconds.toNat
    let aad := w.ps.drop 8
    if par8 w.ps 0 = 1 then
      signOut ((coseSig cls w.key w.rnd (sigStructure prot aad w.inp)).map (coseSign1 prot w.inp))
        w.inp.length
    else
      let iv := ivOf (slice 4 4 w.ps) w.ctr
      let enc := cborArray 3 ++ cborText "Encrypt0" ++ cborBytes prot ++ cborBytes aad
      let alg := if cls = 0x14 then chachaAlg else gcmAlg
      okOut (cborTag 16 ++ cborArray 3 ++ cborBytes prot ++ cborMap 1 ++ cborUint 5 ++ cborBytes iv
        ++ cborBytes (sealOut alg [] w.key iv 16 enc w.inp)) w.inp.length

/-- TELEMETRY_SEAL. -/
def execTelemetrySeal (n : Chn) (sid : Nat) (s : State) : Out :=
  onDev (dispatchVerb 0x62 telemetryVerb n sid) s

/-! ### ATTEST (R362, R363) -/

/-- DEVID (00_scope.md R1). -/
def devid : Word := 0x7416B040

/-- The protected header of ES384 statements. -/
def es384Header : Bytes := cborMap 1 ++ cborUint 1 ++ cborNint 34

/-- An ES384 COSE_Sign1 by a P-384 key. -/
def es384Sign (key rnd payload : Bytes) : Option Bytes :=
  (coseSig 0x22 key rnd (sigStructure es384Header [] payload)).map (coseSign1 es384Header payload)

/-- HIGVER as the evidence gives it. -/
def Dev.higVer (d : Dev) : Nat := if bit d.gate.stat 31 then d.gate.ver.toNat else 0

/-- The evidence payload. -/
def Dev.evidence (d : Dev) (n : Chn) (nonce : Bytes) : Bytes :=
  let e (k : Nat) (v : Bytes) := cborUint k ++ v
  cborMap 14 ++ e 1 (cborBytes nonce) ++ e 2 (cborUint devid.toNat) ++ e 3 (cborBytes uidBytes)
    ++ e 4 (cborUint d.lc.lcstate) ++ e 5 (cborUint d.otp.rowIdx) ++ e 6 (cborBytes d.boot.progMeas)
    ++ e 7 (cborUint d.boot.progVer.toNat) ++ e 8 (cborUint d.boot.boot)
    ++ e 9 (cborUint d.journal.seconds.toNat) ++ e 10 (cborUint d.trouble.why.toNat)
    ++ e 11 (cborBool d.ks.ready) ++ e 12 (cborBytes (padTo 48 d.otp.row.ownerHash))
    ++ e 13 (cborUint d.higVer) ++ e 14 (cborUint n.val)

/-- Whether the block of an ATTEST is one R363 accepts. -/
def attestOk (a : Ask) : Bool :=
  let m := par8 a.ps 0
  let nl := par8 a.ps 1
  par16 a.ps 2 == 0 && a.c.parLen == 4 + nl
    && ((m == 1 && 8 ≤ nl && nl ≤ 64) || ((m == 2 || m == 3) && nl == 0))

/-- ATTEST. -/
def attestVerb : VerbSpec where
  own a :=
    let m := par8 a.ps 0
    firstFail [
      (a.c.fieldsOk false false .no .data true false, .badParam), (attestOk a, .badParam),
      (a.d.ks.aliasStmt != [] && a.d.lc.lcstate != 3, .keyDenied),
      (a.c.room (if m = 1 then 512 else if m = 2 then 320 else 97), .outFull)]
  draw a := if par8 a.ps 0 = 1 then some (.plain 48) else none
  steps a := if par8 a.ps 0 = 1 then [Step.of .hash 0, Step.of .bignum 0] else []
  run w :=
    match par8 w.ps 0 with
    | 1 => signOut (es384Sign w.d.ks.aliasKey w.rnd (w.d.evidence w.n (w.ps.drop 4))) 0
    | 2 => okOut w.d.ks.aliasStmt 0
    | _ => okOut w.d.ks.idPub 0

/-- ATTEST. -/
def execAttest (n : Chn) (sid : Nat) (s : State) : Out := onDev (dispatchVerb 0x63 attestVerb n sid) s

/-! ### LASTGASP_ARM (17 R407) -/

/-- LASTGASP_ARM. -/
def armVerb : VerbSpec where
  plan a := keyPlan a.c.keySlot [0x20] uSIGN 1
  own a :=
    let cfg := a.d.cfg.lgCfg
    firstFail [
      (a.c.fieldsOk true false .no .no true false, .badParam),
      (a.c.parLen == 8, .badParam),
      (bit cfg 31 && fld cfg 19 16 == a.n.val, .keyDenied),
      (slice 4 4 a.ps == zeros 4, .badParam)]
  run w := { okOut [] 0 with
    good := [.arm ⟨w.n, w.c.keySlot, w.key, w.ctr, beNat (w.ps.take 4)⟩] }

/-- LASTGASP_ARM. -/
def execLastgaspArm (n : Chn) (sid : Nat) (s : State) : Out :=
  onDev (dispatchVerb 0x64 armVerb n sid) s

end Sys2Proof.Machine
end

