-- ==== Sys2Proof/Machine/Verbs.lean ====
section
/-!
DEFINITION. The meaning of each verb number; the judgement of a clause when it becomes the next of its sentence
(06 R454); NOP, FENCE, the unassigned verbs and PHRASE, whose effects end with that judgement.
-/

namespace Sys2Proof.Machine

/-! ### The meaning of a verb number -/

/-- NOP and FENCE. -/
def nopVerb : VerbSpec where
  own a := firstFail [(a.c.fieldsOk false false .no .no false false, .badParam)]
  run _ := okOut [] 0

/-- A verb that is not assigned. -/
def noVerb : VerbSpec where
  own _ := some .badVerb
  run _ := failOut .badVerb [] 0

/-- The verbs 0x00–0x32. -/
def specLow (v : Nat) : VerbSpec :=
  match v with
  | 0x00 => nopVerb
  | 0x01 => nopVerb
  | 0x02 => retireKey []
  | 0x03 => random
  | 0x04 => copyVerb
  | 0x05 => zeroVerb
  | 0x11 => cbcVerb true
  | 0x12 => cbcVerb false
  | 0x13 => ctrVerb
  | 0x14 => sealVerb gcmAlg aeadClasses
  | 0x15 => openVerb gcmAlg aeadClasses
  | 0x16 => ccmSealVerb
  | 0x17 => ccmOpenVerb
  | 0x18 => cmacVerb
  | 0x19 => sealVerb chachaAlg [0x14]
  | 0x1A => openVerb chachaAlg [0x14]
  | 0x1B => keyWrapVerb
  | 0x1C => keyUnwrapVerb
  | 0x20 => digestVerb 32 sha256
  | 0x21 => digestVerb 48 sha384
  | 0x22 => digestVerb 64 sha512
  | 0x23 => digestVerb 32 sha3_256
  | 0x24 => digestVerb 64 sha3_512
  | 0x25 => xofVerb shake128
  | 0x26 => xofVerb shake256
  | 0x28 => hmacVerb .sha256 0x18
  | 0x29 => hmacVerb .sha384 0x19
  | 0x2A => extractVerb
  | 0x2B => expandVerb
  | 0x2C => labelVerb
  | 0x2E => hashSaveVerb
  | 0x2F => hashResumeVerb
  | 0x31 => keyGen
  | 0x32 => keyInfo
  | _ => noVerb

/-- The big-number primitives 0x40–0x4C. -/
def specPrim (v : Nat) : VerbSpec :=
  match v with
  | 0x40 => loadPrim.spec
  | 0x41 => storePrim.spec
  | 0x42 => (binPrim (fun x y m => (x + y) % m)).spec
  | 0x43 => (binPrim (fun x y m => (x + m - y) % m)).spec
  | 0x44 => (binPrim (fun x y m => x * y % m)).spec
  | 0x45 => invPrim.spec
  | 0x46 => expPrim.spec
  | 0x47 => setmodPrim.spec
  | 0x48 => clearPrim.spec
  | 0x49 => (nttPrim true).spec
  | 0x4A => (nttPrim false).spec
  | 0x4B => pmulPrim.spec
  | 0x4C => samplePrim.spec
  | _ => noVerb

/-- The record verb of an OP. -/
def specRec (protect : Bool) (op : Nat) : VerbSpec :=
  match op with
  | 1 => recInitVerb protect
  | 2 => if protect then protectVerb else unprotectVerb
  | 3 => recCloseVerb protect
  | 4 => recInfoVerb protect
  | _ => { noVerb with own := fun _ => some .badParam }

/-- The verbs 0x50–0x65. -/
def specHigh (v op : Nat) : VerbSpec :=
  match v with
  | 0x50 => ecdsaSignVerb
  | 0x51 => ecdsaVerifyVerb
  | 0x52 => ecdhVerb
  | 0x53 => x25519Verb
  | 0x54 => ed25519SignVerb
  | 0x55 => ed25519VerifyVerb
  | 0x56 => rsaVerifyVerb
  | 0x57 => rsaSignVerb
  | 0x58 => keypairVerb [0x20, 0x21, 0x22, 0x23, 0x24, 0x25, 0x28, 0x29, 0x2A, 0x34]
  | 0x59 => keypairVerb [0x30, 0x31, 0x38]
  | 0x5A => mlkemEncapsVerb
  | 0x5B => mlkemDecapsVerb
  | 0x5C => mldsaVerifyVerb
  | 0x5D => mldsaSignVerb
  | 0x5E => presigFillVerb
  | 0x5F => hybridVerb
  | 0x60 => specRec true op
  | 0x61 => specRec false op
  | 0x62 => telemetryVerb
  | 0x63 => attestVerb
  | 0x64 => armVerb
  | 0x65 => phraseVerb
  | _ => noVerb

/-- The meaning of a verb number; `op` is the first parameter byte. -/
def specOf (v op : Nat) : VerbSpec :=
  if v < 0x40 then specLow v else if v < 0x50 then specPrim v else specHigh v op

/-! ### The first judgement (06 R454) -/

/-- The clause that has become the next of a sentence is judged: a failure completes it. The dispatch judges it
again. -/
def judgeFirst (n : Chn) (d : Dev) (sid : Nat) : Dev :=
  match d.sent n sid with
  | none => d
  | some s =>
    match s.job, s.clauses[s.idx]? with
    | none, some c =>
      let v := specOf c.verb (par8 (d.params c) 0)
      let a := d.ask n s c
      if s.judged then d
      else if s.overlong then failClause n s .badParam 0xFF d
      else if v.awaitsStore a then noteWait n sid .ksready d
      else
        match v.judge a with
        | some st => failClause n s st 0xFF (v.atRefuse a st (dropUnreadable st (v.plan a) d))
        | none => modSent n sid (fun s => { s with judged := true }) d
    | _, _ => d

/-- Every clause of a channel that has become the next of its sentence is judged, in the same core update. -/
def judgeFresh (n : Chn) (d : Dev) : Dev :=
  if (d.chan n).state.active && d.gRun then
    (((d.chan n).sents.filter (fun s => !s.judged && s.job.isNone)).map (·.sid)).foldl (judgeFirst n) d
  else d

/-- NOP: completes at dispatch with engine id 0xFF (09 R206). -/
def execNop (n : Chn) (sid : Nat) (s : State) : Out :=
  onDev (fun d => judgeFresh n (completeInRing 0x00 n sid (scrubChan d n))) s

/-- FENCE: as NOP; its sentence is ordered as the flag orders it (09 R206). -/
def execFence (n : Chn) (sid : Nat) (s : State) : Out :=
  onDev (fun d => judgeFresh n (completeInRing 0x01 n sid (scrubChan d n))) s

/-- A clause with an unassigned verb fails check 2 with engine id 0xFF (06 R135). -/
def failUnassigned (n : Chn) (sid : Nat) (d : Dev) : Dev :=
  match d.sent n sid with
  | none => d
  | some s =>
    match s.job, s.clauses[s.idx]? with
    | none, some c =>
      if d.stopped || !(d.chan n).state.active || !unassigned c.verb then d
      else if s.overlong then failClause n s .badParam 0xFF d
      else
        match c.headChecks with
        | some st => failClause n s st 0xFF d
        | none => d
    | _, _ => d

/-- UNASSIGNED_VERB (06 R135, Table 06.6 check 2). -/
def execUnassignedVerb (n : Chn) (sid : Nat) (s : State) : Out :=
  onDev (fun d => failUnassigned n sid (scrubChan d n)) s

/-- PHRASE: dispatched, its first template judged as it becomes the next clause to run (15 R366). -/
def execPhrase (n : Chn) (sid : Nat) (s : State) : Out :=
  onDev (fun d => judgeFresh n (dispatchPhrase n sid d)) s

end Sys2Proof.Machine
end

