-- ==== Sys2Proof/Machine/ClauseEnd.lean ====
section
/-!
DEFINITION. How dispatched clauses and their steps go on and end: completion, segment boundaries, suspended
contexts and queued steps, persistent writes, aborts, the end of a class wait (06 R136–R149; 08 R173,
R181–R183, R194; 12 R280). The table has no row for a step: CONTEXT_RESUME dispatches it, SEGMENT_BOUNDARY
brings it to a boundary, CLAUSE_COMPLETE ends it (log entry 10).
-/

namespace Sys2Proof.Machine

/-! ### Completion -/

/-- Whether class C, H, B and S work goes on: engines are halted in place at level 4 and above, and
nothing runs outside RUN (17 R401). -/
def Dev.working (d : Dev) : Bool := d.supply.level < 4 && (d.power.st == .run || d.power.st == .entry)

/-- Output bytes that are undefined because the host wrote a range of the clause (06 R454). -/
def racedBytes (k n : Nat) : Bytes := (List.range n).map (Config.raceByte k)

/-- Whether a verb can post AUTH_FAIL. -/
def authVerb (v : Nat) : Bool :=
  [0x15, 0x17, 0x18, 0x1A, 0x1C, 0x28, 0x29, 0x51, 0x55, 0x56, 0x5C].contains v
    || v == 0x61

/-- The result of a clause the host raced: undefined output, and its own status or, where the verb has
it, AUTH_FAIL. -/
def racedResult (k : Nat) (j : Job) (r : JobResult) : JobResult :=
  let out := racedBytes k r.out.length
  if Config.raceKeeps k || !authVerb j.verb then { r with out := out }
  else if r.status == .ok then { r with status := .authFail, out := if j.hold.isSome then [] else out }
  else if r.status == .authFail && r.out == [] && j.dst == .none then { r with status := .ok }
  else { r with out := out }

/-- Whether a receive record was accepted by another clause after this one's dispatch (15 R357). -/
def Dev.replayed (d : Dev) (n : Chn) (es : List Effect) : Bool :=
  es.any (fun e => match e with
    | .recDone i gen seq true => match d.rec_ n i with
      | some r => r.gen == gen && r.proto == 2 && r.seen seq
      | none => false
    | _ => false)

/-- Whether a load or a store moves polynomials: Table 10.6 has no check for it. -/
def polyMove (j : Job) : Bool :=
  (j.verb == 0x40 && par8 j.params 8 == 0x10) || (j.verb == 0x41 && par8 j.params 10 != 0)

/-- Whether a job reads an operand word of a cell: a service job any word of its job area, a primitive
job the words of its written sources (10 R228, R248). -/
def Dev.readsCell (d : Dev) (j : Job) (cell : Nat) : Bool :=
  match coreOf j.engine with
  | none => false
  | some k => 0x50 ≤ j.verb
    || (j.verb != 0x48 && j.touched.any (fun t => t.2.1 ≤ cell && cell < t.2.1 + t.2.2)
      && (d.area k).any (·.meets cell 1))

/-- Whether the word at a pool offset lies in what an engine reads for a clause: its input or its
parameters (07 R171). -/
def Clause.readsPool (c : Clause) (off : Nat) : Bool :=
  let within (w : Word) (len : Nat) : Bool :=
    hi16 w < 0xFFFC && hi16 w % 4096 * 512 + lo16 w < off + 4 && off < hi16 w % 4096 * 512 + lo16 w + len
  within c.w2 c.inLen || within c.w6 c.parLen

/-- A result withheld by a failed invariant check (10 R245, 11 R267). -/
def JobResult.withheld (r : JobResult) : JobResult := { r with status := .invariant, out := [], good := r.bad }

/-- The result a clause ends with. -/
def endResult (m : Mishap) (n : Chn) (c : Clause) (j : Job) (r : JobResult) (d : Dev) : JobResult :=
  match m with
  | .invariant => if invariantVerb j.verb && !polyMove j then r.withheld else r
  | .operand cell => if d.readsCell j cell then r.faulted else r
  | .poolWord off true => if c.readsPool off then r.faulted else r
  | _ =>
    if d.replayed n (r.good ++ r.bad) then
      { r with status := .replay, out := if j.hold.isSome then [] else r.out, good := [], bad := [] }
    else if j.raced then racedResult d.ctr j r
    else r

/-- An error met by an engine, booked: the slot of an operand cell that `pre` shows the job read unwritten and
zeroed (10 R248); a pool word corrected or marked (07 R171). -/
def bookError (pre : Dev) (n : Chn) (c : Clause) (j : Job) (m : Mishap) (d : Dev) : Dev :=
  match m with
  | .operand cell =>
    if pre.readsCell j cell then
      noteUncorrectable none j.engine (c.detail n)
        (match coreOf j.engine with
          | some k => if j.verb < 0x50 then setArea k (unwrite (fun s => s.meets cell 1) (d.area k)) d else d
          | none => d)
    else d
  | .poolWord off broken =>
    if c.readsPool off then
      (if broken then
        noteUncorrectable (some n) j.engine (c.detail n)
          { d with pool := { d.pool with broken := (off / 4 * 4) :: d.pool.broken.filter (· != off / 4 * 4) } }
      else noteCorrected d)
    else d
  | _ => d

/-- The effects other than a persistent key. -/
def otherEffects (es : List Effect) : List Effect :=
  es.filter (fun e => match e with
    | .putKey dk _ => !isPer dk.slot
    | _ => true)

/-- A clause whose work has ended and whose key goes to the flash: its engine is free, CH_PROGk stays as it is
until the record posts (12 R280, 10 R251). -/
def startPersist (n : Chn) (s : Sentence) (j : Job) (r : JobResult) (d : Dev) : Dev :=
  let d := releaseCore j.engine (leaveEngine n s j d)
  modJob n s.sid (fun j => { j with phase := .persist, result := some r }) d

/-- The presignatures a PRESIG_FILL clause has still to make (11 R269). -/
def Job.triples (j : Job) : List (Nat × Nat × Nat) :=
  ((j.result.map (·.good)).getD []).flatMap (fun e => match e with
    | .presig ts => ts
    | _ => [])

/-- Whether the work of a PRESIG_FILL clause is not at its end: each triple but the last becomes AVAILABLE before,
at a boundary; one that fails follows the good ones (11 R269). -/
def Job.midFill (j : Job) (r : JobResult) : Bool :=
  j.verb == 0x5E && (if r.status.failure then !j.triples.isEmpty else 1 < j.triples.length)

/-- The service processor is halted by the debug port, and with it the clauses it runs or sequences
(13 R316). -/
def Dev.halts (d : Dev) (verb : Nat) : Bool :=
  d.lc.dbgHalt && (verbClass verb == some .service || isPublic verb)

/-- The end of the work of a clause whose steps are done. -/
def endClause (m : Mishap) (n : Chn) (s : Sentence) (c : Clause) (j : Job) (d : Dev) : Dev :=
  match j.result with
  | none => d
  | some r0 =>
    if j.abort then endEarly n s j .aborted d
    else
      let r := endResult m n c j r0 d
      if r.status == r0.status && j.midFill r0 then d
      else
        let pre := d
        let d := if j.raced then bump d else d
        if r.status == .ok && (persistentKey r.good).isSome then bookError pre n c j m (startPersist n s j r d)
        else
          bookError pre n c j m
            (finishClause n s j r.status r.out r.w2 (if r.status.failure then r.bad else r.good) d)

/-- The step under way replaced, or removed. -/
def setStep (n : Chn) (sid : Nat) (t : Option Step) (d : Dev) : Dev :=
  modJob n sid (fun j => { j with steps := t.toList ++ j.steps.drop 1 }) d

/-- The end of a step: it leaves its engine, and the next one may start; an invariant check that a big-number step
of a class-S clause trips, or an operand error it meets, ends the clause (11 R267, 10 R248). -/
def endStep (m : Mishap) (n : Chn) (s : Sentence) (c : Clause) (j : Job) (t : Step) (d : Dev) : Dev :=
  if j.abort then endEarly n s j .aborted d
  else
    match t.cls, m, j.result with
    | .bignum, .invariant, some r => finishClause n s j .invariant [] r.w2 r.bad d
    | .bignum, .operand _, some r =>
      noteUncorrectable none t.engine (c.detail n) (finishClause n s j .engineFault [] r.w2 r.faulted.bad d)
    | .bignum, _, none => d
    | _, _, _ => setStep n s.sid none (leaveStep n true t d)

/-- CLAUSE_COMPLETE for a dispatched clause: the step that runs ends; the step that follows the clause's own work
is queued; with no step left the clause ends. -/
def completeJob (m : Mishap) (n : Chn) (s : Sentence) (c : Clause) (j : Job) (d : Dev) : Dev :=
  match j.step with
  | none => endClause m n s c j d
  | some t =>
    match t.phase with
    | .later =>
      match j.result with
      | none => d
      | some r =>
        if j.abort || (endResult m n c j r d).status.failure then endClause m n s c j d
        else setStep n s.sid (some { t with phase := .queued }) d
    | .run => if t.pos < t.len then d else endStep m n s c j t d
    | .queued => d
    | .susp => d

/-- The end of the work of a clause, or of the step it makes. -/
def completeClause (m : Mishap) (n : Chn) (sid : Nat) (d : Dev) : Dev :=
  match d.sent n sid with
  | none => d
  | some s =>
    match s.job, s.clauses[s.idx]? with
    | some j, some c => if j.phase != .run || !d.working || d.halts j.verb then d else completeJob m n s c j d
    | _, _ => d

/-- CLAUSE_COMPLETE (R139): `m` is what a fault does to the clause. -/
def execClauseComplete (n : Chn) (sid : Nat) (m : Mishap) (s : State) : Out :=
  onDev (fun d => judgeFresh n (completeClause m n sid (scrubChan d n))) s

/-! ### Aborts (R149) -/

/-- Whether an abort ends a dispatched clause at once: a context or a step not on its engine, a big-number job or
step; not a lane before its boundary, the service processor before the end of its step, a round of RSA
key generation (11 R261), or the writes of a persistent key. -/
def Job.stopsAtOnce (j : Job) : Bool :=
  let core := (coreOf j.engine).isSome && j.primes.isNone
  match j.phase with
  | .susp => true
  | .starved => true
  | .persist => false
  | .run => match j.step with
    | none => core
    | some t => match t.phase with
      | .later => core
      | .queued => true
      | .susp => true
      | .run => core || t.cls == .bignum

/-- A dispatched clause marked: an abort acts at its next boundary or its end. -/
def markAbort (n : Chn) (sid : Nat) (d : Dev) : Dev := modJob n sid (fun j => { j with abort := true }) d

/-- One affected sentence: the waiting clause ends; the running one at once, or at its next boundary or its
end. The templates of a phrase are its steps. -/
def abortSent (n : Chn) (sid : Nat) (d : Dev) : Dev :=
  match d.sent n sid with
  | none => d
  | some s =>
    match s.job with
    | none => failClause n s .aborted 0xFF d
    | some j =>
      match j.phrase, d.childOf n sid with
      | some _, some x =>
        match x.job with
        | none => endEarly n s j .aborted d
        | some y => if y.stopsAtOnce then endEarly n s j .aborted d else markAbort n sid (markAbort n x.sid d)
      | _, _ => if j.stopsAtOnce then endEarly n s j .aborted d else markAbort n sid d

/-- Whether a sentence has a clause with a tag. -/
def Sentence.hasTag (s : Sentence) (t : Nat) : Bool := s.clauses.any (fun c => c.tag == t)

/-- The taken sentences of a channel that `p` picks aborted. -/
def abortWhere (n : Chn) (p : Sentence → Bool) (d : Dev) : Dev :=
  (((d.chan n).sents.filter (fun s => s.parent.isNone && p s)).map (·.sid)).foldl (fun d sid => abortSent n sid d) d

/-- An abort of every taken sentence. -/
def abortAll (n : Chn) (d : Dev) : Dev :=
  if (d.chan n).state.active then abortWhere n (fun _ => true) d else d

/-- An abort of the taken sentences with a tag. -/
def abortTag (n : Chn) (tag : Nat) (d : Dev) : Dev :=
  if (d.chan n).state.active then abortWhere n (fun x => x.hasTag tag) d else d

/-- ABORT_ALL: CH_ABORT with ALL set. -/
def execAbortAll (n : Chn) (s : State) : Out := onPage n (abortAll n) s

/-- ABORT_TAG: CH_ABORT with ALL clear. -/
def execAbortTag (n : Chn) (tag : BitVec 16) (s : State) : Out :=
  onPage n (abortTag n tag.toNat) s

/-! ### Persistent writes (12 R280) -/

/-- The writes of a persistent destination end: the slot becomes LIVE and the clause OK, or the clause
completes KEY_DENIED. A waiting abort then acts on the next clause; a reset of the channel leaves no record. -/
def persistDone (n : Chn) (sid : Nat) (vfy burns : List Bool) (d : Dev) : Dev :=
  match d.sent n sid with
  | none => d
  | some s =>
    match s.job with
    | none => d
    | some j =>
      match j.phase, j.result with
      | .persist, some r =>
        if 3 ≤ d.supply.level then d
        else if (d.chan n).state == .resetting then dropSent n s (cutPersist n j vfy burns d)
        else
          match persistentKey r.good with
          | none => d
          | some k =>
            let w := writePersistent n.val k.1 k.2 vfy burns d
            if w.1 then
              let d := finishClause n s j .ok r.out r.w2 (otherEffects r.good) w.2
              if j.abort then abortSent n sid d else d
            else finishClause n s j .keyDenied r.out r.w2 [] w.2
      | _, _ => d

/-- PERSISTENT_WRITE_DONE. -/
def execPersistentWriteDone (n : Chn) (sid : Nat) (vfy burns : List Bool) (s : State) : Out :=
  onDev (fun d => judgeFresh n (persistDone n sid vfy burns (scrubChan d n))) s

/-! ### Segments and contexts (08 R181, R182) -/

/-- Whether a channel can take one more suspended context: eight places, and room beside a held
plaintext (R182, 09 R213). -/
def Dev.canSave (d : Dev) (n : Chn) : Bool :=
  (d.chan n).susp < 8 &&
    match (d.chan n).holding with
    | some p => p + 512 * ((d.chan n).susp + 1) ≤ 16384
    | none => true

/-- The output produced so far written to its destination (07 R161). -/
def writeSoFar (n : Chn) (s : Sentence) (c : Clause) (j : Job) (d : Dev) : Dev :=
  let out := (specOf c.verb (par8 j.params 0)).partialOut (j.work n c d)
  let new := out.drop j.written
  let d := match j.dst with
    | .ring => if j.outGone then d else modRings n (fun r => r.writeOpen j.written new) d
    | .append off => modRings n (fun r =>
        if r.openRec.any (fun o => some o.sid == s.parent.map (·.sid)) then r.writeOpen (off + j.written) new
        else r) d
    | .buf first off => writePool (first * 512 + off + j.written) new d
    | .alloc first => writePool (first * 512 + j.written) new d
    | .none => d
  modJob n s.sid (fun j => { j with written := out.length }) d

/-- A clause starts anew on an engine, at a boundary or from its context, selected as `x`: the next input. -/
def continueJob (n : Chn) (s : Sentence) (c : Clause) (j : Job) (x : Sel) (runOn : Bool) (d : Dev) : Dev :=
  gather (specOf c.verb (par8 j.params 0)) n s c
    { j with phase := .run, weight := x.weight, tagBefore := x.before, runOn := runOn } d
    (modSent n s.sid (fun s => { s with sel := none }) d)

/-- A step starts anew on an engine: its next segment, or all of it in class B. -/
def Step.go (t : Step) (x : Sel) (runOn : Bool) : Step :=
  { t with
    phase := .run, sel := none, weight := x.weight, tagBefore := x.before, runOn := runOn
    pos := if t.cls == .bignum then t.len else min t.len (t.pos + 4096) }

/-- Whether an engine id's engine is in the dispatch set. -/
def Dev.laneStays (d : Dev) (eng : Nat) : Bool :=
  match allEngs.find? (fun e => engId e.val == eng) with
  | some e => d.inSet e.val
  | none => false

/-- What happens at a boundary: the work goes on, is saved, or waits on its lane. -/
inductive Fate where
  | go
  | save
  | stay
  deriving DecidableEq, Repr

/-- The ranking at a boundary (08 R181, R182, R185, R186): `saved` is the state with the work suspended, whose
tags are those after the correction; `ready` tells whether its next bytes are there; work that could not
be saved when its lane had left the dispatch set runs on. -/
def Dev.fate (d saved : Dev) (n : Chn) (sid : Nat) (k : Cls) (eng : Nat) (ready runOn : Bool) : Fate :=
  let save := d.canSave n && !runOn
  if !ready then (if save then .save else .stay)
  else if !save then .go
  else if d.stopped || !d.laneStays eng then .save
  else if saved.pick k = some (n, sid) then .go else .save

/-- Whether work that goes on at a boundary runs on to its end from here: its lane has left the dispatch set and
no place is free. -/
def Dev.runsOn (d : Dev) (n : Chn) (eng : Nat) (runOn : Bool) : Bool := runOn || (!d.canSave n && !d.laneStays eng)

/-- A clause at a boundary. -/
def rankClause (n : Chn) (s : Sentence) (c : Clause) (j : Job) (k : Cls) (d : Dev) : Dev :=
  let saved := modJob n s.sid (fun j => { j with phase := .susp }) d
  match d.fate saved n s.sid k j.engine (d.moreReady n s j) j.runOn with
  | .stay => modJob n s.sid (fun j => { j with phase := .starved }) d
  | .save => saved
  | .go =>
    let r := selectFor k n s.prio 16 [] d
    continueJob n s c j r.1 (d.runsOn n j.engine j.runOn) r.2

/-- A step at a boundary. -/
def rankStep (n : Chn) (s : Sentence) (t : Step) (d : Dev) : Dev :=
  let saved := setStep n s.sid (some { t with phase := .susp }) d
  match d.fate saved n s.sid t.cls t.engine true t.runOn with
  | .go =>
    let r := selectFor t.cls n true 16 [] d
    setStep n s.sid (some (t.go r.1 (d.runsOn n t.engine t.runOn))) r.2
  | _ => saved

/-- A round of RSA key generation ends (11 R261): its candidate is the next prime or not; with the second prime
the clause has its result. -/
def endRound (n : Chn) (s : Sentence) (c : Clause) (j : Job) (acc : List Nat) (d : Dev) : Dev :=
  if j.drawing || 2 ≤ acc.length then d
  else if j.abort then endEarly n s j .aborted d
  else
    let acc := roundPrimes j.params j.rnd acc d.ctr
    let j := { j with primes := some acc }
    let d := if acc.length = 1 then
        match coreOf j.engine with
        | some k => modChan n (fun ch => { ch with prog := vmod ch.prog k (fun p => { p with done := 128 }) }) d
        | none => d
      else d
    bump (settleResult (specOf c.verb (par8 j.params 0)) n s.sid c j d d)

/-- A triple of a PRESIG_FILL clause is done: its place is AVAILABLE (11 R269). -/
def endTriple (n : Chn) (s : Sentence) (j : Job) (d : Dev) : Dev :=
  match j.result with
  | none => d
  | some r =>
    match j.triples with
    | [] => d
    | t :: ts =>
      if j.midFill r then
        modJob n s.sid (fun j => { j with
            filling := j.filling - 1, result := some { r with good := [.presig ts] } })
          (addPresigs [t] (unfill 1 d))
      else d

/-- The boundary of a running clause that makes no step. -/
def clauseBoundary (n : Chn) (s : Sentence) (c : Clause) (j : Job) (d : Dev) : Dev :=
  match verbClass c.verb with
  | none => d
  | some k =>
    match j.primes with
    | some acc => endRound n s c j acc d
    | none =>
      if j.verb = 0x5E then endTriple n s j d
      else if !segmented c.verb || j.result.isSome then d
      else if j.phase == .starved then (if d.moreReady n s j then rankClause n s c j k d else d)
      else if j.phase != .run then d
      else
        let d := writeSoFar n s c j d
        let j := { j with written := ((d.sent n s.sid).bind (·.job)).elim j.written (·.written) }
        let d := correctTag k n j.weight j.tagBefore d
        if j.abort then endEarly n { s with job := some j } { j with phase := .susp } .aborted d
        else rankClause n s c j k d

/-- A clause or a step reaches a boundary, or the bytes a clause waiting on its lane lacked have arrived; or a round
of RSA key generation, or a triple of PRESIG_FILL, is done. -/
def segmentBoundary (n : Chn) (sid : Nat) (d : Dev) : Dev :=
  match d.sent n sid with
  | none => d
  | some s =>
    match s.job, s.clauses[s.idx]? with
    | some j, some c =>
      if !d.working || j.phase == .persist then d
      else
        match j.step with
        | none => if d.halts j.verb then d else clauseBoundary n s c j d
        | some t =>
          if t.phase == .run && t.pos < t.len then
            let d := correctTag t.cls n t.weight t.tagBefore d
            if j.abort then
              endEarly n s { j with steps := { t with phase := .susp } :: j.steps.drop 1 } .aborted d
            else rankStep n s t d
          else d
    | _, _ => d

/-- SEGMENT_BOUNDARY (R181, R182). -/
def execSegmentBoundary (n : Chn) (sid : Nat) (s : State) : Out :=
  onDev (fun d => segmentBoundary n sid (scrubChan d n)) s

/-! ### Selections for contexts, steps and the open check (08 R176, R184) -/

/-- An engine for work that is not a clause's first dispatch: the selection it holds, if its engine is still in
the dispatch set, or one made now when the work is the scheduler's pick of its class. -/
def giveEngine (k : Cls) (n : Chn) (sid : Nat) (prio : Bool) (held : Option Sel) (doms : Nat → List Nat)
    (d : Dev) : Option Sel × Dev :=
  match held with
  | some x => if d.selStands x then (some x, d) else (none, dropSel k n x d)
  | none =>
    if d.pick k = some (n, sid) then
      match d.prefer (k.engines.filter d.engFree) with
      | some e =>
        let r := selectFor k n prio e (doms e) d
        (some r.1, r.2)
      | none => (none, d)
    else (none, d)

/-- The selections of one sentence on engine `e` given up. -/
def dropSentSels (e : Nat) (n : Chn) (d : Dev) (s : Sentence) : Dev :=
  let d := match s.sel, (s.clauses[s.idx]?).bind (fun c => verbClass c.verb) with
    | some x, some k => if x.eng = e then dropSel k n x (modSent n s.sid (fun s => { s with sel := none }) d) else d
    | _, _ => d
  match s.job.bind Job.step with
  | some t => match t.sel with
    | some x =>
      if x.eng = e then dropSel t.cls n x (setStep n s.sid (some { t with sel := none }) d) else d
    | none => d
  | none => d

/-- The selection of a channel's open check on engine `e` given up. -/
def dropCheckSel (e : Nat) (n : Chn) (d : Dev) : Dev :=
  match (d.chan n).phase with
  | .checking key nonce resp t => match t.sel with
    | some x =>
      if x.eng = e then
        dropSel t.cls n x (modChan n (fun c => { c with phase := .checking key nonce resp { t with sel := none } }) d)
      else d
    | none => d
  | _ => d

/-- Engine `e` has left the dispatch set: every dispatch that waits for its switch-on is eligible work again, its
charge corrected (08 R185, R186, R193). -/
def dropSelsOn (e : Nat) (d : Dev) : Dev :=
  allChns.foldl (fun d n => dropCheckSel e n ((d.chan n).sents.foldl (dropSentSels e n) d)) d

/-- The lane or core selected for a suspended clause, a queued or suspended step: it starts once its domains are
on; until then the selection is held (`hold`) and they are demanded. -/
def startOrHold (g : Option Sel × Dev) (hold : Option Sel → Dev → Dev) (start : Sel → Dev → Dev) : Dev :=
  match g.1 with
  | none => hold none g.2
  | some x => if g.2.allOn x.doms then start x g.2 else hold (some x) (demandEngine x.eng g.2)

/-- A public-key clause gets the core it claims: its job starts there (11 R256). -/
def startCore (n : Chn) (s : Sentence) (c : Clause) (x : Sel) (d : Dev) : Dev :=
  modJob n s.sid (fun j => { j with
      engine := engIdOf x.eng, weight := x.weight, tagBefore := x.before, steps := j.steps.drop 1 })
    (startProg n c x.eng d)

/-- A step gets an engine. -/
def startStep (n : Chn) (s : Sentence) (c : Clause) (t : Step) (x : Sel) (d : Dev) : Dev :=
  setStep n s.sid (some { t.go x false with engine := engIdOf x.eng })
    (if t.cls == .bignum then startProg n c x.eng d else d)

/-- The step of a dispatched clause that the scheduler selects starts. -/
def resumeStep (n : Chn) (s : Sentence) (c : Clause) (j : Job) (t : Step) (d : Dev) : Dev :=
  if (t.phase == .queued || t.phase == .susp) && !(t.own && d.halts j.verb) then
    startOrHold (giveEngine t.cls n s.sid (s.prio || !t.own) t.sel (fun e => jobDoms 0x50 e []) d)
      (fun o d => setStep n s.sid (some { t with sel := o }) d)
      (fun x d => if t.own then startCore n s c x d else startStep n s c t x d)
  else d

/-- A suspended clause that the scheduler selects goes on, on the lane selected. -/
def resumeClause (n : Chn) (s : Sentence) (c : Clause) (j : Job) (d : Dev) : Dev :=
  match verbClass c.verb with
  | none => d
  | some k =>
    if j.phase == .susp then
      startOrHold (giveEngine k n s.sid s.prio s.sel (fun e => [12 + e]) d)
        (fun o d => modSent n s.sid (fun s => { s with sel := o }) d)
        (fun x d => continueJob n s c { j with engine := engIdOf x.eng } x false d)
    else d

/-- The open check of a channel that the scheduler selects starts on a lane (05 R121). -/
def resumeCheck (n : Chn) (d : Dev) : Dev :=
  match (d.chan n).phase with
  | .checking key nonce resp t =>
    let put (t : Step) (d : Dev) := modChan n (fun c => { c with phase := .checking key nonce resp t }) d
    if t.phase == .queued then
      startOrHold (giveEngine .hash n 0 true t.sel (fun e => [12 + e]) d)
        (fun o d => put { t with sel := o } d)
        (fun x d => put { t.go x false with engine := engIdOf x.eng } d)
    else d
  | _ => d

/-- The scheduler selects a suspended context, a queued step or, for a channel in OPENING, its open check. -/
def contextResume (n : Chn) (sid : Nat) (d : Dev) : Dev :=
  if d.stopped then d
  else
    match d.sent n sid with
    | none => resumeCheck n d
    | some s =>
      match s.job, s.clauses[s.idx]? with
      | some j, some c =>
        match j.step with
        | some t => resumeStep n s c j t d
        | none => resumeClause n s c j d
      | _, _ => d

/-- CONTEXT_RESUME (R181). -/
def execContextResume (n : Chn) (sid : Nat) (s : State) : Out := onDev (contextResume n sid) s

/-! ### Class waits (08 R194; 10 R232) -/

/-- Whether the class of a clause that waits for its dispatch, its bound core or its core's user area cannot
serve it. -/
def Dev.unserved (d : Dev) (n : Chn) (c : Clause) (k : Cls) : Bool :=
  !d.classHas k || (d.lc.dbgHalt && isPublic c.verb)
    || (match d.boundCore c with
      | some b => !d.inSet (12 + b)
      | none => false)
    || !d.areaReady n c

/-- Whether a queued or suspended step waits for a class that has no engine in the dispatch set. -/
def Dev.stepUnserved (d : Dev) (j : Job) (t : Step) : Bool :=
  (t.phase == .queued || t.phase == .susp) && (!d.classHas t.cls || (t.own && d.halts j.verb))

/-- Work whose class wait ends completes NO_ENGINE; the waits are frozen at level 3 and above. -/
def classWaitEnds (n : Chn) (sid : Nat) (d : Dev) : Dev :=
  match d.sent n sid with
  | none => d
  | some s =>
    match s.job, s.clauses[s.idx]? with
    | _, none => d
    | some j, some _ =>
      if d.stopped then d
      else
        match j.step, verbClass j.verb with
        | some t, _ => if d.stepUnserved j t then endEarly n s j .noEngine d else d
        | none, some k => if d.ctxReady n k s && !d.classHas k then endEarly n s j .noEngine d else d
        | none, none => d
    | none, some c =>
      match d.workClass s c with
      | none => d
      | some k =>
        if d.stopped then d
        else if !s.wait.holds && d.streamReady n s c && d.outReady n s c && d.holdReady n s c
            && d.unserved n c k then
          failClause n s .noEngine 0xFF d
        else d

/-- CLASS_WAIT_EXPIRY (R194); the CPL ring's pointers are compared before a record posts (06 R128). -/
def execClassWaitExpiry (n : Chn) (sid : Nat) (s : State) : Out :=
  onDev (fun d => classWaitEnds n sid (scrubChan d n)) s

end Sys2Proof.Machine
end

