-- ==== Sys2Proof/Machine/Channel.lean ====
section
/-!
DEFINITION. Channels: opening with and without a challenge, closing, draining, resetting, host
allocations, and the channel configuration record (05_channels.md R106–R121; 07 R160, R164, R166;
12 R285, R288).
-/

namespace Sys2Proof.Machine

/-! ### Opening (R107, R109, R119) -/

/-- The configuration word of a channel's next session. -/
def Dev.chcfgt (d : Dev) (n : Chn) : Word := d.cfg.chcfgt[n.val]

/-- EN of a configuration word. -/
def cfgEn (w : Word) : Bool := bit w 31

/-- POLICY of a configuration word. -/
def cfgPolicy (w : Word) : Nat := fld w 29 28

/-- Whether a memory domain of a channel is marked failed (16 Table 16.4). -/
def Dev.chanFailed (d : Dev) (n : Chn) : Bool :=
  (chanDoms n.val).any (fun x => (vget d.power.doms x ⟨.off, false, false⟩).failed)

/-- The open check of a channel leaves its lane, or gives up the selection it holds. -/
def leaveCheck (n : Chn) (d : Dev) : Dev :=
  match (d.chan n).check with
  | some t => leaveStep n false t d
  | none => d

/-- An open attempt ended in CLOSED with a code. -/
def openFails (n : Chn) (err : Nat) (d : Dev) : Dev :=
  modChan n (fun c => { c with
    state := .closed, openErr := err, nonceV := false, nonce := [], phase := .idle }) (leaveCheck n d)

/-- The nonce and the response registers cleared by the outcome of a RESP (R121). -/
def clearResp (n : Chn) (d : Dev) : Dev := modChan n (fun c => { c with resp := Vector.replicate 8 0 }) d

/-- An open attempt ended by its response. -/
def respFails (n : Chn) (err : Nat) (d : Dev) : Dev := clearResp n (openFails n err d)

/-- An open abandoned: OPENERR unchanged. -/
def abandonOpen (n : Chn) (d : Dev) : Dev :=
  modChan n (fun c => { c with rings := c.rings.ended, quota := 0 }) (openFails n (d.chan n).openErr d)

/-- The initialization of R109 starts: configuration, rings, quota; the channel's memory domains are then in
use (16 R371). -/
def startInit (n : Chn) (d : Dev) : Dev :=
  let w := d.chcfgt n
  modChan n (fun c => { c with
    phase := .init false, cfg := w, rings := .opened (fld w 25 24) c.rings.recNo, stream := .fresh
    quota := 16 * fld w 19 12, nonceV := false, nonce := [] }) d

/-- The OPENKEY slot of a channel's next session. -/
def Dev.openKey (d : Dev) (n : Chn) : Nat := fld (d.chcfgt n) 7 0

/-- The key checks of R119 on an OPENKEY slot: the code of the first that fails. -/
def Dev.openKeyErr (d : Dev) (n : Chn) (s : Nat) : Option Nat :=
  if !d.ks.ready then some 2
  else
    match d.ks.slot s with
    | some x =>
      if !(isStd s && x.st == .live && x.owner == n.val && x.cls == 0x18 && uses x.usage uMAC && d.keyReadable s) then
        some 3
      else if x.ctr + 1 ≤ x.limit then none else some 4
    | none => some 3

/-- CH_CTL.OPEN (Table 05.2). -/
def chOpen (n : Chn) (d : Dev) : Dev :=
  let c := d.chan n
  let w := d.chcfgt n
  if d.power.st == .entry then holdWrite (.open n) d
  else if c.state != .closed || c.phase != .idle then d
  else if !cfgEn w || d.chanFailed n then openFails n 1 d
  else if cfgPolicy w = 0 then startInit n d
  else
    match d.openKeyErr n (d.openKey n) with
    | some e => openFails n e (if e = 3 then dropRecord d (d.openKey n) else d)
    | none =>
      if d.entropyOut then openFails n 5 d
      else if c.lockout then openFails n 6 d
      else
        let g := enterDraw (.nonce n) (.plain 32) d
        modChan n (fun c => { c with state := .opening, phase := (g.1.map OpenPhase.drawn).getD .drawing }) g.2

/-- CH_OPEN. -/
def execChOpen (n : Chn) (s : State) : Out := onPage n (chOpen n) s

/-- The nonce that has been drawn is placed (R120). -/
def openNonceReady (n : Chn) (d : Dev) : Dev :=
  match (d.chan n).state, (d.chan n).phase with
  | .opening, .drawn nonce =>
    if d.stopped then d else modChan n (fun c => { c with nonce := nonce, nonceV := true, phase := .noncev }) d
  | _, _ => d

/-- OPEN_NONCE_READY. -/
def execOpenNonceReady (n : Chn) (s : State) : Out := onDev (openNonceReady n) s

/-- A response taken for an OPENKEY slot: the slot charged, its key captured, the HMAC queued as class-H work, or
a checkpoint awaited (R121). -/
def chargeResp (n : Chn) (s : Nat) (nonce resp : Bytes) (d : Dev) : Dev :=
  if d.chargeNow s 1 then
    let key := d.keyValue s
    modChan n (fun c => { c with phase := .checking key nonce resp (Step.of .hash 62) })
      (charge (touchCache s d) (s, 1))
  else modChan n (fun c => { c with phase := .ckptWait s nonce resp }) (startCkpt s d)

/-- CH_CTL.RESP (R121). -/
def chResp (n : Chn) (d : Dev) : Dev :=
  let c := d.chan n
  if c.state != .opening || !c.nonceV then d
  else
    match d.openKeyErr n (d.openKey n) with
    | some e => respFails n e (if e = 3 then dropRecord d (d.openKey n) else d)
    | none => chargeResp n (d.openKey n) c.nonce (wordsBytes c.resp.toList)
        (modChan n (fun c => { c with nonceV := false }) d)

/-- CH_RESP. -/
def execChResp (n : Chn) (s : State) : Out := onPage n (chResp n) s

/-- The open message (Table 05.6). -/
def Dev.openMessage (d : Dev) (n : Chn) (nonce : Bytes) : Bytes :=
  ascii "AY-OPEN" ++ [0] ++ wordBytes devid ++ uidBytes ++ [BitVec.ofNat 8 n.val]
    ++ [if d.bound n == .A then 0x41 else 0x42] ++ nonce

/-- The open check that runs on a hash lane ends: the response is compared (R121). -/
def openRespResult (n : Chn) (d : Dev) : Dev :=
  match (d.chan n).state, (d.chan n).phase with
  | .opening, .checking key nonce resp t =>
    if d.stopped || t.phase != .run then d
    else if sameBytes (hmac .sha256 key (d.openMessage n nonce)) resp then
      clearResp n (startInit n (leaveStep n true t d))
    else
      modChan n (fun c => { c with lockout := true }) (noteCh n 8 0 0 (respFails n 7 d))
  | _, _ => d

/-- OPEN_RESP_RESULT. -/
def execOpenRespResult (n : Chn) (s : State) : Out := onDev (openRespResult n) s

/-- OPEN_TIMEOUT: 5 s after NONCEV without RESP (Table 05.2). -/
def execOpenTimeout (n : Chn) (s : State) : Out :=
  onDev (fun d => if (d.chan n).state == .opening && (d.chan n).phase == .noncev then openFails n 8 d
    else d) s

/-- OPEN_LOCKOUT_EXPIRY (R121). -/
def execOpenLockoutExpiry (n : Chn) (s : State) : Out :=
  onDev (modChan n (fun c => { c with lockout := false })) s

/-- Whether the initialization of a channel runs. -/
def Chan.initRuns (c : Chan) : Bool :=
  match c.phase with
  | .init _ => c.state == .closed || c.state == .opening
  | _ => false

/-- The initialization ends once the channel's memory domains are on: OPEN; with a CLOSE since, DRAINING (R108). -/
def openInitDone (n : Chn) (d : Dev) : Dev :=
  if !(d.chan n).initRuns || d.stopped || !d.allOn (chanDoms n.val) then d
  else modChan n (fun c => { c with
    state := if c.phase == .init true then .draining else .opened, phase := .idle, openErr := 0 }) d

/-- OPEN_INIT_DONE (R109). -/
def execOpenInitDone (n : Chn) (s : State) : Out := onDev (openInitDone n) s

/-! ### Giving up what a channel holds (R110, R111) -/

/-- The arm of the last gasp lost when `p` holds of it (17 R408). -/
def dropArm (p : Arm → Bool) (d : Dev) : Dev :=
  match d.supply.arm with
  | some a => if p a then { d with supply := { d.supply with arm := none } } else d
  | none => d

/-- The volatile slots of a channel emptied. -/
def emptyVolOf (n : Chn) (d : Dev) : Dev :=
  let gone := (d.ks.vol.filter (fun k => k.owner = n.val)).map (·.slot)
  dropArm (fun a => gone.contains a.slot)
    (modKs (fun k => { k with vol := k.vol.filter (fun x => x.owner != n.val) }) d)

/-- The user areas a channel owns unwritten and unowned (10 R249). -/
def freeAreas (n : Chn) (d : Dev) : Dev :=
  { d with cores := d.cores.map (fun b => if b.owner = some n then { b with owner := none, slots := [] } else b) }

/-- Every taken sentence of a channel discarded at once. -/
def dropSents (n : Chn) (d : Dev) : Dev :=
  (d.chan n).sents.foldl (fun d s => dropOne n s (match s.job with
    | some j => cutPersist n j [] [] d
    | none => d)) d

/-- What a channel holds returned and zeroed (R110, R111): buffers, volatile slots, operand slots, rings, stream
banks, record contexts. -/
def freeHeld (n : Chn) (d : Dev) : Dev :=
  modChan n (fun c => { c with
    state := .closed, nonceV := false, phase := .idle, nonce := [], quota := 0, rings := c.rings.ended
    stream := .fresh, sents := [], alloc := none, recs := Vector.replicate 8 none })
    (freeAreas n (emptyVolOf n (freeAll n d)))

/-- A channel released at the end of DRAINING (R110): no reset, so its registers keep their values. -/
def releaseChan (n : Chn) (d : Dev) : Dev := freeHeld n d

/-- A channel reset (R111, 00_scope.md R15): its page at its reset value but for CH_CFG and CH_STICKY. -/
def clearChan (n : Chn) (d : Dev) : Dev :=
  modChan n (fun c => { c with
    openErr := 0, resp := Vector.replicate 8 0, allocRes := 0, prog := Vector.replicate 4 ⟨false, 0, 0⟩ })
    (freeHeld n d)

/-! ### Close and reset -/

/-- CH_CTL.CLOSE (Table 05.2). While the initialization of an open under policy NONE runs, the open counts as made:
the channel drains once it has opened. R108 says so of a RESET written with the OPEN; of CLOSE, and of either in a
later write, the manual says nothing (DESIGN CHOICE, log entry 70). -/
def chClose (n : Chn) (d : Dev) : Dev :=
  match (d.chan n).state, (d.chan n).phase with
  | .opened, _ => modChan n (fun c => { c with state := .draining }) d
  | .opening, _ => abandonOpen n d
  | .closed, .init _ => modChan n (fun c => { c with phase := .init true }) d
  | _, _ => d

/-- CH_CLOSE. -/
def execChClose (n : Chn) (s : State) : Out := onPage n (chClose n) s

/-- What a reset does to one taken sentence (R111): a waiting clause, a context, a queued step and a big-number job
end at once; a lane goes on to its boundary or end, the service processor to the end of its step, the writes
of a persistent key as R280 states. -/
def resetSent (n : Chn) (s : Sentence) (d : Dev) : Dev :=
  match s.job, d.childOf n s.sid with
  | none, _ => dropSent n s d
  | some _, some x =>
    match x.job with
    | none => dropSent n x d
    | some y => if y.stopsAtOnce then dropSent n x d else markAbort n s.sid (markAbort n x.sid d)
  | some j, none => if j.stopsAtOnce then dropSent n s d else markAbort n s.sid d

/-- A channel put into RESETTING: its queued clauses, its host allocation and those taken sentences that end at
once are dropped (R111, steps 1–4). -/
def beginReset (n : Chn) (d : Dev) : Dev :=
  let d := ((d.chan n).sents.filter (·.parent.isNone)).foldl (fun d s => resetSent n s d) d
  modChan n (fun c => { c with state := .resetting, phase := .idle, alloc := none }) d

/-- CH_CTL.RESET (Table 05.2); while an initialization under policy NONE runs the open counts as made (R108, log
entry 70). -/
def chReset (n : Chn) (d : Dev) : Dev :=
  match (d.chan n).state with
  | .opened => beginReset n d
  | .draining => beginReset n d
  | .opening => abandonOpen n d
  | .closed => if (d.chan n).initRuns then beginReset n (modChan n (fun c => { c with openErr := 0 }) d) else d
  | .resetting => d

/-- CH_RESET. -/
def execChReset (n : Chn) (s : State) : Out := onPage n (chReset n) s

/-- CH_RESET_DONE: once every dispatched clause has ended, the rest of the work of R111, and CLOSED. -/
def execChResetDone (n : Chn) (s : State) : Out :=
  onDev (fun d => if (d.chan n).state == .resetting && (d.chan n).sents.isEmpty then clearChan n d else d) s

/-- A channel reset whole, in whatever state it is. -/
def resetChan (n : Chn) (d : Dev) : Dev :=
  match (d.chan n).state with
  | .closed => if (d.chan n).phase == .idle then d else abandonOpen n d
  | .opening => abandonOpen n d
  | _ => clearChan n (dropSents n d)

/-- Every channel reset (13 R313). -/
def resetAllChans (d : Dev) : Dev := allChns.foldl (fun d n => resetChan n d) d

/-- The condition under which draining ends (R110). -/
def Dev.drained (d : Dev) (n : Chn) : Bool :=
  let c := d.chan n
  c.state == .draining && c.rings.subp.used == 0 && c.rings.subb.used == 0 && c.sents.isEmpty
    && c.rings.cpl.used == 0 && c.rings.out.used == 0

/-- The pointer pairs of a draining channel compared before they are used (06 R128), and the release when draining
has ended. -/
def drainEnds (n : Chn) (d : Dev) : Dev :=
  let d := scrubChan d n
  if d.drained n then releaseChan n d else d

/-- DRAIN_COMPLETE (R110). -/
def execDrainComplete (n : Chn) (s : State) : Out := onDev (drainEnds n) s

/-! ### Configuration (R115–R118) -/

/-- The bits of a configuration word that are not reserved. -/
def chcfgMask : Word := 0xFBFFF0FF

/-- The word a write leaves, and whether a reserved field value was written (R11). -/
def chcfgMerge (old w : Word) : Word × Bool :=
  let badPol := 2 ≤ cfgPolicy w
  let badKey := 0xF0 ≤ fld w 7 0
  let x := w &&& chcfgMask
  let x := if badPol then putFld x old 29 28 else x
  let x := if badKey then putFld x old 7 0 else x
  (x, badPol || badKey)

/-- The sum of the quotas of the enabled channels, in granules. -/
def quotaSum (ws : List Word) : Nat := ((ws.filter cfgEn).map (fun w => 16 * fld w 19 12)).sum

/-- Whether the configuration registers are locked (R117). -/
def Dev.cfgLocked (d : Dev) : Bool :=
  !d.cfg.loaded || d.otp.lcCode == 2 || d.otp.lcCode == 3 || d.otp.lcCode == 0xF

/-- The eighteen words of the record as they stand. -/
def ConfigRec.words (c : ConfigRec) : Vector Word 18 :=
  Vector.ofFn (fun i => if i.val < 16 then vget c.chcfgt i.val 0 else if i.val = 16 then c.tamperCfg else c.lgCfg)

/-- A record write asked for: it starts now, or when the running one ends. Before ROOT exists none can
be made (R118). -/
def wantConfigWrite (d : Dev) : Dev :=
  let c := d.cfg
  if !d.otp.rooted then { d with cfg := { c with err := true } }
  else if c.busy then { d with cfg := { c with again := true } }
  else { d with cfg := { c with busy := true, snap := c.words } }

/-- Whether a write of a configuration register is carried by a record write (R116, R118): one that changes it; before
ROOT exists, when no record can be made; during a record write; and one that repeats the word while no record
holds it, DIRTY or ERR set (DESIGN CHOICE, log entry 71: the manual speaks of changes alone). -/
def Dev.wantsRecord (d : Dev) (changed : Bool) : Bool :=
  changed || !d.otp.rooted || d.cfg.busy || d.cfg.err || d.cfg.dirty != 0

/-- A committed write of CHCFGTn from port `p`. -/
def writeChcfgt (p : Port) (n : Chn) (w : Word) (d : Dev) : Dev :=
  if p == .B then noteLink p 6 d
  else if d.cfgLocked then noteLink p 11 d
  else
    let old := d.chcfgt n
    let m := chcfgMerge old w
    let d := if m.2 then noteLink p 12 d else d
    let ws := d.cfg.chcfgt.set n.val m.1
    if 4096 < quotaSum ws.toList then noteLink p 12 d
    else
      let moved := bit old 31 != bit m.1 31 || bit old 30 != bit m.1 30
      let d := if (d.chan n).state == .opening && moved then abandonOpen n d else d
      if d.wantsRecord (old != m.1) then
        wantConfigWrite { d with cfg := { d.cfg with
          chcfgt := ws, dirty := if old = m.1 then d.cfg.dirty else d.cfg.dirty ||| BitVec.ofNat 16 (2 ^ n.val) } }
      else d

/-- CHCFGT_WRITE (R116, R117). -/
def execChcfgtWrite (p : Port) (n : Chn) (w : Word) (s : State) : Out := onWrite p (writeChcfgt p n w) s

/-- Whether bytes are a configuration record with a right check word and, where `mac` asks for it, a
right MAC. -/
def configValid (key : Bytes) (mac : Bool) (bs : Bytes) : Bool :=
  bs.take 4 == ascii "AYCC" && par8 bs 4 == 1 && slice 5 3 bs == zeros 3 && crcGood 136 bs
    && (!mac || hmac .sha384 key (bs.take 88) == slice 88 48 bs)

/-- The two copies of the configuration record. -/
def Dev.configCopies (d : Dev) : TwoCopies :=
  { a := 0x7000, b := 0x8000, sectors := 1, len := 140
    valid := fun bs => d.otp.rooted && configValid d.otp.cfgKey (d.otp.lcCode != 3) bs
    seqAt := 8, eraseAt := some 12 }

/-- A configuration record (Table 05.12). -/
def configRecord (key : Bytes) (ws : List Word) (seq erases : Nat) : Bytes :=
  let b := ascii "AYCC" ++ [1, 0, 0, 0] ++ natBE 4 seq ++ natBE 4 erases ++ wordsBytes ws
  let b := b ++ hmac .sha384 key b
  b ++ crcCheck b

/-- The bits of CHCFGSTAT.DIRTY against a written record. -/
def ConfigRec.dirtyAgainst (c : ConfigRec) (rec_ : Vector Word 18) : BitVec 16 :=
  BitVec.ofNat 16 (((List.range 16).map (fun i =>
    if vget c.chcfgt i 0 = vget rec_ i 0 then 0 else 2 ^ i)).sum)

/-- The running record write ends; a further one starts when one was asked for. -/
def configWriteEnds (vfy : List Bool) (d : Dev) : Dev :=
  if !d.cfg.busy || 3 ≤ d.supply.level then d
  else
    let ok := (d.outcome vfy).1
    let d := writeCopy d.configCopies (configRecord d.otp.cfgKey d.cfg.snap.toList) ok d
    let c := d.cfg
    let c := if ok then { c with dirty := c.dirtyAgainst c.snap, err := false } else { c with err := true }
    { d with cfg := if c.again then { c with again := false, snap := c.words } else { c with busy := false } }

/-- CONFIG_RECORD_WRITE (R118). -/
def execConfigRecordWrite (vfy : List Bool) (s : State) : Out := onDev (configWriteEnds vfy) s

/-- CHCFGSTAT (Table 05.10). -/
def Dev.chcfgStat (d : Dev) : Word :=
  at_ (flag d.cfg.err) 17 ||| at_ (flag d.cfg.busy) 16 ||| at_ d.cfg.dirty.toNat 0

/-! ### Host allocations (07 R160, R164, R166) -/

/-- A CH_ALLOC write (Table 05.3, R160). -/
def chAlloc (n : Chn) (count : Nat) (p : Port) (d : Dev) : Dev :=
  let c := d.chan n
  if d.power.st == .entry then holdWrite (.alloc n count) d
  else if c.state != .opened then d
  else if count = 0 ∨ 64 < count then noteLink p 12 d
  else if c.alloc.isSome then modChan n (fun c => { c with allocRes := setBit c.allocRes 30 }) d
  else
    let r := d.select n count
    modChan n (fun c => { c with alloc := some ⟨count, r.1, r.2⟩, allocRes := clrBit c.allocRes 30 }) d

/-- CH_ALLOC. -/
def execChAlloc (n : Chn) (count : Nat) (s : State) : Out :=
  onPage n (fun d => chAlloc n (count % 128) (d.bound n) d) s

/-- CH_ALLOCRES: BUSY with the kept fields (Table 07.5). -/
def Chan.allocReg (c : Chan) : Word := putBit c.allocRes 31 c.alloc.isSome

/-- The result of an allocation loaded. -/
def allocEnds (n : Chn) (result handle : Nat) (d : Dev) : Dev :=
  modChan n (fun c => { c with
    alloc := none
    allocRes := at_ (flag (bit c.allocRes 30)) 30 ||| at_ result 24 ||| at_ handle 0 }) d

/-- The allocation in progress ends: its run is zeroed and its bank is on, or it was refused. Until then the run it
has selected keeps the bank in use (R169). -/
def allocComplete (n : Chn) (d : Dev) : Dev :=
  match (d.chan n).alloc with
  | none => d
  | some r =>
    if d.stopped then d
    else
      match r.pick with
      | none => allocEnds n r.result 0xFFFC d
      | some f =>
        if d.domOn (60 + f / 128) then
          allocEnds n 0 (d.pool.handle f) (placeBuf ⟨f, r.count, n, .live⟩ d)
        else d

/-- ALLOC_COMPLETE (R160). -/
def execAllocComplete (n : Chn) (s : State) : Out := onDev (allocComplete n) s

/-- A CH_FREE write in OPEN or DRAINING (R164). -/
def chFree (n : Chn) (h : Nat) (d : Dev) : Dev := if (d.chan n).state.active then judgeFree n h d else d

/-- CH_FREE. -/
def execChFree (n : Chn) (handle : BitVec 16) (s : State) : Out := onPage n (chFree n handle.toNat) s

/-- The dirty granule that is zeroed next: the lowest of those whose bank is on (R166). -/
def Dev.zeroNext (d : Dev) : Option Nat := (List.range 4096).find? (fun g => d.pool.dirty.contains g && d.domOn (60 + g / 128))

/-- A dirty granule's zeroing ends (R166), lowest granule first; one that is not next is not zeroed. -/
def granuleZero (g : Nat) (d : Dev) : Dev :=
  if d.zeroNext = some g then { d with pool := zeroGran g 1 d.pool } else d

/-- GRANULE_ZERO. -/
def execGranuleZero (g : Nat) (s : State) : Out := onDev (granuleZero g) s

/-! ### Checkpoints (12 R285, R288) -/

/-- The clauses that wait for a checkpoint of a slot. -/
def Dev.ckptWaiters (d : Dev) (slot : Nat) : List (Chn × Nat) :=
  allChns.flatMap (fun n => ((d.chan n).sents.filter (fun s => s.wait == .checkpoint slot)).map
    (fun s => (n, s.sid)))

/-- A clause released from its wait for a checkpoint, or failed KEY_SPENT. -/
def endCkptWait (ok : Bool) (d : Dev) (x : Chn × Nat) : Dev :=
  if ok then modSent x.1 x.2 (fun s => { s with wait := .none }) d
  else
    match d.sent x.1 x.2 with
    | some s => failClause x.1 s .keySpent 0xFF d
    | none => d

/-- The open responses that wait for a checkpoint of a slot go on, or fail SPENT. -/
def endCkptOpen (slot : Nat) (ok : Bool) (d : Dev) (n : Chn) : Dev :=
  match (d.chan n).phase with
  | .ckptWait s nonce resp =>
    if s != slot then d
    else if !ok then respFails n 4 d
    else
      match d.openKeyErr n s with
      | some e => respFails n e d
      | none => chargeResp n s nonce resp d
  | _ => d

/-- A running checkpoint ends, after up to three attempts; it waits at level 3 and above. -/
def ckptEnds (slot : Nat) (vfy : List Bool) (d : Dev) : Dev :=
  match d.ks.ckpts.lookup slot with
  | none => d
  | some v =>
    if d.stopped then d
    else
      let r := logAppend slot v 0 3 vfy d
      let d := modKs (fun k => { k with ckpts := k.ckpts.filter (fun x => x.1 != slot) }) r.2.1
      let d := if r.1 then d else noteG 3 5 d
      allChns.foldl (endCkptOpen slot r.1) ((d.ckptWaiters slot).foldl (endCkptWait r.1) d)

/-- COUNTER_CHECKPOINT_DONE. -/
def execCounterCheckpointDone (slot : Nat) (vfy : List Bool) (s : State) : Out :=
  onDev (ckptEnds slot vfy) s

end Sys2Proof.Machine
end

