-- ==== Sys2Proof/Machine/Submit.lean ====
section
/-!
DEFINITION. The host's side of the rings and the stream: pointer writes, the pointer scrub, taking a
sentence, bank submits and flushes, the ring registers (06_rings_and_clauses.md R125–R148, R151–R153;
08 R175).
-/

namespace Sys2Proof.Machine

/-! ### Host pointer writes (R126, R129) -/

/-- A host write to a pointer of ring `k` of channel `n`: a mismatch found resets the ring and the
write is ignored, a refused value leaves the pointer and sets RSVDVAL. -/
def ptrWrite (n : Chn) (k : RingK) (v : Nat) (ok : RingRegs → Bool) (put : Dev → Dev) (d : Dev) : Dev :=
  let r := (d.chan n).rings.ring k
  if !r.good then resetOnMismatch n k d
  else if v < r.size && ok r then put d
  else noteLink (d.bound n) 12 d

/-- A write of SUBP_TAIL (`prio`) or SUBB_TAIL. -/
def subTail (n : Chn) (prio : Bool) (v : Nat) (d : Dev) : Dev :=
  let k := if prio then RingK.subp else .subb
  if (d.chan n).state != .opened then d
  else ptrWrite n k v (fun r => (v + r.size - r.tail.nat) % r.size ≤ r.free)
    (modRings n (fun r => r.setRing k { r.ring k with tail := .of v })) d

/-- SUB_TAIL_WRITE: [13:0] of the word is the new TAIL. -/
def execSubTailWrite (n : Chn) (prio : Bool) (v : Word) (s : State) : Out :=
  onPage n (subTail n prio (fld v 13 0)) s

/-- A write of CPL_HEAD: the records up to it return to the device. -/
def cplHead (n : Chn) (v : Nat) (d : Dev) : Dev :=
  if !(d.chan n).state.active then d
  else ptrWrite n .cpl v (fun r => (v + r.size - r.head.nat) % r.size ≤ r.used)
    (modRings n (fun r => { r with
      cpl := { r.cpl with head := .of v }
      notify := r.notify.drop ((v + r.cpl.size - r.cpl.head.nat) % r.cpl.size) })) d

/-- CPL_HEAD_WRITE. -/
def execCplHeadWrite (n : Chn) (v : Word) (s : State) : Out := onPage n (cplHead n (fld v 13 0)) s

/-- The records and pads of the OUT ring from the one at offset `v` on. -/
def startsFrom (v : Nat) : List (Nat × Bool) → List (Nat × Bool)
  | [] => []
  | x :: l => if x.1 = v then x :: l else startsFrom v l

/-- OUT_HEAD moved to `v`: what lies before it is consumed, the read cursor returns to 0 (R76). -/
def Rings.headTo (r : Rings) (v : Nat) : Rings :=
  let keep := startsFrom v r.starts
  let gone := r.starts.take (r.starts.length - keep.length)
  { r with out := { r.out with head := .of v }, starts := keep, cursor := 0
           recNo := r.recNo + (gone.filter (fun x => !x.2)).length }

/-- A write of OUT_HEAD: a start between HEAD and TAIL, or TAIL. -/
def outHead (n : Chn) (v : Nat) (d : Dev) : Dev :=
  if !(d.chan n).state.active then d
  else ptrWrite n .out v
    (fun r => v == r.tail.nat || (d.chan n).rings.starts.any (fun x => x.1 == v))
    (modRings n (fun r => r.headTo v)) d

/-- OUT_HEAD_WRITE. -/
def execOutHeadWrite (n : Chn) (v : Word) (s : State) : Out := onPage n (outHead n (fld v 13 0)) s

/-! ### The scrub (R128, R129) -/

/-- A ring kind by its number. -/
def RingK.ofNum (k : Nat) : RingK := if k = 0 then .subp else if k = 1 then .subb else if k = 2 then .cpl else .out

/-- An upset of the flip-flops of one copy of a pointer: ring number, whether TAIL, the new content of
the complement copy. -/
def upsetPtr (r : Rings) (k : Nat) (tail : Bool) (v : BitVec 14) : Rings :=
  let x := r.ring (.ofNum k)
  r.setRing (.ofNum k) (if tail then { x with tail := { x.tail with cmp := v } }
    else { x with head := { x.head with cmp := v } })

/-- The scrub of every OPEN or DRAINING channel; an upset, if one is given, comes after it and stands until a
host write, the device's own use or the next scrub finds it. -/
def scrub (upset : Option (Chn × Nat × Bool × BitVec 14)) (d : Dev) : Dev :=
  let d := allChns.foldl scrubChan d
  match upset with
  | some (n, k, t, v) => modRings n (fun r => upsetPtr r k t v) d
  | none => d

/-- RING_SCRUB; the upset, if any, is the environment's. -/
def execRingScrub (upset : Option (Chn × Nat × Bool × BitVec 14)) (s : State) : Out :=
  onDev (scrub upset) s

/-! ### Taking a sentence (R132–R134, R175) -/

/-- The clauses of the sentence at entry `e` with `left` entries before TAIL, at most `fuel` of them;
none while its last clause is not before TAIL. -/
def sentenceAt (r : Rings) (k : RingK) : Nat → Nat → Nat → Option (List Clause)
  | 0, _, _ => some []
  | _, _, 0 => none
  | f + 1, e, left + 1 =>
    let c := r.clauseAt k e
    if c.link then (sentenceAt r k f ((e + 1) % (r.ring k).size) left).map (c :: ·) else some [c]

/-- The next sentence of a SUB ring. -/
def Rings.nextSentence (r : Rings) (k : RingK) : Option (List Clause) :=
  sentenceAt r k 16 (r.ring k).head.nat (r.ring k).used

/-- Free credits of the CPL ring (R150). -/
def Rings.credits (r : Rings) : Nat := r.cpl.size - 1 - r.cpl.used - r.reserved

/-- WAIT of a SUB ring: why its next sentence is not taken, 0 when it can be or none is queued. -/
def Chan.subWait (c : Chan) (k : RingK) : Nat :=
  if (c.rings.ring k).used = 0 then 0
  else
    match c.rings.nextSentence k with
    | none => 1
    | some cs =>
      if c.rings.credits < cs.length then 2
      else if 16 ≤ (c.sents.filter (·.parent.isNone)).length then 3
      else if c.sents.any (·.fence) || (cs.any (·.fence) && !c.sents.isEmpty) then 4
      else 0

/-- The stream bytes of a sentence's clauses assigned in order (R146). -/
def assignStream (sid : Nat) : Nat → List Clause → Stream → Stream
  | _, [], s => s
  | i, c :: cs, s => assignStream sid (i + 1) cs (if hi16 c.w2 = 0xFFFF then s.assign sid i c.inLen else s)

/-- One sentence taken: its clauses copied, HEAD past them, credits reserved, stream bytes assigned. -/
def takeSentence (n : Chn) (k : RingK) (cs : List Clause) (d : Dev) : Dev :=
  let d := modChan n (fun c =>
    let x := c.rings.ring k
    let sid := c.nextSid
    let long := cs.length == 16 && (cs.getLast?.map (·.link)).getD false
    { c with
      rings := { c.rings.setRing k { x with head := .of ((x.head.nat + cs.length) % x.size) } with
        reserved := c.rings.reserved + cs.length }
      stream := (assignStream sid 0 cs c.stream).settle
      sents := c.sents ++ [
        { sid := sid, prio := k == .subp, fence := cs.any (·.fence), clauses := cs, idx := 0, overlong := long
          ringReset := false, wait := .none, judged := false, sel := none, parent := none, job := none }]
      nextSid := sid + 1 }) d
  { d with sched := { d.sched with rot := n } }

/-- The ring the controller visits gives its sentence, if it can be taken, and its first clause is judged; a
mismatched pair of the ring, or of the CPL ring whose credits it takes, resets that ring and nothing is
taken. -/
def visitRing (n : Chn) (k : RingK) (d : Dev) : Option Dev :=
  let c := d.chan n
  if !c.state.active then none
  else if !(c.rings.ring k).good then some (resetOnMismatch n k d)
  else if (c.rings.ring k).used = 0 then none
  else if !c.rings.cpl.good then some (resetOnMismatch n .cpl d)
  else if c.subWait k != 0 then none
  else (c.rings.nextSentence k).map (fun cs => judgeFresh n (takeSentence n k cs d))

/-- The rings in the order of visits: channels in rotation after the last served, SUBP before SUBB. -/
def Dev.visits (d : Dev) : List (Chn × RingK) :=
  let r := d.sched.rot.val + 1
  (allChns.drop r ++ allChns.take r).flatMap (fun n => [(n, RingK.subp), (n, .subb)])

/-- The ring controller takes at most one sentence. -/
def sentenceTake (d : Dev) : Dev :=
  if d.stopped then d
  else (d.visits.findSome? (fun v => visitRing v.1 v.2 d)).getD d

/-- SENTENCE_TAKE. -/
def execSentenceTake (s : State) : Out := onDev sentenceTake s

/-! ### Stream banks (R145, R148, R152) -/

/-- A flush of channel `n`'s stream. -/
def bankFlush (n : Chn) (d : Dev) : Dev :=
  if (d.chan n).state.active then modChan n (fun c => { c with stream := c.stream.flush }) d else d

/-- BANK_FLUSH: CH_BANKCTL with FLUSH alone. -/
def execBankFlush (n : Chn) (s : State) : Out := onPage n (bankFlush n) s

/-- A submit of `count` bytes of the FILL bank. -/
def bankSubmit (n : Chn) (count : Nat) (d : Dev) : Dev :=
  let c := d.chan n
  if !c.state.active then d
  else
    match c.stream.fillBank with
    | none => noteCh n 6 0 0 d
    | some b =>
      if count = 0 || (c.stream.bank b).count < count then noteLink (d.bound n) 12 d
      else modChan n (fun c => { c with stream := c.stream.submit b count }) d

/-- A write of CH_BANKCTL: the flush first, then the submit (R14). -/
def bankCtl (n : Chn) (w : Word) (d : Dev) : Dev :=
  let d := if bit w 30 then bankFlush n d else d
  if bit w 31 then bankSubmit n (fld w 13 0) d else d

/-- BANK_SUBMIT: CH_BANKCTL with SUBMIT; FLUSH written together acts first. -/
def execBankSubmit (n : Chn) (w : Word) (s : State) : Out := onPage n (bankCtl n (setBit w 31)) s

/-! ### Ring registers (R151) -/

/-- Sentences taken from a ring that have not posted all their records. -/
def Chan.takenFrom (c : Chan) (prio : Bool) : Nat :=
  (c.sents.filter (fun s => s.parent.isNone && s.prio == prio)).length

/-- Whether the next clause of some sentence waits to open an OUT record, for space or for the seal of the one
that is open (06 R141, Table 06.13). -/
def Dev.waitSpace (d : Dev) (n : Chn) : Bool :=
  (d.chan n).sents.any (fun s => match s.job, s.clauses[s.idx]? with
    | none, some c => d.streamReady n s c && !d.outReady n s c
    | _, _ => false)

/-- SUBP_STAT or SUBB_STAT. -/
def Chan.subStat (c : Chan) (prio : Bool) : Word :=
  let k := if prio then RingK.subp else .subb
  at_ (c.subWait k) 16 ||| at_ (c.takenFrom prio) 8 ||| at_ (c.rings.ring k).used 0

/-- CPL_STAT. -/
def Chan.cplStat (c : Chan) : Word := at_ c.rings.reserved 16 ||| at_ c.rings.cpl.used 0

/-- OUT_STAT. -/
def Dev.outStat (d : Dev) (n : Chn) : Word :=
  let r := (d.chan n).rings
  at_ (flag (d.waitSpace n)) 17 ||| at_ (flag r.openRec.isSome) 16 ||| at_ r.out.used 0

/-- The register at offset `off` of the bank of a ring. -/
def Dev.ringReg (d : Dev) (n : Chn) (k : RingK) (off : Nat) : Word :=
  let c := d.chan n
  let r := c.rings.ring k
  match off with
  | 0x00 => at_ r.base 0
  | 0x04 => at_ r.size 0
  | 0x08 => at_ r.head.nat 0
  | 0x0C => at_ r.tail.nat 0
  | 0x10 => match k with
    | .subp => c.subStat true
    | .subb => c.subStat false
    | .cpl => c.cplStat
    | .out => d.outStat n
  | _ => 0

end Sys2Proof.Machine
end

