-- ==== Sys2Proof/Machine/Engines.lean ====
section
/-!
DEFINITION. Engine service: known-answer tests, faults, watchdogs, quarantine and its record, demand
gating, the scheduler's registers (08_scheduler_and_engines.md R184–R197; 10 R252).
-/

namespace Sys2Proof.Machine

/-- The engine of an index. -/
def Dev.eng (d : Dev) (e : Eng) : Engine := d.engines[e.val]

/-- An engine changed. -/
def modEng (e : Eng) (f : Engine → Engine) (d : Dev) : Dev :=
  { d with engines := d.engines.set e.val (f (d.eng e)) e.isLt }

/-! ### The quarantine record (R192, Table 08.10) -/

/-- Whether bytes are a quarantine record: magic, format, zero fields, check. -/
def quarValid (bs : Bytes) : Bool :=
  bs.take 4 == ascii "AYQR" && par8 bs 4 == 1 && slice 5 3 bs == zeros 3
    && (List.range 16).all (fun e => slice (18 + 8 * e) 2 bs == zeros 2) && crcGood 144 bs

/-- The two copies of the quarantine record. -/
def quarCopies : TwoCopies :=
  { a := 0x9000, b := 0xA000, sectors := 1, len := 148, valid := quarValid, seqAt := 8, eraseAt := some 12 }

/-- The eight bytes of one engine. -/
def quarEntry (count cause : Nat) (sec : Word) : Bytes :=
  [BitVec.ofNat 8 count, BitVec.ofNat 8 cause, 0, 0] ++ wordBytes sec

/-- The record's engine entries: those with a failure to record, and the others as the counting copy has
them. -/
def Dev.quarBody (d : Dev) : Bytes :=
  let old := ((d.copyNow quarCopies).map (slice 16 128)).getD (zeros 128)
  allEngs.flatMap (fun x =>
    match (d.eng x).due with
    | some (cause, sec) => quarEntry (d.katf x) cause sec
    | none => [BitVec.ofNat 8 (d.katf x)] ++ slice (8 * x.val + 1) 7 old)

/-- A quarantine record. -/
def quarRecord (body : Bytes) (seq erases : Nat) : Bytes :=
  let b := ascii "AYQR" ++ [1, 0, 0, 0] ++ natBE 4 seq ++ natBE 4 erases ++ body
  b ++ crcCheck b

/-- The quarantine record written for the failures counted since the last one: at a supply level below 3, else
when the level has fallen (R192, 17 R403). -/
def recordFailures (vfy : List Bool) (d : Dev) : Dev :=
  if 3 ≤ d.supply.level || allEngs.all (fun e => (d.eng e).due.isNone) then d
  else
    let d := writeCopy quarCopies (quarRecord d.quarBody) (d.outcome vfy).1 d
    { d with engines := d.engines.map (fun x => { x with due := none }) }

/-- The failure count of an engine raised by one: the OTP bit burnt, the record written (R191, R192). A count of 3
does not rise. -/
def countFailure (e : Eng) (cause : Nat) (burns vfy : List Bool) (d : Dev) : Dev :=
  if 3 ≤ d.katf e then d
  else
    let d :=
      if (burnBit burns).1 then
        { d with otp := { d.otp with quar := d.otp.quar.set e.val (d.otp.quar[e.val] + 1) e.isLt } }
      else noteOtpErr (modEng e (fun x => { x with raised := x.raised + 1 }) d)
    recordFailures vfy (modEng e (fun x => { x with due := some (cause, d.journal.seconds) }) d)

/-- The consequences of a count of 3: permanent quarantine (Table 08.2). -/
def quarantine (e : Eng) (d : Dev) : Dev :=
  raiseWhy 0 (engId e.val) (noteGx 2 4 (engId e.val) 0 (modEng e (fun x => { x with svc := .quar }) d))

/-- A failed test: KATFAIL, the count, and OUT or QUAR. -/
def failTest (e : Eng) (burns vfy : List Bool) (d : Dev) : Dev :=
  let d := countFailure e (max 1 (d.eng e).cause) burns vfy (noteGx 2 3 (engId e.val) 0 d)
  if 3 ≤ d.katf e then quarantine e d else modEng e (fun x => { x with svc := .out }) d

/-! ### Tests -/

/-- The whole operand memory of a core zeroed; its user area becomes unowned (R188, 10 R249). -/
def zeroCore (e : Eng) (d : Dev) : Dev :=
  if 12 ≤ e.val then
    { d with cores := vmod d.cores (e.val - 12) (fun b => { b with owner := none, slots := [] }) }
  else d

/-- An engine put into TEST: a core's operand memory zeroed, once no job runs on it, its domain
demanded. -/
def startTest (e : Eng) (cause : Nat) (d : Dev) : Dev :=
  let d := modEng e (fun x => { x with svc := .test, cause := cause }) d
  demandOn (12 + e.val) (if d.engBusy (engId e.val) then d else zeroCore e d)

/-- The end of a known-answer test, once the engine's domain is on and the dispatch that ran on it when it
left has ended. -/
def katEnds (e : Eng) (pass : Bool) (burns vfy : List Bool) (d : Dev) : Dev :=
  if (d.eng e).svc != .test || !d.domOn (12 + e.val) || !d.working || d.engBusy (engId e.val) then d
  else if pass then modEng e (fun x => { x with svc := .inn }) d
  else failTest e burns vfy d

/-- KAT_COMPLETE. -/
def execKatComplete (e : Eng) (pass : Bool) (burns vfy : List Bool) (s : State) : Out :=
  onDev (katEnds e pass burns vfy) s

/-! ### Engine commands (R186, R187) -/

/-- ENGCMD OUT. -/
def engOut (e : Eng) (d : Dev) : Dev :=
  match (d.eng e).svc with
  | .inn => dropSelsOn e.val (modEng e (fun x => { x with svc := .out }) d)
  | .test => modEng e (fun x => { x with svc := .out }) d
  | _ => d

/-- ENGCMD_OUT. -/
def execEngcmdOut (e : Eng) (s : State) : Out := onWrite .A (engOut e) s

/-- ENGCMD IN: on a denied domain it is a reserved value, whatever the engine's state: of an engine in IN, TEST or
QUAR the manual's two sentences name both outcomes (DESIGN CHOICE, log entry 73). -/
def engIn (e : Eng) (d : Dev) : Dev :=
  if d.denied (12 + e.val) then noteLink .A 12 d
  else if (d.eng e).svc == .out then startTest e 1 d
  else d

/-- ENGCMD_IN. -/
def execEngcmdIn (e : Eng) (s : State) : Out := onWrite .A (engIn e) s

/-- A write of ENGCMD. -/
def engCmd (w : Word) (d : Dev) : Dev :=
  let e : Eng := ⟨w.toNat % 16, Nat.mod_lt _ (by decide)⟩
  if fld w 9 8 = 1 then engOut e d else if fld w 9 8 = 2 then engIn e d else noteLink .A 12 d

/-! ### Faults (R190) -/

/-- The dispatch that runs on an engine, a clause or a step of one: channel, sentence, job. -/
def Dev.dispatchOn (d : Dev) (e : Eng) : Option (Chn × Sentence × Job) :=
  allChns.findSome? (fun n => (d.chan n).sents.findSome? (fun s =>
    if s.engs.contains (engId e.val) then s.job.map (fun j => (n, s, j)) else none))

/-- The channel whose open check runs on an engine. -/
def Dev.checkOn (d : Dev) (e : Eng) : Option Chn :=
  allChns.find? (fun n => ((d.chan n).check.map Step.engs).getD [] == [engId e.val])

/-- The open check of a channel queued anew: the manual gives no outcome of an engine fault during it (DESIGN
CHOICE, log entry 74). -/
def requeueCheck (n : Chn) (d : Dev) : Dev :=
  match (d.chan n).phase with
  | .checking key nonce resp t =>
    modChan n (fun c => { c with phase := .checking key nonce resp (Step.of .hash 62) }) (leaveStep n false t d)
  | _ => d

/-- An engine that has had a fault is tested when it is IN (Table 08.2). -/
def faultTest (e : Eng) (d : Dev) : Dev := if (d.eng e).svc == .inn then startTest e 3 (dropSelsOn e.val d) else d

/-- An engine fault during a dispatch. -/
def engineFault (e : Eng) (d : Dev) : Dev :=
  match d.dispatchOn e, d.checkOn e with
  | some (n, s, j), _ => faultTest e (endEarly n s j .engineFault d)
  | none, some n => faultTest e (requeueCheck n d)
  | none, none => d

/-- ENGINE_FAULT. -/
def execEngineFault (e : Eng) (s : State) : Out := onDev (engineFault e) s

/-- Whether the watchdog of an engine counts: a segment or job runs, and is not halted (17 R401). -/
def Dev.watched (d : Dev) (e : Eng) : Bool :=
  d.working && (match d.dispatchOn e, d.checkOn e with
    | some (_, _, j), _ => j.phase == .run
    | none, some _ => true
    | none, none => false)

/-- ENGINE_WATCHDOG. -/
def execEngineWatchdog (e : Eng) (s : State) : Out :=
  onDev (fun d => if d.watched e then engineFault e d else d) s

/-! ### Demand gating (R184) -/

/-- EIDLE in force. -/
def Dev.eidle (d : Dev) : Nat := fld d.sched.cfg 21 12

/-- An engine idle for EIDLE gives its domain up. -/
def idleOff (e : Eng) (d : Dev) : Dev :=
  if d.eidle = 0 || 3 ≤ d.supply.level || d.engBusy (engId e.val) || (d.eng e).svc == .test
      || !d.domOn (12 + e.val) then d
  else demandOff (12 + e.val) d

/-- ENGINE_IDLE_OFF. -/
def execEngineIdleOff (e : Eng) (s : State) : Out := onDev (idleOff e) s

/-! ### Registers (R195–R197, 10 R252) -/

/-- The code of a service state. -/
def Svc.code : Svc → Nat
  | .inn => 0
  | .out => 1
  | .test => 2
  | .quar => 3

/-- ENGSVC; zero until the ROM has tested the engines. -/
def Dev.engSvc (d : Dev) : Word :=
  if d.lc.shown then at_ ((allEngs.map (fun e => (d.eng e).svc.code * 4 ^ e.val)).sum) 0 else 0

/-- ENGKATF. -/
def Dev.engKatf (d : Dev) : Word := at_ ((allEngs.map (fun e => d.katf e * 4 ^ e.val)).sum) 0

/-- ENGACT. -/
def Dev.engAct (d : Dev) : Word :=
  at_ ((allEngs.map (fun e =>
    flag (d.engBusy (engId e.val) || ((d.eng e).svc == .test && d.domOn (12 + e.val))) * 2 ^ (16 + e.val)
      + flag (d.domOn (12 + e.val)) * 2 ^ e.val)).sum) 0

/-- BNSTAT. -/
def Dev.bnStat (d : Dev) : Word :=
  let ks := d.cores.toList
  at_ ((ks.map (fun b => (b.slots.map (·.len)).sum)).sum) 16
    ||| at_ (((List.range 4).map (fun i =>
          flag ((vget d.cores i ⟨none, [], false⟩).jobArea) * 2 ^ i)).sum) 8
    ||| at_ (((List.range 4).map (fun i =>
          flag ((vget d.cores i ⟨none, [], false⟩).owner.isSome) * 2 ^ i)).sum) 0

/-- A field kept from the old word where the new value is reserved. -/
def keepIf (bad : Bool) (hi lo : Nat) (old : Word) (r : Word × Bool) : Word × Bool :=
  if bad then (putFld r.1 old hi lo, true) else r

/-- SCHEDCFG after a write, and whether a reserved value was written. -/
def schedCfgMerge (old w : Word) : Word × Bool :=
  keepIf (fld w 31 22 = 0 || 1000 < fld w 31 22) 31 22 old
    (keepIf (fld w 21 12 = 1) 21 12 old
      (keepIf (fld w 3 0 = 0) 3 0 old (w &&& 0xFFFFF00F, false)))

/-- A word of the weight table after a write (R196). -/
def weightMerge (old w : Word) : Word × Bool :=
  (List.range 4).foldl (fun r j =>
      let v := fld w (8 * j + 6) (8 * j)
      keepIf (v = 0 || 64 < v) (8 * j + 6) (8 * j) old r) (w &&& 0x7F7F7F7F, false)

/-- A reserved value noted where one was written. -/
def noteIf (p : Port) (bad : Bool) (d : Dev) : Dev := if bad then noteLink p 12 d else d

/-- A write of SCHEDCFG. -/
def writeSchedCfg (w : Word) (d : Dev) : Dev :=
  let m := schedCfgMerge d.sched.cfg w
  noteIf .A m.2 { d with sched := { d.sched with cfg := m.1 } }

/-- A write of SCHEDWk. -/
def writeSchedW (k : Nat) (w : Word) (d : Dev) : Dev :=
  let m := weightMerge (vget d.sched.weights k 0) w
  noteIf .A m.2 { d with sched := { d.sched with weights := vset d.sched.weights k m.1 } }

end Sys2Proof.Machine
end

