-- ==== Sys2Proof/Machine/Journal.lean ====
section
/-!
DEFINITION. The trouble journal: writing queued entries, the index, fetching an entry,
building the index at boot (04_status_and_trouble.md R96–R103, R453).
-/

namespace Sys2Proof.Machine

/-! ### Entries and places -/

/-- The flash address of a journal place, 0–639. -/
def jAddr (place : Nat) : Nat := 0x2000 + 32 * place

/-- The 32 bytes of an entry with its sequence number (Table 04.8). -/
def JEntry.bytes (e : JEntry) (seq : Nat) : Bytes :=
  let b := wordsBytes [BitVec.ofNat 32 e.sec, BitVec.ofNat 32 seq, e.w2, e.w3, e.w4, e.w5, 0]
  b ++ crcCheck b

/-- Whether a run of bytes of a memory holds no listed byte. -/
def Mem.blank (m : Mem) (a n : Nat) : Bool := m.all (fun c => c.1 < a || a + n ≤ c.1)

/-- The journal changed. -/
def modJ (f : Journal → Journal) (d : Dev) : Dev := { d with journal := f d.journal }

/-- JNEWEST and JOLDEST as the index gives them. -/
def Journal.bounds (j : Journal) : Journal :=
  { j with joldest := leastOr 0 (j.index.map (·.1)) }

/-- The entries of a sector leave the index. -/
def dropSector (sec : Nat) (d : Dev) : Dev :=
  modJ (fun j => ({ j with index := j.index.filter (fun x => x.2 / 128 != sec) }).bounds) d

/-- A sector erased in at most `tries` attempts. -/
def eraseSector (a : Nat) : Nat → List Bool → Dev → Bool × Dev × List Bool
  | 0, vs, d => (false, d, vs)
  | t + 1, vs, d =>
    let o := d.outcome vs
    if o.1 then (true, flashErase a 1 d, o.2)
    else eraseSector a t o.2 (flashEraseTorn a d)

/-- Room for the next entry: where its place is the first of a sector, the sector is erased; one that
cannot be is skipped. -/
def prepPlace : Nat → List Bool → Dev → Bool × Dev × List Bool
  | 0, vs, d => (false, d, vs)
  | f + 1, vs, d =>
    if d.journal.place % 128 != 0 then (true, d, vs)
    else
      let sec := d.journal.place / 128
      if d.journal.jnewest = 0 && sec = 0 && d.flash.mem.blank 0x2000 4096 then (true, d, vs)
      else
        let d := dropSector sec d
        let r := eraseSector (0x2000 + 4096 * sec) 3 vs d
        if r.1 then r
        else prepPlace f r.2.2 (modJ (fun j => { j with place := (sec + 1) % 5 * 128 }) (noteG 2 12 r.2.1))

/-- An entry programmed in at most `tries` attempts, each at the next place. -/
def programEntry (e : JEntry) : Nat → List Bool → Dev → Bool × Dev × List Bool
  | 0, vs, d => (false, d, vs)
  | t + 1, vs, d =>
    let p := prepPlace 5 vs d
    if !p.1 then (false, p.2)
    else
      let d := p.2.1
      let o := d.outcome p.2.2
      let seq := d.journal.nextSeq
      let place := d.journal.place
      let d := flashProgram (jAddr place) (e.bytes seq) o.1 d
      let d := modJ (fun j => { j with place := (place + 1) % 640 }) d
      if o.1 then
        (true, modJ (fun j => ({ j with
          index := j.index ++ [(seq, place)], jnewest := seq, nextSeq := nextSeqNo seq }).bounds) d, o.2)
      else programEntry e t o.2 d

/-- The oldest queued entry written, or dropped after its third failure; none is written before the seconds count
is restored (R100). -/
def writeEntry (vs : List Bool) (d : Dev) : Dev × List Bool :=
  match d.journal.queue with
  | [] => (d, vs)
  | e :: q =>
    if !d.journal.restored then (d, vs)
    else
    let r := programEntry e 3 vs (modJ (fun j => { j with queue := q }) d)
    if r.1 then r.2
    else
      (noteG 2 12 (modJ (fun j => { j with jdrop := min (j.jdrop + 1) 0xFFFFFFFF }) r.2.1), r.2.2)

/-- The first `k` queued entries written. -/
def writeQueue : Nat → List Bool → Dev → Dev × List Bool
  | 0, vs, d => (d, vs)
  | k + 1, vs, d =>
    let r := writeEntry vs d
    writeQueue k r.2 r.1

/-- Whether flash operations other than the supply's own may start: RUN, level below 3 (17 R403). -/
def Dev.flashFree (d : Dev) : Bool := d.power.st == .run && d.supply.level < 3

/-- JOURNAL_WRITE (R99). -/
def execJournalWrite (vfy : List Bool) (s : State) : Out :=
  onDev (fun d => if d.flashFree then (writeEntry vfy d).1 else d) s

/-! ### Fetching (R101) -/

/-- JSTAT with its four bits. -/
def jstat (err noent valid busy : Bool) : Word :=
  at_ (flag err * 8 + flag noent * 4 + flag valid * 2 + flag busy) 0

/-- A write of JSEL: a fetch starts. -/
def writeJsel (w : Word) (d : Dev) : Dev :=
  modJ (fun j => { j with jsel := w, jstat := jstat false false false true }) d

/-- JSEL_WRITE from port A; the register lies outside port B's view. -/
def execJselWrite (p : Port) (w : Word) (s : State) : Out :=
  onA p (writeJsel w) s

/-- Whether 32 bytes are an entry with a right CRC. -/
def entryGood (bs : Bytes) : Bool := crcGood 28 bs

/-- A running fetch ends. -/
def fetchEnds (d : Dev) : Dev :=
  let j := d.journal
  if !bit j.jstat 0 || !d.flashFree then d
  else
    match j.index.lookup j.jsel.toNat with
    | none => modJ (fun j => { j with jstat := jstat false true false false }) d
    | some place =>
      let bs := d.flashRead (jAddr place) 32
      modJ (fun j => { j with
        jstat := jstat (!entryGood bs) false true false
        jent := Vector.ofFn (fun i => bytesWord (slice (4 * i.val) 4 bs)) }) d

/-- JOURNAL_FETCH_DONE. -/
def execJournalFetchDone (s : State) : Out := onDev fetchEnds s

/-! ### The boot's reading of the journal (R453, R100, R103) -/

/-- The places that hold any listed byte. -/
def Dev.usedPlaces (d : Dev) : List Nat :=
  let ps := d.flash.mem.filterMap (fun c =>
    if 0x2000 ≤ c.1 && c.1 < 0x7000 then some ((c.1 - 0x2000) / 32) else none)
  ps.eraseDups

/-- The bytes of a place. -/
def Dev.placeBytes (d : Dev) (p : Nat) : Bytes := d.flashRead (jAddr p) 32

/-- The sequence word of a place. -/
def Dev.placeSeq (d : Dev) (p : Nat) : Nat := beNat (slice 4 4 (d.placeBytes p))

/-- The first blank place after `p` in its sector, or the first place of the next one. -/
def nextBlank (used : List Nat) : Nat → Nat → Nat
  | 0, p => p
  | f + 1, p => if p % 128 = 0 || !used.contains p then p else nextBlank used f ((p + 1) % 640)

/-- The index, the bounds and the next place built from the flash. Of two places that fail their CRC under one
sequence word the lower counts (DESIGN CHOICE, log entry 75: R453 does not say which one is indexed). -/
def buildIndex (d : Dev) : Dev :=
  let used := if d.flashUp then d.usedPlaces else []
  let good := used.filter (fun p => entryGood (d.placeBytes p) && d.placeSeq p != 0)
  let idx := good.map (fun p => (d.placeSeq p, p))
  let newest := (idx.map (·.1)).foldl max 0
  let oldest := leastOr 0 (idx.map (·.1))
  let extra := (used.filter (fun p => !good.contains p)).filterMap (fun p =>
    let q := d.placeSeq p
    if oldest ≤ q && q ≤ newest && q != 0 && !(idx.any (fun x => x.1 == q)) then some (q, p) else none)
  let place := match (idx.find? (fun x => x.1 == newest)) with
    | some x => nextBlank used 128 ((x.2 + 1) % 640)
    | none => 0
  modJ (fun j => { j with
    index := idx ++ extra, jnewest := newest, joldest := oldest
    nextSeq := if newest = 0 then 1 else nextSeqNo newest, place := place }) d

/-- The seconds count restored from the newest entry after a POR; it never falls below what has been counted since.
Entries queued before take the restored count (R100). -/
def restoreSeconds (d : Dev) : Dev :=
  if d.journal.restored then d
  else
    let j := d.journal
    let base : BitVec 32 := match j.index.lookup j.jnewest with
      | some p => BitVec.ofNat 32 (beNat (slice 0 4 (d.placeBytes p)) + 1)
      | none => 0
    let sec := if j.seconds.toNat < base.toNat then base else j.seconds
    modJ (fun j => { j with
      seconds := sec, restored := true
      queue := j.queue.map (fun e => { e with sec := sec.toNat, restored := true }) }) d

/-- The entry before `y` in sequence order. -/
def seqLe (x y : Nat × Word) : Bool := x.1 ≤ y.1

/-- Insertion by sequence number. -/
def seqInsert (x : Nat × Word) : List (Nat × Word) → List (Nat × Word)
  | [] => [x]
  | y :: l => if seqLe x y then x :: y :: l else y :: seqInsert x l

/-- The stamps of FAULT24 rebuilt after a POR from the journal, and from the queue what has come since: entries of
GSTICKY2 bits 8 and 9, the 63 newest (R103; log entry 36). -/
def rebuildStamps (d : Dev) : Dev :=
  let isF (w : Word) := fld w 31 24 = 2 && (fld w 23 16 = 8 || fld w 23 16 = 9)
  let old := (d.journal.index.filterMap (fun x =>
    let bs := d.placeBytes x.2
    if entryGood bs && isF (bytesWord (slice 8 4 bs)) then some (x.1, bytesWord (slice 0 4 bs)) else none)).foldl
      (fun l x => seqInsert x l) []
  let new := (d.journal.queue.filter (fun e => isF e.w2)).map (fun e => BitVec.ofNat 32 e.sec)
  let all := old.map (·.2) ++ new
  { d with trouble := { d.trouble with stamps := all.drop (all.length - 63) } }

end Sys2Proof.Machine
end

