-- ==== Sys2Proof/Machine/Headers.lean ====
section
/-!
DEFINITION. The boot record, program images, the key store header and its program entries, unlocking
the key store, erasing its area (12_key_store.md R282, R286–R298; 14_boot_and_updates.md R321, R322,
R450).
-/

namespace Sys2Proof.Machine

/-! ### The boot record (Table 14.2) -/

/-- The fields of a boot record. -/
structure BootRec where
  qdummy : Nat
  active : Nat
  trial : Nat
  period : Nat
  hostAct : Nat
  /-- four entries of 52 bytes -/
  ret : Bytes
  deriving DecidableEq, Repr

/-- What the ROM uses when neither copy is valid (R321). -/
def BootRec.dflt : BootRec := ⟨0, 0, 0, 2000, 0, zeros 208⟩

/-- Whether bytes are a boot record: magic, format, check. -/
def bootValid (bs : Bytes) : Bool := bs.take 4 == ascii "AYBR" && par8 bs 4 == 1 && crcGood 232 bs

/-- The two copies of the boot record. -/
def bootCopies : TwoCopies :=
  { a := 0, b := 0x1000, sectors := 1, len := 236, valid := bootValid, seqAt := 8, eraseAt := some 20 }

/-- The fields read from a copy. -/
def BootRec.ofBytes (bs : Bytes) : BootRec :=
  { qdummy := par8 bs 5, active := par8 bs 6 % 2, trial := par8 bs 7, period := beNat (slice 12 4 bs)
    hostAct := par8 bs 16 % 2, ret := slice 24 208 bs }

/-- The bytes of a copy. -/
def BootRec.bytes (r : BootRec) (seq erases : Nat) : Bytes :=
  let b := ascii "AYBR" ++ [1, BitVec.ofNat 8 r.qdummy, BitVec.ofNat 8 r.active, BitVec.ofNat 8 r.trial]
    ++ natBE 4 seq ++ natBE 4 r.period ++ [BitVec.ofNat 8 r.hostAct, 0, 0, 0] ++ natBE 4 erases ++ r.ret
  b ++ crcCheck b

/-- The boot record in force. -/
def Dev.bootRec (d : Dev) : BootRec := ((d.copyNow bootCopies).map BootRec.ofBytes).getD .dflt

/-- The boot record rewritten; true when the copy verified. -/
def writeBootRec (r : BootRec) (vs : List Bool) (d : Dev) : Bool × Dev × List Bool :=
  let o := d.outcome vs
  (o.1, writeCopy bootCopies r.bytes o.1 d, o.2)

/-! ### Program images (R322) -/

/-- The flash address of a program slot. -/
def progBase (k : Nat) : Nat := 0x80000 + 0x40000 * (k % 2)

/-- LENGTH of an image header. -/
def imgLen (h : Bytes) : Nat := beNat (slice 12 4 h)

/-- VERSION of an image header. -/
def imgVer (h : Bytes) : Nat := beNat (slice 8 4 h)

/-- ENTRY of an image header. -/
def imgEntry (h : Bytes) : Nat := beNat (slice 16 4 h)

/-- Whether a header makes an image valid. -/
def imgValid (h : Bytes) : Bool :=
  h.take 4 == ascii "AYSP" && par8 h 4 == 1 && slice 5 3 h == zeros 3 && imgVer h != 0
    && imgLen h % 4 == 0 && 4 ≤ imgLen h && imgLen h ≤ 262080
    && imgEntry h % 4 == 0 && imgEntry h < imgLen h && slice 20 44 h == zeros 44

/-- The header of the image in a slot. -/
def Dev.imgHeader (d : Dev) (k : Nat) : Bytes := d.flashRead (progBase k) 64

/-- Whether a slot holds a valid image. -/
def Dev.slotValid (d : Dev) (k : Nat) : Bool := d.flashUp && imgValid (d.imgHeader k)

/-- The image in a slot: header and code. -/
def Dev.slotImage (d : Dev) (k : Nat) : Bytes := d.flashRead (progBase k) (64 + imgLen (d.imgHeader k))

/-! ### The key store header (Table 12.6) -/

/-- A program entry: state 0 unused, 1 CONFIRMED, 2 CANDIDATE. -/
structure ProgEntry where
  meas : Bytes
  ver : Nat
  st : Nat
  wrap : Bytes
  deriving DecidableEq, Repr

/-- The fields of a header copy. -/
structure Header where
  epoch : Nat
  lc : Nat
  ratchet : Nat
  seq : Nat
  entries : List ProgEntry
  deriving DecidableEq, Repr

/-- The flash address of header copy A or B. -/
def hdrAddr (b : Bool) : Nat := if b then ksBase + 4096 else ksBase

/-- The bytes of a header copy, sector header included. -/
def Dev.hdrBytes (d : Dev) (b : Bool) : Bytes := d.flashRead (hdrAddr b) 464

/-- Magic, format and sector header are intact (R296, step 2). -/
def hdrIntact (bs : Bytes) : Bool :=
  bs.take 4 == ascii "AYKS" && slice 12 4 bs == zeros 4 && slice 16 4 bs == ascii "AYHD" && par8 bs 20 == 1

/-- The entry `i` of a header copy. -/
def entryAt (bs : Bytes) (i : Nat) : ProgEntry :=
  let e := slice (32 + 96 * i) 96 bs
  ⟨e.take 48, beNat (slice 48 4 e), par8 e 52, slice 56 40 e⟩

/-- The header a copy holds. -/
def Header.ofBytes (bs : Bytes) : Header :=
  ⟨par8 bs 21, par8 bs 22, par8 bs 23, beNat (slice 24 4 bs), (List.range 4).map (entryAt bs)⟩

/-- An unused entry. -/
def ProgEntry.unused : ProgEntry := ⟨zeros 48, 0, 0, zeros 40⟩

/-- The 96 bytes of an entry. -/
def ProgEntry.bytes (e : ProgEntry) : Bytes :=
  padTo 48 e.meas ++ natBE 4 e.ver ++ [BitVec.ofNat 8 e.st, 0, 0, 0] ++ padTo 40 e.wrap

/-- The bytes 16–463 of a header copy under a STORE_KEK. -/
def Header.bytes (h : Header) (kek : Bytes) : Bytes :=
  let es := (h.entries ++ List.replicate 4 ProgEntry.unused).take 4
  let b := ascii "AYHD" ++ [1, BitVec.ofNat 8 h.epoch, BitVec.ofNat 8 h.lc, BitVec.ofNat 8 h.ratchet]
    ++ natBE 4 h.seq ++ zeros 4 ++ es.flatMap ProgEntry.bytes
  b ++ hmac .sha384 (hdrKey kek) b

/-- Whether the HMAC of a header copy verifies under a STORE_KEK. -/
def hdrMacOk (kek bs : Bytes) : Bool := hmac .sha384 (hdrKey kek) (slice 16 400 bs) == slice 416 48 bs

/-- Whether a copy meets step 2 of R296. -/
def Dev.hdrUsable (d : Dev) (b : Bool) : Bool :=
  let bs := d.hdrBytes b
  d.flashUp && hdrIntact bs && par8 bs 21 == d.otp.rowIdx && d.otp.row.ratchet ≤ par8 bs 23

/-- The sequence of a copy that meets step 2. -/
def Dev.hdrSeq (d : Dev) (b : Bool) : Option Nat :=
  if d.hdrUsable b then some (Header.ofBytes (d.hdrBytes b)).seq else none

/-- The copies in the order step 2 takes them. -/
def Dev.hdrOrder (d : Dev) : List Bool :=
  match countingCopy (d.hdrSeq false) (d.hdrSeq true) with
  | none => []
  | some x => if (d.hdrSeq (!x)).isSome then [x, !x] else [x]

/-- The STORE_KEK a copy gives a program through an entry of state `want`: or the lock reason, 3 NOENTRY,
4 HDRMAC. -/
def Dev.kekFrom (d : Dev) (b : Bool) (meas : Bytes) (ver want : Nat) : Bytes ⊕ Nat :=
  let bs := d.hdrBytes b
  match (Header.ofBytes bs).entries.find? (fun e => e.meas == meas && e.ver == ver && e.st == want) with
  | none => .inr 3
  | some e =>
    match keyUnwrap (d.otp.progKey meas ver) e.wrap with
    | none => .inr 3
    | some kek => if hdrMacOk kek bs then .inl kek else .inr 4

/-- The first copy that gives a STORE_KEK, and whether it is copy B. -/
def Dev.tryCopies (d : Dev) (meas : Bytes) (ver want : Nat) : List Bool → Option (Bytes × Bool)
  | [] => none
  | b :: bs =>
    match d.kekFrom b meas ver want with
    | .inl kek => some (kek, b)
    | .inr _ => d.tryCopies meas ver want bs

/-- Steps 1 to 4 of R296: the STORE_KEK and the copy, or the code of KSSTAT.LOCK. -/
def Dev.findKek (d : Dev) (meas : Bytes) (ver want : Nat) : (Bytes × Bool) ⊕ Nat :=
  match d.hdrOrder with
  | [] =>
    let older (b : Bool) := d.flashUp && hdrIntact (d.hdrBytes b) && par8 (d.hdrBytes b) 21 == d.otp.rowIdx
    .inr (if older false || older true then 5 else 2)
  | b :: bs =>
    match d.tryCopies meas ver want (b :: bs) with
    | some x => .inl x
    | none =>
      match d.kekFrom b meas ver want with
      | .inr r => .inr r
      | .inl _ => .inr 3

/-- Whether a program unlocks through an entry of a state (14 R324). -/
def Dev.unlocks (d : Dev) (meas : Bytes) (ver want : Nat) : Bool :=
  match d.findKek meas ver want with
  | .inl _ => true
  | .inr _ => false

/-- The sequence of a valid copy: its HMAC is checked too once STORE_KEK is known (R302). -/
def Dev.hdrLive (d : Dev) (b : Bool) : Option Nat :=
  if !d.ks.ready || hdrMacOk d.ks.kek (d.hdrBytes b) then d.hdrSeq b else none

/-- The header in use: that of the counting copy. -/
def Dev.headerNow (d : Dev) : Option Header :=
  (countingCopy (d.hdrLive false) (d.hdrLive true)).map (fun b => Header.ofBytes (d.hdrBytes b))

/-- A header written to copy `b` after an erase of its sector, with its sector header. -/
def putHeader (b : Bool) (h : Header) (kek : Bytes) (ok : Bool) (d : Dev) : Dev :=
  let i := flag b
  let e := d.nextErase i
  let d := flashProgram (hdrAddr b) (sectorHeader e 0 ++ h.bytes kek) ok (flashErase (hdrAddr b) 1 d)
  let d := modKs (fun k => { k with erases := k.erases.set i e }) d
  if 90000 < e then raiseWhy 3 0 (noteG 3 8 d) else d

/-- A new header with the next sequence, written to the copy that does not count; true when it
verified. -/
def writeHeader (f : Header → Header) (vs : List Bool) (d : Dev) : Bool × Dev × List Bool :=
  let sa := d.hdrLive false
  let sb := d.hdrLive true
  let old := d.headerNow.getD ⟨d.otp.rowIdx, d.otp.row.lc, d.otp.row.ratchet, 0, []⟩
  let h := { f old with seq := writeSeq sa sb }
  let o := d.outcome vs
  (o.1, putHeader (targetCopy sa sb) h d.ks.kek o.1 d, o.2)

/-- An entry of a program under PROG_KEY. -/
def Dev.mkEntry (d : Dev) (meas : Bytes) (ver st : Nat) : ProgEntry :=
  ⟨meas, ver, st, keyWrap (d.otp.progKey meas ver) d.ks.kek⟩

/-! ### Erase counts and the erase of the area (R289) -/

/-- The erase counts read from the 36 sector headers; an unreadable one counts as the highest plus
one. -/
def readErases (d : Dev) : Dev :=
  let hs := (List.range 36).map (fun i =>
    let bs := d.flashRead (ksBase + 4096 * i) 16
    if d.flashUp && bs.take 4 == ascii "AYKS" then some (beNat (slice 4 4 bs)) else none)
  let top := (hs.filterMap id).foldl max 0
  let any := hs.any (·.isSome)
  modKs (fun k => { k with erases := hs.map (fun x => match x with
    | some e => e
    | none => if any then top + 1 else 0) }) d

/-- One sector of the key store area erased and given its header with an erase count. -/
def eraseKsSector (d : Dev) (x : Nat × Nat) : Dev :=
  let i := x.1
  let e := x.2
  let a := ksBase + 4096 * i
  let d := flashProgram a (sectorHeader e (if i = 20 then 1 else 0)) true (flashErase a 1 d)
  modKs (fun k => { k with erases := k.erases.set i e }) d

/-- Some sectors erased: their counts follow from the headers as they stood before (R289). -/
def eraseSectors (is : List Nat) (d : Dev) : Dev := (is.map (fun i => (i, d.nextErase i))).foldl eraseKsSector d

/-- WEAR raised where an erase count exceeds 90,000 (R289, 04 R104). -/
def judgeWear (d : Dev) : Dev := if 90000 < d.maxErase then raiseWhy 3 0 (noteG 3 8 d) else d

/-- The whole area erased (R289, R298 step 3). -/
def eraseArea (d : Dev) : Dev :=
  let d := eraseSectors (List.range 36) d
  judgeWear (modKs (fun k => { k with
    logSec := 0, logPos := 0, logSeq := 1, recSeq := 0, recs := [], stdNext := 0, largeNext := 0 }) d)

/-! ### Selecting records at unlock (R282, R287) -/

/-- The slot record at an address, when it meets every condition of R282. -/
def Dev.readRecord (d : Dev) (kek : Bytes) (large : Bool) (a : Nat) : Option KeySlot :=
  let h := d.flashRead a 8
  let slot := beNat (h.take 2)
  match keyUnwrap kek (d.flashRead (a + 8) (if large then 1560 else 88)) with
  | none => none
  | some p =>
    let k := kabAt p 8
    if isPer slot && isLarge slot == large && par8 h 2 == flag large && par8 h 3 == d.otp.rowIdx
        && slice 4 4 h == zeros 4 && par8 p 0 < 16 && slice 1 7 p == zeros 7
        && (k.symOk || k.asymOk) && kindHolds slot k.cls
        && (p.drop (16 + classLen k.cls)).all (· == 0) then
      some ⟨slot, par8 p 0, k.cls, k.usage, k.limit, 0, .live, [], a⟩
    else none

/-- The locations of an area used so far. -/
def Dev.usedLocs (d : Dev) (large : Bool) : List Nat :=
  (List.range (if large then 20 else 336)).filter (fun i =>
    !d.flash.mem.blank (slotAddr large i) (if large then 1568 else 96))

/-- The first location after the last used one. -/
def Dev.nextLoc (d : Dev) (large : Bool) : Nat := (d.usedLocs large).foldl (fun m i => max m (i + 1)) 0

/-- The valid record of each slot: the last in area order. -/
def Dev.readSlots (d : Dev) (kek : Bytes) : List KeySlot :=
  let one (large : Bool) := (d.usedLocs large).filterMap (fun i => d.readRecord kek large (slotAddr large i))
  (one false ++ one true).foldl (fun l x => x :: l.filter (fun y => y.slot != x.slot)) []

/-- The places of the counter log used so far: sector and position. -/
def Dev.usedLog (d : Dev) : List (Nat × Nat) :=
  (List.range 16).flatMap (fun s =>
    if d.flash.mem.blank (logAddr s 0) (127 * 32) then []
    else ((List.range 127).filter (fun p => !d.flash.mem.blank (logAddr s p) 32)).map (fun p => (s, p)))

/-- A verified counter record at a place, with its record sequence. -/
def Dev.readCtr (d : Dev) (kek : Bytes) (x : Nat × Nat) : Option (Nat × CtrRec) :=
  let bs := d.flashRead (logAddr x.1 x.2) 32
  let s := beNat (bs.take 2)
  if ((isPer s && par8 bs 2 < 2) || (s == 0xFFFF && par8 bs 2 < 8)) && par8 bs 3 == d.otp.rowIdx && slice 9 3 bs == zeros 3
      && (hmac .sha384 (cntKey kek) (bs.take 16)).take 16 == slice 16 16 bs then
    some (beNat (slice 12 4 bs), ⟨s, beNat (slice 4 5 bs), par8 bs 2, logAddr x.1 x.2⟩)
  else none

/-- The newest record of each slot. -/
def newestRecs (rs : List (Nat × CtrRec)) : List (Nat × CtrRec) :=
  rs.foldl (fun l x =>
    match l.find? (fun y => y.2.slot == x.2.slot) with
    | some y => if y.1 ≤ x.1 then x :: l.filter (fun z => z.2.slot != x.2.slot) else l
    | none => x :: l) []

/-- The last record sequence in the log, marks included. -/
def Dev.lastRecSeq (d : Dev) (used : List (Nat × Nat)) : Nat :=
  (used.map (fun x => beNat (d.flashRead (logAddr x.1 x.2 + 12) 4))).foldl max 0

/-- The current sector of the log: the one with the highest sector sequence. -/
def Dev.logHead (d : Dev) : Nat × Nat :=
  (List.range 16).foldl (fun m s =>
    let bs := d.flashRead (ksBase + 4096 * (20 + s)) 16
    let q := if bs.take 4 == ascii "AYKS" then beNat (slice 8 4 bs) else 0
    if m.2 < q then (s, q) else m) (0, 0)

/-- The attributes and the counter of one persistent slot at unlock; `gone` are the slots retired this boot whose bit
could not be burnt (R281). -/
def selectSlot (row : EpochRow) (gone : List Nat) (slots : List KeySlot) (recs : List (Nat × CtrRec)) (s : Nat) :
    Option (KeySlot × Bool) :=
  if !row.written.contains s then none
  else if row.retired.contains s || gone.contains s then
    some (⟨s, 0, 0, 0, 0, 0, .retired, [], 0⟩, false)
  else
    match slots.find? (fun x => x.slot == s) with
    | none => some (⟨s, 0, 0, 0, 0, 0, .unreadable, [], 0⟩, true)
    | some x =>
      match recs.find? (fun r => r.2.slot == s) with
      | none => some ({ x with ctr := x.limit }, true)
      | some r => some ({ x with ctr := if r.2.flags % 2 = 1 then r.2.v else min (r.2.v + 4096) x.limit }, false)

/-- Steps 5 and 6 of R296: records, counters, KSREADY. -/
def openStore (kek : Bytes) (d : Dev) : Dev :=
  let used := d.usedLog
  let recs := newestRecs (used.filterMap (d.readCtr kek))
  let slots := d.readSlots kek
  let row := d.otp.row
  let sel := row.written.eraseDups.filterMap (selectSlot row d.ks.retiredNow slots recs)
  let head := d.logHead
  let pos := (used.filter (fun x => x.1 == head.1)).foldl (fun m x => max m (x.2 + 1)) 0
  let d := modKs (fun k => { k with
    per := sel.map (·.1), cache := [], ready := true, lock := 0, unlocking := false, kek := kek
    recs := recs.map (·.2), recSeq := d.lastRecSeq used, logSec := head.1, logPos := pos, logSeq := head.2
    stdNext := d.nextLoc false, largeNext := d.nextLoc true }) d
  if sel.any (·.2) then noteSlotFail d else d

/-- The store left locked for a reason, KSLOCKED set. -/
def lockStore (reason : Nat) (d : Dev) : Dev :=
  noteG 3 2 (modKs (fun k => { k with ready := false, unlocking := false, lock := reason }) d)

/-- The unlock of R296 for a program; without ROOT there is nothing to derive (R294). -/
def unlockFor (meas : Bytes) (ver want : Nat) (d : Dev) : Dev :=
  if !d.otp.rooted then lockStore 1 d
  else
  match d.findKek meas ver want with
  | .inl x => openStore x.1 d
  | .inr r => lockStore r d

/-- The entry state a boot needs: CANDIDATE at a trial, CONFIRMED otherwise. -/
def Dev.wantState (d : Dev) : Nat := if d.boot.boot = 1 then 2 else 1

/-- The clauses that wait for KSREADY released. -/
def releaseStoreWaits (d : Dev) : Dev :=
  { d with chans := d.chans.map (fun c => { c with
      sents := c.sents.map (fun s => if s.wait == .ksready then { s with wait := .none } else s) }) }

/-- The unlock at STOP exit ends (R297): the clauses that waited for it are judged (06 R454). -/
def storeUnlockEnds (d : Dev) : Dev :=
  if d.ks.unlocking then
    allChns.foldl (fun d n => judgeFresh n d) 
      (releaseStoreWaits (unlockFor d.boot.progMeas d.boot.progVer.toNat d.wantState d))
  else d

/-- KEYSTORE_UNLOCK_DONE. -/
def execKeystoreUnlockDone (s : State) : Out := onDev storeUnlockEnds s

/-! ### The first header of an epoch (R295) -/

/-- The attempts at the first header: copy, then the other, then the first again. -/
def firstHeader (kek : Bytes) (h : Header) : List Bool → List Bool → Dev → Bool × Dev × List Bool
  | [], vs, d => (false, d, vs)
  | b :: bs, vs, d =>
    let o := d.outcome vs
    let d := putHeader b h kek o.1 d
    if o.1 then (true, d, o.2) else firstHeader kek h bs o.2 d

/-- The first header created for a program: its entry CONFIRMED, HDR burnt, the store opened. -/
def createHeader (meas : Bytes) (ver : Nat) (vs burns : List Bool) (d : Dev) : Dev × List Bool × List Bool :=
  let kek := d.otp.storeKek
  let sa := d.hdrSeq false
  let sb := d.hdrSeq true
  let t := targetCopy sa sb
  let e : ProgEntry := ⟨meas, ver, 1, keyWrap (d.otp.progKey meas ver) kek⟩
  let h : Header := ⟨d.otp.rowIdx, d.otp.row.lc, d.otp.row.ratchet, writeSeq sa sb, [e]⟩
  let r := firstHeader kek h [t, !t, t] vs d
  if !r.1 then (lockStore 2 r.2.1, r.2.2, burns)
  else
    let b := burnBit burns
    let d := if b.1 then modRow (fun x => { x with hdr := true }) r.2.1 else noteOtpErr r.2.1
    let d := { d with boot := { d.boot with bootStat := setBit d.boot.bootStat 11 } }
    (openStore kek d, r.2.2, b.2)

end Sys2Proof.Machine
end

