-- ==== Sys2Proof/Machine/LifeCycle.lean ====
section
/-!
DEFINITION. Tamper inputs, life-cycle nonces, requests and their checks, the JTAG instruction register
and the halt of the service processor (12_key_store.md R299–R305; 13_life_cycle_and_debug.md R306–R319).
-/

namespace Sys2Proof.Machine

/-- The life-cycle state changed. -/
def modLc (f : LifeCycle → LifeCycle) (d : Dev) : Dev := { d with lc := f d.lc }

/-! ### Tamper (12 R299–R305) -/

/-- The configuration byte of a tamper input. -/
def Dev.tamperByte (d : Dev) (i : Fin 2) : Nat := fld d.cfg.tamperCfg (8 * i.val + 7) (8 * i.val)

/-- Every volatile slot, the key cache and the presignature pool emptied, every record context FREE
(15 R351), the arm of the last gasp lost (17 R408). -/
def emptyKeys (d : Dev) : Dev :=
  freeRecs <| dropArm (fun _ => true) (clearPresig (modKs (fun k => { k with vol := [], cache := [] }) d))

/-- Whether a dispatched clause holds a volatile key or a presignature. -/
def Job.volatile (j : Job) : Bool := j.slots.any isVol || j.presig.isSome

/-- Every dispatched clause of a channel whose job `p` picks ended KEY_DENIED. -/
def denyWhere (p : Job → Bool) (d : Dev) (n : Chn) : Dev :=
  (((d.chan n).sents.filter (fun s => (s.job.map p).getD false)).map (·.sid)).foldl
    (fun d sid => match d.sent n sid with
      | some s => match s.job with
        | some j => endEarly n s j .keyDenied d
        | none => d
      | none => d) d

/-- Every dispatched clause with a volatile key or a presignature of a channel ended (R300). -/
def denyVolatile (d : Dev) (n : Chn) : Dev := denyWhere Job.volatile d n

/-- A PRESIG_FILL in progress ended as by a channel reset (11 R272): no record posts, its sentence is discarded and
its credits and stream bytes are returned; one that a phrase runs ends its template (DESIGN CHOICE, log
entry 39). -/
def dropFill (n : Chn) (d : Dev) (s : Sentence) : Dev :=
  match s.parent, s.job with
  | some _, some j => endEarly n s j .keyDenied d
  | _, _ =>
    let d := ((List.range s.clauses.length).drop s.idx).foldl (fun d i => discardStream n s.sid i d) d
    modRings n (fun r => { r with reserved := r.reserved - (s.clauses.length - s.idx) }) (dropOne n s d)

/-- Every PRESIG_FILL in progress of a channel ended. -/
def dropFills (d : Dev) (n : Chn) : Dev :=
  ((d.chan n).sents.filter (fun s => s.job.any (fun j => j.filling != 0))).foldl (dropFill n) d

/-- The supply changed. -/
def modSup (f : Supply → Supply) (d : Dev) : Dev := { d with supply := f d.supply }

/-- The content of a mark: seconds count and event code in the place of V (17 R412). -/
def markV (sec event : Nat) : Nat := sec % 2 ^ 32 * 256 + event % 256

/-- LGSTAT with a path. -/
def gaspPath (p : Nat) (w : Word) : Word := putFld w (at_ p 28) 29 28

/-- The marks due when a path ends: its own, and an ACK where the level is below 4 again (17 R412, R413). -/
def Supply.endMarks (s : Supply) (flags v : Nat) : List (Nat × Nat) :=
  (flags, v) :: (if s.fired && s.level < 4 then [(2, v)] else [])

/-- A last-gasp path ends without a record: PATH 3, a mark without SEALED (17 R409, R410). -/
def gaspNothing (g : Gasp) (d : Dev) : Dev :=
  modSup (fun s => { s with
    gasp := none, lgStat := gaspPath 3 s.lgStat, fired := s.fired && 4 ≤ s.level
    marks := s.marks ++ s.endMarks 0 (markV g.sec g.event) }) d

/-- A running last-gasp path abandoned by a tamper ZERO. -/
def abandonGasp (d : Dev) : Dev :=
  match d.supply.gasp with
  | some g => gaspNothing g d
  | none => d

/-- The action ZERO (R300). -/
def tamperZero (d : Dev) : Dev :=
  abandonGasp (emptyKeys (allChns.foldl denyVolatile (allChns.foldl dropFills d)))

/-- A bit of a two-bit field put. -/
def put2 (x : BitVec 2) (i : Fin 2) (b : Bool) : BitVec 2 :=
  if b then x ||| (1#2 <<< i.val) else x &&& ~~~(1#2 <<< i.val)

/-- An input becomes opened: its sticky bit, and the actions enabled for it. In STOP without D9 there is
nothing to empty. -/
def tamperOpens (i : Fin 2) (d : Dev) : Dev :=
  let b := d.tamperByte i
  if !b.testBit 0 || d.lc.tamperOpen.getLsbD i.val then d
  else
    let d := modLc (fun l => { l with tamperOpen := put2 l.tamperOpen i true }) d
    let d := noteG 3 i.val { d with pins := { d.pins with tamper := put2 d.pins.tamper i true } }
    let d := if b.testBit 4 then tamperZero d else d
    if b.testBit 5 then modLc (fun l => { l with tamperBlock := true }) d else d

/-- TAMPER_CLOSED: the input returns to its closed level. -/
def execTamperClosed (i : Fin 2) (s : State) : Out :=
  onDev (fun d => modLc (fun l => { l with tamperOpen := put2 l.tamperOpen i false })
    { d with pins := { d.pins with tamper := put2 d.pins.tamper i false } }) s

/-- Whether an input with BLOCK enabled reads opened. -/
def Dev.blockHeld (d : Dev) : Bool :=
  [(0 : Fin 2), 1].any (fun i =>
    (d.tamperByte i).testBit 0 && (d.tamperByte i).testBit 5 && d.lc.tamperOpen.getLsbD i.val)

/-- A write of TAMPERSTAT with ACK. -/
def tamperAck (d : Dev) : Dev :=
  if d.blockHeld then d else modLc (fun l => { l with tamperBlock := false }) d

/-- TAMPER_ACK: TAMPERSTAT stays writable under BLOCK (R301). -/
def execTamperAck (p : Port) (s : State) : Out :=
  onDev (fun d => if !d.gRun || d.otp.endFuse then d else aOnly p tamperAck d) s

/-- TAMPERSTAT. -/
def Dev.tamperStat (d : Dev) : Word := at_ (flag d.lc.tamperBlock) 8 ||| at_ d.lc.tamperOpen.toNat 0

/-- A write of TAMPERCFG (R304). -/
def writeTamperCfg (w : Word) (d : Dev) : Dev :=
  if d.cfgLocked then noteLink .A 11 d
  else
    let v := w &&& 0x3F3F
    if d.wantsRecord (v != d.cfg.tamperCfg) then wantConfigWrite { d with cfg := { d.cfg with tamperCfg := v } } else d

/-! ### Life-cycle registers -/

/-- EPOCHS.LEFT. -/
def Otp.left (o : Otp) : Nat := 7 - o.rowIdx

/-- LCREQ.BUSY. -/
def Dev.lcBusy (d : Dev) : Bool := bit d.lc.lcreq 31

/-- LCREQ with a result, BUSY clear. -/
def lcResult (r : Nat) (w : Word) : Word := putFld (clrBit w 31) (at_ r 16) 23 16

/-- The nonce made invalid. -/
def dropNonce (d : Dev) : Dev := modLc (fun l => { l with nonce := [], nonceValid := false }) d

/-- The token area zeroed. -/
def zeroToken (d : Dev) : Dev := modLc (fun l => { l with token := Vector.replicate 128 0 }) d

/-- A drawn nonce made the valid one. -/
def putNonce (x : Bytes) (d : Dev) : Dev := modLc (fun l => { l with nonce := x, nonceValid := true }) d

/-- The nonce could not be drawn: RESULT ENTROPY. -/
def noNonce (d : Dev) : Dev := modLc (fun l => { l with lcreq := putFld l.lcreq (at_ 9 16) 23 16 }) d

/-- A fresh nonce asked for (R310): at once, when the DRBG has served what waits before it, or ENTROPY. -/
def askNonce (d : Dev) : Dev :=
  let d := dropNonce d
  if d.entropyOut then noNonce d
  else
    match enterDraw .lcNonce (.plain 32) d with
    | (some x, d) => putNonce x d
    | (none, d) => d

/-- A write of LCREQ: ignored with LOCKWR while BUSY (R314); a reserved TARGET keeps the old one. -/
def writeLcreq (w : Word) (d : Dev) : Dev :=
  if d.lcBusy then noteLink .A 11 d
  else
    let t := fld w 3 0
    let bad := 4 ≤ t && t ≤ 0xE
    let d := noteIf .A bad d
    let d := modLc (fun l =>
      let x := putFld l.lcreq w 9 9
      { l with lcreq := if bad then x else putFld x w 3 0 }) d
    if bit w 8 then askNonce d else d

/-- LC_NONCE: a write of LCREQ with NONCE set. -/
def execLcNonce (p : Port) (w : Word) (s : State) : Out := onA p (writeLcreq (setBit w 8)) s

/-- LC_NONCE_EXPIRY: 60 s have passed. -/
def execLcNonceExpiry (s : State) : Out := onDev dropNonce s

/-- A word of LCTOK written. -/
def writeToken (i : Nat) (w : Word) (d : Dev) : Dev :=
  if d.lcBusy then noteLink .A 11 d else modLc (fun l => { l with token := vset l.token i w }) d

/-! ### Requests (R312) -/

/-- LC_REQUEST at its commit. -/
def lcRequest (d : Dev) : Dev :=
  if d.lcBusy then d
  else modLc (fun l => { l with lcreq := setBit (putFld l.lcreq 0 23 16) 31, checking := true }) d

/-- LC_REQUEST as a code of MGMT_CMD: in the recovery loader it completes at once with BADSTATE (14 R328). -/
def mgmtLcRequest (d : Dev) : Dev :=
  if d.boot.boot = 3 then { d with boot := { d.boot with mgmtRes := at_ 3 16 ||| at_ 2 8 } } else lcRequest d

/-- LC_REQUEST from port A, which a tamper block does not stop (R314). -/
def lcRequestWrite (d : Dev) : Dev := if !d.gRun || d.otp.endFuse then d else mgmtLcRequest d

/-- LC_REQUEST. -/
def execLcRequest (s : State) : Out := onDev lcRequestWrite s

/-- Whether Table 13.2 permits a transition. -/
def permitted (cur target : Nat) : Bool :=
  [(0, 1), (1, 2), (1, 3), (2, 1), (2, 3), (2, 0xF), (0, 0xF), (1, 0xF), (3, 0xF)].contains (cur, target)

/-- Whether a permitted transition needs a token. -/
def needsToken (cur target : Nat) : Bool :=
  (cur == 0 && target == 1) || cur == 2

/-- Whether the token's fields match the request (step 5). -/
def tokenOk (d : Dev) (t : Bytes) (unlock : Bool) (target : Nat) : Bool :=
  let cur := d.otp.lcCode
  let newOwner := par8 t 7 == 1
  t.take 4 == ascii "AYLT" && par8 t 4 == (if unlock then 2 else 1) && par8 t 5 == (if unlock then 0 else target)
    && par8 t 6 == d.otp.rowIdx && (par8 t 7 == 0 || (newOwner && !unlock && cur == 2 && target == 1))
    && slice 8 4 t == wordBytes devid && slice 12 16 t == uidBytes && slice 28 32 t == d.lc.nonce
    && slice 157 3 t == zeros 3 && (newOwner || slice 160 97 t == zeros 97) && slice 257 3 t == zeros 3
    && slice 356 156 t == zeros 156 && (p384.decode (slice 60 97 t)).isSome

/-- Whether the token's signature verifies under its key (step 7). -/
def tokenSigned (t : Bytes) : Bool :=
  match p384.decode (slice 60 97 t) with
  | some q => p384.verify q (p384.digest (sha384 (t.take 260))) (beNat (slice 260 48 t)) (beNat (slice 308 48 t))
  | none => false

/-- Steps 4 to 7: the RESULT that ends the request, and the owner hash the new row takes. -/
def tokenChecks (d : Dev) (unlock : Bool) (target : Nat) : Nat × Bytes :=
  let t := wordsBytes d.lc.token.toList
  let cur := d.otp.lcCode
  let own := sha384 (slice 60 97 t)
  if !d.lc.nonceValid then (4, [])
  else if !tokenOk d t unlock target then (5, [])
  else if !(cur == 0 && target == 1) && own != d.otp.row.ownerHash then (6, [])
  else if !tokenSigned t then (7, [])
  else if par8 t 7 == 1 then (0, sha384 (slice 160 97 t))
  else (0, own)

/-- The request ends with a RESULT other than DONE. -/
def lcReject (r : Nat) (d : Dev) : Dev :=
  noteG 3 6 (zeroToken (modLc (fun l => { l with lcreq := lcResult r l.lcreq, checking := false, accepted := none }) d))

/-- An accepted debug unlock (R313). -/
def debugUnlock (d : Dev) : Dev :=
  let d := zeroToken (emptyKeys (allChns.foldl dropFills d))
  modLc (fun l => { l with
    lcreq := lcResult 1 l.lcreq, checking := false, dbgOpen := true, dbgUnlocked := true }) d

/-- A transition accepted: every channel is reset (R313, step 1). -/
def lcAccept (target : Nat) (owner : Bytes) (d : Dev) : Dev :=
  resetAllChans (modLc (fun l => { l with checking := false, accepted := some (target, owner) }) d)

/-- Steps 1 to 7 of Table 13.5 end: the request is rejected, an unlock is made, or a transition is
accepted. The nonce is used up where step 5 is reached. -/
def lcChecks (d : Dev) : Dev :=
  let target := fld d.lc.lcreq 3 0
  let unlock := bit d.lc.lcreq 9
  let cur := d.otp.lcCode
  if !d.lc.checking || !d.lc.shown then d
  else if unlock then
    if cur != 1 || d.lc.dbgUnlocked then lcReject 2 d
    else
      let r := tokenChecks d true target
      let d := if d.lc.nonceValid then dropNonce d else d
      if r.1 != 0 then lcReject r.1 d else debugUnlock d
  else if !permitted cur target then lcReject 2 d
  else if target != 0xF && d.otp.left = 0 then lcReject 3 d
  else if needsToken cur target then
    let r := tokenChecks d false target
    let d := if d.lc.nonceValid then dropNonce d else d
    if r.1 != 0 then lcReject r.1 d else lcAccept target (if target = 1 then r.2 else d.otp.row.ownerHash) d
  else lcAccept target d.otp.row.ownerHash d

/-- LC_CHECK_DONE. -/
def execLcCheckDone (s : State) : Out := onDev lcChecks s

/-! ### JTAG (R315) -/

/-- Whether the state opens debug: BLANK, RETURN, PROVISION with UNLOCKED (Table 13.6). -/
def Dev.debugOpen (d : Dev) : Bool := d.lc.dbgOpen

/-- An instruction loaded into the TAP: one that is not available selects BYPASS. The port is in D4. -/
def jtagSelect (op : BitVec 4) (open_ : Bool) (d : Dev) : Dev :=
  if !d.domOn 4 then d
  else modLc (fun l => { l with jtagIr := if open_ && !d.debugOpen then 0xF else op }) d

/-- JTAG_TEST_LOGIC_RESET. -/
def execJtagTestLogicReset (s : State) : Out := onDev (fun d => jtagSelect 0x1 false d) s

/-- JTAG_IDCODE. -/
def execJtagIdcode (s : State) : Out := onDev (jtagSelect 0x1 false) s

/-- JTAG_BYPASS, or any opcode not available. -/
def execJtagBypass (s : State) : Out := onDev (jtagSelect 0xF false) s

/-- A boundary-scan instruction loaded, and, where it is selected, the register captured and then updated with the
bits shifted in; its length and what it captures are not stated (DESIGN CHOICE, log entry 76). -/
def jtagScan (op : BitVec 4) (open_ : Bool) (d : Dev) : Dev :=
  let d := jtagSelect op open_ d
  if d.domOn 4 && d.lc.jtagIr == op then
    bump (modLc (fun l => { l with scan := Config.scanIn d.ctr % 2 ^ Config.scanLen }) d)
  else d

/-- JTAG_SAMPLE_PRELOAD. -/
def execJtagSamplePreload (s : State) : Out := onDev (jtagScan 0x2 false) s

/-- JTAG_EXTEST: in open states only. -/
def execJtagExtest (s : State) : Out := onDev (jtagScan 0x3 true) s

/-- What the boundary scan drives the pins with under EXTEST. -/
def Dev.extest (d : Dev) : Option Nat := if d.lc.jtagIr == 0x3 then some d.lc.scan else none

/-- The IDCODE. -/
def idcode : Word := 0x17416FFF

/-- The register that Capture-DR loads (Table 13.6): its length and value. The bit of BYPASS captures 0 (PRESUMED,
IEEE 1149.1, log entry 76); the boundary scan captures a free value. -/
def Dev.jtagCapture (d : Dev) : Nat × Nat :=
  if d.lc.jtagIr = 0x1 then (32, idcode.toNat)
  else if d.lc.jtagIr = 0x8 then
    (64, flag d.lc.dbgDone * 2 ^ 63 + flag d.lc.dbgErr * 2 ^ 62 + d.lc.dbgData.toNat)
  else if d.lc.jtagIr = 0x2 ∨ d.lc.jtagIr = 0x3 then
    (Config.scanLen, Config.scanSample d.ctr % 2 ^ Config.scanLen)
  else (1, 0)

/-! ### Halting the service processor (R316) -/

/-- A DBGACC access by `f`, which answers the data of a read and whether it was refused: reached in open
states only; in the others the opcode selects BYPASS. -/
def dbgAccess (f : Dev → Dev × Option Word × Bool) (d : Dev) : Dev :=
  if !d.domOn 4 then d
  else if !d.debugOpen then modLc (fun l => { l with jtagIr := 0xF }) d
  else
    let r := f d
    modLc (fun l => { l with
      jtagIr := 0x8, dbgUsed := true, dbgDone := true, dbgErr := r.2.2, dbgData := r.2.1.getD l.dbgData }) r.1

/-- A control access. -/
def dbgControl (f : LifeCycle → LifeCycle) (d : Dev) : Dev := dbgAccess (fun d => (modLc f d, none, false)) d

/-- DBG_HALT. -/
def execDbgHalt (s : State) : Out := onDev (dbgControl (fun l => { l with dbgHalt := true })) s

/-- DBG_RESUME. -/
def execDbgResume (s : State) : Out := onDev (dbgControl (fun l => { l with dbgHalt := false })) s

/-- DBG_STEP: one instruction of the program, whose own state is not modelled; HALTED stays as it is. -/
def execDbgStep (s : State) : Out := onDev (dbgControl id) s

/-- LCSTATE. -/
def Dev.lcStateReg (d : Dev) : Word :=
  if d.lc.shown then at_ (flag d.lc.transit) 8 ||| at_ d.lc.lcstate 0 else 0

/-- EPOCHS. -/
def Dev.epochs (d : Dev) : Word :=
  if d.lc.shown then at_ (flag d.otp.endFuse) 16 ||| at_ d.otp.left 8 ||| at_ d.otp.rowIdx 0 else 0

/-- DBGSTAT. -/
def Dev.dbgStat (d : Dev) : Word :=
  at_ (flag d.lc.dbgUsed * 8 + flag d.lc.dbgHalt * 4 + flag d.lc.dbgUnlocked * 2 + flag d.lc.dbgOpen) 0

/-- The words of the nonce and of the owner hash. -/
def Dev.lcNonceWord (d : Dev) (i : Nat) : Word := bytesWord (slice (4 * i) 4 (d.lc.nonce ++ zeros 32))

end Sys2Proof.Machine
end

