-- ==== Sys2Proof/Machine/Gate.lean ====
section
/-!
DEFINITION. The host image gate: image tables, starting and stopping, page requests and fetches
(14_boot_and_updates.md R340–R344, R348).
-/

namespace Sys2Proof.Machine

/-- The size of a host image slot (14 R320). -/
def Dev.hostSize (d : Dev) : Nat :=
  if d.flash.size = 0x800000 then 0x380000 else if d.flash.size = 0x1000000 then 0x780000 else 0x800000

/-- The flash address of a host image slot. -/
def Dev.hostBase (d : Dev) (k : Nat) : Nat := 0x100000 + d.hostSize * (k % 2)

/-- The gate changed. -/
def modGate (f : Gate → Gate) (d : Dev) : Dev := { d with gate := f d.gate }

/-! ### Tables (R340) -/

/-- What a valid host image table says: version, image pages, table pages, digests. -/
structure HostTable where
  ver : Nat
  npages : Nat
  tpages : Nat
  digests : List Bytes
  deriving DecidableEq, Repr

/-- Whether the first 256 bytes of a table are formed right for a slot of `pages` pages. -/
def hostHeadOk (h : Bytes) (pages : Nat) : Bool :=
  let np := beNat (slice 12 4 h)
  let tp := beNat (slice 16 4 h)
  h.take 4 == ascii "AYHI" && par8 h 4 == 1 && par8 h 5 == 1 && slice 6 2 h == zeros 2
    && slice 20 44 h == zeros 44 && slice 161 95 h == zeros 95 && 1 ≤ np && np ≤ 2048
    && tp == ceilDiv (352 + 32 * np) 4096 && tp + np ≤ min pages 2048

/-- The valid table of a host image slot. -/
def Dev.hostTable (d : Dev) (k : Nat) : Option HostTable :=
  let h := d.flashRead (d.hostBase k) 256
  if !d.flashUp || !hostHeadOk h (d.hostSize / 4096) then none
  else
    let np := beNat (slice 12 4 h)
    let body := d.flashRead (d.hostBase k) (256 + 32 * np)
    let sig := d.flashRead (d.hostBase k + 256 + 32 * np) 96
    let qb := slice 64 97 h
    match p384.decode qb with
    | none => none
    | some q =>
      if p384.verify q (p384.digest (sha384 body)) (beNat (sig.take 48)) (beNat (slice 48 48 sig))
          && (d.otp.lcCode == 0 || sha384 qb == d.otp.row.ownerHash) then
        some ⟨beNat (slice 8 4 h), np, beNat (slice 16 4 h), (List.range np).map (fun i => slice (256 + 32 * i) 32 body)⟩
      else none

/-- The bytes of an image page of a slot. -/
def Dev.hostPage (d : Dev) (k tpages p : Nat) : Bytes := d.flashRead (d.hostBase k + (tpages + p) * 4096) 4096

/-! ### Starting and stopping (R341) -/

/-- HIGINFO.SLOT shows HOSTACT of the boot record (Table 14.11). -/
def showSlot (d : Dev) : Dev := modGate (fun g => { g with info := putBit g.info 31 (d.bootRec.hostAct == 1) }) d

/-- The gate stopped: HIG clear, the cache empty. -/
def gateStop (d : Dev) : Dev :=
  modGate (fun g => { g with
    stat := clrBit (clrBit g.stat 31) 26, digests := [], pages := [], fetch := none, queued := none
    starting := false }) d

/-- The gate begins to read the table of slot HOSTACT; in END it never starts. -/
def gateStart (d : Dev) : Dev :=
  if d.otp.endFuse then d else modGate (fun g => { g with starting := true }) (gateStop d)

/-- The table has been read and checked. -/
def gateLoaded (d : Dev) : Dev :=
  if !d.gate.starting || !d.domOn 3 || !d.flashFree then d
  else
    let k := d.bootRec.hostAct
    match d.hostTable k with
    | some t => modGate (fun g => { g with
        starting := false, stat := setBit (clrBit g.stat 28) 31, digests := t.digests
        info := at_ k 31 ||| (g.info &&& 0xFFF), ver := BitVec.ofNat 32 t.ver }) d
    | none => modGate (fun g => { g with
        starting := false, stat := setBit g.stat 28, info := at_ k 31 ||| (g.info &&& 0xFFF), ver := 0 }) d

/-- HIG_TABLE_LOADED. -/
def execHigTableLoaded (s : State) : Out := onDev gateLoaded s

/-! ### Pages (R342, R343) -/

/-- NPAGES of the table in force. -/
def Dev.npages (d : Dev) : Nat := d.gate.digests.length

/-- HIGSTAT.READY. -/
def Dev.hig (d : Dev) : Bool := bit d.gate.stat 31

/-- A page asked for: fetched now, or queued in place of the queued one. -/
def requestPage (p : Nat) (d : Dev) : Dev :=
  modGate (fun g => match g.fetch with
    | some _ => { g with queued := some p }
    | none => { g with fetch := some p, stat := setBit g.stat 26 }) d

/-- A write of HIGPAGE: a page at or beyond NPAGES is a reserved value. -/
def writeHigPage (w : Word) (d : Dev) : Dev :=
  let p := fld w 11 0
  if d.npages ≤ p then noteLink .A 12 d
  else requestPage p (modGate (fun g => { g with page := at_ p 0, stat := clrBit (clrBit g.stat 30) 29 }) d)

/-- HIGPAGE_WRITE. -/
def execHigpageWrite (p : Port) (w : Word) (s : State) : Out := onA p (writeHigPage w) s

/-- A running fetch ends; the queued one starts. -/
def fetchDone (d : Dev) : Dev :=
  match d.gate.fetch with
  | none => d
  | some p =>
    if !d.domOn 3 || !d.flashFree then d
    else
      let t := ceilDiv (352 + 32 * d.npages) 4096
      let bs := d.hostPage (fld d.gate.info 31 31) t p
      let ok := sha256 bs == d.gate.digests.getD p []
      let next := d.gate.queued
      modGate (fun g =>
        let st := putBit g.stat 26 next.isSome
        let g := { g with fetch := next, queued := none }
        if ok then
          { g with pages := ((p, bs) :: g.pages.filter (fun x => x.1 != p)).take 16
                   stat := if fld g.page 11 0 = p then setBit st 30 else st }
        else { g with stat := setBit st 29, info := putFld g.info (at_ p 0) 11 0 }) d

/-- HIG_FETCH_DONE. -/
def execHigFetchDone (s : State) : Out := onDev fetchDone s

/-- HIGINFO. -/
def Dev.higInfo (d : Dev) : Word := d.gate.info ||| at_ d.npages 16

/-- A word of the host boot window at a byte offset, with what its read does (R342). -/
def readBoot (off : Nat) (d : Dev) : Word × Bool × Dev :=
  let p := off / 4096
  if !d.hig || d.npages ≤ p then (0, false, d)
  else
    match d.gate.pages.find? (fun x => x.1 == p) with
    | some x =>
      (bytesWord (slice (off % 4096) 4 x.2), true,
        modGate (fun g => { g with pages := x :: g.pages.filter (fun y => y.1 != p) }) d)
    | none => (0, false, requestPage p (modGate (fun g => { g with stat := setBit g.stat 27 }) d))

end Sys2Proof.Machine
end

