-- ==== Sys2Proof/Machine/Calib.lean ====
section
/-!
DEFINITION. Clocks and calibration: the core clock, calibrated quantities and their write rules, the
user calibration record, the action level of the ride-through table (17 R399–R401; 18 R417–R431; 16 R373).
-/

namespace Sys2Proof.Machine

/-- The power controller changed. -/
def modPow (f : Power → Power) (d : Dev) : Dev := { d with power := f d.power }

/-- The clocks changed. -/
def modClk (f : Clocks → Clocks) (d : Dev) : Dev := { d with clocks := f d.clocks }

/-! ### The action level (17 R400, R401, R413) -/

/-- ACTION of an entry. -/
def rideAction (w : Word) : Nat := fld w 30 28

/-- The highest ACTION among the fired entries. -/
def Supply.levelNow (s : Supply) : Nat :=
  (s.ride.toList.filter (fun r => r.st == .fired)).foldl (fun m r => max m (rideAction r.reg)) 0

/-- The content of the newest mark: one that waits, else one in the log. -/
def Dev.lastMark (d : Dev) : Nat :=
  match d.supply.marks.getLast? with
  | some m => m.2
  | none => ((d.ks.newest 0xFFFF).map (·.v)).getD 0

/-- The level recomputed. When it falls below 4 after a LASTGASP action, GSTICKY1.LASTGASP is set, and an
ACK mark is due where a path ran: after the mark of that path, once the path has ended (17 R413). -/
def recalcLevel (d : Dev) : Dev :=
  let l := d.supply.levelNow
  let back := d.supply.fired && 4 ≤ d.supply.level && l < 4
  let d := modSup (fun s => { s with level := l }) d
  if back then
    let ran := bit d.supply.lgStat 30
    noteG 1 9 (if d.supply.gasp.isSome then d else modSup (fun s => { s with
      fired := false, marks := if ran then s.marks ++ [(2, d.lastMark)] else s.marks }) d)
  else d

/-- An entry after a write: reserved field values keep the old ones (17 R399). -/
def rideMerge (old w : Word) : Word × Bool :=
  keepIf (6 ≤ rideAction w) 30 28 old (keepIf (fld w 27 26 = 3) 27 26 old (keepIf (fld w 25 24 = 3) 25 24 old (w, false)))

/-- An entry loaded: it returns to IDLE (17 R400). -/
def loadRide (i : Nat) (w : Word) (d : Dev) : Dev :=
  modSup (fun s => { s with ride := vset s.ride i ⟨w, .idle, 0⟩ }) d

/-- A write of RIDEi. -/
def writeRide (i : Fin 16) (w : Word) (d : Dev) : Dev :=
  let m := rideMerge (d.supply.ride[i.val]).reg w
  noteIf .A m.2 (recalcLevel (loadRide i.val m.1 d))

/-- RIDE_WRITE. -/
def execRideWrite (p : Port) (i : Fin 16) (w : Word) (s : State) : Out := onA p (writeRide i w) s

/-- The factory ride-through table (17 Table 17.6). -/
def factoryRide (i : Nat) : Word :=
  if i = 0 then 0x90642280 else if i = 1 then 0xB032226B else if i = 2 then 0xD00A2256 else 0

/-! ### The sequencing table (16 R373) -/

/-- A PDSEQ word after a write: a field below its factory value takes it. -/
def seqMerge (fac w : Word) : Word × Bool :=
  let up := max (hi16 fac) (hi16 w)
  let dn := max (lo16 fac) (lo16 w)
  (at_ up 16 ||| at_ dn 0, hi16 w < hi16 fac || lo16 w < lo16 fac)

/-- A write of PDSEQ word `k`. -/
def writeSeq_ (k : Nat) (w : Word) (d : Dev) : Dev :=
  let m := seqMerge (vget factoryTable k 0) w
  let d := modPow (fun p => { p with seq := vset p.seq k m.1 }) d
  if m.2 then noteG 1 2 d else d

/-! ### Calibration registers (18 Table 18.2, R431) -/

/-- Whether a two's complement field of `n` bits lies from `lo` to `hi`. -/
def signedIn (n v : Nat) (lo hi : Int) : Bool :=
  let x : Int := if v < 2 ^ (n - 1) then v else (v : Int) - 2 ^ n
  lo ≤ x && x ≤ hi

/-- CALIBi after a write, i = 1 to 5. -/
def calibMerge (i : Nat) (old w : Word) : Word × Bool :=
  match i with
  | 1 => keepIf (!signedIn 16 (lo16 w) (-5000) 5000) 15 0 old (w &&& 0xFFFF, false)
  | 2 => keepIf (hi16 w < 0x7000 || 0x9000 < hi16 w) 31 16 old
      (keepIf (!signedIn 8 (fld w 7 0) (-64) 63) 7 0 old (w &&& 0xFFFF00FF, false))
  | 3 => keepIf (hi16 w < 0x7000 || 0x9000 < hi16 w) 31 16 old
      (keepIf (!signedIn 8 (fld w 7 0) (-64) 63) 7 0 old (w &&& 0xFFFF00FF, false))
  | 4 => keepIf (!signedIn 16 (lo16 w) (-50) 50) 15 0 old (w &&& 0xFFFF, false)
  | 5 => keepIf (fld w 25 16 < 600 || 800 < fld w 25 16) 25 16 old
      (keepIf (fld w 5 0 < 8 || 41 < fld w 5 0) 5 0 old (w &&& 0x03FF003F, false))
  | _ => (old, false)

/-- A write of CALIBi. -/
def writeCalib (i : Nat) (w : Word) (d : Dev) : Dev :=
  let m := calibMerge i (vget d.clocks.calib i 0) w
  noteIf .A m.2 (modClk (fun c => { c with calib := vset c.calib i m.1 }) d)

/-- RCTC and APTC in force. -/
def Dev.rctc (d : Dev) : Nat := fld (vget d.clocks.calib 5 0) 5 0

/-- APTC in force. -/
def Dev.aptc (d : Dev) : Nat := fld (vget d.clocks.calib 5 0) 25 16

/-- An ADC sample corrected by CALIBi (18 R421). -/
def Dev.adc (d : Dev) (i c : Nat) : Nat :=
  let w := vget d.clocks.calib i 0
  let o : Int := if fld w 7 0 < 128 then fld w 7 0 else (fld w 7 0 : Int) - 256
  (min 1023 (max 0 (((c * hi16 w + 16384) / 32768 : Nat) + o))).toNat

/-! ### The user calibration record (18 R427–R430) -/

/-- The active user quantities as the record holds them: PDSEQ, RIDE, CALIB1–CALIB5. -/
def Dev.calBody (d : Dev) : Bytes :=
  wordsBytes d.power.seq.toList ++ wordsBytes (d.supply.ride.toList.map (·.reg))
    ++ wordsBytes (d.clocks.calib.toList.drop 1)

/-- The factory values of the user quantities. -/
def Dev.calFactory (d : Dev) : Bytes :=
  wordsBytes factoryTable.toList ++ wordsBytes ((List.range 16).map factoryRide)
    ++ wordsBytes (d.otp.calf.toList.drop 1)

/-- Word `i` of a record body. -/
def calWord (b : Bytes) (i : Nat) : Word := bytesWord (slice (4 * i) 4 b)

/-- Whether every stored field meets its rule without clamping. -/
def calBodyOk (b : Bytes) : Bool :=
  (List.range 32).all (fun k => !(seqMerge (vget factoryTable k 0) (calWord b k)).2)
    && (List.range 16).all (fun i => !(rideMerge 0 (calWord b (32 + i))).2)
    && (List.range 5).all (fun i => calibMerge (i + 1) 0 (calWord b (48 + i)) == (calWord b (48 + i), false))

/-- Whether bytes are a user calibration record. -/
def calValid (bs : Bytes) : Bool :=
  bs.take 4 == ascii "AYCU" && par8 bs 4 == 1 && par8 bs 5 ≤ 1 && slice 6 2 bs == zeros 2 && crcGood 228 bs
    && calBodyOk (slice 16 212 bs)

/-- The two copies. -/
def calCopies : TwoCopies :=
  { a := 0xB000, b := 0xC000, sectors := 1, len := 232, valid := calValid, seqAt := 8, eraseAt := some 12 }

/-- A record. -/
def calRecord (void : Bool) (body : Bytes) (seq erases : Nat) : Bytes :=
  let b := ascii "AYCU" ++ [1, BitVec.ofNat 8 (flag void), 0, 0] ++ natBE 4 seq ++ natBE 4 erases ++ body
  b ++ crcCheck b

/-- The body of the user record, when one exists. -/
def Dev.calUser (d : Dev) : Option Bytes :=
  match d.copyNow calCopies with
  | some bs => if par8 bs 5 = 0 then some (slice 16 212 bs) else none
  | none => none

/-- CALSTAT: USER and USERBAD as kept, DIRTY against the record in force. -/
def Dev.calStat (d : Dev) : Word :=
  putBit d.clocks.calStat 30 (d.lc.shown && d.calBody != d.clocks.calRec)

/-- A record body become the record in force. -/
def inForce (b : Bytes) (d : Dev) : Dev := modClk (fun c => { c with calRec := b }) d

/-- A record body made active and in force: every ride-through entry returns to IDLE. -/
def loadCal (b : Bytes) (d : Dev) : Dev :=
  let d := modPow (fun p => { p with seq := Vector.ofFn (fun i => calWord b i.val) }) d
  let d := modSup (fun s => { s with ride := Vector.ofFn (fun i => ⟨calWord b (32 + i.val), .idle, 0⟩) }) d
  recalcLevel (modClk (fun c => { c with calRec := b, calib := Vector.ofFn (fun i =>
    if i.val = 0 then vget c.calib 0 0 else calWord b (47 + i.val)) }) d)

/-- Whether an invalid copy is newer than the valid one, or is all there is (R428). -/
def Dev.calBad (d : Dev) : Bool :=
  let one (a : Nat) := d.copyBytes calCopies a
  let magic (a : Nat) := (one a).take 4 == ascii "AYCU"
  let seq (a : Nat) := beNat (slice 8 4 (one a))
  match d.copySeq calCopies 0xB000, d.copySeq calCopies 0xC000 with
  | some _, some _ => false
  | some q, none => magic 0xC000 && q < seq 0xC000
  | none, some q => magic 0xB000 && q < seq 0xB000
  | none, none => d.flashUp && (magic 0xB000 || magic 0xC000)

/-- The ROM's loading of the calibration (R428). -/
def loadCalibration (d : Dev) : Dev :=
  let d := modClk (fun c => { c with calib := d.otp.calf }) d
  let d := loadCal (d.calUser.getD d.calFactory) d
  let st := at_ (flag d.calUser.isSome) 31 ||| at_ (flag d.calBad) 29
  modClk (fun c => { c with calStat := st }) d

/-! ### The core clock (18 R418) -/

/-- CORECLK in MHz. -/
def Dev.freq (d : Dev) : Nat :=
  let f := fld d.clocks.clkCfg 1 0
  let base := if f = 1 then 300 else if f = 2 then 200 else 400
  if 1 ≤ d.supply.level then (if fld d.supply.supCfg 1 0 = 1 then base / 2 else base / 4) else base

/-- CLKSTAT. -/
def Dev.clkStatReg (d : Dev) : Word := at_ d.freq 16 ||| (d.clocks.clkStat &&& 3)

/-- A write of CLKCFG. -/
def writeFsel (w : Word) (d : Dev) : Dev :=
  let bad := fld w 1 0 = 3
  noteIf .A bad (if bad then d else modClk (fun c => { c with clkCfg := w &&& 3 }) d)

/-- FSEL_WRITE. -/
def execFselWrite (p : Port) (w : Word) (s : State) : Out := onA p (writeFsel w) s

/-- A temperature conversion in RUN: `deg` is the reading in 0.1 °C after the factory gain, which no
register shows; TOFF is added (18 R423). -/
def tempSample (deg : BitVec 16) (d : Dev) : Dev :=
  if !(d.power.st == .run) then d
  else modClk (fun c => { c with
    temp := (deg + (vget c.calib 4 0).setWidth 16).setWidth 32 }) d

/-- TEMP_SAMPLE. -/
def execTempSample (deg : BitVec 16) (s : State) : Out := onDev (tempSample deg) s

end Sys2Proof.Machine
end

