-- ==== Sys2Proof/Machine/Mgmt.lean ====
section
/-!
DEFINITION. The management commands: ENDORSE, CONFIRM, RESTORE_FACTORY, CALSAVE, HOSTIMG_STAGE,
HOSTIMG_ACTIVATE, CHECKPOINT, their ends and what an abandoned one leaves (14_boot_and_updates.md
R331–R339, R344, R349; 18_clocks_and_calibration.md R429, R430).
-/

namespace Sys2Proof.Machine

/-- The boot state changed. -/
def modBoot (f : Boot → Boot) (d : Dev) : Dev := { d with boot := f d.boot }

/-- MGMT_RES.BUSY. -/
def Dev.mgmtBusy (d : Dev) : Bool := bit d.boot.mgmtRes 31

/-- MGMT_RES with a code and a result, BUSY clear. -/
def mgmtDone (cmd res : Nat) (w : Word) : Word :=
  putFld (putFld (clrBit w 31) (at_ cmd 16) 23 16) (at_ res 8) 15 8

/-- A command ends with a result (R332). -/
def mgmtEnds (cmd res : Nat) (d : Dev) : Dev :=
  modBoot (fun b => { b with mgmtRes := mgmtDone cmd res b.mgmtRes, mgmt := none }) d

/-- A command's commit: in the recovery loader it completes at once with BADSTATE (R328), while another
command or a request runs it is ignored (R331); `take` is what it does and keeps at its commit. -/
def mgmtCommit (cmd : Nat) (take : Dev → MgmtRun → Dev × MgmtRun) (d : Dev) : Dev :=
  if d.mgmtBusy || d.lcBusy then modBoot (fun b => { b with mgmtRes := setBit b.mgmtRes 30 }) d
  else
    let d := modBoot (fun b => { b with mgmtRes := clrBit b.mgmtRes 30 }) d
    if d.boot.boot = 3 then mgmtEnds cmd 2 d
    else
      let r := take d ⟨cmd, d.boot.mgmtArg, [], []⟩
      modBoot (fun b => { b with mgmtRes := setBit b.mgmtRes 31, mgmt := some r.2 }) r.1

/-- ENDORSE at its commit. -/
def endorse : Dev → Dev := mgmtCommit 1 (fun d m => (d, m))

/-- ENDORSE. -/
def execEndorse (s : State) : Out := onWrite .A endorse s

/-- Whether CONFIRM's checks pass. -/
def Dev.confirmable (d : Dev) : Bool := d.boot.boot == 1 && d.ks.ready

/-- The confirm watchdog started for a period in milliseconds; where the start lies between two ticks of the seconds
count is free (log entry 14). -/
def startWatchdog (period : Nat) (d : Dev) : Dev :=
  bump (modBoot (fun b => { b with
    confirmRun := true, confirmRemain := period, confirmLeft := Config.freeNat d.ctr % 1000 + 1 }) d)

/-- CONFIRM at its commit: the watchdog of a trial stops (R337). -/
def confirm : Dev → Dev :=
  mgmtCommit 2 (fun d m =>
    (if d.confirmable then modBoot (fun b => { b with confirmRun := false, confirmRemain := 0 }) d else d, m))

/-- CONFIRM. -/
def execConfirm (s : State) : Out := onWrite .A confirm s

/-- RESTORE_FACTORY at its commit. -/
def restoreFactory : Dev → Dev := mgmtCommit 4 (fun d m => (d, { m with snap := d.calBody }))

/-- RESTORE_FACTORY. -/
def execRestoreFactory (s : State) : Out := onWrite .A restoreFactory s

/-- CALSAVE at its commit: the active values are taken. -/
def calsave : Dev → Dev := mgmtCommit 5 (fun d m => (d, { m with snap := d.calBody }))

/-- CALSAVE. -/
def execCalsave (s : State) : Out := onWrite .A calsave s

/-- HOSTIMG_STAGE at its commit. -/
def hostimgStage : Dev → Dev := mgmtCommit 6 (fun d m => (d, m))

/-- HOSTIMG_STAGE. -/
def execHostimgStage (s : State) : Out := onWrite .A hostimgStage s

/-- HOSTIMG_ACTIVATE at its commit: the gate stops. -/
def hostimgActivate : Dev → Dev := mgmtCommit 7 (fun d m => (gateStop d, m))

/-- HOSTIMG_ACTIVATE. -/
def execHostimgActivate (s : State) : Out := onWrite .A hostimgActivate s

/-- The persistent slots of a list in ascending order. -/
def sortSlots (l : List Nat) : List Nat := (List.range 256).filter l.contains

/-- CHECKPOINT at its commit: the set of slots is taken (R334). -/
def checkpoint : Dev → Dev :=
  mgmtCommit 9 (fun d m => (d, { m with slots := sortSlots (d.needsClean.map (·.slot)) }))

/-- CHECKPOINT. -/
def execCheckpoint (s : State) : Out := onWrite .A checkpoint s

/-! ### ENDORSE (R335) -/

/-- The confirm period an argument gives, none where it is out of range. -/
def endorsePeriod (w : Word) : Option Nat :=
  if w.toNat = 0 then some 2000
  else if hi16 w = 0 && 250 ≤ lo16 w && lo16 w ≤ 60000 then some (lo16 w)
  else none

/-- The slot that is not ACTIVE. -/
def Dev.otherSlot (d : Dev) : Nat := 1 - d.bootRec.active

/-- The first check of ENDORSE that fails. -/
def endorseBad (m : MgmtRun) (d : Dev) : Option Nat :=
  let k := d.otherSlot
  if d.boot.boot != 2 || d.bootRec.trial != 0 || 3 ≤ d.otp.lcCode then some 2
  else if !d.ks.ready then some 3
  else if (endorsePeriod m.arg[0]).isNone then some 6
  else if !d.slotValid k then some 4
  else if imgVer (d.imgHeader k) ≤ d.boot.progVer.toNat then some 5
  else none

/-- The header with its CANDIDATE entries replaced by one of the other slot's program. -/
def addCandidate (e : ProgEntry) (h : Header) : Header :=
  { h with entries := (h.entries.filter (fun x => x.st == 1)).take 3 ++ [e] }

/-- The header of ENDORSE written. -/
def endorseHeader (vs : List Bool) (d : Dev) : Bool × Dev × List Bool :=
  let k := d.otherSlot
  writeHeader (addCandidate (d.mkEntry (sha384 (d.slotImage k)) (imgVer (d.imgHeader k)) 2)) vs d

/-- The boot record of ENDORSE written. -/
def endorseArm (m : MgmtRun) (vs : List Bool) (d : Dev) : Bool × Dev × List Bool :=
  writeBootRec { d.bootRec with trial := 1, period := (endorsePeriod m.arg[0]).getD 2000 } vs d

/-- A journal entry of source 0x07 for a program. -/
def noteMgmt (sub : Nat) (meas : Bytes) (ver : Nat) (d : Dev) : Dev :=
  queueEntry (d.entry 7 sub ver 0 (bytesWord (meas.take 4))) d

/-- ENDORSE ends. -/
def endorseEnds (m : MgmtRun) (vs : List Bool) (d : Dev) : Dev :=
  match endorseBad m d with
  | some r => mgmtEnds 1 r d
  | none =>
    let k := d.otherSlot
    let h := endorseHeader vs d
    if !h.1 then mgmtEnds 1 8 h.2.1
    else
      let b := endorseArm m h.2.2 h.2.1
      if !b.1 then mgmtEnds 1 8 b.2.1
      else mgmtEnds 1 1 (noteMgmt 0 (sha384 (d.slotImage k)) (imgVer (d.imgHeader k)) b.2.1)

/-! ### CONFIRM (R337) -/

/-- The header with the running program's entry CONFIRMED and alone, its RATCHET raised. -/
def confirmHeader (vs : List Bool) (d : Dev) : Bool × Dev × List Bool :=
  let r := d.otp.row.ratchet
  writeHeader (fun h => { h with
    ratchet := if r < 64 then r + 1 else h.ratchet
    entries := [d.mkEntry d.boot.progMeas d.boot.progVer.toNat 1] }) vs d

/-- One RATCHET bit burnt where fewer than 64 are. -/
def burnRatchet (burns : List Bool) (d : Dev) : Dev × List Bool :=
  if 64 ≤ d.otp.row.ratchet then (d, burns)
  else
    let b := burnBit burns
    (if b.1 then modRow (fun r => { r with ratchet := r.ratchet + 1 }) d else noteOtpErr d, b.2)

/-- The boot record of a confirmation written: ACTIVE is the trial slot. -/
def confirmRecord (vs : List Bool) (d : Dev) : Bool × Dev × List Bool :=
  writeBootRec { d.bootRec with active := d.otherSlot, trial := 0 } vs d

/-- CONFIRM ends. Whether a boot record that fails its verify still lets step 4 follow is not stated: a
free choice (log entry 15). -/
def confirmEnds (vs burns : List Bool) (d : Dev) : Dev :=
  if d.boot.boot != 1 then mgmtEnds 2 2 d
  else if !d.ks.ready then mgmtEnds 2 3 d
  else
    let full := 64 ≤ d.otp.row.ratchet
    let h := confirmHeader vs d
    if !h.1 then
      mgmtEnds 2 8 (startWatchdog d.bootRec.period h.2.1)
    else
      let r := confirmRecord h.2.2 (burnRatchet burns h.2.1).1
      if !r.1 && Config.freeNat d.ctr % 2 = 0 then mgmtEnds 2 8 (bump r.2.1)
      else
        let d := modBoot (fun b => { b with boot := 2 }) (if r.1 then r.2.1 else bump r.2.1)
        mgmtEnds 2 (if full then 0xB else 1) (noteMgmt 1 d.boot.progMeas d.boot.progVer.toNat d)

/-! ### Calibration (18 R429, R430) -/

/-- RESTORE_FACTORY ends. -/
def restoreEnds (m : MgmtRun) (vs : List Bool) (d : Dev) : Dev :=
  let o := d.outcome vs
  let d := writeCopy calCopies (calRecord true m.snap) o.1 d
  if !o.1 then mgmtEnds 4 8 d
  else mgmtEnds 4 1 (modClk (fun c => { c with calStat := clrBit c.calStat 31 }) (loadCal d.calFactory d))

/-- CALSAVE ends. -/
def calsaveEnds (m : MgmtRun) (vs : List Bool) (d : Dev) : Dev :=
  let o := d.outcome vs
  let d := writeCopy calCopies (calRecord false m.snap) o.1 d
  if !o.1 then mgmtEnds 5 8 d
  else mgmtEnds 5 1 (modClk (fun c => { c with calStat := setBit c.calStat 31 }) (inForce m.snap d))

/-! ### HOSTIMG_STAGE (R333) -/

/-- TARGET, channel, handle, offset and length of a staging. -/
structure StageArgs where
  target : Nat
  n : Chn
  handle : Nat
  off : Nat
  len : Nat
  deriving DecidableEq, Repr

/-- The arguments read. -/
def MgmtRun.stage (m : MgmtRun) : StageArgs :=
  { target := fld m.arg[0] 31 28, n := BitVec.toFin ((m.arg[0] >>> 16).setWidth 4), handle := lo16 m.arg[0]
    off := m.arg[1].toNat, len := m.arg[2].toNat }

/-- The flash address and size of the slot a staging writes. -/
def Dev.stageSlot (d : Dev) (target : Nat) : Nat × Nat :=
  if target = 1 then (progBase d.otherSlot, 0x40000)
  else (d.hostBase (1 - d.bootRec.hostAct), d.hostSize)

/-- Whether a handle names a live buffer of a channel of at least a length. -/
def Dev.stageBuf (d : Dev) (a : StageArgs) : Bool :=
  match d.pool.buf (a.handle % 4096) with
  | some b => a.handle < 0xFFFC && b.st == .live && b.owner == a.n
      && a.handle / 4096 == d.pool.gen (a.handle % 4096) && a.len ≤ b.count * 512
  | none => false

/-- The first check of HOSTIMG_STAGE that fails. -/
def stageBad (m : MgmtRun) (d : Dev) : Option Nat :=
  let a := m.stage
  if d.otp.lcCode = 0xF || d.boot.boot = 3 then some 2
  else if !(a.target == 1 || a.target == 2) || fld m.arg[0] 27 20 != 0 || a.off % 4096 != 0
      || a.len % 4096 != 0 || a.len < 4096 || 32768 < a.len || (d.stageSlot a.target).2 < a.off + a.len then some 6
  else if a.target = 1 && d.bootRec.trial != 0 then some 0xC
  else if d.bound a.n != .A || (d.chan a.n).state != .opened || !d.stageBuf a then some 7
  else none

/-- Sectors erased and programmed from a byte string, in order; true when every one verified. -/
def stageSectors (addr : Nat) (bs : Bytes) : Nat → List Bool → Dev → Bool × Dev
  | 0, _, d => (true, d)
  | k + 1, vs, d =>
    let o := d.outcome vs
    let d := flashProgram addr (bs.take 4096) o.1 (flashErase addr 1 d)
    if o.1 then stageSectors (addr + 4096) (bs.drop 4096) k o.2 d else (false, d)

/-- HOSTIMG_STAGE ends. -/
def stageEnds (m : MgmtRun) (vs : List Bool) (d : Dev) : Dev :=
  match stageBad m d with
  | some r => mgmtEnds 6 r d
  | none =>
    let a := m.stage
    let r := stageSectors ((d.stageSlot a.target).1 + a.off) (d.readBuf a.handle 0 a.len) (a.len / 4096) vs d
    mgmtEnds 6 (if r.1 then 1 else 8) r.2

/-! ### HOSTIMG_ACTIVATE (R344) -/

/-- The first page of a slot whose digest does not match its table. -/
def Dev.badPage (d : Dev) (k : Nat) (t : HostTable) : Option Nat :=
  (List.range t.npages).find? (fun p => sha256 (d.hostPage k t.tpages p) != t.digests.getD p [])

/-- HOSTIMG_ACTIVATE ends; the gate starts again in any case. -/
def activateEnds (vs : List Bool) (d : Dev) : Dev :=
  let act := d.bootRec.hostAct
  if d.otp.lcCode = 0xF || d.boot.boot = 3 then mgmtEnds 7 2 d
  else
    match d.hostTable (1 - act) with
    | none => mgmtEnds 7 9 (gateStart d)
    | some t =>
      let older : Bool := match d.hostTable act with
        | some u => t.ver < u.ver
        | none => false
      if older then mgmtEnds 7 5 (gateStart d)
      else
        match d.badPage (1 - act) t with
        | some p => mgmtEnds 7 0xA (gateStart (modGate (fun g => { g with info := putFld g.info (at_ p 0) 11 0 }) d))
        | none =>
          let r := writeBootRec { d.bootRec with hostAct := 1 - act } vs d
          mgmtEnds 7 (if r.1 then 1 else 8) (gateStart (showSlot r.2.1))

/-! ### CHECKPOINT (R334) -/

/-- Clean records of some slots written in order, stopping at the first that fails three times. -/
def cleanInOrder : List Nat → List Bool → Dev → Bool × Dev × List Bool
  | [], vs, d => (true, d, vs)
  | s :: ss, vs, d =>
    match d.ks.slot s with
    | none => cleanInOrder ss vs d
    | some x =>
      if x.st != .live then cleanInOrder ss vs d
      else
        let r := logAppend s x.ctr 1 3 vs d
        if r.1 then cleanInOrder ss r.2.2 r.2.1 else (false, noteG 3 5 r.2.1, r.2.2)

/-- CHECKPOINT ends: the records, then the journal queue. -/
def checkpointEnds (m : MgmtRun) (vs : List Bool) (d : Dev) : Dev :=
  if d.otp.lcCode = 3 || d.otp.lcCode = 0xF || d.boot.boot = 3 then mgmtEnds 9 2 d
  else if !d.ks.ready then mgmtEnds 9 3 d
  else
    let r := cleanInOrder m.slots vs d
    if !r.1 then mgmtEnds 9 8 r.2.1
    else mgmtEnds 9 1 (writeQueue r.2.1.journal.queue.length r.2.2 r.2.1).1

/-! ### Ends -/

/-- The running command ends, once its flash operations may run (17 R403). -/
def mgmtCmdEnds (vs burns : List Bool) (d : Dev) : Dev :=
  if !d.flashFree then d
  else
    match d.boot.mgmt with
    | none => d
    | some m =>
      match m.cmd with
      | 1 => endorseEnds m vs d
      | 2 => confirmEnds vs burns d
      | 4 => restoreEnds m vs d
      | 5 => calsaveEnds m vs d
      | 6 => stageEnds m vs d
      | 7 => activateEnds vs d
      | _ => checkpointEnds m vs d

/-- MGMT_CMD_DONE. -/
def execMgmtCmdDone (vfy burns : List Bool) (s : State) : Out := onDev (mgmtCmdEnds vfy burns) s

/-! ### Abandoning (R339) -/

/-- What a staging leaves: some sectors verified, the next one torn; how many is free. -/
def stageLeft (m : MgmtRun) (d : Dev) : Dev :=
  if (stageBad m d).isSome then d
  else
    let a := m.stage
    let k := a.len / 4096
    let j := Config.freeNat d.ctr % (k + 1)
    (stageSectors ((d.stageSlot a.target).1 + a.off) (d.readBuf a.handle 0 a.len) (min k (j + 1))
      (List.replicate j true ++ [false]) (bump d)).2

/-- What an endorsement leaves: nothing, the header, or all of it; which is free. -/
def endorseLeft (m : MgmtRun) (d : Dev) : Dev :=
  if (endorseBad m d).isSome then d
  else
    let j := Config.freeNat d.ctr % 3
    let d := bump d
    if j = 0 then d
    else
      let h := (endorseHeader [] d).2.1
      if j = 1 then h else (endorseArm m [] h).2.1

/-- What a confirmation leaves: nothing, or its steps up to one of them; which is free. -/
def confirmLeft (d : Dev) : Dev :=
  if !d.confirmable then d
  else
    let j := Config.freeNat d.ctr % 4
    let d := bump d
    if j = 0 then d
    else
      let h := (confirmHeader [] d).2.1
      if j = 1 then h
      else
        let b := (burnRatchet [] h).1
        if j = 2 then b else (confirmRecord [] b).2.1

/-- What an activation leaves: the old slot active, or complete; which is free. -/
def activateLeft (d : Dev) : Dev :=
  let act := d.bootRec.hostAct
  match d.hostTable (1 - act) with
  | none => d
  | some t =>
    let older : Bool := match d.hostTable act with
      | some u => t.ver < u.ver
      | none => false
    if older || (d.badPage (1 - act) t).isSome then d
    else if Config.freeNat d.ctr % 2 = 0 then bump d
    else (writeBootRec { d.bootRec with hostAct := 1 - act } [] (bump d)).2.1

/-- What a save of the calibration leaves: the old record, or the new one; which is free. -/
def calsaveLeft (m : MgmtRun) (d : Dev) : Dev :=
  if Config.freeNat d.ctr % 2 = 0 then bump d
  else writeCopy calCopies (calRecord false m.snap) d.flashUp (bump d)

/-- What a checkpoint leaves: the records of its first slots; how many is free. -/
def checkpointLeft (m : MgmtRun) (d : Dev) : Dev :=
  if !d.ks.ready then d
  else (cleanInOrder (m.slots.take (Config.freeNat d.ctr % (m.slots.length + 1))) [] (bump d)).2.1

/-- What a running management command leaves when it is abandoned. -/
def mgmtLeft (d : Dev) : Dev :=
  match d.boot.mgmt with
  | none => d
  | some m =>
    match m.cmd with
    | 1 => endorseLeft m d
    | 2 => confirmLeft d
    | 5 => calsaveLeft m d
    | 6 => stageLeft m d
    | 7 => activateLeft d
    | 9 => checkpointLeft m d
    | _ => d

end Sys2Proof.Machine
end

