-- ==== Sys2Proof/Machine/Reset.lean ====
section
/-!
DEFINITION. The resets that run the ROM: POR, PIN, SOFT, and what each keeps; the confirm watchdog; the
transition of the life-cycle state, which ends in a SOFT reset (00_scope.md R15–R17; 02 R38; 13 R313;
12 R298; 14 R330, R336, R339).
-/

namespace Sys2Proof.Machine

/-! ### What a reset keeps (R15, R16) -/

/-- The trouble registers a PIN or SOFT reset leaves: sticky registers, an ENTRUN of 3; SOFT keeps the
masks. -/
def Trouble.afterReset (soft : Bool) (t : Trouble) : Trouble :=
  { Trouble.fresh with
    g0 := t.g0, g1 := t.g1, g2 := t.g2, g3 := t.g3
    maskA := if soft then t.maskA else Trouble.fresh.maskA
    maskB := if soft then t.maskB else Trouble.fresh.maskB
    entRun := if t.entRun = 3 then 3 else 0, stamps := t.stamps }

/-- The journal a PIN or SOFT reset leaves: the queue and the seconds count. -/
def Journal.afterReset (j : Journal) : Journal :=
  { Journal.fresh with queue := j.queue, seconds := j.seconds, restored := j.restored }

/-- The life-cycle state a PIN or SOFT reset leaves: SOFT keeps LCREQ, BUSY clear, and TAMPERSTAT. -/
def LifeCycle.afterReset (soft : Bool) (l : LifeCycle) : LifeCycle :=
  if soft then
    { LifeCycle.fresh with
      lcreq := clrBit l.lcreq 31, tamperBlock := l.tamperBlock, tamperOpen := l.tamperOpen }
  else LifeCycle.fresh

/-- The supply state a PIN or SOFT reset leaves: the mailbox and GSTAT.LASTGASP. -/
def Supply.afterReset (s : Supply) : Supply :=
  { Supply.fresh with mailbox := s.mailbox, sealed := s.sealed }

/-- A channel after a PIN or SOFT reset: CH_STICKY is kept. -/
def Chan.afterReset (c : Chan) : Chan := { Chan.fresh with sticky := c.sticky }

/-- The core after a PIN or SOFT reset, before the ROM runs. -/
def Dev.afterReset (soft : Bool) (d : Dev) : Dev :=
  let f := Dev.fresh d.otp d.flash
  { f with
    pins := d.pins, lc := d.lc.afterReset soft, trouble := d.trouble.afterReset soft
    journal := d.journal.afterReset, chans := d.chans.map Chan.afterReset
    power := { f.power with wakeStat := d.power.wakeStat }, supply := d.supply.afterReset
    clocks := { f.clocks with temp := d.clocks.temp }, rst := if soft then .soft else .pin, ctr := d.ctr }

/-- A level of 4 or more ends without a POR: GSTICKY1.LASTGASP (17 R413). -/
def noteGaspEnd (d : Dev) : Dev := if d.supply.fired && 4 ≤ d.supply.level then noteG 1 9 d else d

/-- A PIN reset. -/
def pinReset (d : Dev) : Dev := (noteGaspEnd (mgmtLeft d)).afterReset false

/-- A SOFT reset. -/
def softReset (d : Dev) : Dev := (noteGaspEnd (mgmtLeft d)).afterReset true

/-- A POR. -/
def powerOn (d : Dev) : Dev :=
  let d := mgmtLeft d
  { Dev.fresh d.otp d.flash with pins := d.pins, rst := .por, ctr := d.ctr }

/-- VIN crosses its threshold: up, it falls below VBOR, which holds the power-on reset until it rises through VPOR; down,
it rises (19 R434, log entry 52). -/
def vinMoves (d : Dev) : Dev :=
  let up := !d.pins.vin
  let d := powerOn d
  { d with pins := { d.pins with vin := up } }

/-- POR. -/
def execPor (s : State) : Out := .next (s.through vinMoves)

/-- A bank supply falls below VBDET (none), or rises above it and reads `mv` millivolts 100 µs later, when
its class is decided until it falls again (19 R434). -/
def bankLevel (mv : Option Nat) (old : Option VClass) : Option VClass :=
  match mv, old with
  | none, _ => none
  | some _, some c => some c
  | some v, none => some (if v < 2400 then .v18 else .v33)

/-- The number of a bank. -/
def bankIx : Bank3 → Nat
  | .A => 0
  | .B => 1
  | .F => 2

/-- A bank supply crosses VBDET: a lost bank A or F asserts the power-on reset. -/
def bankMoves (b : Bank3) (mv : Option Nat) (d : Dev) : Dev :=
  let d := { d with pins := { d.pins with bank := vmod d.pins.bank (bankIx b) (bankLevel mv) } }
  if mv.isNone && b != .B then powerOn d else d

/-- VDDIO_DETECTION. -/
def execVddioDetection (b : Bank3) (mv : Option Nat) (s : State) : Out := .next (s.through (bankMoves b mv))

/-- PIN_RESET: RESET# held low for a number of nanoseconds (02 R38, 19 Table 19.3). -/
def execPinReset (lowNs : Nat) (s : State) : Out :=
  onDev (fun d =>
    if lowNs ≤ 100 then d
    else if 1000 ≤ lowNs then pinReset d
    else if Config.midPulse d.ctr then pinReset (bump d)
    else bump d) s

/-- SOFT_RESET: it acts whatever MGMT_RES.BUSY reads (14 R331). -/
def execSoftReset (s : State) : Out := onWrite .A softReset s

/-- WAKESTAT after the given sources fired together: their bits, and LAST, one above the lowest
(16 R385, R392). -/
def noteWake (srcs : List Nat) (d : Dev) : Dev :=
  match srcs with
  | [] => d
  | b :: bs => modPow (fun p => { p with
      wakeStat := putFld (srcs.foldl setBit p.wakeStat) (at_ (bs.foldl min b + 1) 16) 19 16 }) d

/-- The confirm watchdog of a trial has reached 0 (14 R336): from STOP it is a wake (16 Table 16.6). -/
def confirmExpiry (d : Dev) : Dev :=
  if !d.boot.confirmRun then d
  else
    let asleep := d.power.st != .run
    let d := softReset d
    if asleep then noteWake [7] d else d

/-- The ticks of the seconds count before the running watchdog reaches 0. -/
def Boot.ticksLeft (b : Boot) : Nat := ceilDiv (b.confirmRemain - b.confirmLeft) 1000

/-- The time up to the expiry passes: the seconds count advances over it (log entry 14). -/
def confirmElapses (d : Dev) : Dev :=
  if d.boot.confirmRun then modJ (fun j => { j with seconds := j.seconds + BitVec.ofNat 32 d.boot.ticksLeft }) d else d

/-- CONFIRM_WATCHDOG_EXPIRY. -/
def execConfirmWatchdogExpiry (s : State) : Out := onDev (fun d => confirmExpiry (confirmElapses d)) s

/-- A tick of the seconds count (04 R100), 1,000 ms of the watchdog of a trial, which expires with it when no more
are left (14 R336). -/
def secondsTick (d : Dev) : Dev :=
  let d := modJ (fun j => { j with seconds := j.seconds + 1 }) d
  if !d.boot.confirmRun then d
  else if d.boot.confirmRemain ≤ d.boot.confirmLeft then confirmExpiry d
  else modBoot (fun b => { b with confirmRemain := b.confirmRemain - b.confirmLeft, confirmLeft := 1000 }) d

/-- SECONDS_TICK. -/
def execSecondsTick (s : State) : Out := onDev secondsTick s

/-- REMAIN (14 R347): how far the present moment lies from the last known one is free (log entry 14). -/
def Boot.remain (b : Boot) (free : Nat) : Nat := b.confirmRemain - free % min b.confirmLeft (b.confirmRemain + 1)

/-! ### A life-cycle transition (13 R313, 12 R298) -/

/-- The RETURN list of the current header: measurement and version of each CONFIRMED entry (14 R330). -/
def Dev.returnList (d : Dev) : Bytes :=
  match d.headerNow with
  | none => zeros 208
  | some h => padTo 208 (h.entries.flatMap (fun e =>
      if e.st = 1 then padTo 48 e.meas ++ natBE 4 e.ver else zeros 52))

/-- The END fuse, or the next unused epoch row, burnt. -/
def burnTransition (target : Nat) (owner : Bytes) (d : Dev) : Dev :=
  if target = 0xF then { d with otp := { d.otp with endFuse := true } }
  else { d with otp := { d.otp with
    rows := d.otp.rows.set d.otp.nextRow { EpochRow.blank with used := true, lc := target, ownerHash := owner } } }

/-- EPOCHLOW and the replace cause EPOCH while one row or none is left (13 R309). -/
def judgeEpoch (d : Dev) : Dev := if d.otp.left ≤ 1 then raiseWhy 2 0 (noteG 3 7 d) else d

/-- What a change of epoch empties (12 R298, step 2): the volatile keys, the cache, the presignatures, and the store,
which is ready no more. -/
def emptyStore (d : Dev) : Dev :=
  modKs (fun k => { k with ready := false, unlocking := false, kek := [], per := [], recs := [], ckpts := [] })
    (emptyKeys d)

/-- Steps 1 and 2 of R298 (R313, step 2): the burn, then what it empties; the RETURN list of the boot record; LCSTATE
takes the target, TRANSIT is set. -/
def transitionBurn (target : Nat) (owner : Bytes) (vfy : List Bool) (d : Dev) : Dev × List Bool :=
  let ret := if target = 3 then d.returnList else zeros 208
  let d := emptyStore (burnTransition target owner d)
  let d := modLc (fun l => { l with lcstate := target, transit := true }) d
  (writeBootRec { d.bootRec with ret := ret } vfy d).2

/-- Step 3 of R298 and the end of the transition (R313, steps 3 and 4): the erase, the journal entry, DONE, the
reset. -/
def transitionEnds (target : Nat) (d : Dev) : Dev :=
  let d := eraseArea d
  let d := judgeEpoch (queueEntry (d.entry 6 target d.otp.rowIdx 0 0) d)
  softReset (zeroToken (modLc (fun l => { l with
    lcreq := lcResult 1 l.lcreq, checking := false, accepted := none }) d))

/-- An accepted transition goes on: to the end of its burn, or with `whole` to its end; what the command does not
reach is finished by a later one, or after a reset by the ROM (R313, 12 R298). -/
def transitionDone (whole : Bool) (vfy burns : List Bool) (d : Dev) : Dev :=
  match d.lc.accepted with
  | none => d
  | some (target, owner) =>
    if !d.flashFree then d
    else if d.lc.transit then (if whole then transitionEnds target d else d)
    else if !(burnBit burns).1 then lcReject 8 (noteOtpErr d)
    else
      let r := transitionBurn target owner vfy d
      if whole then transitionEnds target r.1 else r.1

/-- LC_TRANSITION_DONE. -/
def execLcTransitionDone (env : TransEnv) (burns : List Bool) (s : State) : Out :=
  onDev (transitionDone env.whole env.vfy burns) s

end Sys2Proof.Machine
end

