-- ==== Sys2Proof/Machine/Power.lean ====
section
/-!
DEFINITION. Power domains: targets, sequences, ready timeouts, the control registers; STOP entry, wake
and exit (16_power_domains_and_states.md R369–R394; 07 R169–R172; 08 R184, R193; 10 R250).
-/

namespace Sys2Proof.Machine

/-! ### The domain map (Table 16.1) -/

/-- A domain with its phase. -/
def Dev.dom (d : Dev) (x : Nat) : Dom := vget d.power.doms x ⟨.off, false, false⟩

/-- A domain changed. -/
def modDom (x : Nat) (f : Dom → Dom) (d : Dev) : Dev :=
  modPow (fun p => { p with doms := vmod p.doms x f }) d

/-- The channel a memory domain belongs to. -/
def domChan (x : Nat) : Option Chn := allChns.find? (fun n => (chanDoms n.val).contains x)

/-- Whether a class of domains has a PDREQ bit. -/
def reqBit (x : Nat) : Bool := (12 ≤ x && x ≤ 43) || (60 ≤ x && x ≤ 91)

/-- Whether a domain has a PDDENY bit. -/
def denyBit (x : Nat) : Bool := x == 1 || x == 2 || x == 4 || (12 ≤ x && x ≤ 27) || (60 ≤ x && x ≤ 91)

/-- Whether a domain has a writable PDKEEP bit. -/
def keepBit (x : Nat) : Bool :=
  (1 ≤ x && x ≤ 4) || (28 ≤ x && x ≤ 43 && 2 ≤ (x - 28) % 4) || (44 ≤ x && x ≤ 139)

/-- The word `k` of a set of domains. -/
def domWord (p : Nat → Bool) (k : Nat) : Word :=
  ((List.range 32).filter (fun j => 32 * k + j < 140 && p (32 * k + j))).foldl setBit 0

/-- Whether a cell of user-area bank `b` of core `c`, b = 2 or 3, is written. -/
def Dev.cellWritten (d : Dev) (c b : Nat) : Bool :=
  (vget d.cores c ⟨none, [], false⟩).slots.any (fun s =>
    if b = 2 then s.first < 256 else 256 < s.first + s.len)

/-- Whether a running job of core `c` touches cells of user-area bank `b`, b = 2 or 3. -/
def Dev.cellTouched (d : Dev) (c b : Nat) : Bool :=
  allChns.any (fun n => (d.chan n).sents.any (fun s => s.job.any (fun j => j.phase == .run && j.touched.any (fun t =>
    t.1 == c && (if b = 2 then decide (t.2.1 < 256) else decide (256 < t.2.1 + t.2.2))))))

/-- Whether a granule of a pool bank is not FREE and clean, or is selected by an allocation. -/
def Dev.bankUsed (d : Dev) (b : Nat) : Bool :=
  d.pool.dirty.any (fun g => g / 128 == b) || d.taken.any (fun r => r.1 / 128 == b)

/-- Whether a channel's memory is in use: OPEN, DRAINING or RESETTING, or being initialized. -/
def Dev.chanUsed (d : Dev) (n : Chn) : Bool :=
  let c := d.chan n
  c.initRuns || c.state.active || c.state == .resetting

/-- Whether a dispatch that has been selected waits for a domain (08 R184). -/
def Dev.awaited (d : Dev) (x : Nat) : Bool := d.sels.any (fun s => s.doms.contains x)

/-- Whether a domain is in use in RUN (R371, rule 1): selected work, running work, content. -/
def Dev.inUse (d : Dev) (x : Nat) : Bool :=
  if x = 0 || (5 ≤ x && x ≤ 11) || d.awaited x then true
  else if x < 12 then false
  else if x < 28 then
    d.engBusy (engId (x - 12)) || (vget d.engines (x - 12) ⟨.inn, 0, 0, none⟩).svc == .test
  else if x < 44 then
    let c := (x - 28) / 4
    let b := (x - 28) % 4
    if b < 2 then (vget d.cores c ⟨none, [], false⟩).jobArea else d.cellWritten c b || d.cellTouched c b
  else if 60 ≤ x && x < 92 then d.bankUsed (x - 60)
  else
    match domChan x with
    | some n => d.chanUsed n
    | none => false

/-- Whether an interface domain is demanded: always in RUN, D4 from the ROM's handover on. -/
def Dev.ifDemand (d : Dev) (x : Nat) : Bool := x == 1 || x == 2 || x == 3 || (x == 4 && d.lc.shown)

/-! ### The keep set and the end of the work at STOP entry (R381, R382) -/

/-- Whether a channel is kept by a list of kept domains (R382). -/
def Dev.keeps (d : Dev) (ks : List Nat) (n : Chn) : Bool :=
  (d.chan n).state.active && (chanDoms n.val).all ks.contains

/-- Whether D1 is added to the keep set: a ride-through STOP while GSTAT.LASTGASP is 1 (17 R405). -/
def Dev.mailboxKept (d : Dev) : Bool := d.power.supplyStop && d.supply.sealed

/-- Whether a domain stays on in STOP (R382). -/
def Dev.stays (d : Dev) (x : Nat) : Bool :=
  let ks := d.power.latched
  x == 0 || x == 5 || x == 8 || ks.contains x || (x == 1 && d.mailboxKept) || (x == 9 && d.power.latchedKeys)
    || (x == 6 && allChns.any (d.keeps ks)) || (60 ≤ x && x < 92 && d.taken.any (fun r => r.1 / 128 == x - 60))
    || (28 ≤ x && x < 44 && 2 ≤ (x - 28) % 4 && d.cellWritten ((x - 28) / 4) ((x - 28) % 4))

/-- Whether the clause of a sentence runs: one that waits for an engine, suspended or between its steps, and a phrase
between its templates, wait for the exit (R381, 08 R182). -/
def Sentence.works (s : Sentence) : Bool :=
  match s.job with
  | none => false
  | some j => j.phase != .susp && !(j.phrase.isSome && j.result.isNone)
      && !((j.step.map (fun t => t.phase == .queued || t.phase == .susp)).getD false)

/-- Whether anything that step 3 waits for still runs, or a domain that stays is in a
sequence. -/
def Dev.entryBusy (d : Dev) : Bool :=
  allChns.any (fun n => (d.chan n).sents.any Sentence.works || ((d.chan n).check.map (·.phase)) == some .run)
    || allEngs.any (fun e => (d.eng e).svc == .test) || d.supply.gasp.isSome
    || (List.range 140).any (fun x => (d.dom x).phase.stepping && d.stays x)

/-- Whether steps 1 to 4 of STOP entry are over: the channels reset, the work ended, the records written. -/
def Dev.wound (d : Dev) : Bool :=
  d.power.st == .entry && !d.entryBusy && allChns.all (fun n => (d.chan n).state != .resetting)
    && (d.power.supplyStop || (d.journal.queue.isEmpty && (!d.ks.ready || d.needsClean.isEmpty)))

/-! ### Targets (R371, R375) -/

/-- The target of a domain in RUN: true for on (R371). A failed one stays off (R375). At STOP entry a bank that
PDKEEP names stays on (07 R169), and once the work is over what the keep set does not hold goes off (R381,
step 5). -/
def Dev.target (d : Dev) (x : Nat) : Bool :=
  if (d.dom x).failed then false
  else if d.wound && !(x = 0 || (5 ≤ x && x ≤ 11)) then d.stays x && (d.dom x).phase == .on
  else if d.inUse x then true
  else if d.power.st == .entry && 60 ≤ x && x < 92 && d.power.latched.contains x && (d.dom x).phase == .on then true
  else if d.denied x then false
  else bit (vget d.power.req (x / 32) 0) (x % 32) || (d.dom x).demand || d.ifDemand x

/-! ### Sequences (R372, R376, R377) -/

/-- What a domain loses when its power switch opens: a pool bank its contents. -/
def powerLost (x : Nat) (d : Dev) : Dev :=
  if 60 ≤ x && x < 92 then
    { d with pool := { d.pool with mem := d.pool.mem.wipe ((x - 60) * 65536) 65536 } }
  else d

/-- The DOM reset of a domain: port B's shell logic in D1 (03 R70), JTAG in D4, the scheduler and the generations in D6
(07 R156), the samples of the entropy source in D7. -/
def domReset (x : Nat) (d : Dev) : Dev :=
  if x = 1 then { d with rst := .shellB }
  else if x = 4 then modLc (fun l => { l with
    jtagIr := 0x1, scan := 0, dbgDone := false, dbgErr := false, dbgData := 0 }) d
  else if x = 6 then
    { d with
      sched := { Sched.fresh with cfg := d.sched.cfg, weights := d.sched.weights }, pool := { d.pool with gens := [] } }
  else if x = 7 then { d with entropy := { d.entropy with bits := [], passed := 0 } }
  else d

/-- The class-2 domains that are off begin to switch on, once the PLL has locked and memory has left retention
(R374). -/
def logicUp (d : Dev) : Dev :=
  modPow (fun p => { p with doms := Vector.ofFn (fun (i : Fin 140) =>
    let x := p.doms[i.val]
    if 5 ≤ i.val && i.val ≤ 10 && x.phase == .off then { x with phase := .up 0 } else x) }) d

/-- What the end of a step of D11's switch-on shows: its four steps stand for the handshake of R374, the regulator,
the HF oscillator, the PLL, memory (DESIGN CHOICE, log entry 40). -/
def handshake (q : DomPhase) (d : Dev) : Dev :=
  if q == .up 2 then modClk (fun c => { c with clkStat := setBit c.clkStat 0 }) d
  else if q == .up 3 then modClk (fun c => { c with clkStat := setBit c.clkStat 1 }) d
  else if q == .on then logicUp d
  else d

/-- What follows when a domain is on: a pool bank is zeroed granule by granule (07 R166), the gate
starts (14 R341), an engine stays on until it has been idle. -/
def domArrives (x : Nat) (d : Dev) : Dev :=
  if 60 ≤ x && x < 92 then
    let b := x - 60
    let gs := (List.range 128).map (fun i => 128 * b + i)
    { d with pool := { d.pool with dirty := gs ++ d.pool.dirty.filter (fun g => g / 128 != b) } }
  else if x = 3 then gateStart d
  else if 12 ≤ x && x < 28 then demandOn x d
  else d

/-- The phase a step leaves, by the target in force at its end (R377). -/
def nextPhase (on : Bool) : DomPhase → DomPhase
  | .up s => if on then (if s < 3 then .up (s + 1) else .on) else .down s
  | .down s => if on then .up s else (if 0 < s then .down (s - 1) else .off)
  | ph => ph

/-- A step of a sequence ends. -/
def stepDone (x : Nat) (d : Dev) : Dev :=
  let ph := (d.dom x).phase
  if !ph.stepping then d
  else
    let q := nextPhase (d.target x) ph
    let d := modDom x (fun y => { y with phase := q }) d
    if x = 11 then handshake q d
    else if q == .on then domArrives x d
    else if q == .down 0 then powerLost x d
    else if q == .up 2 then domReset x d
    else if q == .off && 12 ≤ x && x < 28 then demandOff x d
    else d

/-- DOMAIN_STEP_DONE. -/
def execDomainStepDone (dom : Nat) (s : State) : Out := onDev (stepDone dom) s

/-- A domain at rest whose target differs starts its sequence, in RUN or during STOP entry. -/
def sequenceStart (x : Nat) (d : Dev) : Dev :=
  if x = 0 || 140 ≤ x || !d.gRun then d
  else
    match (d.dom x).phase with
    | .off => if d.target x then modDom x (fun y => { y with phase := .up 0 }) d else d
    | .on =>
      if d.target x then d
      else modDom x (fun y => { y with phase := .down 3 }) (if x = 3 then gateStop d else d)
    | _ => d

/-- DOMAIN_SEQUENCE_START. -/
def execDomainSequenceStart (dom : Nat) (s : State) : Out := onDev (sequenceStart dom) s

/-! ### Ready timeouts (R375, Table 16.4) -/

/-- An engine whose domain failed (08 R193): the dispatches that wait for it are eligible work again. -/
def engineFails (e : Eng) (vfy burns : List Bool) (d : Dev) : Dev :=
  let d := countFailure e 2 burns vfy (dropSelsOn e.val d)
  if 3 ≤ d.katf e then quarantine e d else modEng e (fun x => { x with svc := .quar }) d

/-- A channel whose memory failed: reset; an open that waits for it fails DISABLED. -/
def chanFails (n : Chn) (d : Dev) : Dev :=
  let waits := (d.chan n).initRuns
  let d := resetChan n d
  if waits then openFails n 1 d else d

/-- The allocations that selected a failed bank judged again (07 R172). -/
def repick (b : Nat) (d : Dev) (n : Chn) : Dev :=
  match (d.chan n).alloc with
  | some ⟨c, some f, _⟩ =>
    if f / 128 = b then
      let d := modChan n (fun x => { x with alloc := some ⟨c, none, 0⟩ }) d
      let r := d.select n c
      modChan n (fun x => { x with alloc := some ⟨c, r.1, r.2⟩ }) d
    else d
  | _ => d

/-- A pool bank failed. -/
def bankFails (b : Nat) (d : Dev) : Dev :=
  allChns.foldl (repick b) { d with pool := { d.pool with
    failed := b :: d.pool.failed, dirty := d.pool.dirty.filter (fun g => g / 128 != b) } }

/-- The core of an operand bank goes into QUAR without a change of its count. -/
def coreFails (c : Nat) (d : Dev) : Dev :=
  let d := dropSelsOn (12 + c) d
  { d with engines := vmod d.engines (12 + c) (fun x => { x with svc := .quar }) }

/-- The consequence of a failed domain. -/
def domFails (x : Nat) (vfy burns : List Bool) (d : Dev) : Dev :=
  if h : 12 ≤ x ∧ x < 28 then engineFails ⟨x - 12, by omega⟩ vfy burns d
  else if 28 ≤ x && x < 44 then coreFails ((x - 28) / 4) d
  else if 60 ≤ x && x < 92 then bankFails (x - 60) d
  else
    match domChan x with
    | some n => chanFails n d
    | none => d

/-- A domain's ready signal has not arrived 1 ms after the start of up-step 0; a handshake step or a
class-2 domain of a STOP exit or of the power-on handshake, before the ROM runs, makes a PIN reset. -/
def readyTimeout (x : Nat) (vfy burns : List Bool) (d : Dev) : Dev :=
  if 5 ≤ x && x ≤ 11 then (if d.power.st == .exit || !d.lc.shown then pinReset (noteG 1 1 d) else d)
  else if (d.dom x).phase != .up 0 then d
  else
    let d := modDom x (fun y => { y with failed := true, demand := false, phase := .down 0 }) d
    domFails x vfy burns (noteGx 1 1 (if 12 ≤ x && x < 28 then engId (x - 12) else 0) 0 d)

/-- DOMAIN_READY_TIMEOUT. -/
def execDomainReadyTimeout (dom : Nat) (vfy burns : List Bool) (s : State) : Out :=
  onDev (readyTimeout dom vfy burns) s

/-! ### Control registers (R370, R389, R393) -/

/-- A write of PDREQ, PDDENY or PDKEEP word `k`. -/
def writeReq (k : Nat) (w : Word) (d : Dev) : Dev :=
  modPow (fun p => { p with req := vset p.req k (w &&& domWord reqBit k) }) d

/-- A write of PDDENY word `k`: a dispatch that waits for an engine denied now is eligible work again (08 R185). -/
def writeDeny (k : Nat) (w : Word) (d : Dev) : Dev :=
  let d := modPow (fun p => { p with deny := vset p.deny k (w &&& domWord denyBit k) }) d
  ((List.range 16).filter (fun e => d.denied (12 + e))).foldl (fun d e => dropSelsOn e d) d

/-- A write of PDKEEP word `k`. -/
def writeKeep (k : Nat) (w : Word) (d : Dev) : Dev :=
  modPow (fun p => { p with keep := vset p.keep k (w &&& domWord keepBit k) }) d

/-- A write at the address of one of the three sets. -/
def domainControl (addr : Nat) (w : Word) (d : Dev) : Dev :=
  if 0x420 ≤ addr && addr ≤ 0x430 then writeReq ((addr - 0x420) / 4) w d
  else if 0x440 ≤ addr && addr ≤ 0x450 then writeDeny ((addr - 0x440) / 4) w d
  else if 0x460 ≤ addr && addr ≤ 0x470 then writeKeep ((addr - 0x460) / 4) w d
  else d

/-- DOMAIN_CONTROL_WRITE. -/
def execDomainControlWrite (p : Port) (addr : Nat) (w : Word) (s : State) : Out :=
  onA p (domainControl addr w) s

/-- The domains whose writable PDKEEP bit is set. -/
def Power.keepList (p : Power) : List Nat :=
  (List.range 140).filter (fun x => bit (vget p.keep (x / 32) 0) (x % 32))

/-- PDKEEP word `k` as read: the read-only bits with their values (Table 16.1). -/
def Dev.keepReg (d : Dev) (k : Nat) : Word :=
  let ks := d.power.keepList
  domWord (fun x => x == 0 || x == 5 || x == 8 || (x == 6 && allChns.any (d.keeps ks))
    || (x == 9 && d.power.keepKeys) || ks.contains x) k

/-- PDSTAT word `k`. -/
def Dev.domStat (d : Dev) (k : Nat) : Word := domWord d.domOn k

/-- PDFAIL word `k`. -/
def Dev.domFail (d : Dev) (k : Nat) : Word := domWord (fun x => (d.dom x).failed) k

/-- The code of PWRSTAT.STATE. -/
def RunState.code : RunState → Nat
  | .run => 0
  | .entry => 1
  | .stop => 2
  | .exit => 3

/-- PWRSTAT (Table 16.8). -/
def Dev.pwrStatReg (d : Dev) : Word :=
  at_ d.power.st.code 30 ||| (d.power.pwrStat &&& 0x07FF0000)
    ||| at_ (min 255 ((d.power.doms.toList.filter (fun x => x.phase.stepping)).length)) 0

/-! ### STOP entry (R379–R384) -/

/-- Whether a phrase table load runs. -/
def Dev.ptBusy (d : Dev) : Bool := d.phrases.load.isSome

/-- The reason a STOP request is refused, 0 for none. -/
def Dev.stopRefused (d : Dev) : Nat :=
  if d.mgmtBusy then 1 else if d.lcBusy then 2 else if d.ptBusy || d.cfg.busy then 3
  else if d.boot.boot = 3 then 4 else 0

/-- Whether a wake source is armed for the given WAKECFG and kept domains (Table 16.6). -/
def Dev.armed (d : Dev) (cfg tmr : Word) (ks : List Nat) (src : Nat) : Bool :=
  match src with
  | 0 => true
  | 1 => ks.contains 1 && d.pins.bank[1].isSome
  | 2 => ks.contains 2
  | 3 => bit cfg 0 && bit d.supply.pfwCfg 31
  | 4 => bit cfg 1 && (d.tamperByte 0).testBit 0
  | 5 => bit cfg 2 && (d.tamperByte 1).testBit 0
  | 6 => bit cfg 3 && tmr != 0
  | 7 => d.boot.confirmRun
  | _ => false

/-- Every ride-through entry returned to IDLE (17 R400). -/
def ridesIdle (d : Dev) : Dev :=
  recalcLevel (modSup (fun s => { s with ride := s.ride.map (fun r => { r with st := .idle, timer := 0 }) }) d)

/-- A channel at STOP entry: in OPENING it closes; outside the keep set it is reset. An open under policy NONE whose
initialization runs is abandoned with them (DESIGN CHOICE, log entry 70: 05 R113 names OPEN and DRAINING
channels only). -/
def stopChan (ks : List Nat) (d : Dev) (n : Chn) : Dev :=
  if d.keeps ks n then d
  else
    match (d.chan n).state with
    | .closed => if (d.chan n).phase == .idle then d else abandonOpen n d
    | .opening => abandonOpen n d
    | .resetting => d
    | _ => beginReset n d

/-- STOP entry begins: the latches, the table idle, the channels that do not stay. -/
def stopBegins (supply : Bool) (d : Dev) : Dev :=
  let ks := d.power.keepList
  let ks := if supply && d.supply.sealed && !ks.contains 1 then 1 :: ks else ks
  let d := modPow (fun p => { p with
    st := .entry, latched := ks, latchedKeys := p.keepKeys, latchedWake := p.wakeCfg
    latchedTmr := p.wakeTmr, supplyStop := supply, woken := false, held := [] }) d
  allChns.foldl (stopChan ks) (ridesIdle d)

/-- The armed ones of the wake sources that fire in the cycle in which a STOP request commits. -/
def Dev.wakePending (d : Dev) (srcs : List Nat) : List Nat :=
  srcs.filter (d.armed d.power.wakeCfg d.power.wakeTmr d.power.keepList)

/-- An accepted STOP request: abandoned where a wake is pending (R380), else `begin_` starts entry. -/
def stopOrAbandon (srcs : List Nat) (begin_ : Dev → Dev) (d : Dev) : Dev :=
  if (d.wakePending srcs).isEmpty then begin_ d else noteWake (d.wakePending srcs) (noteG 1 0 d)

/-- A STOP request from port A; `wake` are the sources that fire in its commit cycle. -/
def stopRequest (wake : List Nat) (d : Dev) : Dev :=
  if d.power.st != .run then d
  else
    let r := d.stopRefused
    let d := modPow (fun p => { p with pwrStat := putFld p.pwrStat (at_ r 24) 26 24 }) d
    if r != 0 then d else stopOrAbandon wake (stopBegins false) d

/-- A write of PWRCTL: KEEPKEYS first (R389). -/
def writePwrctl (wake : List Nat) (w : Word) (d : Dev) : Dev :=
  let d := modPow (fun p => { p with keepKeys := bit w 8 }) d
  if bit w 31 then stopRequest wake d else d

/-- STOP_REQUEST: a write of PWRCTL with STOP set. -/
def execStopRequest (p : Port) (w : Word) (wake : List Nat) (s : State) : Out :=
  onA p (writePwrctl wake (setBit w 31)) s

/-- The writes of step 4. -/
def entryWrites (vfy : List Bool) (d : Dev) : Dev :=
  let r := writeQueue d.journal.queue.length vfy d
  if r.1.ks.ready then (writeClean r.1.needsClean r.2 r.1).2.1 else r.1

/-- The domains at step 6: those outside the keep set off. -/
def switchOff (d : Dev) : Dev :=
  modPow (fun p => { p with doms := Vector.ofFn (fun (i : Fin 140) =>
    let x := p.doms[i.val]
    { x with phase := if x.phase == .on && d.stays i.val then .on else .off
             demand := if 12 ≤ i.val && i.val < 28 then false else x.demand }) }) d

/-- The contents of pool banks that are off. -/
def banksLost (d : Dev) : Dev :=
  (List.range 32).foldl (fun d b => if d.domOn (60 + b) then d else
    let d := powerLost (60 + b) d
    { d with pool := { d.pool with dirty := d.pool.dirty.filter (fun g => g / 128 != b) } }) d

/-- Without D9 the volatile keys, the cache, the presignatures, the record contexts and the store's attributes go
(R383). A clause that waited for a checkpoint waits for the store, and is judged again when it is open (R384). -/
def keysLost (d : Dev) : Dev :=
  let d := emptyStore d
  let d := modKs (fun k => { k with lock := 0 }) d
  { d with chans := d.chans.map (fun c => { c with sents := c.sents.map (fun s =>
      if s.holds then { s with wait := .ksready, judged := false } else s) }) }

/-- Exit begins: the handshake of R374, first of all D11. -/
def exitBegins (d : Dev) : Dev :=
  modDom 11 (fun x => { x with phase := .up 0 }) (modPow (fun p => { p with st := .exit, woken := false }) d)

/-- STOP is reached: the resets of step 2 are over, the work has ended, the records are written, the
domains are off. -/
def entryDone (vfy : List Bool) (d : Dev) : Dev :=
  if d.power.st != .entry || d.entryBusy then d
  else
    let mb := d.mailboxKept
    let d := allChns.foldl (fun d n => if (d.chan n).state == .resetting then clearChan n (dropSents n d) else d) d
    let d := if d.power.supplyStop then d else entryWrites vfy d
    let d := if d.power.latched.contains 3 then d else gateStop d
    let d := banksLost (switchOff d)
    let d := if d.power.latchedKeys then d else keysLost d
    let d := modClk (fun c => { c with clkStat := 0 }) d
    let d := modPow (fun p => { p with
      st := .stop, wakeLeft := p.latchedTmr.toNat, latched := if mb then 1 :: p.latched else p.latched }) d
    if d.power.woken then exitBegins d else d

/-- STOP_ENTRY_DONE. -/
def execStopEntryDone (vfy : List Bool) (s : State) : Out := onDev (entryDone vfy) s

/-! ### Wake and exit (R385–R388) -/

/-- Sources fire, together, during entry or in STOP. -/
def wakes (srcs : List Nat) (d : Dev) : Dev :=
  let p := d.power
  let fs := srcs.filter (d.armed p.latchedWake p.latchedTmr p.latched)
  if fs.isEmpty then d
  else if p.st == .entry then modPow (fun p => { p with woken := true }) (noteWake fs d)
  else if p.st == .stop then exitBegins (noteWake fs d)
  else d

/-- WAKE: pin sources, 0–5, that fire together. -/
def execWake (srcs : List Nat) (s : State) : Out := onDev (wakes (srcs.filter (· ≤ 5))) s

/-- WAKE_TIMER_EXPIRY: the timer is loaded when STOP is reached. -/
def execWakeTimerExpiry (s : State) : Out :=
  onDev (fun d => if d.power.st == .stop then wakes [6] (modPow (fun p => { p with wakeLeft := 0 }) d) else d) s

/-- TAMPER_OPENED: what the input does (12 R299), and its wake. -/
def execTamperOpened (i : Fin 2) (s : State) : Out :=
  onDev (fun d =>
    let t := tamperOpens i d
    if t.lc.tamperOpen = d.lc.tamperOpen then t else wakes [4 + i.val] t) s

/-- A write held since STOP entry takes effect. -/
def applyHeld (d : Dev) : HeldWrite → Dev
  | .open n => chOpen n d
  | .alloc n c => chAlloc n c (d.bound n) d

/-- A class-2 domain that the handshake has not switched on yet is on, its reset released. -/
def finishOn (d : Dev) (x : Nat) : Dev :=
  match (d.dom x).phase with
  | .on => d
  | .up 2 => modDom x (fun y => { y with phase := .on }) d
  | .up 3 => modDom x (fun y => { y with phase := .on }) d
  | _ => modDom x (fun y => { y with phase := .on }) (domReset x d)

/-- STOP exit ends: what is left of the handshake, the clocks locked, OTP reread and checked, RUN, STOPS counts one; the
unlock without D9, which in RETURN is not made (13 R318). -/
def exitDone (d : Dev) : Dev :=
  if d.power.st != .exit then d
  else
    let d := if d.power.latchedKeys || d.otp.lcCode = 3 then d
      else modKs (fun k => { k with unlocking := true }) d
    let d := [11, 5, 6, 7, 8, 9, 10].foldl finishOn (modClk (fun c => { c with clkStat := 3 }) d)
    let d := bump (if Config.otpReread d.ctr then d else noteOtpErr d)
    let held := d.power.held
    let d := modPow (fun p => { p with
      st := .run, held := []
      pwrStat := putFld p.pwrStat (at_ ((fld p.pwrStat 23 16 + 1) % 256) 16) 23 16 }) d
    held.foldl applyHeld d

/-- STOP_EXIT_DONE. -/
def execStopExitDone (s : State) : Out := onDev exitDone s

end Sys2Proof.Machine
end

