-- ==== Sys2Proof/Machine/Supply.lean ====
section
/-!
DEFINITION. The supply monitor, the ride-through table, the ride-through STOP, the last gasp and its
marks (17_supply_and_last_gasp.md R395–R416).
-/

namespace Sys2Proof.Machine

/-! ### The monitor (R395, R400, R421) -/

/-- The ticks of 2 µs in a UNIT. -/
def rideUnit (w : Word) : Nat := if fld w 25 24 = 1 then 32 else if fld w 25 24 = 2 then 1024 else 1

/-- The ticks after which an entry fires. -/
def rideDue (w : Word) : Nat := fld w 23 16 * rideUnit w

/-- Whether an entry's source is below its threshold, or filtered PFW asserted. -/
def Supply.rideBelow (s : Supply) (w : Word) : Bool :=
  if fld w 27 26 = 0 then s.vin < fld w 9 0 else if fld w 27 26 = 1 then s.hold < fld w 9 0 else s.pfw

/-- Whether an entry's source has recovered. -/
def Supply.rideBack (s : Supply) (w : Word) : Bool :=
  let top := min 1023 (fld w 9 0 + fld w 15 10)
  if fld w 27 26 = 0 then top ≤ s.vin else if fld w 27 26 = 1 then top ≤ s.hold else !s.pfw

/-- One entry at a tick, or after `dt` ticks that bring the same samples (R400). Where a sample shows the source
recovered on the tick on which the timer reaches its duration, the entry leaves (DESIGN CHOICE, log entry 49). -/
def rideMove (s : Supply) (dt : Nat) (r : Ride) : Ride :=
  if !bit r.reg 31 then { r with st := .idle, timer := 0 }
  else
    match r.st with
    | .idle =>
      if s.rideBelow r.reg then { r with st := if rideDue r.reg = 0 then .fired else .below, timer := 0 } else r
    | .below =>
      if s.rideBack r.reg then { r with st := .idle, timer := 0 }
      else if rideDue r.reg ≤ r.timer + dt then { r with st := .fired, timer := 0 }
      else { r with timer := r.timer + dt }
    | .fired => if s.rideBack r.reg then { r with st := .idle, timer := 0 } else r

/-- The samples of a tick, corrected. -/
def takeSamples (vin hold : Nat) (s : Supply) : Supply :=
  { s with
    vin := vin, hold := hold, lowFresh := false
    vinLow := if s.lowFresh then vin else min s.vinLow vin
    holdLow := if s.lowFresh then hold else min s.holdLow hold }

/-! ### Filtered PFW (R397) -/

/-- PFW_ASSERT: PFW# has been low for FILT; from STOP it is a wake (16 Table 16.6). -/
def execPfwAssert (s : State) : Out :=
  onDev (fun d => if bit d.supply.pfwCfg 31 && !d.supply.pfw then
      wakes [3] (noteG 1 5 (modSup (fun s => { s with pfw := true }) d)) else d) s

/-- PFW_DEASSERT: PFW# has been high for FILT. -/
def execPfwDeassert (s : State) : Out := onDev (modSup (fun s => { s with pfw := false })) s

/-! ### The last gasp (R409–R411) -/

/-- The event code of a firing entry. -/
def gaspEvent (i : Nat) (w : Word) : Nat := fld w 27 26 * 64 + i

/-- The payload of a record (Table 17.4). -/
def Gasp.payload (g : Gasp) : Bytes :=
  let e (k v : Nat) := cborUint k ++ cborUint v
  cborMap 7 ++ e 1 g.event ++ e 2 g.vin ++ e 3 g.hold ++ e 4 g.low ++ e 5 g.jnewest ++ e 6 g.arm.site
    ++ e 7 (flag g.full.isSome)

/-- The protected header of a record. -/
def Gasp.header (g : Gasp) : Bytes := teleHeader 0x20 g.arm.slot g.arm.seq g.sec

/-- The number a record's signature signs. -/
def Gasp.digest (g : Gasp) : Nat := p256.digest (sha256 (sigStructure g.header [] g.payload))

/-- The signature of a record, none where it fails its check or s is 0. -/
def Gasp.sign (g : Gasp) : Option (Nat × Nat) :=
  match g.full with
  | some (_, rnd) => ecdsaFull p256 (beNat g.arm.key) g.digest rnd 4
  | none =>
    let s := p256.signWith (beNat g.arm.key) g.digest g.presig.2.1 g.presig.2.2
    if s = 0 || !p256.signHolds (beNat g.arm.key) g.digest g.presig.2.1 g.presig.1 s then none
    else some (g.presig.2.1, s)

/-- The lowest-numbered core in IN. -/
def Dev.coreIn (d : Dev) : Option (Fin 4) :=
  (List.finRange 4).find? (fun c => (vget d.engines (12 + c.val) ⟨.quar, 0, 0, none⟩).svc == .inn)

/-- The job on a core ended SUPPLY (R404); a dispatch that waits for the core is eligible work again. -/
def displace (c : Fin 4) (d : Dev) : Dev :=
  let d := dropSelsOn (12 + c.val) d
  match d.dispatchOn ⟨12 + c.val, by omega⟩ with
  | some (n, s, j) => endEarly n s j .supply d
  | none => d

/-- The path of a latched event: a presignature, a core, or nothing. -/
def gaspStart (g : Gasp) (d : Dev) : Dev :=
  match d.presig.avail with
  | p :: ps =>
    modSup (fun s => { s with gasp := some { g with presig := p, full := none }, lgStat := gaspPath 1 s.lgStat })
      { d with presig := { d.presig with avail := ps } }
  | [] =>
    let hf := fld d.cfg.lgCfg 9 0
    match d.coreIn with
    | some c =>
      if hf = 0 || g.hold < hf || d.entropyOut || d.reseedDue (.plain 32) then gaspNothing g d
      else
        let d := displace c d
        let r := d.drbg.generate 32 []
        modSup (fun s => { s with
          gasp := some { g with full := some (c, r.1) }, lgStat := gaspPath 2 s.lgStat }) { d with drbg := r.2 }
    | none => gaspNothing g d

/-- A LASTGASP firing of entry `i`: the trigger, when an arm is in force. -/
def gaspTrigger (i : Nat) (d : Dev) : Dev :=
  let w := (vget d.supply.ride i ⟨0, .idle, 0⟩).reg
  let d := modSup (fun s => { s with fired := true }) d
  if bit d.supply.lgStat 30 then d
  else
    match d.supply.arm with
    | none => modSup (fun s => { s with lgStat := gaspPath 3 s.lgStat }) d
    | some a =>
      let g : Gasp :=
        { arm := a, event := gaspEvent i w, sec := d.journal.seconds.toNat, vin := d.supply.vin
          hold := d.supply.hold, low := d.supply.vinLow, jnewest := d.journal.jnewest, full := none
          presig := (0, 0, 0) }
      gaspStart g (modSup (fun s => { s with
        arm := none, lgStat := putFld (setBit s.lgStat 30) (at_ i 16) 19 16 }) d)

/-- The mailbox of a sealed record: MB0, then the message. -/
def gaspMailbox (full : Bool) (msg : Bytes) : Vector Word 64 :=
  let ws := bytesWords 63 (padTo 252 msg)
  Vector.ofFn (fun i => if i.val = 0 then
      at_ 1 31 ||| at_ (flag full) 30 ||| at_ 1 16 ||| at_ msg.length 0
    else ws.getD (i.val - 1) 0)

/-- The record sealed: the mailbox, GSTAT.LASTGASP, the mark that is due. -/
def gaspSealed (g : Gasp) (p : Nat × Nat) (d : Dev) : Dev :=
  let full := g.full.isSome
  let msg := coseSign1 g.header g.payload (natBE 32 p.1 ++ natBE 32 p.2)
  modSup (fun s => { s with
    gasp := none, mailbox := gaspMailbox full msg, sealed := true, fired := s.fired && 4 ≤ s.level
    marks := s.marks ++ s.endMarks (1 + 4 * flag full) (markV g.sec g.event) }) d

/-- The path ends: `upset` makes its check fail. A presignature that fails gives way to the next. -/
def gaspEnds (upset : Bool) (d : Dev) : Dev :=
  match d.supply.gasp with
  | none => d
  | some g =>
    match (if upset then none else g.sign) with
    | some p => gaspSealed g p d
    | none =>
      match g.full with
      | some (c, _) => gaspNothing g (noteInvar (engId (12 + c.val)) 0 d)
      | none => gaspStart g (noteInvar 0 0 (modSup (fun s => { s with gasp := none }) d))

/-- LASTGASP_SEAL. -/
def execLastgaspSeal (upset : Bool) (s : State) : Out := onDev (gaspEnds upset) s

/-! ### Marks (R412, R413) -/

/-- Whether a mark may be written at the present level: an ACK below 3, another at 4 or more, or below
3 (R403). -/
def Dev.markFree (d : Dev) (flags : Nat) : Bool :=
  d.gRun && (d.supply.level < 3 || (4 ≤ d.supply.level && flags.testBit 1 = false))

/-- The oldest mark that waits is written. -/
def writeMark (vfy : List Bool) (d : Dev) : Dev :=
  match d.supply.marks with
  | [] => d
  | (flags, v) :: ms =>
    if !d.markFree flags then d
    else
      let d := modSup (fun s => { s with marks := ms }) d
      if !d.ks.ready then modSup (fun s => { s with lgStat := setBit s.lgStat 26 }) d
      else
        let r := logAppend 0xFFFF v flags 1 vfy d
        if r.1 && flags.testBit 1 = false then modSup (fun s => { s with lgStat := setBit s.lgStat 27 }) r.2.1
        else r.2.1

/-- LASTGASP_MARK. -/
def execLastgaspMark (vfy : List Bool) (s : State) : Out := onDev (writeMark vfy) s

/-! ### Ride-through actions (R402, R405) -/

/-- The flash writes of a CHECKPOINT action at level `l`: below 4 the records, below 3 the journal too. -/
def rideCheckpoint (l : Nat) (vfy : List Bool) (d : Dev) : Dev × List Bool :=
  if 4 ≤ l then (d, vfy)
  else
    let r := if d.ks.ready then (writeClean d.needsClean vfy d).2 else (d, vfy)
    if l < 3 then writeQueue r.1.journal.queue.length r.2 r.1 else r

/-- Every running or halted job of a channel ended SUPPLY (R405): a phrase with its template; the writes of a
persistent key that L holds back are abandoned where they stand. -/
def endAllWork (d : Dev) (n : Chn) : Dev :=
  (((d.chan n).sents.filter (·.parent.isNone)).map (·.sid)).foldl (fun d sid =>
    match d.sent n sid with
    | some s => match s.job with
      | some j => if j.phase == .susp then d else endEarly n s j .supply (cutPersist n j [] [] d)
      | none => d
    | none => d) d

/-- The checkpoints of R285 abandoned: the clauses that wait for them are judged again after the exit. -/
def dropCkpts (d : Dev) : Dev :=
  let d := modKs (fun k => { k with ckpts := [] }) d
  { d with chans := d.chans.map (fun c => { c with
      sents := c.sents.map (fun s => if s.holds then { s with wait := .none } else s) }) }

/-- The gate's fetches abandoned. -/
def dropFetch (d : Dev) : Dev :=
  modGate (fun g => { g with stat := clrBit g.stat 26, fetch := none, queued := none }) d

/-- A life-cycle transition at a ride-through STOP (13 R313): before its burn it is abandoned, after it the next boot
finishes it. -/
def dropTransition (d : Dev) : Dev :=
  match d.lc.accepted with
  | some _ => zeroToken (modLc (fun l => { l with lcreq := clrBit l.lcreq 31, accepted := none }) d)
  | none => d

/-- Paused flash operations abandoned by a ride-through STOP (R403). -/
def endPaused (d : Dev) : Dev :=
  let d := match d.boot.mgmt with
    | some m => mgmtEnds m.cmd 8 (mgmtLeft d)
    | none => d
  let d := match d.phrases.load with
    | some _ => { d with phrases := { d.phrases with
        load := none, stat := putFld d.phrases.stat (at_ 5 16) 23 16 } }
    | none => d
  let d := { d with cfg := { d.cfg with busy := false, again := false } }
  let d := { d with engines := d.engines.map (fun x => { x with due := none }) }
  dropTransition (dropFetch (dropCkpts d))

/-- A ride-through STOP; `wake` are the sources that fire in its commit cycle (16 R379, R380). -/
def rideStop (wake : List Nat) (d : Dev) : Dev :=
  let d := noteG 1 10 d
  if d.power.st != .run then d
  else stopOrAbandon wake (fun d => allChns.foldl endAllWork (stopBegins true (endPaused d))) d

/-- The one-shot action of entry `i`, fired at level `l`. -/
def rideAct (l : Nat) (wake : List Nat) (i : Nat) (vfy : List Bool) (d : Dev) : Dev × List Bool :=
  match rideAction (vget d.supply.ride i ⟨0, .idle, 0⟩).reg with
  | 1 => (noteG 1 6 d, vfy)
  | 2 => rideCheckpoint l vfy (noteG 1 7 d)
  | 3 => (noteG 1 8 d, vfy)
  | 4 => (gaspTrigger i d, vfy)
  | 5 => (rideStop wake d, vfy)
  | _ => (d, vfy)

/-- The actions of some entries in order. -/
def rideActs (l : Nat) (wake : List Nat) : List Nat → List Bool → Dev → Dev × List Bool
  | [], vfy, d => (d, vfy)
  | i :: is, vfy, d =>
    let r := rideAct l wake i vfy d
    rideActs l wake is r.2 r.1

/-- Whether an entry of the table is FIRED. -/
def Supply.rideFired (s : Supply) (i : Nat) : Bool := (vget s.ride i ⟨0, .idle, 0⟩).st == .fired

/-- The table after `dt` ticks with the samples at hand: every entry moves, then the actions of those that fire run
in entry order (R400, R402); a quarantine record that the level held back is written once it is below 3 (R403). -/
def ridesTick (dt : Nat) (wake : List Nat) (vfy : List Bool) (d : Dev) : Dev :=
  let s := d.supply
  let d := recalcLevel (modSup (fun s => { s with ride := s.ride.map (rideMove s dt) }) d)
  let fires := (List.range 16).filter (fun i => d.supply.rideFired i && !s.rideFired i)
  let r := rideActs d.supply.level wake fires vfy d
  recordFailures r.2 r.1

/-- A tick in RUN. -/
def supplyTick (vin hold : Nat) (wake : List Nat) (vfy : List Bool) (d : Dev) : Dev :=
  if d.power.st != .run then d
  else ridesTick 1 wake vfy (modSup (takeSamples (d.adc 2 vin) (d.adc 3 hold)) d)

/-- SUPPLY_TICK: raw codes of VIN and HOLD_SENSE. -/
def execSupplyTick (x : SupplySample) (env : RideEnv) (s : State) : Out :=
  onDev (supplyTick x.vin.toNat x.hold.toNat env.wake env.vfy) s

/-- The tick on which the timer of entry `i` reaches its duration, the ticks before it having brought no other sample
(DESIGN CHOICE, log entry 49). -/
def rideFire (i : Fin 16) (wake : List Nat) (vfy : List Bool) (d : Dev) : Dev :=
  let r := d.supply.ride[i.val]
  if d.power.st != .run || r.st != .below || !bit r.reg 31 then d
  else ridesTick (max 1 (rideDue r.reg - r.timer)) wake vfy d

/-- RIDE_ENTRY_FIRE. -/
def execRideEntryFire (i : Fin 16) (env : RideEnv) (s : State) : Out := onDev (rideFire i env.wake env.vfy) s

/-! ### Registers (Table 17.5) -/

/-- SUPVIN. -/
def Dev.supVin (d : Dev) : Word := at_ d.supply.vinLow 16 ||| at_ d.supply.vin 0

/-- SUPHOLD. -/
def Dev.supHold (d : Dev) : Word := at_ d.supply.holdLow 16 ||| at_ d.supply.hold 0

/-- LOWCLR: both LOW fields restart from the next sample. -/
def lowClr (d : Dev) : Dev := modSup (fun s => { s with lowFresh := true }) d

/-- LOWCLR. -/
def execLowclr (p : Port) (s : State) : Out := onA p lowClr s

/-- A write of SUPCFG. -/
def writeSupCfg (w : Word) (d : Dev) : Dev :=
  let bad := fld w 1 0 = 0 || fld w 1 0 = 3
  let d := noteIf .A bad (if bad then d else modSup (fun s => { s with supCfg := w &&& 3 }) d)
  if bit w 8 then lowClr d else d

/-- A write of PFWCFG. -/
def writePfwCfg (w : Word) (d : Dev) : Dev :=
  let m := keepIf (fld w 6 0 < 2 || 64 < fld w 6 0) 6 0 d.supply.pfwCfg (w &&& 0x8000007F, false)
  noteIf .A m.2 (modSup (fun s => { s with pfwCfg := m.1, pfw := s.pfw && bit w 31 }) d)

/-- A write of LGCFG. -/
def writeLgCfg (w : Word) (d : Dev) : Dev :=
  if d.cfgLocked then noteLink .A 11 d
  else
    let v := w &&& 0x800F03FF
    if d.wantsRecord (v != d.cfg.lgCfg) then wantConfigWrite { d with cfg := { d.cfg with lgCfg := v } } else d

/-- The bits of the entries in a state. -/
def Supply.rideBits (s : Supply) (st : RideState) : Nat :=
  ((List.range 16).map (fun i => flag ((vget s.ride i ⟨0, .idle, 0⟩).st == st) * 2 ^ i)).sum

/-- RIDESTAT. -/
def Dev.rideStat (d : Dev) : Word := at_ (d.supply.rideBits .fired) 16 ||| at_ (d.supply.rideBits .below) 0

/-- LGSTAT. -/
def Dev.lgStatReg (d : Dev) : Word :=
  putBit (d.supply.lgStat &&& 0x7C0F0000) 31 (d.supply.arm.isSome || d.supply.gasp.isSome) ||| at_ (flag d.supply.pfw) 12
    ||| at_ d.supply.level 8

end Sys2Proof.Machine
end

