-- ==== Sys2Proof/Machine/Entropy.lean ====
section
/-!
DEFINITION. The entropy source: blocks and their two tests, occasions, reseeds; DRBGSTAT and ENTSTAT
(18_clocks_and_calibration.md R424–R426; 09 R207, R227).
-/

namespace Sys2Proof.Machine

/-- Whether a run of `c` identical consecutive samples occurs; `last` is the sample before, `k` the length
of the run it ends. -/
def runOf (c : Nat) : Bool → Nat → List Bool → Bool
  | _, _, [] => false
  | last, k, b :: bs =>
    let k := if b == last then k + 1 else 1
    c ≤ k || runOf c b k bs

/-- The repetition count test fails in a block. -/
def rctFails (c : Nat) : List Bool → Bool
  | [] => false
  | b :: bs => c ≤ 1 || runOf c b 1 bs

/-- The adaptive proportion test fails in a block. -/
def aptFails (c : Nat) : List Bool → Bool
  | [] => false
  | b :: bs => c ≤ 1 + (bs.filter (· == b)).length

/-- The repetition count test over a block that follows the samples `before` without a gap (R425). -/
def rctRuns (c : Nat) (before bits : List Bool) : Bool :=
  match before.reverse with
  | [] => rctFails c bits
  | b :: l => runOf c b (1 + (l.takeWhile (· == b)).length) bits

/-- What a block after the samples `before` does: whether RCT and APT fail. -/
def Dev.blockTest (d : Dev) (before bits : List Bool) : Bool × Bool :=
  (rctRuns d.rctc before bits, aptFails d.aptc bits)

/-- The samples that the next block of the running occasion follows without a gap: none at its start and
after a discarded block (log 66). -/
def Dev.drawn (d : Dev) : List Bool := if d.trouble.entRun = 0 then d.entropy.bits else []

/-- The entropy source changed. -/
def modEnt (f : Entropy → Entropy) (d : Dev) : Dev := { d with entropy := f d.entropy }

/-- A failing block: discarded, counted; the third in a row fails the occasion. Answers whether it did. -/
def blockFails (t : Bool × Bool) (d : Dev) : Bool × Dev :=
  let d := modEnt (fun e => { e with
    stat := putFld (putBit (putBit e.stat 30 t.1) 29 t.2) (at_ (min 255 (fld e.stat 23 16 + 1)) 16) 23 16 }) d
  let d := noteG 2 5 { d with trouble := { d.trouble with entRun := min 3 (d.trouble.entRun + 1) } }
  if d.trouble.entRun = 3 then (true, raiseWhy 1 0 (noteG 2 6 d)) else (false, d)

/-- A passing block returns ENTRUN to 0. -/
def blockPasses (d : Dev) : Dev := { d with trouble := { d.trouble with entRun := 0 } }

/-- What a request gets that the DRBG has served: a clause its bytes, an open its nonce, a life-cycle request its own. A
requester that has ended meanwhile gets nothing (DESIGN CHOICE, log entry 67). -/
def deliver (who : DrawFor) (x : Bytes) (d : Dev) : Dev :=
  match who with
  | .clause n sid =>
    match d.sent n sid with
    | none => d
    | some s =>
      match s.job, s.clauses[s.idx]? with
      | some j, some c =>
        if j.drawing then
          settleResult (specOf c.verb (par8 j.params 0)) n sid c { j with rnd := x, drawing := false } d d
        else d
      | _, _ => d
  | .nonce n =>
    if (d.chan n).phase == .drawing then modChan n (fun c => { c with phase := .drawn x }) d else d
  | .lcNonce => putNonce x d

/-- A request fails for want of entropy. -/
def refuseDraw (d : Dev) (who : DrawFor) : Dev :=
  match who with
  | .clause n sid =>
    match d.sent n sid with
    | none => d
    | some s => match s.job with
      | some j => if j.drawing then endEarly n s j .entropy d else d
      | none => d
  | .nonce n => if (d.chan n).phase == .drawing then openFails n 5 d else d
  | .lcNonce => noNonce d

/-- An occasion fails: so does every request that waits. -/
def occasionFails (d : Dev) : Dev :=
  let q := d.entropy.queue
  (q.map (·.1)).foldl refuseDraw
    (modEnt (fun e => { e with busy := false, bits := [], passed := 0, queue := [] }) d)

/-- The requests that wait served in order, up to one whose own reseed is due: it starts the next occasion. -/
def serveQueue : List (DrawFor × DrawReq) → Dev → Dev
  | [], d => modEnt (fun e => { e with busy := false, bits := [], passed := 0, queue := [] }) d
  | (w, r) :: l, d =>
    if d.reseedDue r then modEnt (fun e => { e with busy := true, bits := [], passed := 0, queue := (w, r) :: l }) d
    else
      let g := serveDraw r d
      serveQueue l (deliver w g.1 g.2)

/-- An occasion has its blocks: the DRBG is reseeded and serves the request at the head of its queue, then those
after it (09 R207). -/
def occasionEnds (d : Dev) : Dev :=
  match d.entropy.queue with
  | [] => modEnt (fun e => { e with busy := false, bits := [], passed := 0 }) d
  | (w, r) :: l =>
    let g := serveDraw r { d with drbg := d.drbg.reseed (sha384 (bitBytes d.entropy.bits)) }
    serveQueue l (deliver w g.1 g.2)

/-- A block of 1,024 samples has been drawn for the running occasion. -/
def entropyBlock (bits : List Bool) (d : Dev) : Dev :=
  if !d.entropy.busy || bits.length != 1024 || !d.gRun then d
  else
    let t := d.blockTest d.drawn bits
    if t.1 || t.2 then
      let r := blockFails t d
      if r.1 then occasionFails r.2 else r.2
    else
      let d := modEnt (fun e => { e with bits := e.bits ++ bits, passed := e.passed + 1 }) (blockPasses d)
      if 2 ≤ d.entropy.passed then occasionEnds d else d

/-- ENTROPY_BLOCK_DONE. -/
def execEntropyBlockDone (bits : List Bool) (s : State) : Out := onDev (entropyBlock bits) s

/-- DRBGSTAT (09 Table 09.12). -/
def Dev.drbgStat (d : Dev) : Word :=
  at_ (flag d.drbg.ready) 31 ||| at_ (flag (bit d.trouble.why 1)) 30 ||| at_ (min (2 ^ 20) d.drbg.reqs) 0

end Sys2Proof.Machine
end

