-- ==== Sys2Proof/Machine/PhraseLoad.lean ====
section
/-!
DEFINITION. Loading a phrase table from a buffer, its two copies in the flash, PTSTAT
(15_protocol_services.md R364, R368).
-/

namespace Sys2Proof.Machine

/-- The two copies of the phrase table; it carries no erase count. -/
def phraseCopies : TwoCopies :=
  { a := 0x10000, b := 0x18000, sectors := 8, len := 28180, valid := ptValid, seqAt := 8, eraseAt := none }

/-- A table under another sequence number, its check made anew. -/
def phraseRecord (t : Bytes) (seq _erases : Nat) : Bytes :=
  let len := 528 + 36 * ptCount t + 4
  let b := t.take 8 ++ natBE 4 seq ++ slice 12 (len - 16) t
  b ++ crcCheck b

/-- The phrase memory changed. -/
def modPhr (f : Phrases → Phrases) (d : Dev) : Dev := { d with phrases := f d.phrases }

/-- A write of PTCTL with LOAD; while BUSY it is ignored. -/
def ptLoad (w : Word) (d : Dev) : Dev :=
  if d.ptBusy || !bit w 31 then d
  else modPhr (fun p => { p with load := some (fld w 19 16, lo16 w, 0) }) d

/-- PT_LOAD: a write of PTCTL with LOAD set. -/
def execPtLoad (p : Port) (w : Word) (s : State) : Out := onA p (ptLoad (setBit w 31)) s

/-- The load ended with a RESULT. -/
def ptEnds (r : Nat) (d : Dev) : Dev :=
  modPhr (fun p => { p with load := none, stat := putFld p.stat (at_ r 16) 23 16 }) d

/-- The bytes of the buffer a load names, when it is a live buffer of an OPEN channel of port A that holds
the whole table. -/
def Dev.ptSource (d : Dev) (ch h : Nat) : Option Bytes :=
  let n : Chn := ⟨ch % 16, Nat.mod_lt _ (by decide)⟩
  match d.pool.buf (h % 4096) with
  | some b =>
    let bs := d.readBuf h 0 (b.count * 512)
    if d.bound n == .A && (d.chan n).state == .opened && h < 0xFFFC && b.st == .live && b.owner == n
        && h / 4096 == d.pool.gen (h % 4096) && beNat (slice 12 4 bs) ≤ b.count * 512 then some bs
    else none
  | none => none

/-- A table adopted. -/
def adoptTable (t : Bytes) (d : Dev) : Dev := modPhr (fun p => { p with table := t }) d

/-- The running load ends. -/
def ptLoadEnds (vfy : List Bool) (d : Dev) : Dev :=
  match d.phrases.load with
  | none => d
  | some (ch, h, _) =>
    if !d.flashFree then d
    else if 2 ≤ d.otp.lcCode then ptEnds 2 d
    else
      match d.ptSource ch h with
      | none => ptEnds 3 d
      | some t =>
        if !ptValid t then ptEnds 4 d
        else
          let o := d.outcome vfy
          let d := writeCopy phraseCopies (phraseRecord t) o.1 d
          if o.1 then ptEnds 1 (adoptTable ((d.copyNow phraseCopies).getD t) d) else ptEnds 5 d

/-- PT_LOAD_DONE. -/
def execPtLoadDone (vfy : List Bool) (s : State) : Out := onDev (ptLoadEnds vfy) s

/-- PTSTAT. -/
def Dev.ptStat (d : Dev) : Word :=
  at_ (flag d.ptBusy) 31 ||| at_ (fld d.phrases.stat 23 16) 16
    ||| at_ (if d.phrases.table = [] then 0 else ptDefined d.phrases.table) 8
    ||| at_ (flag (d.phrases.table != [])) 0

end Sys2Proof.Machine
end

