-- ==== Sys2Proof/Machine/Boot.lean ====
section
/-!
DEFINITION. The ROM: the sequence of Table 14.4 and the choice of the program (14_boot_and_updates.md
R323–R327; 12_key_store.md R293–R298; 13 R308, R318; 17 R414; 18 R426).
-/

namespace Sys2Proof.Machine

/-! ### Entropy during the boot (18 R426) -/

/-- The next block of the source after the samples `before`, and the blocks after it; one the environment
does not give is a free passing block. -/
def nextBlock (before : List Bool) (bs : List (List Bool)) (d : Dev) : List Bool × Bool × List (List Bool) × Dev :=
  match bs with
  | b :: l => (b, (d.blockTest before b).1 || (d.blockTest before b).2, l, d)
  | [] => (bytesBits (Config.freeBytes d.ctr 128), false, [], bump d)

/-- `need` passing blocks drawn after the samples `before`, with `fuel` draws at most: whether the occasion
succeeded, the samples, the blocks left. -/
def drawBlocks : Nat → Nat → List Bool → List (List Bool) → Dev → Bool × List Bool × List (List Bool) × Dev
  | 0, _, _, bs, d => (false, [], bs, d)
  | _ + 1, 0, _, bs, d => (true, [], bs, d)
  | f + 1, need + 1, before, bs, d =>
    if d.trouble.entRun = 3 then (false, [], bs, d)
    else
      let n := nextBlock before bs d
      if n.2.1 then
        let r := blockFails (n.2.2.2.blockTest before n.1) n.2.2.2
        if r.1 then (false, [], n.2.2.1, r.2) else drawBlocks f (need + 1) [] n.2.2.1 r.2
      else
        let r := drawBlocks f need n.1 n.2.2.1 (blockPasses n.2.2.2)
        (r.1, n.1 ++ r.2.1, r.2.2)

/-- An occasion of `need` blocks over the blocks the environment gives. -/
def occasion (need : Nat) (bs : List (List Bool)) (d : Dev) : Bool × List Bool × List (List Bool) × Dev :=
  drawBlocks (bs.length + need + 1) need [] bs d

/-- The start-up test: STARTOK; where no block may be drawn any more the cause stands. -/
def startUp (bs : List (List Bool)) (d : Dev) : Bool × List (List Bool) × Dev :=
  let r := occasion 4 bs d
  let d := r.2.2.2
  if r.1 then (true, r.2.2.1, modEnt (fun e => { e with stat := setBit e.stat 31 }) d)
  else (false, r.2.2.1, { d with trouble := { d.trouble with why := setBit d.trouble.why 1 } })

/-- The DRBG instantiated by two passing blocks. -/
def bootDrbg (bs : List (List Bool)) (d : Dev) : List (List Bool) × Dev :=
  let r := occasion 2 bs d
  if r.1 then (r.2.2.1, { r.2.2.2 with drbg := Drbg.instantiate (sha384 (bitBytes r.2.1)) })
  else r.2.2

/-! ### Steps 1 to 5 -/

/-- A bit of BOOTSTAT put. -/
def bootBit (i : Nat) (b : Bool) (d : Dev) : Dev :=
  modBoot (fun x => { x with bootStat := putBit x.bootStat i b }) d

/-- Whether a transition has burnt its row and not yet made the header of the new epoch (12 R298, 13 R313). -/
def Dev.unfinished (d : Dev) : Bool :=
  decide (0 < d.otp.rowIdx) && d.otp.row.used && !d.otp.row.hdr && d.otp.lcCode != 3 && !d.otp.endFuse

/-- OTP read (step 2): the life-cycle registers; the calibration of the factory. -/
def romOtp (d : Dev) : Dev :=
  let c := d.otp.lcCode
  let t := d.unfinished
  let d := modLc (fun l => { l with lcstate := c, shown := true, dbgOpen := c == 0 || c == 3, transit := t }) d
  loadCal d.calFactory (modClk (fun x => { x with calib := d.otp.calf, clkStat := 3 }) d)

/-- The known-answer test of one engine at boot (08 R189). -/
def bootKat (env : RomEnv) (d : Dev) (e : Eng) : Dev :=
  if 3 ≤ d.katf e then modEng e (fun x => { x with svc := .quar }) d
  else if env.kats.getD e.val true then modEng e (fun x => { x with svc := .inn }) d
  else failTest e (if env.katBurns.getD e.val true then [] else [false, false, false])
    [env.katVfy.getD e.val true] (modEng e (fun x => { x with cause := 1 }) d)

/-- Whether a key store sector holds only records of another epoch (12 R298). -/
def Dev.staleSector (d : Dev) (i : Nat) : Bool :=
  let here := d.otp.rowIdx
  let base := ksBase + 4096 * i
  let epochs :=
    if i < 2 then (if hdrIntact (d.hdrBytes (i == 1)) then [par8 (d.hdrBytes (i == 1)) 21] else [])
    else
      let span := if i < 10 then (96, 42) else if i < 20 then (1568, 2) else (32, 127)
      ((List.range span.2).filter (fun p => !d.flash.mem.blank (base + 16 + span.1 * p) span.1)).map
        (fun p => par8 (d.flashRead (base + 16 + span.1 * p) 4) 3)
  !epochs.isEmpty && epochs.all (· != here)

/-- An erase that a loss during a transition left unfinished is completed (step 4). -/
def finishErase (d : Dev) : Dev :=
  let r := d.otp.row
  if !r.used || r.hdr || !d.flashUp then d
  else judgeWear (eraseSectors ((List.range 36).filter d.staleSector) d)

/-- ROOT and row 0 at the first start (step 5; R294, R308); the key store area is erased and given its headers
(R289). -/
def firstStart (bs : List (List Bool)) (burns : List Bool) (d : Dev) : List (List Bool) × List Bool × Dev :=
  if d.otp.rooted || d.otp.lcCode != 0 then (bs, burns, d)
  else
    let r := occasion 2 bs d
    let d := r.2.2.2
    if !r.1 then (r.2.2.1, burns, d)
    else
      let b := burnBit burns
      if !b.1 then (r.2.2.1, b.2, noteOtpErr d)
      else
        let o := d.otp
        let d := { d with otp := { o with
          root := (sha384 (bitBytes r.2.1)).take 32
          rows := o.rows.set 0 { EpochRow.blank with used := true, ownerHash := zeros 48 } } }
        (r.2.2.1, b.2, if d.flashUp then eraseArea d else d)

/-! ### Program selection (R324) -/

/-- The measurement of the image in a slot. -/
def Dev.measure (d : Dev) (k : Nat) : Bytes := sha384 (d.slotImage k)

/-- The version of the image in a slot. -/
def Dev.version (d : Dev) (k : Nat) : Nat := imgVer (d.imgHeader k)

/-- Whether any image can unlock at this boot. -/
def Dev.mayUnlock (d : Dev) : Bool := d.otp.rooted && d.otp.lcCode != 3 && d.otp.row.hdr

/-- Whether a slot holds a valid image that unlocks through an entry of a state. -/
def Dev.slotUnlocks (d : Dev) (k want : Nat) : Bool :=
  d.mayUnlock && d.slotValid k && d.unlocks (d.measure k) (d.version k) want

/-- What a selection gives: the slot to start, none for the loader; the kind of boot 1 trial, 2 normal;
PATH. -/
structure Choice where
  slot : Option Nat
  kind : Nat
  path : Nat
  d : Dev
  vs : List Bool

/-- A new boot record, whatever its outcome. -/
def rewriteBoot (f : BootRec → BootRec) (vs : List Bool) (d : Dev) : Dev × List Bool :=
  (writeBootRec (f d.bootRec) vs d).2

/-- Rules 3 to 5. -/
def chooseNormal (vs : List Bool) (d : Dev) : Choice :=
  let a := d.bootRec.active
  let pick : Option Nat :=
    if d.slotUnlocks a 1 then some a else if d.slotUnlocks (1 - a) 1 then some (1 - a)
    else if d.slotValid a then some a else if d.slotValid (1 - a) then some (1 - a) else none
  match pick with
  | none => ⟨none, 3, 2, d, vs⟩
  | some k =>
    if k = a then ⟨some k, 2, 0, d, vs⟩
    else
      let r := rewriteBoot (fun x => { x with active := k }) vs d
      ⟨some k, 2, 3, r.1, r.2⟩

/-- A trial given up: TRIAL NONE, TRIALREV, REVERTED. -/
def revert (vs : List Bool) (d : Dev) : Dev × List Bool :=
  let r := rewriteBoot (fun x => { x with trial := 0 }) vs d
  (bootBit 10 true (noteG 3 3 r.1), r.2)

/-- The newest valid copy, when it confirms a program: a copy whose HMAC fails is not valid (12 R302). -/
def Dev.confirmingCopy (d : Dev) (meas : Bytes) (ver : Nat) : List Bool → Option Bool
  | [] => none
  | b :: bs =>
    match d.kekFrom b meas ver 1 with
    | .inl _ => some b
    | .inr r => if r = 4 then d.confirmingCopy meas ver bs else none

/-- The newest valid header, when it holds a CONFIRMED entry for the valid image in a slot. -/
def Dev.confirmedIn (d : Dev) (k : Nat) : Option Header :=
  if d.slotValid k then
    (d.confirmingCopy (d.measure k) (d.version k) d.hdrOrder).map (fun b => Header.ofBytes (d.hdrBytes b))
  else none

/-- A confirmation that reached its commit point in a header is finished (R337). -/
def finishConfirm (k : Nat) (h : Header) (vs burns : List Bool) (d : Dev) : Dev × List Bool × List Bool :=
  let b := if d.otp.row.ratchet < h.ratchet then burnRatchet burns d else (d, burns)
  let r := rewriteBoot (fun x => { x with active := k, trial := 0 }) vs b.1
  (noteMgmt 1 (r.1.measure k) (r.1.version k) r.1, r.2, b.2)

/-- The rules of R324 in order. -/
def choose (vs burns : List Bool) (d : Dev) : Choice × List Bool :=
  let rec_ := d.bootRec
  let k := 1 - rec_.active
  if rec_.trial = 2 then
    match d.confirmedIn k with
    | some h =>
      let f := finishConfirm k h vs burns d
      (chooseNormal f.2.1 f.1, f.2.2)
    | none =>
      let r := revert vs d
      (chooseNormal r.2 r.1, burns)
  else if rec_.trial = 1 then
    let r := rewriteBoot (fun x => { x with trial := 2 }) vs d
    if r.1.slotUnlocks k 2 then (⟨some k, 1, 1, r.1, r.2⟩, burns)
    else
      let q := revert r.2 r.1
      (chooseNormal q.2 q.1, burns)
  else (chooseNormal vs d, burns)

/-! ### Step 9 -/

/-- The default of CHCFGT when no record is valid (05 R117). -/
def chcfgtDefault (lc : Nat) : Word := if lc < 2 then 0x80010000 else 0

/-- CHCFGT, TAMPERCFG and LGCFG loaded. -/
def loadConfig (d : Dev) : Dev :=
  match d.copyNow d.configCopies with
  | some bs =>
    let w (i : Nat) : Word := bytesWord (slice (16 + 4 * i) 4 bs)
    { d with cfg := { ConfigRec.fresh with
        chcfgt := Vector.ofFn (fun i => w i.val), tamperCfg := w 16, lgCfg := w 17, loaded := true } }
  | none =>
    let lc := d.otp.lcCode
    let c := { ConfigRec.fresh with
      chcfgt := Vector.replicate 16 (chcfgtDefault lc), tamperCfg := if lc < 2 then 0 else 0x3939
      loaded := true, dirty := 0xFFFF }
    if lc < 2 then { d with cfg := c } else noteG 3 4 { d with cfg := c }

/-- The phrase table loaded. -/
def loadPhrases (d : Dev) : Dev :=
  match d.copyNow phraseCopies with
  | some t => adoptTable t d
  | none => d

/-- REPLACE_WHY recomputed without entries (04 R105); EPOCHLOW and WEAR (12 R289). -/
def recomputeWhy (d : Dev) : Dev :=
  let low := d.otp.left ≤ 1
  let w := d.trouble.why
  let w := if 0 < d.quarCount then setBit w 0 else w
  let w := if low then setBit w 2 else w
  let w := if 90000 < d.maxErase then setBit w 3 else w
  let w := if 17 ≤ d.fault24 then setBit w 4 else w
  let d := { d with trouble := { d.trouble with why := w } }
  let d := if low then noteG 3 7 d else d
  if 90000 < d.maxErase then noteG 3 8 d else d

/-- Step 9 of Table 14.4; a PIN or SOFT reset leaves the stamps of FAULT24 in D0, a POR has them rebuilt (04 R103). -/
def romTables (d : Dev) : Dev :=
  let after := restoreSeconds (buildIndex d)
  let d := if d.journal.restored then after else rebuildStamps after
  recomputeWhy (loadPhrases (loadCalibration (loadConfig d)))

/-! ### Steps 10 to 13 -/

/-- The newest last-gasp mark acted on, and acknowledged (17 R414). -/
def reviewMark (vs : List Bool) (d : Dev) : Dev × List Bool :=
  match d.ks.newest 0xFFFF with
  | none => (d, vs)
  | some r =>
    if r.flags.testBit 1 then (d, vs)
    else
      let sealed := r.flags.testBit 0
      let d := noteG 1 (if sealed then 11 else 3) d
      let d := queueEntry (d.entry 8 (flag (!sealed)) (r.v % 256) 0 (BitVec.ofNat 32 (r.v / 256))) d
      (logAppend 0xFFFF r.v 2 1 vs d).2

/-- CANDIDATE entries deleted at a boot that is not a trial (R326). -/
def dropCandidates (vs : List Bool) (d : Dev) : Dev × List Bool :=
  match d.headerNow with
  | some h =>
    if h.entries.any (fun e => e.st == 2) then
      (writeHeader (fun h => { h with entries := h.entries.filter (fun e => e.st != 2) }) vs d).2
    else (d, vs)
  | none => (d, vs)

/-- An epoch change ends: LCSTATE.TRANSIT clears once the ROM has performed step 4 of R298 (13 R313). -/
def endTransit (d : Dev) : Dev := modLc (fun l => { l with transit := false }) d

/-- The key store at boot (step 10): skipped in RETURN; locked without ROOT. -/
def romStore (meas : Bytes) (ver kind : Nat) (vs burns : List Bool) (d : Dev) : Dev :=
  if d.otp.lcCode = 3 then d
  else if !d.otp.rooted then lockStore 1 d
  else
    let r : Dev × List Bool :=
      if d.otp.row.hdr then (unlockFor meas ver (if kind = 1 then 2 else 1) d, vs)
      else
        let c := createHeader meas ver vs burns d
        (endTransit c.1, c.2.1)
    if !r.1.ks.ready then r.1
    else
      let q := if kind = 1 then r else dropCandidates r.2 r.1
      (reviewMark q.2 q.1).1

/-- A P-384 private key from a 448-bit output (12 R292). -/
def p384Key (c : Bytes) : Nat := beNat c % (p384.n - 1) + 1

/-- The public key of a P-384 private key. -/
def p384Pub (k : Nat) : Bytes := p384.encode (p384.mul k p384.g)

/-- The alias statement's payload (15 R362). -/
def Dev.aliasPayload (d : Dev) (pub meas : Bytes) (ver : Nat) : Bytes :=
  cborMap 6 ++ cborUint 1 ++ cborBytes pub ++ cborUint 2 ++ cborBytes uidBytes ++ cborUint 3
    ++ cborUint d.otp.rowIdx ++ cborUint 4 ++ cborUint d.otp.lcCode ++ cborUint 5 ++ cborBytes meas
    ++ cborUint 6 ++ cborUint ver

/-- The identity and alias keys (step 11): the nonce of the statement's signature is a draw of the DRBG,
or free while none can be made. -/
def romKeys (meas : Bytes) (ver : Nat) (d : Dev) : Dev :=
  if d.otp.lcCode = 3 || !d.otp.rooted then d
  else
    let id := p384Key (kdf d.otp.root "AY-DEVID" uidBytes 448)
    let al := p384Key (kdf d.otp.epochKey "AY-ALIAS" (meas ++ natBE 4 ver) 448)
    let g := if d.drbg.ready then d.drbg.generate 48 [] else (Config.freeBytes d.ctr 48, d.drbg)
    let d := { bump d with drbg := g.2 }
    let st := es384Sign (natBE 48 id) g.1 (d.aliasPayload (p384Pub al) meas ver)
    modKs (fun k => { k with aliasKey := natBE 48 al, aliasStmt := st.getD [], idPub := p384Pub id }) d

/-- BOOTSTAT (R346): RATCHETEND follows the epoch row. -/
def Dev.bootStatReg (d : Dev) : Word := putBit d.boot.bootStat 12 (d.lc.shown && d.otp.row.ratchet == 64)

/-- The program started (step 13): GSTAT.BOOT, PROGVER, PROGMEAS, the journal entry, the gate; a trial's
watchdog. -/
def romStart (meas : Bytes) (ver kind path : Nat) (d : Dev) : Dev :=
  let trial := kind == 1
  let per := d.bootRec.period
  let d := modBoot (fun b => { b with
    boot := kind, progVer := BitVec.ofNat 32 ver, progMeas := meas
    bootStat := putFld b.bootStat (at_ path 24) 25 24 }) d
  let d := if trial then startWatchdog per d else d
  let d := modDom 4 (fun x => { x with phase := .on }) d
  gateStart (queueEntry (d.entry 5 path ver d.trouble.why (bytesWord (meas.take 4))) d)

/-- A tamper input as the ROM finds it before it starts a program: one that still reads opened shows so again, and
sets BLOCK again where that is enabled for it (12 R301). -/
def reviewTamper (d : Dev) (i : Fin 2) : Dev :=
  let b := d.tamperByte i
  if b.testBit 0 && d.pins.tamper.getLsbD i.val then
    modLc (fun l => { l with
      tamperOpen := put2 l.tamperOpen i true, tamperBlock := l.tamperBlock || b.testBit 5 }) d
  else d

/-- Steps 9 to 13 for a program in SRAM. -/
def romFinish (slot : Nat) (kind path : Nat) (vs burns : List Bool) (d : Dev) : Dev :=
  let meas := d.measure slot
  let ver := d.version slot
  let d := [(0 : Fin 2), 1].foldl reviewTamper (romTables (bootBit 16 (slot == 1) d))
  romStart meas ver kind path (romKeys meas ver (romStore meas ver kind vs burns d))

/-- The code of the image in a slot put into program SRAM from address 0 (R322); the program stands at
its ENTRY. -/
def loadImage (slot : Nat) (d : Dev) : Dev :=
  let img := d.slotImage slot
  modBoot (fun b => { b with sram := Mem.write 0 [] 0 (img.drop 64), program := imgEntry img }) d

/-- The recovery loader starts. -/
def startLoader (d : Dev) : Dev :=
  modDom 4 (fun x => { x with phase := .on })
    (modBoot (fun b => { b with boot := 3, bootStat := putFld b.bootStat (at_ 2 24) 25 24 }) d)

/-- Steps 3 to 13, outside END. -/
def romRun (env : RomEnv) (d : Dev) : Dev :=
  let d := allEngs.foldl (bootKat env) d
  let u := startUp env.blocks d
  let d := if u.2.2.flashUp then readErases u.2.2 else u.2.2
  let f := firstStart u.2.1 env.burns (finishErase d)
  let d := if u.1 then (bootDrbg f.1 f.2.2).2 else f.2.2
  let d := if d.otp.rooted then d else modKs (fun k => { k with lock := 1 }) d
  let known := d.flash.known
  let q := d.bootRec.qdummy
  let d := bootBit 9 (known && (q < 4 || 15 < q)) (bootBit 8 (!known) (bootBit 1 env.recov d))
  let d := showSlot (bootBit 5 (!d.slotValid 1) (bootBit 4 (!d.slotValid 0) d))
  if env.recov || !known then startLoader d
  else
    let c := choose env.vfy f.2.1 d
    match c.1.slot with
    | none => startLoader c.1.d
    | some k => romFinish k c.1.kind c.1.path c.1.vs c.2 (loadImage k c.1.d)

/-- The ROM's run after a reset; in END it stops at step 2. -/
def romBoot (env : RomEnv) (d : Dev) : Dev :=
  if d.lc.shown then d
  else
    let d := romOtp d
    if d.otp.endFuse then modDom 4 (fun x => { x with phase := .on }) d else romRun env d

/-- ROM_BOOT: once after each reset that runs the ROM. -/
def execRomBoot (env : RomEnv) (s : State) : Out := onDev (romBoot env) s

end Sys2Proof.Machine
end

