-- ==== Sys2Proof/Machine/Loader.lean ====
section
/-!
DEFINITION. The recovery loader: its packets and its commands (14_boot_and_updates.md R328, R329).
-/

namespace Sys2Proof.Machine

/-- Whether the loader runs. -/
def Dev.loading (d : Dev) : Bool := d.boot.boot == 3 && d.gRun && (d.dom 2).phase == .on

/-- The packet of a command byte and a payload: its CRC-16 over CMD, LEN and payload. -/
def loaderPacket (cmd : Nat) (payload : Bytes) : Bytes :=
  let body := [BitVec.ofNat 8 cmd] ++ natBE 2 payload.length ++ payload
  [0xA7] ++ body ++ natBE 2 (crc16 body).toNat

/-- A response sent. -/
def respond (cmd : Nat) (payload : Bytes) (d : Dev) : Dev :=
  modBoot (fun b => { b with loaderOut := loaderPacket cmd payload }) d

/-- A request handled: before the loader has a rate nothing is heard. -/
def onLoader (f : Dev → Dev) (d : Dev) : Dev :=
  if d.loading && d.boot.loaderBaud.isSome then f d else d

/-- The rate taken, once until the next reset. -/
def autobaud (baud : Nat) (d : Dev) : Dev :=
  if d.loading && d.boot.loaderBaud.isNone && decide (115200 ≤ baud) && decide (baud ≤ 3000000) then
    modBoot (fun b => { b with loaderBaud := some baud }) d
  else d

/-- The device identification (00_scope.md R1). -/
def devId : Word := 0x7416B040

/-- INFO. -/
def loaderInfo (d : Dev) : Dev :=
  respond 0x81 ([0x00] ++ wordBytes devId ++ uidBytes ++ natBE 1 d.lc.lcstate ++ natBE 1 d.otp.rowIdx
    ++ wordBytes d.bootStatReg) d

/-- DATA: image bytes at an offset counted from the image header. -/
def loaderData (off : Word) (data : Bytes) (d : Dev) : Dev :=
  if data.length % 4 != 0 || decide (262144 < off.toNat + data.length) || data.length == 0
      || decide (4092 < data.length) then
    respond 0x82 [0x02] d
  else
    respond 0x82 [0x00] (modBoot (fun b => { b with sram := b.sram.write 0 off.toNat data }) d)

/-- Whether the boot record's RETURN list holds a measurement and version. -/
def BootRec.lists (r : BootRec) (meas : Bytes) (ver : Nat) : Bool :=
  (List.range 4).any (fun i =>
    slice (52 * i) 48 r.ret == meas && beNat (slice (52 * i + 48) 4 r.ret) == ver)

/-- Whether a valid image is accepted in the life-cycle state (R329). -/
def Dev.accepts (d : Dev) (meas : Bytes) (ver : Nat) : Bool :=
  let c := d.otp.lcCode
  if c = 0 then true
  else if c = 3 then d.bootRec.lists meas ver
  else if d.otp.row.hdr then d.mayUnlock && d.unlocks meas ver 1
  else true

/-- The slot an accepted image is written to. -/
def Dev.loaderSlot (d : Dev) : Nat :=
  match d.slotValid 0, d.slotValid 1 with
  | false, true => 0
  | true, false => 1
  | _, _ => 1 - d.bootRec.active

/-- An accepted image: slot, boot record, OK, the ROM's sequence from step 9. -/
def loaderAccept (img : Bytes) (vfy burns : List Bool) (d : Dev) : Dev :=
  let k := d.loaderSlot
  let o := d.outcome vfy
  let d := flashProgram (progBase k) img o.1 (flashErase (progBase k) 64 d)
  if !o.1 then respond 0x83 [0x05] d
  else
    let r := writeBootRec { d.bootRec with active := k, trial := 0 } o.2 d
    if !r.1 then respond 0x83 [0x05] r.2.1
    else romFinish k 2 2 r.2.2 burns (loadImage k (respond 0x83 [0x00] r.2.1))

/-- COMMIT. -/
def loaderCommit (len : Word) (vfy burns : List Bool) (d : Dev) : Dev :=
  let img := d.boot.sram.read 0 0 (min len.toNat 262144)
  if !imgValid (img.take 64) || len.toNat != 64 + imgLen img then respond 0x83 [0x03] d
  else if !d.accepts (sha384 img) (imgVer img) then respond 0x83 [0x04] (bootBit 0 true d)
  else loaderAccept img vfy burns d

/-- A packet that fails its CRC, or whose command is unknown. -/
def loaderBad (crcOk : Bool) (d : Dev) : Dev := respond 0xFF [if crcOk then 0x06 else 0x01] d

/-- RESET: the response, then a SOFT reset. -/
def loaderReset (d : Dev) : Dev := respond 0x84 [0x00] (softReset d)

/-- Bytes arrive at U_RXD: the falling edge of the first is the wake source U_RXD (16 Table 16.6), and the loader, where
it runs, handles what they spell. -/
def onUart (f : Dev → Dev) (s : State) : Out := onDev (fun d => wakes [2] (f d)) s

/-- LOADER_AUTOBAUD: two or more 0x55 bytes at a rate. -/
def execLoaderAutobaud (baud : Nat) (s : State) : Out := onUart (autobaud baud) s

/-- LOADER_INFO. -/
def execLoaderInfo (s : State) : Out := onUart (onLoader loaderInfo) s

/-- LOADER_DATA. -/
def execLoaderData (off : Word) (data : Bytes) (s : State) : Out := onUart (onLoader (loaderData off data)) s

/-- LOADER_COMMIT. -/
def execLoaderCommit (len : Word) (vfy burns : List Bool) (s : State) : Out :=
  onUart (onLoader (loaderCommit len vfy burns)) s

/-- LOADER_BAD_PACKET. -/
def execLoaderBadPacket (crcOk : Bool) (s : State) : Out := onUart (onLoader (loaderBad crcOk)) s

/-- LOADER_PACKET_TIMEOUT: the packet is discarded, nothing is sent. -/
def execLoaderPacketTimeout (s : State) : Out := onDev (onLoader (fun d => d)) s

/-- LOADER_RESET. -/
def execLoaderReset (s : State) : Out := onUart (onLoader loaderReset) s

end Sys2Proof.Machine
end

