-- ==== Sys2Proof/Machine/Regs.lean ====
section
/-!
DEFINITION. The registers of the link by address: what each reads as, and what a committed write of each
does (20_register_index.md; 05_channels.md R114; the register sections of every chapter).
-/

namespace Sys2Proof.Machine

/-! ### Reads of the four control pages -/

/-- Whether `a` is a member of a set of `n` registers from `base` on. -/
def inWords (a base n : Nat) : Bool := base ≤ a && a < base + 4 * n

/-- The member of a set an address names. -/
def setIx (a base : Nat) : Nat := (a - base) / 4

/-- The word `i` of a byte string, zeros beyond its end. -/
def strWord (bs : Bytes) (i : Nat) : Word := bytesWord (padTo 4 (slice (4 * i) 4 bs))

/-- The global page, but for GSTAT and HLCFG, which depend on the port (Table 20.2). -/
def Dev.globalReg (d : Dev) (a : Nat) : Word :=
  if a = 0x008 then devId
  else if inWords a 0x00C 4 then strWord uidBytes (setIx a 0x00C)
  else if a = 0x020 then d.trouble.maskA
  else if a = 0x024 then d.trouble.maskB
  else if inWords a 0x030 4 then d.trouble.g (setIx a 0x030)
  else if a = 0x040 then d.trouble.why
  else if a = 0x044 then d.health
  else if a = 0x050 then d.engSvc
  else if a = 0x058 then d.sched.cfg
  else if inWords a 0x060 4 then vget d.sched.weights (setIx a 0x060) 0
  else if inWords a 0x084 4 then vget d.boot.mgmtArg (setIx a 0x084) 0
  else if a = 0x094 then d.boot.mgmtRes
  else if a = 0x0A0 then d.gate.stat
  else if a = 0x0A4 then d.gate.page
  else if a = 0x0A8 then d.higInfo
  else if a = 0x0AC then d.gate.ver
  else if inWords a 0x300 64 then vget d.supply.mailbox (setIx a 0x300) 0
  else 0

/-- The power and supply page (Table 20.3). -/
def Dev.powerReg (d : Dev) (a : Nat) : Word :=
  if a = 0x400 then at_ (flag d.power.keepKeys) 8
  else if a = 0x404 then d.pwrStatReg
  else if a = 0x408 then d.power.wakeCfg
  else if a = 0x40C then d.power.wakeStat
  else if a = 0x410 then d.power.wakeTmr
  else if a = 0x414 then d.clocks.clkCfg
  else if a = 0x418 then d.clkStatReg
  else if inWords a 0x420 5 then vget d.power.req (setIx a 0x420) 0
  else if inWords a 0x440 5 then vget d.power.deny (setIx a 0x440) 0
  else if inWords a 0x460 5 then d.keepReg (setIx a 0x460)
  else if inWords a 0x480 5 then d.domStat (setIx a 0x480)
  else if inWords a 0x4A0 5 then d.domFail (setIx a 0x4A0)
  else if inWords a 0x500 32 then vget d.power.seq (setIx a 0x500) 0
  else if a = 0x580 then d.supVin
  else if a = 0x584 then d.supHold
  else if a = 0x588 then d.supply.supCfg
  else if a = 0x58C then d.supply.pfwCfg
  else if a = 0x590 then d.cfg.lgCfg
  else if a = 0x594 then d.rideStat
  else if a = 0x598 then d.lgStatReg
  else if inWords a 0x5C0 16 then (vget d.supply.ride (setIx a 0x5C0) ⟨0, .idle, 0⟩).reg
  else if inWords a 0x600 6 then vget d.clocks.calib (setIx a 0x600) 0
  else if a = 0x618 then d.calStat
  else if a = 0x61C then d.clocks.temp
  else 0

/-- CONFIRM_TMR (14 R347). -/
def Dev.confirmTmr (d : Dev) : Word :=
  at_ (flag d.boot.confirmRun) 31
    ||| at_ (if d.boot.confirmRun then d.boot.remain (Config.freeNat d.ctr) % 65536 else 0) 0

/-- The key store and life-cycle page (Table 20.4). -/
def Dev.lifeReg (d : Dev) (a : Nat) : Word :=
  if a = 0x800 then d.lcStateReg
  else if a = 0x804 then d.lc.lcreq
  else if a = 0x808 then d.epochs
  else if a = 0x80C then d.ksStat
  else if a = 0x810 then d.dbgStat
  else if a = 0x820 then d.bootStatReg
  else if a = 0x824 then d.boot.progVer
  else if inWords a 0x828 12 then strWord d.boot.progMeas (setIx a 0x828)
  else if a = 0x860 then d.confirmTmr
  else if a = 0x880 then d.cfg.tamperCfg
  else if a = 0x884 then d.tamperStat
  else if inWords a 0x890 8 then d.lcNonceWord (setIx a 0x890)
  else if a = 0x8C0 then d.presigReg
  else if inWords a 0x8D0 12 then (if d.lc.shown then strWord d.otp.row.ownerHash (setIx a 0x8D0) else 0)
  else if inWords a 0x900 16 then vget d.cfg.chcfgt (setIx a 0x900) 0
  else if a = 0x940 then d.chcfgStat
  else 0

/-- The diagnostic page (Table 20.5). -/
def Dev.diagReg (d : Dev) (a : Nat) : Word :=
  if a = 0xC00 then d.journal.jstat
  else if a = 0xC04 then at_ d.journal.jnewest 0
  else if a = 0xC08 then at_ d.journal.joldest 0
  else if a = 0xC0C then d.journal.jsel
  else if a = 0xC10 then at_ d.journal.jdrop 0
  else if a = 0xC14 then d.journal.seconds
  else if inWords a 0xC20 8 then vget d.journal.jent (setIx a 0xC20) 0
  else if a = 0xC40 then d.poolStat0
  else if a = 0xC44 then d.poolStat1
  else if a = 0xC48 then d.poolStat2
  else if a = 0xC4C then d.poolBankF
  else if a = 0xC50 then d.engKatf
  else if a = 0xC54 then d.engAct
  else if a = 0xC60 then d.drbgStat
  else if a = 0xC70 then d.bnStat
  else if a = 0xC84 then d.ptStat
  else if a = 0xC90 then d.entropy.stat
  else 0

/-- A word of the control pages below 0x1000. -/
def Dev.pageReg (d : Dev) (a : Nat) : Word :=
  if a < 0x400 then d.globalReg a
  else if a < 0x800 then d.powerReg a
  else if a < 0xC00 then d.lifeReg a
  else d.diagReg a

/-! ### Reads of a channel page -/

/-- CH_STAT (Table 05.9). -/
def Chan.stat (c : Chan) : Word :=
  at_ c.susp 16 ||| at_ c.openErr 4 ||| at_ (flag c.nonceV) 3 ||| at_ c.state.code 0

/-- Whether RSA key generation of a channel runs on a core: its progress is stated (11 R261). -/
def Dev.inRounds (d : Dev) (n : Chn) (k : Nat) : Bool :=
  (d.chan n).sents.any (fun s => match s.job with
    | some j => coreOf j.engine == some k && j.primes.isSome
    | none => false)

/-- CH_PROGk (10 R251): DONE of a running job is a free value, since its steps are not counted, but for a job in
rounds. -/
def Dev.progReg (d : Dev) (n : Chn) (k : Nat) : Word :=
  let p := vget (d.chan n).prog k ⟨false, 0, 0⟩
  let own := (vget d.cores k ⟨none, [], false⟩).owner == some n
  at_ (flag p.active) 31 ||| at_ (flag own) 30
    ||| at_ (if p.active && !d.inRounds n k then Config.freeNat d.ctr % 256 else p.done) 16 ||| p.tag.setWidth 32

/-- The registers that answer in every state, CH_NONCE and CH_OPENRESP among them outside OPEN and
DRAINING (Table 05.3). -/
def Dev.chanAlways (d : Dev) (n : Chn) (off : Nat) : Word :=
  let c := d.chan n
  if off = 0x004 then c.stat
  else if off = 0x008 then c.sticky
  else if off = 0x00C then c.cfg
  else if c.state.active then 0
  else if inWords off 0x010 8 then strWord c.nonce (setIx off 0x010)
  else if inWords off 0x030 8 then vget c.resp (setIx off 0x030) 0
  else 0

/-- The registers that answer in OPEN and DRAINING. -/
def Dev.chanOpen (d : Dev) (n : Chn) (off : Nat) : Word :=
  let c := d.chan n
  if off = 0x050 then at_ c.quota 0
  else if off = 0x054 then at_ (d.infl n) 16 ||| at_ (d.held n) 0
  else if off = 0x05C then c.allocReg
  else if off = 0x064 then at_ c.rings.split 0
  else if 0x080 ≤ off && off < 0x100 then d.ringReg n (.ofNum ((off - 0x080) / 0x20)) (off % 0x20)
  else if off = 0x104 then c.stream.stat
  else if inWords off 0x110 4 then d.progReg n (setIx off 0x110)
  else 0

/-- A word of channel page `n` (Tables 05.3, 20.6). -/
def Dev.chanReg (d : Dev) (n : Chn) (off : Nat) : Word :=
  if off < 0x050 then d.chanAlways n off else if (d.chan n).state.active then d.chanOpen n off else 0

/-! ### Committed writes: plain registers -/

/-- The bits of ATTNMASK_A and ATTNMASK_B (Table 04.2). -/
def maskBits : Word := 0xF000FFFF

/-- A write of GSTICKYk: ones clear; the count INVAR as a whole (04 R93). -/
def writeSticky (k : Nat) (w : Word) (d : Dev) : Dev :=
  let w := if k = 2 && fld w 2 0 != 0 then w ||| 7 else w
  { d with trouble := d.trouble.setG k (d.trouble.g k &&& ~~~w) }

/-- A write of MGMT_ARGk. -/
def writeMgmtArg (k : Nat) (w : Word) (d : Dev) : Dev :=
  modBoot (fun b => { b with mgmtArg := vset b.mgmtArg k w }) d

/-- A write of HIGSTAT: MISSRD. -/
def writeHigStat (w : Word) (d : Dev) : Dev :=
  if bit w 27 then modGate (fun g => { g with stat := clrBit g.stat 27 }) d else d

/-- A write of WAKESTAT: the source bits. -/
def writeWakeStat (w : Word) (d : Dev) : Dev :=
  modPow (fun p => { p with wakeStat := p.wakeStat &&& ~~~(w &&& 0xFF) }) d

/-- A write of ENGCMD (08 R187): a reserved OP does nothing and sets RSVDVAL. -/
def writeEngCmd (w : Word) (d : Dev) : Dev :=
  let e : Eng := ⟨fld w 3 0 % 16, Nat.mod_lt _ (by decide)⟩
  match fld w 9 8 with
  | 1 => engOut e d
  | 2 => engIn e d
  | _ => noteLink .A 12 d

/-- A write of MGMT_CMD (Table 14.7): any other code is a reserved value. -/
def writeMgmtCmd (w : Word) (d : Dev) : Dev :=
  match fld w 7 0 with
  | 1 => endorse d
  | 2 => confirm d
  | 3 => mgmtLcRequest d
  | 4 => restoreFactory d
  | 5 => calsave d
  | 6 => hostimgStage d
  | 7 => hostimgActivate d
  | 8 => softReset d
  | 9 => checkpoint d
  | _ => noteLink .A 12 d

/-! ### Committed writes by page -/

/-- A write to the global page, HLCFG apart. -/
def writeGlobal (a : Nat) (w : Word) (d : Dev) : Dev :=
  if a = 0x020 then { d with trouble := { d.trouble with maskA := w &&& maskBits } }
  else if a = 0x024 then { d with trouble := { d.trouble with maskB := w &&& maskBits } }
  else if inWords a 0x030 4 then writeSticky (setIx a 0x030) w d
  else if a = 0x054 then writeEngCmd w d
  else if a = 0x058 then writeSchedCfg w d
  else if inWords a 0x060 4 then writeSchedW (setIx a 0x060) w d
  else if a = 0x080 then writeMgmtCmd w d
  else if inWords a 0x084 4 then writeMgmtArg (setIx a 0x084) w d
  else if a = 0x0A0 then writeHigStat w d
  else if a = 0x0A4 then writeHigPage w d
  else d

/-- A write to the power and supply page. -/
def writePower (a : Nat) (w : Word) (d : Dev) : Dev :=
  if a = 0x400 then writePwrctl [] w d
  else if a = 0x408 then modPow (fun p => { p with wakeCfg := w &&& 0xF }) d
  else if a = 0x40C then writeWakeStat w d
  else if a = 0x410 then modPow (fun p => { p with wakeTmr := w }) d
  else if a = 0x414 then writeFsel w d
  else if 0x420 ≤ a && a ≤ 0x470 then domainControl a w d
  else if inWords a 0x500 32 then writeSeq_ (setIx a 0x500) w d
  else if a = 0x588 then writeSupCfg w d
  else if a = 0x58C then writePfwCfg w d
  else if a = 0x590 then writeLgCfg w d
  else if inWords a 0x5C0 16 then writeRide ⟨setIx a 0x5C0 % 16, Nat.mod_lt _ (by decide)⟩ w d
  else if inWords a 0x604 5 then writeCalib (setIx a 0x600) w d
  else d

/-- A write to the key store and life-cycle page. -/
def writeLife (a : Nat) (w : Word) (d : Dev) : Dev :=
  if a = 0x804 then writeLcreq w d
  else if a = 0x880 then writeTamperCfg w d
  else if a = 0x884 then (if bit w 16 then tamperAck d else d)
  else if inWords a 0x900 16 then writeChcfgt .A ⟨setIx a 0x900 % 16, Nat.mod_lt _ (by decide)⟩ w d
  else if inWords a 0xA00 128 then writeToken (setIx a 0xA00) w d
  else d

/-- A write to the diagnostic page. -/
def writeDiag (a : Nat) (w : Word) (d : Dev) : Dev :=
  if a = 0xC0C then writeJsel w d
  else if a = 0xC80 then ptLoad w d
  else d

/-- A write to a control page below 0x1000, HLCFG apart. -/
def writePage (a : Nat) (w : Word) (d : Dev) : Dev :=
  if a < 0x400 then writeGlobal a w d
  else if a < 0x800 then writePower a w d
  else if a < 0xC00 then writeLife a w d
  else writeDiag a w d

/-- A write of CH_CTL: its bits in ascending order (00_scope.md R14). -/
def writeChCtl (n : Chn) (w : Word) (d : Dev) : Dev :=
  let d := if bit w 0 then chOpen n d else d
  let d := if bit w 1 then chResp n d else d
  let d := if bit w 2 then chClose n d else d
  if bit w 3 then chReset n d else d

/-- A write of CH_OPENRESPk, live outside OPEN and DRAINING. -/
def writeResp (n : Chn) (k : Nat) (w : Word) (d : Dev) : Dev :=
  if (d.chan n).state.active then d else modChan n (fun c => { c with resp := vset c.resp k w }) d

/-- A write of CH_ABORT. -/
def writeAbort (n : Chn) (w : Word) (d : Dev) : Dev := if bit w 31 then abortAll n d else abortTag n (lo16 w) d

/-- A write to channel page `n` by a port (Table 20.6). -/
def writeChan (p : Port) (n : Chn) (off : Nat) (w : Word) (d : Dev) : Dev :=
  if off = 0x000 then writeChCtl n w d
  else if off = 0x008 then modChan n (fun c => { c with sticky := c.sticky &&& ~~~w }) d
  else if inWords off 0x030 8 then writeResp n (setIx off 0x030) w d
  else if off = 0x058 then chAlloc n (fld w 6 0) p d
  else if off = 0x060 then chFree n (lo16 w) d
  else if off = 0x08C then subTail n true (fld w 13 0) d
  else if off = 0x0AC then subTail n false (fld w 13 0) d
  else if off = 0x0C8 then cplHead n (fld w 13 0) d
  else if off = 0x0E8 then outHead n (fld w 13 0) d
  else if off = 0x100 then bankCtl n w d
  else if off = 0x120 then writeAbort n w d
  else d

end Sys2Proof.Machine
end

