-- ==== Sys2Proof/Machine/Link.lean ====
section
/-!
DEFINITION. The host link: frames, views, windows, the capture and the commit of writes, OUTREAD and SKIP,
frame faults, the fallback; DBGACC, which reaches the same words (03_host_link.md R50–R84; 07 R167, R171;
12 R301; 13 R316).
-/

namespace Sys2Proof.Machine

/-! ### Port shells -/

/-- The shell of a port. -/
def Shell.port (x : Shell) : Port → PortShell
  | .A => x.a
  | .B => x.b

/-- The shell of a port changed. -/
def Shell.mod (x : Shell) (p : Port) (f : PortShell → PortShell) : Shell :=
  match p with
  | .A => { x with a := f x.a }
  | .B => { x with b := f x.b }

/-- The shell of a port of the machine changed. -/
def State.modPort (s : State) (p : Port) (f : PortShell → PortShell) : State := { s with shell := s.shell.mod p f }

/-- HLCFG of a port. -/
def State.hlcfg (s : State) (p : Port) : Word := (s.shell.port p).hlcfg

/-- The core changed, outside any reset: a frame's records and page requests. -/
def State.setDev (s : State) (d : Dev) : State := { s with dev := d }

/-- Whether a port answers frames: port B with its bank up and its domain on (R30, R70). -/
def Dev.served (d : Dev) : Port → Bool
  | .A => !d.inPor
  | .B => !d.inPor && (d.dom 1).phase == .on && d.pins.bank[1].isSome

/-- GSTAT as a port sees it (R80). -/
def State.gstat (s : State) (p : Port) : Word :=
  s.dev.gstat (!(s.shell.port p).slots.isEmpty) (fun n => s.dev.bound n == p)

/-- A write of HLCFG: LAT above 8 and MODE above 1 are reserved; BLAT is port A's (Table 03.7). -/
def hlcfgMerge (p : Port) (old w : Word) : Word × Bool :=
  keepIf (8 < fld w 11 8) 11 8 old
    (keepIf (1 < fld w 1 0) 1 0 old (w &&& (match p with | .A => 0x00FF0F0F | .B => 0x00000F0F), false))

/-- HLCFG of a port written. -/
def State.writeHl (s : State) (p : Port) (w : Word) : State :=
  let m := hlcfgMerge p (s.hlcfg p) w
  (s.modPort p (fun x => { x with hlcfg := m.1 })).setDev (noteIf p m.2 s.dev)

/-! ### Regions (Tables 03.4, 20.7) -/

/-- The first address after the confinement unit that holds an address (R61). -/
def unitEnd (a : Nat) : Nat :=
  if a < 0x1000 then a / 0x400 * 0x400 + 0x400
  else if a < 0x10000 then 0x10000
  else if a < 0x20000 then a / 0x1000 * 0x1000 + 0x1000
  else if a < 0x100000 then 0x100000
  else if a < 0x180000 then a / 0x4000 * 0x4000 + 0x4000
  else if a < 0x200000 then 0x200000
  else if a < 0x400000 then 0x400000
  else if a < 0xC00000 then 0xC00000
  else 0x1000000

/-- The windows, with the channel and the offset a word has in each. -/
inductive Win where
  | ring (n : Chn) (off : Nat)
  | stream (n : Chn) (off : Nat)
  | pool (off : Nat)
  | boot (off : Nat)
  deriving DecidableEq, Repr

/-- The channel of a number. -/
def chn (k : Nat) : Chn := ⟨k % 16, Nat.mod_lt _ (by decide)⟩

/-- The channel an address names for STREAM, OUTREAD and SKIP (R54). -/
def addrChn (a : Nat) : Chn := chn (a / 0x4000)

/-- The window an address lies in. -/
def winOf (a : Nat) : Option Win :=
  if 0x100000 ≤ a ∧ a < 0x140000 then some (.ring (addrChn a) (a % 0x4000))
  else if 0x140000 ≤ a ∧ a < 0x180000 then some (.stream (addrChn a) (a % 0x4000))
  else if 0x200000 ≤ a ∧ a < 0x400000 then some (.pool (a - 0x200000))
  else if 0x400000 ≤ a ∧ a < 0xC00000 then some (.boot (a - 0x400000))
  else none

/-- The filler words of a frame that starts at an address (R71). -/
def fillers (hl : Word) (a : Nat) : Nat :=
  match winOf a with
  | some (.boot _) => fld hl 23 16
  | some _ => fld hl 11 8
  | none => 0

/-! ### Who reads and writes -/

/-- Who reaches a word: a port, or DBGACC (none), which acts as port A and is not bound by R78 and R81. -/
abbrev Via := Option Port

/-- A bit of GSTICKY0 recorded for a port's frame; DBGACC records none. -/
def noteVia (v : Via) (b : Nat) (d : Dev) : Dev :=
  match v with
  | some p => noteLink p b d
  | none => d

/-- Whether the words of a channel lie in the view. -/
def Dev.sees (d : Dev) (v : Via) (n : Chn) : Bool :=
  match v with
  | some p => d.bound n == p
  | none => true

/-- The addresses port A still reaches under BLOCK (12 R301). -/
def blockServed (a : Nat) : Bool :=
  a == 0x000 || a == 0x008 || inWords a 0x00C 4 || inWords a 0x030 4 || a == 0x040 || a == 0x884

/-- Whether BLOCK keeps a word from a reader. -/
def Dev.blocked (d : Dev) (v : Via) (a : Nat) : Bool := v != some .B && d.lc.tamperBlock && !blockServed a

/-- The words of the control pages port B sees (R79). -/
def portBSees (a : Nat) : Bool := a == 0x000 || a == 0x01C || inWords a 0x300 64

/-- The words both ports still answer in END (R82). -/
def endServes (v : Via) (a : Nat) : Bool := a == 0x000 || (a == 0x008 && v != some .B)

/-- Whether a control or unmapped word lies in the view (R78, R79, R301). -/
def Dev.ctlSeen (d : Dev) (v : Via) (a : Nat) : Bool :=
  !d.blocked v a && (if 0x10000 ≤ a ∧ a < 0x20000 then d.sees v (chn (a / 0x1000))
    else v != some .B || portBSees a)

/-- The port whose GSTAT and HLCFG a reader sees. -/
def Via.face (v : Via) : Port := v.getD .A

/-- A control word: holes and unmapped words read 0 (R62). -/
def State.ctlWord (s : State) (v : Via) (a : Nat) : Word :=
  if s.dev.otp.endFuse && !endServes v a then 0
  else if !s.dev.ctlSeen v a then 0
  else if a = 0x000 then s.gstat v.face
  else if a = 0x01C then s.hlcfg v.face
  else if a < 0x1000 then s.dev.pageReg a
  else if 0x10000 ≤ a ∧ a < 0x20000 then s.dev.chanReg (chn (a / 0x1000)) (a % 0x1000)
  else 0

/-! ### Window words -/

/-- Whether a domain is off and not being switched on. -/
def Dev.domOff (d : Dev) (x : Nat) : Bool :=
  match (d.dom x).phase with
  | .off => true
  | .down _ => true
  | _ => false

/-- How a window word comes out of its memory: late, with a corrected or an uncorrectable error. -/
structure WordLuck where
  late : Bool
  corrected : Bool
  broken : Bool
  deriving DecidableEq, Repr

/-- A word of a memory that answers: WINOFF and WINLATE first, then its errors. -/
def takeWord (v : Via) (stop : Bool) (dom : Nat) (owner : Chn) (u : WordLuck) (w : Word) (d : Dev) : Word × Dev :=
  if stop || d.domOff dom then (0, noteVia v 9 d)
  else if u.late then (0, noteVia v 8 d)
  else if u.broken then (0, noteUncorrectable (some owner) 0 0 d)
  else (w, if u.corrected then noteCorrected d else d)

/-- What a pool word meets: for DBGACC any live buffer serves. -/
def Dev.poolMeets (d : Dev) (v : Via) (off : Nat) : PoolHit :=
  match v with
  | some p => d.poolHit p off
  | none =>
    match d.pool.holder (off / 512) with
    | some b => if b.st == .live then .served b.owner else .nothing
    | none => .nothing

/-- An uncorrectable word of the pool marked until it is written whole. -/
def markBroken (off : Nat) (d : Dev) : Dev :=
  if d.pool.broken.contains off then d else { d with pool := { d.pool with broken := off :: d.pool.broken } }

/-- A window word read: its value, the core after it, and whether every later word of the frame reads 0. Beyond the view,
an off domain comes first; but for the pool, where the checks of 07 R167 do (R69). -/
def readWin (v : Via) (stop : Bool) (u : WordLuck) (win : Win) (d : Dev) : Word × Dev × Bool :=
  match win with
  | .ring n off =>
    if !d.sees v n then (0, noteVia v 6 d, false)
    else if stop || d.domOff (44 + n.val) then (0, noteVia v 9 d, false)
    else if v.isSome && !(d.chan n).state.active then (0, d, false)
    else
      let r := takeWord v stop (44 + n.val) n u ((d.chan n).rings.mem.word 0 off) d
      (r.1, r.2, false)
  | .stream n off =>
    if !d.sees v n then (0, noteVia v 6 d, false)
    else if stop || d.domOff (92 + 2 * n.val + off / 0x2000) then (0, noteVia v 9 d, false)
    else if v.isSome && !(d.chan n).state.active then (0, d, false)
    else
      let r := takeWord v stop (92 + 2 * n.val + off / 0x2000) n u ((d.chan n).stream.mem.word 0 off) d
      (r.1, r.2, false)
  | .pool off =>
    if stop then (0, noteVia v 9 d, false)
    else
      match d.poolMeets v off with
      | .view => (0, noteVia v 6 d, false)
      | .nothing => (0, d, false)
      | .served n =>
        let u := { u with broken := u.broken || d.pool.broken.contains off }
        let r := takeWord v false (60 + off / 65536) n u (d.pool.mem.word 0 off) d
        (r.1, if u.broken && !u.late && !d.domOff (60 + off / 65536) then markBroken off r.2 else r.2, false)
  | .boot off =>
    if v == some .B then (0, noteVia v 6 d, false)
    else if stop || d.domOff 3 then (0, noteVia v 9 d, false)
    else if u.late then (0, noteVia v 8 d, false)
    else
      let r := readBoot off d
      (r.1, r.2.2, !r.2.1)

/-! ### READ and STATUS (R56, R57, R71, R83) -/

/-- The words of a window READ from address `a` on, `k` of them, `i` being the next data word. -/
def readWords (p : Port) (f : ReadFrame) (stop : Bool) (lim : Nat) : Nat → Nat → Bool → Dev → List Word × Dev
  | 0, _, _, d => ([], d)
  | k + 1, i, dead, d =>
    let a := f.addr.toNat + 4 * i
    let late := match f.late with
      | some l => decide (l ≤ i)
      | none => false
    let r : Word × Dev × Bool :=
      if lim ≤ a then (0, noteLink p 5 d, dead)
      else if d.otp.endFuse then (0, d, dead)
      else if d.blocked (some p) a then (0, noteLink p 6 d, dead)
      else if dead then (0, d, true)
      else
        match winOf a with
        | some w => readWin (some p) stop ⟨late, f.corrected.contains i, f.broken.contains i⟩ w d
        | none => (0, d, dead)
    let q := readWords p f stop lim k (i + 1) r.2.2 r.2.1
    (r.1 :: q.1, q.2)

/-- The bits a control word of a frame records. -/
def noteCtl (p : Port) (lim a : Nat) (d : Dev) : Dev :=
  if lim ≤ a then noteLink p 5 d
  else if d.otp.endFuse then d
  else if d.ctlSeen (some p) a then d
  else noteLink p 6 d

/-- The control words of a READ, all from the one snapshot (R64), and what they record. -/
def ctlWords (s : State) (p : Port) (f : ReadFrame) (lim n : Nat) : List Word × Dev :=
  let as := (List.range n).map (fun i => f.addr.toNat + 4 * i)
  (as.map (fun a => if lim ≤ a then 0 else s.ctlWord (some p) a), as.foldl (fun d a => noteCtl p lim a d) s.dev)

/-- The header of a frame. -/
def header (cmd : Nat) (addr : BitVec 24) (cnt : BitVec 8) : Bytes :=
  [BitVec.ofNat 8 cmd, BitVec.ofNat 8 (255 - cmd)] ++ natBE 3 addr.toNat ++ natBE 1 cnt.toNat

/-- What the device drives: GSTAT, fillers, the data words clocked, and the trailer when CRC is enabled and
every word was clocked (R55, R58). -/
def drives (s : State) (p : Port) (hdr : Bytes) (fill owed : Nat) (ws : List Word) : List Word :=
  let body := [s.gstat p] ++ List.replicate fill 0 ++ ws
  if bit (s.hlcfg p) 2 && decide (owed ≤ ws.length) then body ++ [bytesWord (crcCheck (hdr ++ wordsBytes body))]
  else body

/-- A fallback that is due applies from the next frame (R84). DESIGN CHOICE (log entry 54): the count of bad headers
starts again at 0 once it applies; R84 names a good header alone. -/
def State.fallback (s : State) (p : Port) : State :=
  let x := s.shell.port p
  if 4 ≤ x.badHdr && bit x.hlcfg 3 then
    (s.modPort p (fun x => { x with hlcfg := putFld x.hlcfg 0 2 0, badHdr := 0 })).setDev (noteLink p 10 s.dev)
  else s

/-- The wake source a port's CS# is (16 Table 16.6). -/
def csWake : Port → Nat
  | .A => 0
  | .B => 1

/-- CS# of a port has fallen: the frame sees the core as it was then, and the edge wakes it (R69, 16 R386). -/
def State.woken (s : State) (p : Port) : State := s.setDev (wakes [csWake p] s.dev)

/-- A frame with a good header: a due fallback, the count of bad headers back at 0, the frame, its wake. -/
def onFrame (p : Port) (f : State → State) (s : State) : Out :=
  .next (if s.dev.served p then (f ((s.fallback p).modPort p (fun x => { x with badHdr := 0 }))).woken p else s)

/-- The words a read-class frame drove, and what it recorded. -/
def State.answer (s : State) (p : Port) (ws : List Word) (d : Dev) : State :=
  (s.modPort p (fun x => { x with out := ws })).setDev d

/-- A data word is missing: CS# rose early with CRC disabled. -/
def noteShort (s : State) (p : Port) (f : ReadFrame) (d : Dev) : Dev :=
  if !bit (s.hlcfg p) 2 && decide (f.clocked < f.cnt.toNat + 1) then noteLink p 4 d else d

/-- A READ frame. -/
def readFrame (p : Port) (f : ReadFrame) (s : State) : State :=
  let n := f.cnt.toNat + 1
  let k := min f.clocked n
  let a := f.addr.toNat
  let hdr := header 0xA1 f.addr f.cnt
  if a % 4 != 0 then
    s.answer p (drives s p hdr (fillers (s.hlcfg p) a) n (List.replicate k 0)) (noteLink p 3 s.dev)
  else
    let r := match winOf a with
      | some _ => readWords p f (!s.dev.gRun) (unitEnd a) k 0 false s.dev
      | none => ctlWords s p f (unitEnd a) k
    s.answer p (drives s p hdr (fillers (s.hlcfg p) a) n r.1) (noteShort s p f r.2)

/-- READ. -/
def execRead (p : Port) (f : ReadFrame) (s : State) : Out := onFrame p (readFrame p f) s

/-- A STATUS frame: GSTAT and the trailer, of which the host clocked `f.clocked` words; the trailer covers the address
and CNT bytes as received (R56, R58). CS# rising within GSTAT records SHORT (R83). -/
def statusFrame (p : Port) (f : ReadFrame) (s : State) : State :=
  let ws := (drives s p (header 0xA5 f.addr f.cnt) 0 0 []).take f.clocked
  s.answer p ws (if !bit (s.hlcfg p) 2 && f.clocked == 0 then noteLink p 4 s.dev else s.dev)

/-- STATUS. -/
def execStatus (f : StatusFrame) (s : State) : Out := onFrame f.port (statusFrame f.port f.frame) s

/-! ### OUTREAD (R75) -/

/-- The record at OUT_HEAD when it is sealed: its offset and its words, the length word included. -/
def Rings.headRec (r : Rings) : Option (Nat × Nat) :=
  match dropPads r.starts with
  | (st, _) :: l =>
    let next := match l with
      | (x, _) :: _ => x
      | [] => r.out.tail.nat
    some (st, ((if st < next then next else r.out.size) - st) / 4)
  | [] => none

/-- The word at a position of the record at OUT_HEAD. -/
def Rings.outWord (r : Rings) (pos : Nat) : Word :=
  match r.headRec with
  | some (st, n) => if pos < n then r.mem.word 0 (r.out.base + st + 4 * pos) else 0
  | none =>
    match r.openRec with
    | some o =>
      let off := 4 * (pos - 1)
      if pos = 0 ∨ o.written ≤ off then 0
      else bytesWord (padTo 4 (r.mem.read 0 (r.out.base + o.start + 4 + off) (min 4 (o.written - off))))
    | none => 0

/-- The data words of an OUTREAD and what it captures for its commit. -/
def outWords (n : Chn) (k : Nat) (d : Dev) : List Word × Option (Nat × Nat × Nat) :=
  let r := (d.chan n).rings
  let ws := (List.range k).map (fun i => r.outWord (r.cursor + i))
  let first := r.outWord 0
  (ws, if r.headRec.isSome && (r.cursor != 0 || first != 0) then some (r.recNo, r.cursor, k) else none)

/-- How the words of an OUTREAD come out: data, advance, the bit recorded. -/
def outreadData (p : Port) (f : ReadFrame) (k : Nat) (s : State) : List Word × Option (Nat × Nat × Nat) × Option Nat :=
  let a := f.addr.toNat
  let n := addrChn a
  let d := s.dev
  let none_ (b : Option Nat) := (List.replicate k (0 : Word), none, b)
  if a % 4 != 0 then none_ (some 3)
  else if a < 0x100000 || 0x140000 ≤ a then none_ (some 2)
  else if d.otp.endFuse then none_ none
  else if d.blocked (some p) a || !d.sees (some p) n then none_ (some 6)
  else if !d.gRun then none_ (some 9)
  else if !(d.chan n).state.active then none_ none
  else if d.domOff (44 + n.val) then none_ (some 9)
  else
    let r := outWords n k d
    match f.late with
    | some l =>
      if l < k then (r.1.take l ++ List.replicate (k - l) 0, none, some 8) else (r.1, r.2, none)
    | none => (r.1, r.2, none)

/-- A frame put into a commit slot. -/
def State.capture (s : State) (p : Port) (c : Captured) : State :=
  s.modPort p (fun x => { x with slots := x.slots ++ [⟨c, !s.dev.gRun⟩] })

/-- Whether both commit slots of a port are occupied (R67). -/
def State.full (s : State) (p : Port) : Bool := 2 ≤ (s.shell.port p).slots.length

/-- A frame refused for want of a slot: nothing is driven. -/
def State.refuse (s : State) (p : Port) : State := s.answer p [] (noteLink p 7 s.dev)

/-- An OUTREAD frame: its data phase and its capture. -/
def outreadFrame (p : Port) (f : ReadFrame) (s : State) : State :=
  if s.full p then s.refuse p
  else
    let n := f.cnt.toNat + 1
    let k := min f.clocked n
    let r := outreadData p f k s
    let d := match r.2.2 with
      | some b => noteLink p b s.dev
      | none => s.dev
    let bad := r.2.2 == some 3 || r.2.2 == some 2
    let d := if bad then d else noteShort s p f d
    let ws := drives s p (header 0xB4 f.addr f.cnt) (fld (s.hlcfg p) 11 8) n r.1
    (s.answer p ws d).capture p (.outread (addrChn f.addr.toNat) r.2.1)

/-- OUTREAD. -/
def execOutread (p : Port) (f : ReadFrame) (s : State) : Out := onFrame p (outreadFrame p f) s

/-! ### Capturing write-class frames (R58, R66, R67, R83) -/

/-- The fault of a write-class frame, or its complete words: `ok` says the address suits the command, `n`
how many data words the frame carries. -/
def writeFault (s : State) (p : Port) (cmd : Nat) (ok : Bool) (n : Nat) (f : WriteFrame) : Nat ⊕ List Word :=
  let ws := f.data.take n
  if f.addr.toNat % 4 != 0 then .inl 3
  else if !ok then .inl 2
  else if bit (s.hlcfg p) 2 then
    if ws.length = n && f.trailer == some (bytesWord (crcCheck (header cmd f.addr f.cnt ++ wordsBytes ws))) then .inr ws
    else .inl 1
  else .inr ws

/-- A write-class frame captured: refused, ignored for its fault, or handed on as `mk` makes it; a frame
with words missing records SHORT. -/
def writeFrame (p : Port) (cmd : Nat) (ok : Bool) (n : Nat) (mk : List Word → Captured) (f : WriteFrame)
    (s : State) : State :=
  if s.full p then s.setDev (noteLink p 7 s.dev)
  else
    match writeFault s p cmd ok n f with
    | .inl b => (s.setDev (noteLink p b s.dev)).capture p .ignored
    | .inr ws => (s.setDev (if ws.length < n then noteLink p 4 s.dev else s.dev)).capture p (mk ws)

/-- WRITE: the frame is captured; it commits later. -/
def execWrite (p : Port) (f : WriteFrame) (s : State) : Out :=
  onFrame p (writeFrame p 0xA2 true (f.cnt.toNat + 1) (fun ws => .write f.addr.toNat ws) f) s

/-! ### Commits (R66, R69, R74, R75, R77) -/

/-- A sealed record, or an open one, at OUT_HEAD skipped. -/
def skipOut (n : Chn) (d : Dev) : Dev :=
  let r := (d.chan n).rings
  if !(r.ring .out).good then resetOnMismatch n .out d
  else if r.headRec.isSome then modRings n Rings.consume d
  else
    match r.openRec with
    | some o => modChan n (fun c => { c with
        rings := c.rings.skipOpen, sents := markSents .out (some o.sid) c.sents }) d
    | none => d

/-- The commit of a SKIP. -/
def commitSkip (p : Port) (n : Chn) (d : Dev) : Dev :=
  if d.otp.endFuse then d
  else if d.blocked (some p) 0x100000 || !d.sees (some p) n then noteLink p 6 d
  else if (d.chan n).state.active then skipOut n d else d

/-- Words appended to the FILL bank `b` of a stream. -/
def Stream.append (s : Stream) (b : Nat) (ws : List Word) : Stream :=
  let x := s.bank b
  { s.setBank b { x with count := x.count + 4 * ws.length } with
    mem := s.mem.write 0 (0x2000 * b + x.count) (wordsBytes ws) }

/-- The commit of a STREAM. -/
def commitStream (p : Port) (stop : Bool) (n : Chn) (ws : List Word) (d : Dev) : Dev :=
  if ws.isEmpty || d.otp.endFuse then d
  else if d.blocked (some p) 0x140000 || !d.sees (some p) n then noteLink p 6 d
  else if stop then noteLink p 9 d
  else if !(d.chan n).state.active then d
  else
    match (d.chan n).stream.fillBank with
    | none => noteCh n 6 0 0 d
    | some b =>
      if d.domOff (92 + 2 * n.val + b) then noteLink p 9 d
      else
        let room := (0x2000 - ((d.chan n).stream.bank b).count) / 4
        let d := modChan n (fun c => { c with stream := c.stream.append b (ws.take room) }) d
        if room < ws.length then noteLink p 5 d else d

/-- The commit of an OUTREAD: only the record the frame read moves. -/
def commitOutread (n : Chn) (adv : Option (Nat × Nat × Nat)) (d : Dev) : Dev :=
  match adv with
  | none => d
  | some (no, start, k) =>
    let r := (d.chan n).rings
    if d.otp.endFuse || !(d.chan n).state.active then d
    else if !(r.ring .out).good then resetOnMismatch n .out d
    else
      match r.headRec with
      | some (_, words) =>
        if r.recNo != no then d
        else
          let c := max r.cursor (start + k)
          if words ≤ c then modRings n Rings.consume d else modRings n (fun r => { r with cursor := c }) d
      | none => d

/-- Whether a word at a pool offset lies in a range a clause names in W2, W4 or W6. -/
def Clause.covers (c : Clause) (off : Nat) : Bool :=
  [(c.w2, c.inLen), (c.w4, c.outCap), (c.w6, c.parLen)].any (fun x =>
    let a := hi16 x.1 % 4096 * 512 + lo16 x.1
    hi16 x.1 < 0xFFFC && decide (a < off + 4) && decide (off < a + x.2))

/-- The dispatched clauses of a channel that a host write to a pool word races (06 R454). -/
def raceWord (n : Chn) (off : Nat) (d : Dev) : Dev :=
  modChan n (fun c => { c with sents := c.sents.map (fun x =>
    match x.clauses[x.idx]? with
    | some k => if k.covers off then { x with job := x.job.map (fun j => { j with raced := true }) } else x
    | none => x) }) d

/-- A host write to a ring word in the space of an open OUT record races the clause that writes there (06 R454). -/
def raceOut (n : Chn) (off : Nat) (d : Dev) : Dev :=
  let r := (d.chan n).rings
  match r.openRec with
  | none => d
  | some o =>
    let a := r.out.base + o.start + 4
    if a < off + 4 && off < a + o.reserve then
      modChan n (fun c => { c with sents := c.sents.map (fun x =>
        if x.sid == o.sid || x.parent.any (fun p => p.sid == o.sid) then
          { x with job := x.job.map (fun j => { j with raced := true }) }
        else x) }) d
    else d

/-- A window word written (R81; 06 R145; 07 R167; 14 R342). -/
def writeWin (v : Via) (stop : Bool) (win : Win) (w : Word) (d : Dev) : Dev :=
  match win with
  | .ring n off =>
    if !d.sees v n then noteVia v 6 d
    else if stop || d.domOff (44 + n.val) then noteVia v 9 d
    else if v.isSome && !(d.chan n).state.active then d
    else raceOut n off (modRings n (fun r => { r with mem := r.mem.setWord 0 off w }) d)
  | .stream n off =>
    if !d.sees v n then noteVia v 6 d
    else if stop || d.domOff (92 + 2 * n.val + off / 0x2000) then noteVia v 9 d
    else d
  | .pool off =>
    if stop then noteVia v 9 d
    else
      match d.poolMeets v off with
      | .view => noteVia v 6 d
      | .nothing => d
      | .served n => if d.domOff (60 + off / 65536) then noteVia v 9 d else raceWord n off (writePool off (wordBytes w) d)
  | .boot _ => if v == some .B then noteVia v 6 d else if stop || d.domOff 3 then noteVia v 9 d else d

/-- A control word written; HLCFG is the shell's. -/
def State.writeCtl (s : State) (v : Via) (a : Nat) (w : Word) : State :=
  let d := s.dev
  if a = 0x01C then s.writeHl v.face w
  else if a < 0x1000 then s.setDev (writePage a w d)
  else if 0x10000 ≤ a ∧ a < 0x20000 then s.setDev (writeChan v.face (chn (a / 0x1000)) (a % 0x1000) w d)
  else s

/-- Whether a word written is an LC_REQUEST (13 R312). -/
def isLcRequest (a : Nat) (w : Word) : Bool := a == 0x080 && fld w 7 0 == 3

/-- One committed word: END, view, then the register or the memory word. An LC_REQUEST runs under BLOCK too (13 R314;
log entry 38). -/
def State.commitWord (s : State) (v : Via) (stop : Bool) (a : Nat) (w : Word) : State :=
  let d := s.dev
  if d.otp.endFuse || d.rst != .none then s
  else
    match winOf a with
    | some x => if d.blocked v a then s.setDev (noteVia v 6 d) else s.setDev (writeWin v stop x w d)
    | none =>
      if d.ctlSeen v a then s.writeCtl v a w
      else if v == some .A && isLcRequest a w then s.setDev (mgmtLcRequest d)
      else s.setDev (noteVia v 6 d)

/-- The words of a WRITE from address `a` on, in ascending order (00_scope.md R12). -/
def commitWords (p : Port) (stop : Bool) (lim : Nat) : Nat → List Word → State → State
  | _, [], s => s
  | a, w :: ws, s =>
    commitWords p stop lim (a + 4) ws
      (if lim ≤ a then s.setDev (noteLink p 5 s.dev) else s.commitWord (some p) stop a w)

/-- The oldest captured frame of a port leaves its slot and commits; the core settles as after any
command. -/
def State.commitOne (s : State) (p : Port) : State :=
  match (s.shell.port p).slots with
  | [] => s
  | x :: _ =>
    let s := s.modPort p (fun y => { y with slots := y.slots.drop 1 })
    let s := match x.cap with
      | .write a ws => commitWords p x.inStop (unitEnd a) a ws s
      | .stream n ws => s.setDev (commitStream p x.inStop n ws s.dev)
      | .skip n => s.setDev (commitSkip p n s.dev)
      | .outread n adv => s.setDev (commitOutread n adv s.dev)
      | .ignored => s
    s.through id

/-- Whether captured frames commit: in RUN and STOP entry (R69). -/
def State.commits (s : State) : Bool := s.dev.gRun && !s.dev.inPor

/-- Every captured frame of a port commits, in order. -/
def State.commitAll (s : State) (p : Port) : State :=
  if s.commits then (s.commitOne p).commitOne p else s

/-- STREAM: the frame is captured, and commits after those before it. -/
def execStream (p : Port) (f : WriteFrame) (s : State) : Out :=
  let a := f.addr.toNat
  onFrame p (fun s => (writeFrame p 0xB2 (0x140000 ≤ a && a < 0x180000) (f.cnt.toNat + 1)
    (fun ws => .stream (addrChn a) ws) f s).commitAll p) s

/-- SKIP: the frame is captured, and commits after those before it. -/
def execSkip (p : Port) (f : WriteFrame) (s : State) : Out :=
  let a := f.addr.toNat
  onFrame p (fun s => (writeFrame p 0xB8 (0x100000 ≤ a && a < 0x140000) 0
    (fun _ => .skip (addrChn a)) f s).commitAll p) s

/-- Whether a captured frame is an OUTREAD. -/
def Slot.isOutread (x : Slot) : Bool :=
  match x.cap with
  | .outread _ _ => true
  | _ => false

/-- OUTREAD_COMMIT: the port's oldest captured OUTREAD commits, after the frames before it. -/
def execOutreadCommit (p : Port) (s : State) : Out :=
  .next (if !s.commits then s
    else
      match (s.shell.port p).slots with
      | x :: l =>
        if x.isOutread then s.commitOne p
        else if l.any Slot.isOutread then s.commitAll p
        else s
      | [] => s)

/-- The commit that takes place while no command waits: the oldest frame of port A, else of port B
(R68). -/
def State.commitNext (s : State) : State :=
  if !s.commits then s
  else if (s.shell.port .A).slots.isEmpty then s.commitOne .B else s.commitOne .A

/-! ### Writes given as commands of their own -/

/-- A write that commits now, from port `p`. -/
def onCommit (f : State → State) (s : State) : Out := .next (if s.commits then (f s).through id else s)

/-- REGISTER_WRITE: a committed word at a control address. -/
def execRegisterWrite (p : Port) (addr : Nat) (w : Word) (s : State) : Out :=
  onCommit (fun s => if addr % 4 = 0 && (winOf addr).isNone then s.commitWord (some p) false addr w else s) s

/-- HLCFG_WRITE (R59). -/
def execHlcfgWrite (p : Port) (w : Word) (s : State) : Out :=
  onCommit (fun s => s.commitWord (some p) false 0x01C w) s

/-- WINDOW_WRITE: a committed word at a window address. -/
def execWindowWrite (p : Port) (addr : Nat) (w : Word) (s : State) : Out :=
  onCommit (fun s => if addr % 4 = 0 && (winOf addr).isSome then s.commitWord (some p) false addr w else s) s

/-! ### Malformed frames (R83, R84) -/

/-- The codes of Table 03.2. -/
def linkCodes : List Nat := [0xA1, 0xA2, 0xA5, 0xB2, 0xB4, 0xB8]

/-- A bad header recorded and counted. -/
def badHeader (p : Port) (s : State) : State :=
  (s.modPort p (fun x => { x with badHdr := x.badHdr + 1, out := [] })).setDev (noteLink p 0 s.dev)

/-- A frame of which `bytes` arrived, whose header is incomplete, fails its complement, or carries an
unknown code. -/
def malformed (p : Port) (bytes : Bytes) (s : State) : State :=
  let c := par8 bytes 0
  if bytes.length < 6 || par8 bytes 1 != 255 - c then badHeader p s
  else if linkCodes.contains c then s
  else (s.modPort p (fun x => { x with badHdr := 0, out := [] })).setDev (noteLink p 2 s.dev)

/-- MALFORMED_FRAME. -/
def execMalformedFrame (p : Port) (bytes : Bytes) (s : State) : Out :=
  .next (if s.dev.served p then (malformed p bytes (s.fallback p)).woken p else s)

/-- LINK_FALLBACK (R84). -/
def execLinkFallback (p : Port) (s : State) : Out := .next (if s.dev.served p then s.fallback p else s)

/-! ### DBGACC (13 R316) -/

/-- Whether an address lies in program SRAM. -/
def inSram (a : Nat) : Bool := 0xC00000 ≤ a && a < 0xC40000

/-- Whether an address lies in a region of the link or in program SRAM. -/
def dbgReaches (a : Nat) : Bool :=
  a % 4 == 0 && (a < 0x1000 || (0x10000 ≤ a && a < 0x20000) || (winOf a).isSome || inSram a)

/-- Whether an access is refused: outside every region, under BLOCK, or while the core does not run. -/
def Dev.dbgRefused (d : Dev) (a : Nat) : Bool := !dbgReaches a || (!inSram a && d.blocked none a) || !d.gRun

/-- A DBGACC read. -/
def dbgRead (s : State) (a : Nat) (d : Dev) : Dev × Option Word × Bool :=
  if d.dbgRefused a then (d, none, true)
  else if inSram a then (d, some (d.boot.sram.word 0 (a - 0xC00000)), false)
  else
    match winOf a with
    | some x =>
      let r := readWin none false ⟨false, false, false⟩ x d
      (r.2.1, some r.1, false)
    | none => (d, some (s.ctlWord none a), false)

/-- DBGACC_READ. -/
def execDbgaccRead (addr : Nat) (s : State) : Out := onDev (dbgAccess (dbgRead s addr)) s

/-- A DBGACC write: the access itself, then its word. No debug access requests a transition (R307). -/
def dbgWrite (a : Nat) (w : Word) (s : State) : State :=
  let refused := s.dev.dbgRefused a || isLcRequest a w
  let t := s.setDev (dbgAccess (fun d => (d, none, refused)) s.dev)
  if refused || !s.dev.domOn 4 || !s.dev.debugOpen then t
  else if inSram a then t.setDev (modBoot (fun b => { b with sram := b.sram.setWord 0 (a - 0xC00000) w }) t.dev)
  else t.commitWord none false a w

/-- DBGACC_WRITE. -/
def execDbgaccWrite (addr : Nat) (w : Word) (s : State) : Out :=
  .next (if s.dev.inPor then s else (dbgWrite addr w s).through id)

/-! ### Output pins (02 R27, R30, R35) -/

/-- The output pins of Table 02.1, by what drives them. -/
inductive OutPin where
  | aData
  | aDqs
  | bData
  | flashCs
  | flash
  | uTxd
  | tdo
  | attnA
  | attnB
  | service
  deriving DecidableEq, Repr

/-- Whether the outputs of a domain are powered: from up-step 1 to down-step 1 (16_power_domains_and_states.md). -/
def Dev.padsUp (d : Dev) (x : Nat) : Bool :=
  match (d.dom x).phase with
  | .on => true
  | .up k => 1 ≤ k
  | _ => false

/-- Whether a pin is driven between commands: the data pins of a port only within a frame, where they carry the words
`out` of its shell; TDO only within a shift state, which a JTAG command passes through; the flash and UART pins once
the ROM has enabled them; an OD pin while it is asserted. -/
def Dev.drivesPin (d : Dev) : OutPin → Bool
  | .aData => false
  | .aDqs => false
  | .bData => false
  | .flashCs => !d.inPor && d.padsUp 3
  | .flash => !d.inPor && d.lc.shown && d.padsUp 3
  | .uTxd => !d.inPor && d.lc.shown && d.padsUp 2
  | .tdo => false
  | .attnA => !d.inPor && d.attnA
  | .attnB => !d.inPor && d.pins.bank[1].isSome && d.attnB
  | .service => !d.inPor && d.service

end Sys2Proof.Machine
end

