-- ==== Sys2Proof/Machine/Dispatch.lean ====
section
/-!
DEFINITION. The one table from a command to its meaning.
-/

namespace Sys2Proof.Machine

/-- The effect of a command on everything but the queue. -/
def exec (i : Instr) (s : State) : Host.Outcome State Fault Refusal :=
  match i with
  | .por => Sys2Proof.Machine.execPor s
  | .pinReset lowNs => Sys2Proof.Machine.execPinReset lowNs s
  | .softReset => Sys2Proof.Machine.execSoftReset s
  | .romBoot env => Sys2Proof.Machine.execRomBoot env s
  | .read p f => Sys2Proof.Machine.execRead p f s
  | .write p f => Sys2Proof.Machine.execWrite p f s
  | .status f => Sys2Proof.Machine.execStatus f s
  | .stream p f => Sys2Proof.Machine.execStream p f s
  | .outread p f => Sys2Proof.Machine.execOutread p f s
  | .outreadCommit p => Sys2Proof.Machine.execOutreadCommit p s
  | .skip p f => Sys2Proof.Machine.execSkip p f s
  | .malformedFrame p bytes => Sys2Proof.Machine.execMalformedFrame p bytes s
  | .linkFallback p => Sys2Proof.Machine.execLinkFallback p s
  | .windowWrite p addr w => Sys2Proof.Machine.execWindowWrite p addr w s
  | .registerWrite p addr w => Sys2Proof.Machine.execRegisterWrite p addr w s
  | .hlcfgWrite p w => Sys2Proof.Machine.execHlcfgWrite p w s
  | .journalWrite vfy => Sys2Proof.Machine.execJournalWrite vfy s
  | .jselWrite p w => Sys2Proof.Machine.execJselWrite p w s
  | .journalFetchDone => Sys2Proof.Machine.execJournalFetchDone s
  | .secondsTick => Sys2Proof.Machine.execSecondsTick s
  | .chOpen n => Sys2Proof.Machine.execChOpen n s
  | .chClose n => Sys2Proof.Machine.execChClose n s
  | .chResp n => Sys2Proof.Machine.execChResp n s
  | .chReset n => Sys2Proof.Machine.execChReset n s
  | .openNonceReady n => Sys2Proof.Machine.execOpenNonceReady n s
  | .openRespResult n => Sys2Proof.Machine.execOpenRespResult n s
  | .openTimeout n => Sys2Proof.Machine.execOpenTimeout n s
  | .openLockoutExpiry n => Sys2Proof.Machine.execOpenLockoutExpiry n s
  | .openInitDone n => Sys2Proof.Machine.execOpenInitDone n s
  | .drainComplete n => Sys2Proof.Machine.execDrainComplete n s
  | .chResetDone n => Sys2Proof.Machine.execChResetDone n s
  | .chcfgtWrite p n w => Sys2Proof.Machine.execChcfgtWrite p n w s
  | .configRecordWrite vfy => Sys2Proof.Machine.execConfigRecordWrite vfy s
  | .subTailWrite n prio v => Sys2Proof.Machine.execSubTailWrite n prio v s
  | .cplHeadWrite n v => Sys2Proof.Machine.execCplHeadWrite n v s
  | .outHeadWrite n v => Sys2Proof.Machine.execOutHeadWrite n v s
  | .ringScrub upset => Sys2Proof.Machine.execRingScrub upset s
  | .sentenceTake => Sys2Proof.Machine.execSentenceTake s
  | .unassignedVerb n sid => Sys2Proof.Machine.execUnassignedVerb n sid s
  | .clauseComplete n sid m => Sys2Proof.Machine.execClauseComplete n sid m s
  | .segmentBoundary n sid => Sys2Proof.Machine.execSegmentBoundary n sid s
  | .contextResume n sid => Sys2Proof.Machine.execContextResume n sid s
  | .bankSubmit n w => Sys2Proof.Machine.execBankSubmit n w s
  | .bankFlush n => Sys2Proof.Machine.execBankFlush n s
  | .abortAll n => Sys2Proof.Machine.execAbortAll n s
  | .abortTag n tag => Sys2Proof.Machine.execAbortTag n tag s
  | .chAlloc n count => Sys2Proof.Machine.execChAlloc n count s
  | .allocComplete n => Sys2Proof.Machine.execAllocComplete n s
  | .chFree n handle => Sys2Proof.Machine.execChFree n handle s
  | .granuleZero g => Sys2Proof.Machine.execGranuleZero g s
  | .engineIdleOff e => Sys2Proof.Machine.execEngineIdleOff e s
  | .engcmdOut e => Sys2Proof.Machine.execEngcmdOut e s
  | .engcmdIn e => Sys2Proof.Machine.execEngcmdIn e s
  | .katComplete e pass burns vfy => Sys2Proof.Machine.execKatComplete e pass burns vfy s
  | .engineFault e => Sys2Proof.Machine.execEngineFault e s
  | .engineWatchdog e => Sys2Proof.Machine.execEngineWatchdog e s
  | .classWaitExpiry n sid => Sys2Proof.Machine.execClassWaitExpiry n sid s
  | .nop n sid => Sys2Proof.Machine.execNop n sid s
  | .fence n sid => Sys2Proof.Machine.execFence n sid s
  | .retireKey n sid burns => Sys2Proof.Machine.execRetireKey n sid burns s
  | .random n sid => Sys2Proof.Machine.execRandom n sid s
  | .copy n sid => Sys2Proof.Machine.execCopy n sid s
  | .zero n sid => Sys2Proof.Machine.execZero n sid s
  | .aesCbcEncrypt n sid => Sys2Proof.Machine.execAesCbcEncrypt n sid s
  | .aesCbcDecrypt n sid => Sys2Proof.Machine.execAesCbcDecrypt n sid s
  | .aesCtr n sid => Sys2Proof.Machine.execAesCtr n sid s
  | .aesGcmSeal n sid => Sys2Proof.Machine.execAesGcmSeal n sid s
  | .aesGcmOpen n sid => Sys2Proof.Machine.execAesGcmOpen n sid s
  | .aesCcmSeal n sid => Sys2Proof.Machine.execAesCcmSeal n sid s
  | .aesCcmOpen n sid => Sys2Proof.Machine.execAesCcmOpen n sid s
  | .aesCmac n sid => Sys2Proof.Machine.execAesCmac n sid s
  | .chachaPolySeal n sid => Sys2Proof.Machine.execChachaPolySeal n sid s
  | .chachaPolyOpen n sid => Sys2Proof.Machine.execChachaPolyOpen n sid s
  | .keyWrap n sid => Sys2Proof.Machine.execKeyWrap n sid s
  | .keyUnwrap n sid => Sys2Proof.Machine.execKeyUnwrap n sid s
  | .sha256 n sid => Sys2Proof.Machine.execSha256 n sid s
  | .sha384 n sid => Sys2Proof.Machine.execSha384 n sid s
  | .sha512 n sid => Sys2Proof.Machine.execSha512 n sid s
  | .sha3256 n sid => Sys2Proof.Machine.execSha3256 n sid s
  | .sha3512 n sid => Sys2Proof.Machine.execSha3512 n sid s
  | .shake128 n sid => Sys2Proof.Machine.execShake128 n sid s
  | .shake256 n sid => Sys2Proof.Machine.execShake256 n sid s
  | .hmacSha256 n sid => Sys2Proof.Machine.execHmacSha256 n sid s
  | .hmacSha384 n sid => Sys2Proof.Machine.execHmacSha384 n sid s
  | .hkdfExtract n sid => Sys2Proof.Machine.execHkdfExtract n sid s
  | .hkdfExpand n sid => Sys2Proof.Machine.execHkdfExpand n sid s
  | .tls13ExpandLabel n sid => Sys2Proof.Machine.execTls13ExpandLabel n sid s
  | .hashSave n sid => Sys2Proof.Machine.execHashSave n sid s
  | .hashResume n sid => Sys2Proof.Machine.execHashResume n sid s
  | .keyGen n sid => Sys2Proof.Machine.execKeyGen n sid s
  | .keyInfo n sid => Sys2Proof.Machine.execKeyInfo n sid s
  | .persistentWriteDone n sid vfy burns => Sys2Proof.Machine.execPersistentWriteDone n sid vfy burns s
  | .counterCheckpointDone slot vfy => Sys2Proof.Machine.execCounterCheckpointDone slot vfy s
  | .bnLoad n sid => Sys2Proof.Machine.execBnLoad n sid s
  | .bnStore n sid => Sys2Proof.Machine.execBnStore n sid s
  | .bnModadd n sid => Sys2Proof.Machine.execBnModadd n sid s
  | .bnModsub n sid => Sys2Proof.Machine.execBnModsub n sid s
  | .bnModmul n sid => Sys2Proof.Machine.execBnModmul n sid s
  | .bnModinv n sid => Sys2Proof.Machine.execBnModinv n sid s
  | .bnModexp n sid => Sys2Proof.Machine.execBnModexp n sid s
  | .bnSetmod n sid => Sys2Proof.Machine.execBnSetmod n sid s
  | .bnClear n sid => Sys2Proof.Machine.execBnClear n sid s
  | .latNtt n sid => Sys2Proof.Machine.execLatNtt n sid s
  | .latIntt n sid => Sys2Proof.Machine.execLatIntt n sid s
  | .latPmul n sid => Sys2Proof.Machine.execLatPmul n sid s
  | .latSample n sid => Sys2Proof.Machine.execLatSample n sid s
  | .ecdsaSign n sid => Sys2Proof.Machine.execEcdsaSign n sid s
  | .ecdsaVerify n sid => Sys2Proof.Machine.execEcdsaVerify n sid s
  | .ecdh n sid => Sys2Proof.Machine.execEcdh n sid s
  | .x25519 n sid => Sys2Proof.Machine.execX25519 n sid s
  | .ed25519Sign n sid => Sys2Proof.Machine.execEd25519Sign n sid s
  | .ed25519Verify n sid => Sys2Proof.Machine.execEd25519Verify n sid s
  | .rsaVerify n sid => Sys2Proof.Machine.execRsaVerify n sid s
  | .rsaSign n sid => Sys2Proof.Machine.execRsaSign n sid s
  | .keypairGen n sid => Sys2Proof.Machine.execKeypairGen n sid s
  | .mlkemKeygen n sid => Sys2Proof.Machine.execMlkemKeygen n sid s
  | .mlkemEncaps n sid => Sys2Proof.Machine.execMlkemEncaps n sid s
  | .mlkemDecaps n sid => Sys2Proof.Machine.execMlkemDecaps n sid s
  | .mldsaVerify n sid => Sys2Proof.Machine.execMldsaVerify n sid s
  | .mldsaSign n sid => Sys2Proof.Machine.execMldsaSign n sid s
  | .presigFill n sid => Sys2Proof.Machine.execPresigFill n sid s
  | .hybridKexEncaps n sid => Sys2Proof.Machine.execHybridKexEncaps n sid s
  | .hybridKexDecaps n sid => Sys2Proof.Machine.execHybridKexDecaps n sid s
  | .recProtectInit n sid => Sys2Proof.Machine.execRecProtectInit n sid s
  | .recProtectRecord n sid => Sys2Proof.Machine.execRecProtectRecord n sid s
  | .recProtectClose n sid => Sys2Proof.Machine.execRecProtectClose n sid s
  | .recProtectInfo n sid => Sys2Proof.Machine.execRecProtectInfo n sid s
  | .recUnprotectInit n sid => Sys2Proof.Machine.execRecUnprotectInit n sid s
  | .recUnprotectRecord n sid => Sys2Proof.Machine.execRecUnprotectRecord n sid s
  | .recUnprotectClose n sid => Sys2Proof.Machine.execRecUnprotectClose n sid s
  | .recUnprotectInfo n sid => Sys2Proof.Machine.execRecUnprotectInfo n sid s
  | .telemetrySeal n sid => Sys2Proof.Machine.execTelemetrySeal n sid s
  | .attest n sid => Sys2Proof.Machine.execAttest n sid s
  | .lastgaspArm n sid => Sys2Proof.Machine.execLastgaspArm n sid s
  | .phrase n sid => Sys2Proof.Machine.execPhrase n sid s
  | .tamperOpened k => Sys2Proof.Machine.execTamperOpened k s
  | .tamperAck p => Sys2Proof.Machine.execTamperAck p s
  | .lcNonce p w => Sys2Proof.Machine.execLcNonce p w s
  | .lcNonceExpiry => Sys2Proof.Machine.execLcNonceExpiry s
  | .lcRequest => Sys2Proof.Machine.execLcRequest s
  | .lcCheckDone => Sys2Proof.Machine.execLcCheckDone s
  | .lcTransitionDone env burns => Sys2Proof.Machine.execLcTransitionDone env burns s
  | .jtagTestLogicReset => Sys2Proof.Machine.execJtagTestLogicReset s
  | .jtagIdcode => Sys2Proof.Machine.execJtagIdcode s
  | .jtagBypass => Sys2Proof.Machine.execJtagBypass s
  | .jtagSamplePreload => Sys2Proof.Machine.execJtagSamplePreload s
  | .jtagExtest => Sys2Proof.Machine.execJtagExtest s
  | .dbgaccRead addr => Sys2Proof.Machine.execDbgaccRead addr s
  | .dbgaccWrite addr w => Sys2Proof.Machine.execDbgaccWrite addr w s
  | .dbgHalt => Sys2Proof.Machine.execDbgHalt s
  | .dbgResume => Sys2Proof.Machine.execDbgResume s
  | .dbgStep => Sys2Proof.Machine.execDbgStep s
  | .loaderAutobaud baud => Sys2Proof.Machine.execLoaderAutobaud baud s
  | .loaderInfo => Sys2Proof.Machine.execLoaderInfo s
  | .loaderData off data => Sys2Proof.Machine.execLoaderData off data s
  | .loaderCommit len vfy burns => Sys2Proof.Machine.execLoaderCommit len vfy burns s
  | .loaderReset => Sys2Proof.Machine.execLoaderReset s
  | .loaderBadPacket crcGood => Sys2Proof.Machine.execLoaderBadPacket crcGood s
  | .loaderPacketTimeout => Sys2Proof.Machine.execLoaderPacketTimeout s
  | .endorse => Sys2Proof.Machine.execEndorse s
  | .confirm => Sys2Proof.Machine.execConfirm s
  | .restoreFactory => Sys2Proof.Machine.execRestoreFactory s
  | .calsave => Sys2Proof.Machine.execCalsave s
  | .hostimgStage => Sys2Proof.Machine.execHostimgStage s
  | .hostimgActivate => Sys2Proof.Machine.execHostimgActivate s
  | .checkpoint => Sys2Proof.Machine.execCheckpoint s
  | .mgmtCmdDone vfy burns => Sys2Proof.Machine.execMgmtCmdDone vfy burns s
  | .confirmWatchdogExpiry => Sys2Proof.Machine.execConfirmWatchdogExpiry s
  | .higTableLoaded => Sys2Proof.Machine.execHigTableLoaded s
  | .higpageWrite p w => Sys2Proof.Machine.execHigpageWrite p w s
  | .higFetchDone => Sys2Proof.Machine.execHigFetchDone s
  | .ptLoad p w => Sys2Proof.Machine.execPtLoad p w s
  | .ptLoadDone vfy => Sys2Proof.Machine.execPtLoadDone vfy s
  | .domainControlWrite p addr w => Sys2Proof.Machine.execDomainControlWrite p addr w s
  | .domainSequenceStart dom => Sys2Proof.Machine.execDomainSequenceStart dom s
  | .domainStepDone dom => Sys2Proof.Machine.execDomainStepDone dom s
  | .domainReadyTimeout dom vfy burns => Sys2Proof.Machine.execDomainReadyTimeout dom vfy burns s
  | .stopRequest p w wake => Sys2Proof.Machine.execStopRequest p w wake s
  | .stopEntryDone vfy => Sys2Proof.Machine.execStopEntryDone vfy s
  | .wake srcs => Sys2Proof.Machine.execWake srcs s
  | .wakeTimerExpiry => Sys2Proof.Machine.execWakeTimerExpiry s
  | .stopExitDone => Sys2Proof.Machine.execStopExitDone s
  | .keystoreUnlockDone => Sys2Proof.Machine.execKeystoreUnlockDone s
  | .supplyTick x env => Sys2Proof.Machine.execSupplyTick x env s
  | .rideEntryFire k env => Sys2Proof.Machine.execRideEntryFire k env s
  | .lastgaspSeal upset => Sys2Proof.Machine.execLastgaspSeal upset s
  | .lastgaspMark vfy => Sys2Proof.Machine.execLastgaspMark vfy s
  | .pfwAssert => Sys2Proof.Machine.execPfwAssert s
  | .pfwDeassert => Sys2Proof.Machine.execPfwDeassert s
  | .rideWrite p k w => Sys2Proof.Machine.execRideWrite p k w s
  | .lowclr p => Sys2Proof.Machine.execLowclr p s
  | .fselWrite p w => Sys2Proof.Machine.execFselWrite p w s
  | .tempSample deg => Sys2Proof.Machine.execTempSample deg s
  | .entropyBlockDone bits => Sys2Proof.Machine.execEntropyBlockDone bits s
  | .vddioDetection bank mv => Sys2Proof.Machine.execVddioDetection bank mv s
  | .tamperClosed k => Sys2Proof.Machine.execTamperClosed k s

end Sys2Proof.Machine
end

