-- ==== Sys2Proof/Safety.lean ====
section
/-!
DEFINITION. The words the statements use: a legal port shell, the parts of the core for frames, when a command
takes effect, when a verb starts.
-/

namespace Sys2Proof.Machine

/-! ### Legal states -/

/-- A legal HLCFG: LAT at most 8, MODE at most 1, the reserved fields 0 (03 Table 03.7). -/
def hlcfgLegal (w : Word) : Bool := w &&& 0xFF00F0F0 == 0 && fld w 11 8 ≤ 8 && fld w 1 0 ≤ 1

/-- A legal port shell: at most two commit slots occupied (03 R66). -/
def PortShell.legal (p : PortShell) : Bool := hlcfgLegal p.hlcfg && decide (p.slots.length ≤ 2)

/-- Both shells are legal, and no reset waits to be followed by them. -/
def State.legal (s : State) : Bool := s.shell.a.legal && s.shell.b.legal && s.dev.rst == .none

/-! ### Frames -/

/-- The parts of the core a frame names: its components, the scheduler's registers apart from its tags. -/
inductive Part where
  | pins
  | flash
  | otp
  | boot
  | lc
  | cfg
  | trouble
  | journal
  | chans
  | pool
  | sched
  | tags
  | engines
  | cores
  | drbg
  | entropy
  | presig
  | ks
  | gate
  | phrases
  | power
  | supply
  | clocks
  deriving DecidableEq, Repr

/-- One part is the same in two cores. -/
def Part.same (d e : Dev) : Part → Prop
  | .pins => e.pins = d.pins
  | .flash => e.flash = d.flash
  | .otp => e.otp = d.otp
  | .boot => e.boot = d.boot
  | .lc => e.lc = d.lc
  | .cfg => e.cfg = d.cfg
  | .trouble => e.trouble = d.trouble
  | .journal => e.journal = d.journal
  | .chans => e.chans = d.chans
  | .pool => e.pool = d.pool
  | .sched => e.sched.cfg = d.sched.cfg ∧ e.sched.weights = d.sched.weights ∧ e.sched.rot = d.sched.rot
  | .tags => e.sched.clsC = d.sched.clsC ∧ e.sched.clsH = d.sched.clsH ∧ e.sched.clsB = d.sched.clsB
      ∧ e.sched.clsS = d.sched.clsS
  | .engines => e.engines = d.engines
  | .cores => e.cores = d.cores
  | .drbg => e.drbg = d.drbg
  | .entropy => e.entropy = d.entropy
  | .presig => e.presig = d.presig
  | .ks => e.ks = d.ks
  | .gate => e.gate = d.gate
  | .phrases => e.phrases = d.phrases
  | .power => e.power = d.power
  | .supply => e.supply = d.supply
  | .clocks => e.clocks = d.clocks

/-- Every part but those listed, and but the scheduler's tags, is the same (08 R177 lets the tags follow any
change of the eligible work). -/
def Keeps (changed : List Part) (d e : Dev) : Prop := ∀ p, p ∉ changed → p ≠ .tags → p.same d e

/-- Every channel but `n` is the same. -/
def OthersKept (n : Chn) (d e : Dev) : Prop := ∀ m, m ≠ n → e.chan m = d.chan m

/-- Every ring and stream byte, sentence and register of channel `n` but those the function may change. -/
def ChanIs (n : Chn) (f : Chan → Chan) (d e : Dev) : Prop := e.chan n = f (d.chan n) ∧ OthersKept n d e

/-- The queue and the port shells are the same. -/
def SameShell (s t : State) : Prop := t.pending = s.pending ∧ t.shell = s.shell

/-! ### When a command takes effect -/

/-- The power-on reset is not asserted and no reset waits (19 R434). -/
def State.awake (s : State) : Prop := s.dev.inPor = false ∧ s.dev.rst = .none

/-- A committed write from port `p` reaches its register: RUN or STOP entry (03 R69), not END (03 R82), and
port A not under a tamper block (12 R301). -/
def State.takes (s : State) (p : Port) : Prop :=
  s.awake ∧ s.dev.gRun = true ∧ s.dev.otp.endFuse = false ∧ (p = .A → s.dev.lc.tamperBlock = false)

/-- Port `p` hears a frame: it is served, no reset waits, and no fallback is due (03 R30, R70, R84). -/
def State.hears (s : State) (p : Port) : Prop :=
  s.dev.served p = true ∧ s.dev.rst = .none ∧ (s.shell.port p).badHdr < 4

/-- What a port drives for a body of words: the body, and the trailer over header and body where CRC is enabled
(03 R58). -/
def driven (s : State) (p : Port) (hdr : Bytes) (body : List Word) : List Word :=
  if bit (s.hlcfg p) 2 then body ++ [bytesWord (crcCheck (hdr ++ wordsBytes body))] else body

/-- A memory with the bytes `bs` at `a`, every other byte as before. -/
def Wrote (m m' : Mem) (a : Nat) (bs : Bytes) : Prop :=
  (∀ i b, bs[i]? = some b → Mem.get 0 m' (a + i) = b)
    ∧ (∀ x, (x < a ∨ a + bs.length ≤ x) → Mem.get 0 m' x = Mem.get 0 m x)

/-! ### Clauses -/

/-- The next clause of the taken sentence `x` of channel `n` is `c`, and nothing but its own checks and waits holds
it back: the channel is OPEN or DRAINING with good pointer pairs, work starts (06 R132–R135). -/
def State.atClause (s : State) (n : Chn) (x : Sentence) (c : Clause) : Prop :=
  s.awake ∧ s.dev.stopped = false ∧ (s.dev.chan n).state.active = true
    ∧ (∀ k, ((s.dev.chan n).rings.ring k).good = true) ∧ s.dev.sent n x.sid = some x ∧ x.job = none
    ∧ x.clauses[x.idx]? = some c ∧ x.overlong = false

/-- The sentence `x` of channel `n` after a record of its clause that does not end it: at its next clause, still to be
judged, or gone (06 R136, R139). -/
def Advanced (n : Chn) (x : Sentence) (e : Dev) : Prop :=
  if x.idx + 1 < x.clauses.length then
    e.sent n x.sid = some { x with idx := x.idx + 1, wait := .none, judged := false, sel := none, job := none }
  else e.sent n x.sid = none

/-- The command answers the state in which the core is `e` and, in the same core update, every clause of channel `n` that
has become the next of its sentence has been judged (06 R454). -/
def Judges (i : Instr) (s : State) (n : Chn) (e : Dev) : Prop :=
  e.rst = .none ∧ exec i s = .next (s.through (fun _ => judgeFresh n e))

/-- One completion record of clause `c` posted at CPL_TAIL (06 R137, R139): its sixteen bytes, TAIL one on, a
reserved credit used. -/
def Posted (c : Clause) (st : Status) (eng idx w1 w2 h : Nat) (r r' : Rings) : Prop :=
  r'.cpl = { r.cpl with tail := .of ((r.cpl.tail.nat + 1) % r.cpl.size) } ∧ r'.reserved = r.reserved - 1
    ∧ r'.notify = r.notify ++ [c.notify]
    ∧ Wrote r.mem r'.mem (r.cpl.base + 16 * r.cpl.tail.nat) (wordsBytes (cplWords st eng c.tag w1 w2 h idx))

/-! ### Verbs -/

/-- One row of the verbs the scheduler dispatches: channel, sentence, verb number, the first parameter byte where
the row is one mode of its verb, and the verb's meaning. -/
structure VerbRow where
  n : Chn
  sid : Nat
  verb : Nat
  op : Option Nat
  spec : VerbSpec

/-- The verb rows but PHRASE, whose templates are clauses of their own (Tables 09.4–09.6, 10.3, 11.2, 15.1). -/
def verbRow : Instr → Option VerbRow
  | .retireKey n sid burns => some ⟨n, sid, 0x02, none, retireKey burns⟩
  | .random n sid => some ⟨n, sid, 0x03, none, random⟩
  | .copy n sid => some ⟨n, sid, 0x04, none, copyVerb⟩
  | .zero n sid => some ⟨n, sid, 0x05, none, zeroVerb⟩
  | .aesCbcEncrypt n sid => some ⟨n, sid, 0x11, none, cbcVerb true⟩
  | .aesCbcDecrypt n sid => some ⟨n, sid, 0x12, none, cbcVerb false⟩
  | .aesCtr n sid => some ⟨n, sid, 0x13, none, ctrVerb⟩
  | .aesGcmSeal n sid => some ⟨n, sid, 0x14, none, sealVerb gcmAlg aeadClasses⟩
  | .aesGcmOpen n sid => some ⟨n, sid, 0x15, none, openVerb gcmAlg aeadClasses⟩
  | .aesCcmSeal n sid => some ⟨n, sid, 0x16, none, ccmSealVerb⟩
  | .aesCcmOpen n sid => some ⟨n, sid, 0x17, none, ccmOpenVerb⟩
  | .aesCmac n sid => some ⟨n, sid, 0x18, none, cmacVerb⟩
  | .chachaPolySeal n sid => some ⟨n, sid, 0x19, none, sealVerb chachaAlg [0x14]⟩
  | .chachaPolyOpen n sid => some ⟨n, sid, 0x1A, none, openVerb chachaAlg [0x14]⟩
  | .keyWrap n sid => some ⟨n, sid, 0x1B, none, keyWrapVerb⟩
  | .keyUnwrap n sid => some ⟨n, sid, 0x1C, none, keyUnwrapVerb⟩
  | .sha256 n sid => some ⟨n, sid, 0x20, none, digestVerb 32 sha256⟩
  | .sha384 n sid => some ⟨n, sid, 0x21, none, digestVerb 48 sha384⟩
  | .sha512 n sid => some ⟨n, sid, 0x22, none, digestVerb 64 sha512⟩
  | .sha3256 n sid => some ⟨n, sid, 0x23, none, digestVerb 32 sha3_256⟩
  | .sha3512 n sid => some ⟨n, sid, 0x24, none, digestVerb 64 sha3_512⟩
  | .shake128 n sid => some ⟨n, sid, 0x25, none, xofVerb shake128⟩
  | .shake256 n sid => some ⟨n, sid, 0x26, none, xofVerb shake256⟩
  | .hmacSha256 n sid => some ⟨n, sid, 0x28, none, hmacVerb .sha256 0x18⟩
  | .hmacSha384 n sid => some ⟨n, sid, 0x29, none, hmacVerb .sha384 0x19⟩
  | .hkdfExtract n sid => some ⟨n, sid, 0x2A, none, extractVerb⟩
  | .hkdfExpand n sid => some ⟨n, sid, 0x2B, none, expandVerb⟩
  | .tls13ExpandLabel n sid => some ⟨n, sid, 0x2C, none, labelVerb⟩
  | .hashSave n sid => some ⟨n, sid, 0x2E, none, hashSaveVerb⟩
  | .hashResume n sid => some ⟨n, sid, 0x2F, none, hashResumeVerb⟩
  | .keyGen n sid => some ⟨n, sid, 0x31, none, keyGen⟩
  | .keyInfo n sid => some ⟨n, sid, 0x32, none, keyInfo⟩
  | .bnLoad n sid => some ⟨n, sid, 0x40, none, loadPrim.spec⟩
  | .bnStore n sid => some ⟨n, sid, 0x41, none, storePrim.spec⟩
  | .bnModadd n sid => some ⟨n, sid, 0x42, none, (binPrim (fun x y m => (x + y) % m)).spec⟩
  | .bnModsub n sid => some ⟨n, sid, 0x43, none, (binPrim (fun x y m => (x + m - y) % m)).spec⟩
  | .bnModmul n sid => some ⟨n, sid, 0x44, none, (binPrim (fun x y m => x * y % m)).spec⟩
  | .bnModinv n sid => some ⟨n, sid, 0x45, none, invPrim.spec⟩
  | .bnModexp n sid => some ⟨n, sid, 0x46, none, expPrim.spec⟩
  | .bnSetmod n sid => some ⟨n, sid, 0x47, none, setmodPrim.spec⟩
  | .bnClear n sid => some ⟨n, sid, 0x48, none, clearPrim.spec⟩
  | .latNtt n sid => some ⟨n, sid, 0x49, none, (nttPrim true).spec⟩
  | .latIntt n sid => some ⟨n, sid, 0x4A, none, (nttPrim false).spec⟩
  | .latPmul n sid => some ⟨n, sid, 0x4B, none, pmulPrim.spec⟩
  | .latSample n sid => some ⟨n, sid, 0x4C, none, samplePrim.spec⟩
  | .ecdsaSign n sid => some ⟨n, sid, 0x50, none, ecdsaSignVerb⟩
  | .ecdsaVerify n sid => some ⟨n, sid, 0x51, none, ecdsaVerifyVerb⟩
  | .ecdh n sid => some ⟨n, sid, 0x52, none, ecdhVerb⟩
  | .x25519 n sid => some ⟨n, sid, 0x53, none, x25519Verb⟩
  | .ed25519Sign n sid => some ⟨n, sid, 0x54, none, ed25519SignVerb⟩
  | .ed25519Verify n sid => some ⟨n, sid, 0x55, none, ed25519VerifyVerb⟩
  | .rsaVerify n sid => some ⟨n, sid, 0x56, none, rsaVerifyVerb⟩
  | .rsaSign n sid => some ⟨n, sid, 0x57, none, rsaSignVerb⟩
  | .keypairGen n sid =>
    some ⟨n, sid, 0x58, none, keypairVerb [0x20, 0x21, 0x22, 0x23, 0x24, 0x25, 0x28, 0x29, 0x2A, 0x34]⟩
  | .mlkemKeygen n sid => some ⟨n, sid, 0x59, none, keypairVerb [0x30, 0x31, 0x38]⟩
  | .mlkemEncaps n sid => some ⟨n, sid, 0x5A, none, mlkemEncapsVerb⟩
  | .mlkemDecaps n sid => some ⟨n, sid, 0x5B, none, mlkemDecapsVerb⟩
  | .mldsaVerify n sid => some ⟨n, sid, 0x5C, none, mldsaVerifyVerb⟩
  | .mldsaSign n sid => some ⟨n, sid, 0x5D, none, mldsaSignVerb⟩
  | .presigFill n sid => some ⟨n, sid, 0x5E, none, presigFillVerb⟩
  | .hybridKexEncaps n sid => some ⟨n, sid, 0x5F, some 1, hybridVerb⟩
  | .hybridKexDecaps n sid => some ⟨n, sid, 0x5F, some 2, hybridVerb⟩
  | .recProtectInit n sid => some ⟨n, sid, 0x60, some 1, recSpec 1 (recInitVerb true)⟩
  | .recProtectRecord n sid => some ⟨n, sid, 0x60, some 2, recSpec 2 protectVerb⟩
  | .recProtectClose n sid => some ⟨n, sid, 0x60, some 3, recSpec 3 (recCloseVerb true)⟩
  | .recProtectInfo n sid => some ⟨n, sid, 0x60, some 4, recSpec 4 (recInfoVerb true)⟩
  | .recUnprotectInit n sid => some ⟨n, sid, 0x61, some 1, recSpec 1 (recInitVerb false)⟩
  | .recUnprotectRecord n sid => some ⟨n, sid, 0x61, some 2, recSpec 2 unprotectVerb⟩
  | .recUnprotectClose n sid => some ⟨n, sid, 0x61, some 3, recSpec 3 (recCloseVerb false)⟩
  | .recUnprotectInfo n sid => some ⟨n, sid, 0x61, some 4, recSpec 4 (recInfoVerb false)⟩
  | .telemetrySeal n sid => some ⟨n, sid, 0x62, none, telemetryVerb⟩
  | .attest n sid => some ⟨n, sid, 0x63, none, attestVerb⟩
  | .lastgaspArm n sid => some ⟨n, sid, 0x64, none, armVerb⟩
  | _ => none

/-- The engine index the clause `c` of sentence `x` is given: that of the selection it holds, if its engine is still in the
dispatch set; one chosen now, where the clause is the scheduler's pick; 17, no engine, where the service
processor starts it (08 R176, R184; 11 R256; 15 R366). -/
def State.given (s : State) (n : Chn) (x : Sentence) (c : Clause) (e : Nat) : Prop :=
  match x.sel, s.dev.workClass x c with
  | some y, _ => y.eng = e ∧ s.dev.selStands y = true
  | none, some k =>
    s.dev.pick k = some (n, x.sid) ∧ (if k == .service then some 16 else s.dev.engineFor k c) = some e
  | none, none => e = 17 ∧ s.dev.lc.dbgHalt = false

/-- A request the DRBG serves at once: none waits before it and no reseed is due (09 R207). -/
def Dev.servesNow (d : Dev) : Option DrawReq → Bool
  | none => true
  | some q => d.entropy.queue.isEmpty && !d.reseedDue q

/-- The clause `c` of sentence `x` starts under the row `r` on engine index `e` (08 R173–R184): it is the next clause with
that verb and mode, nothing it waits for is missing, it passes every check of Table 06.6, an engine and its
domains are there, its draw is served at once, and its input, whole and free of uncorrectable words, is one
segment. -/
def State.starts (s : State) (r : VerbRow) (x : Sentence) (c : Clause) (e : Nat) : Prop :=
  let a := s.dev.ask r.n x c
  s.atClause r.n x c ∧ r.sid = x.sid ∧ c.verb = r.verb ∧ (∀ o, r.op = some o → par8 (s.dev.params c) 0 = o)
    ∧ (verbClass r.verb).isSome = true ∧ x.holds = false ∧ r.spec.awaitsStore a = false
    ∧ r.spec.judge a = none ∧ s.dev.bodyWait r.n x c = none
    ∧ s.dev.needsCkpt ((r.spec.plan a).charges.filter (fun y => isPer y.1)) = none
    ∧ s.given r.n x c e ∧ s.dev.allOn (r.spec.needs a e) = true ∧ s.dev.servesNow (r.spec.draw a) = true
    ∧ nextLen c 0 = c.inLen ∧ a.inp.length = c.inLen
    ∧ s.dev.brokenIn (hi16 c.w2) (lo16 c.w2) c.inLen = false
    ∧ s.dev.brokenIn (hi16 c.w6) (lo16 c.w6) c.parLen = false

/-- What a starting clause works on: its parameters and whole input, the values and the counter of its key slots, the
DRBG output drawn for it (06 R147; 09 R207, R210; 12 R284). -/
def State.workOf (s : State) (r : VerbRow) (x : Sentence) (c : Clause) : Work :=
  let a := s.dev.ask r.n x c
  let srcs := (r.spec.plan a).srcs.map (·.slot)
  { d := s.dev, n := r.n, c := c, ps := a.ps, inp := a.inp
    key := (srcs.head?.map s.dev.keyValue).getD [], key2 := (srcs[1]?.map s.dev.keyValue).getD []
    ctr := ((r.spec.plan a).charges.head?.map (fun y => (s.dev.ks.budget y.1).1)).getD 0
    rnd := match r.spec.draw a with
      | some q => (s.dev.drbg.generate q.len q.add).1
      | none => []
    hold := (s.dev.holdOf r.n x c).isSome, presig := r.spec.presig a, primes := [] }

/-- The command answers a state in which the sentence `x` has a running job with the result `o`, at the same clause. -/
def Runs (i : Instr) (s : State) (r : VerbRow) (x : Sentence) (o : JobResult) : Prop :=
  ∃ t j, exec i s = .next t ∧ t.dev.sent r.n x.sid = some { x with wait := .none, sel := none, job := some j }
    ∧ j.phase = .run ∧ j.result = some o

/-- Every clause the verb command `i` starts has the result `o` of what it works on, but for RSA key generation, whose
result comes with its second prime (11 R261). -/
def Computes (i : Instr) (o : Work → JobResult) : Prop :=
  ∀ (r : VerbRow) (x : Sentence) (c : Clause) (e : Nat) (s : State), verbRow i = some r →
    s.starts r x c e → r.spec.rounds (s.dev.ask r.n x c) = false → Runs i s r x (o (s.workOf r x c))

/-- The units a plan charges to one slot. -/
def SlotPlan.units (p : SlotPlan) (slot : Nat) : Nat := ((p.charges.filter (fun y => y.1 = slot)).map (·.2)).sum

/-- The clause `c` of sentence `x`, no template, of channel `n` is the running job `j`, its steps made, its work done with
the result `r`, and no race, skipped record or replay bears on it (06 R139, R143, R454; 08 R173; 15 R357); the
service processor is not halted where the clause needs it (13 R316). -/
def State.atEnd (s : State) (n : Chn) (x : Sentence) (c : Clause) (j : Job) (r : JobResult) : Prop :=
  s.awake ∧ s.dev.working = true ∧ (s.dev.chan n).state.active = true
    ∧ (∀ k, ((s.dev.chan n).rings.ring k).good = true) ∧ s.dev.sent n x.sid = some x ∧ x.job = some j
    ∧ x.clauses[x.idx]? = some c ∧ x.parent = none ∧ x.ringReset = false ∧ (∀ o, j.dst ≠ .append o) ∧ j.steps = []
    ∧ j.result = some r ∧ j.midFill r = false ∧ j.raced = false ∧ j.outGone = false
    ∧ s.dev.replayed n (r.good ++ r.bad) = false ∧ s.dev.halts j.verb = false

/-- The clause `u` of the template sentence `y` is the running job `j`, its work done with the result `r`, its steps made, and
nothing else bears on it; `x` is the sentence of its phrase, `c` the PHRASE clause, `g` its job, `q` the run of its
templates, of which `y` is the one under way (15 R366). -/
def State.templateAtEnd (s : State) (n : Chn) (x y : Sentence) (c u : Clause) (p : Parent) (j g : Job) (r : JobResult)
    (q : PhraseRun) : Prop :=
  s.awake ∧ s.dev.working = true ∧ (s.dev.chan n).state.active = true
    ∧ (∀ k, ((s.dev.chan n).rings.ring k).good = true) ∧ s.dev.sent n y.sid = some y ∧ y.job = some j
    ∧ y.clauses[y.idx]? = some u ∧ y.parent = some p ∧ p.sid = x.sid ∧ y.sid ≠ x.sid
    ∧ (∀ z ∈ (s.dev.chan n).sents, z.parent.map (·.sid) = some x.sid → z.sid = y.sid)
    ∧ s.dev.sent n x.sid = some x ∧ x.job = some g ∧ x.clauses[x.idx]? = some c ∧ g.phrase = some q
    ∧ g.result = none ∧ g.abort = false ∧ j.phase = .run ∧ j.abort = false ∧ j.steps = [] ∧ j.phrase = none
    ∧ j.result = some r ∧ j.midFill r = false ∧ j.raced = false
    ∧ s.dev.replayed n (r.good ++ r.bad) = false ∧ s.dev.halts j.verb = false
    ∧ (hi16 u.w4 = 0xFFFD ↔ ∃ f, j.dst = .alloc f) ∧ j.dst ≠ .ring

/-- The rings after one record of clause `c`, its OUT record sealed with length word `w` and bytes `bs` where the job
has one open (06 R137, R139, R142). -/
def Job.ringsAfter (j : Job) (c : Clause) (st : Status) (idx w1 w2 h : Nat) (w : Word) (bs : Bytes) (r : Rings) : Rings :=
  (if j.dst = .ring then r.seal w bs else r).post (cplWords st j.engine c.tag w1 w2 h idx) c.notify

/-- The rings after a SKIPPED record for each clause of `cs`, the first at index `i` (06 R136). -/
def Rings.skipped : List Clause → Nat → Rings → Rings
  | [], _, r => r
  | c :: cs, i, r => Rings.skipped cs (i + 1) (r.post (cplWords .skipped 0xFF c.tag 0 0 c.w3hi i) c.notify)

/-! ### What several commands have in common -/

/-- What a PIN and a SOFT reset have in common (00 R15–R17): the sticky registers, CH_STICKY of every channel,
WAKESTAT, the mailbox and its mark, the journal queue and seconds, OTP and flash are kept; every channel is
CLOSED, the volatile slots, the presignatures, the pool and the captured frames are gone. -/
def ResetKept (s t : State) : Prop :=
  t.pending = s.pending ∧ t.shell.a.slots = [] ∧ t.shell.b.slots = []
    ∧ (∀ k, t.dev.trouble.g k = s.dev.trouble.g k) ∧ (∀ n, (t.dev.chan n).sticky = (s.dev.chan n).sticky)
    ∧ (∀ n, (t.dev.chan n).state = .closed ∧ (t.dev.chan n).sents = [])
    ∧ t.dev.power.wakeStat = s.dev.power.wakeStat ∧ t.dev.supply.mailbox = s.dev.supply.mailbox
    ∧ t.dev.supply.sealed = s.dev.supply.sealed ∧ t.dev.journal.queue = s.dev.journal.queue
    ∧ t.dev.journal.seconds = s.dev.journal.seconds ∧ t.dev.otp = s.dev.otp ∧ t.dev.flash = s.dev.flash
    ∧ t.dev.ks.vol = [] ∧ t.dev.presig.avail = [] ∧ t.dev.pool.bufs = [] ∧ t.dev.pool.mem = []

end Sys2Proof.Machine
end

