-- ==== Sys2Proof/Certificates/Slice0/Obligations.lean ====
section
/-!
DEFINITION. The statements about this model, from the numbered rules of the spec.
-/

open Sys2Proof Sys2Proof.Machine

/-! ### The queue, the step, the machine as a whole -/

/-- A step takes the command at the front of the queue and runs it on the state with the queue's rest. -/
def Obligations.StepRunsFrontCommand : Prop :=
  ∀ (s : State) (c : Instr) (q : List Instr), step { s with pending := c :: q } = exec c { s with pending := q }

/-- 03 R66, R68, log entry 3: on an empty queue the oldest captured frame of port A commits, else of port B: it leaves
its slot, the other frames of both ports stay (all are dropped where the commit made a reset, R17), and the state is
that after its effect: the words of a WRITE in ascending order, each as the write of its register or window word would
leave the core; the words of a STREAM appended, a SKIP's record consumed, an OUTREAD's cursor moved; nothing for a
frame captured with a fault. Where no frame can commit, nothing changes. -/
def Obligations.EmptyQueueCommitsOldestFrame : Prop :=
  (∀ s : State, s.pending = [] → s.commits = false → step s = .next s)
    ∧ (∀ s : State, s.pending = [] → s.shell.a.slots = [] → s.shell.b.slots = [] → step s = .next s)
    ∧ (∀ (s u : State) (p : Port) (x : Slot) (l : List Slot), s.awake → s.pending = [] → s.commits = true →
        (p = .B → s.shell.a.slots = []) → (s.shell.port p).slots = x :: l →
        u = s.modPort p (fun y => { y with slots := l }) →
        ∃ t, step s = .next t ∧ t.pending = []
          ∧ ((∀ q, (t.shell.port q).slots = (u.shell.port q).slots) ∨ ∀ q, (t.shell.port q).slots = [])
          ∧ (∀ a ws, x.cap = .write a ws → t = (commitWords p x.inStop (unitEnd a) a ws u).through id)
          ∧ (∀ a w, x.cap = .write a [w] → a % 4 = 0 → a < 0x1000000 → x.inStop = false →
            step s = (if (winOf a).isNone then exec (.registerWrite p a w) u else exec (.windowWrite p a w) u))
          ∧ (∀ n ws, x.cap = .stream n ws → t = u.through (commitStream p x.inStop n ws))
          ∧ (∀ n, x.cap = .skip n → t = u.through (commitSkip p n))
          ∧ (∀ n adv, x.cap = .outread n adv → t = u.through (commitOutread n adv))
          ∧ (x.cap = .ignored → t.shell = u.shell ∧ Keeps [] s.dev t.dev))

/-- Every command answers a next state, and leaves the queue as it was. -/
def Obligations.EveryCommandAnswersAndKeepsQueue : Prop :=
  ∀ (c : Instr) (s : State), ∃ t, exec c s = .next t ∧ t.pending = s.pending

/-- 03 R11, R66, Table 03.7: every step keeps HLCFG of both ports legal, at most two frames per port captured, and no
reset half made. -/
def Obligations.StepKeepsShellsLegal : Prop :=
  ∀ s t : State, s.legal = true → step s = .next t → t.legal = true

/-- The state after reset is legal. -/
def Obligations.ResetStateIsLegal : Prop := State.reset.legal = true

/-- What the spec gives the state after reset: HLCFG 0x0000_0008 (Table 03.7), ATTNMASK_A 0 and ATTNMASK_B 0xE000_0000
(Table 04.2), the sticky registers 0, every channel CLOSED (05 R113), SCHEDCFG and the weights (08 R196), nothing
captured, nothing waiting, MGMT_RES 0, the device in RUN. -/
def Obligations.ResetStateHoldsSpecValues : Prop :=
  State.reset.pending = [] ∧ (∀ p, State.reset.hlcfg p = 0x00000008 ∧ (State.reset.shell.port p).slots = [])
    ∧ State.reset.dev.trouble.maskA = 0 ∧ State.reset.dev.trouble.maskB = 0xE0000000
    ∧ (∀ k, State.reset.dev.trouble.g k = 0) ∧ State.reset.dev.trouble.why = 0
    ∧ (∀ n, (State.reset.dev.chan n).state = .closed ∧ (State.reset.dev.chan n).cfg = 0)
    ∧ State.reset.dev.sched.cfg = 0x19032004 ∧ State.reset.dev.sched.weights = Vector.replicate 4 0x10101010
    ∧ State.reset.dev.boot.mgmtRes = 0 ∧ State.reset.dev.power.st = .run

/-! ### Resets (00 Table 00.3, 02 R38, 19 R434) -/

/-- 00 R15–R17, 02 R38, 14 R336, 19 R434: a POR, VIN crossing its threshold, no management command running, keeps OTP
and flash and the other pins alone: the core is the fresh one over them, both shells are at their reset values. RESET#
low for 1 µs or more makes a PIN reset, which returns HLCFG, the masks, LCREQ and TAMPERSTAT to their reset values; a
pulse of at most 100 ns is ignored, one between makes a whole PIN reset or none. SOFT_RESET from port A, or a confirm
watchdog that expires in RUN, on its own or with a step of the seconds count, which advances with the time that
passes, keeps what a PIN reset keeps and those, LCREQ with BUSY clear. Each of the three empties the volatile key
slots and the presignature pool and drops every captured write. -/
def Obligations.ResetsKeepWhatTheSpecNames : Prop :=
  (∀ s : State, s.dev.boot.mgmt = none →
      ∃ t, exec .por s = .next t ∧ t.pending = s.pending ∧ t.shell = ⟨.fresh, .fresh⟩
        ∧ Keeps [] { Dev.fresh s.dev.otp s.dev.flash with pins := { s.dev.pins with vin := !s.dev.pins.vin } } t.dev)
  ∧ (∀ (s : State) (lowNs : Nat), s.awake →
      (lowNs ≤ 100 → ∃ t, exec (.pinReset lowNs) s = .next t ∧ SameShell s t ∧ Keeps [] s.dev t.dev)
        ∧ (1000 ≤ lowNs → s.dev.boot.mgmt = none → s.dev.supply.fired = false →
          ∃ t, exec (.pinReset lowNs) s = .next t ∧ ResetKept s t ∧ t.shell = ⟨.fresh, .fresh⟩
            ∧ t.dev.trouble.maskA = 0 ∧ t.dev.trouble.maskB = 0xE0000000 ∧ t.dev.lc.lcreq = 0
            ∧ t.dev.lc.tamperBlock = false)
        ∧ (1000 ≤ lowNs → exec (.pinReset lowNs) s = .next (s.through pinReset))
        ∧ (100 < lowNs → lowNs < 1000 → exec (.pinReset lowNs) s = .next (s.through bump)
          ∨ exec (.pinReset lowNs) s = .next (s.through (fun d => pinReset (bump d)))))
  ∧ (∀ (c : Instr) (s : State),
      c = .por ∨ (∃ lowNs, c = .pinReset lowNs ∧ 1000 ≤ lowNs ∧ s.awake) ∨ c = .softReset ∧ s.takes .A →
        ∃ t, exec c s = .next t ∧ t.dev.ks.vol = [] ∧ t.dev.presig.avail = [] ∧ t.dev.presig.filling = 0
          ∧ ∀ p, (t.shell.port p).slots = [])
  ∧ (∀ (c : Instr) (s : State) (sec : Word), s.dev.boot.mgmt = none → s.dev.supply.fired = false →
      (c = .softReset ∧ s.takes .A ∧ sec = s.dev.journal.seconds
        ∨ s.awake ∧ s.dev.boot.confirmRun = true ∧ s.dev.power.st = .run
          ∧ (c = .confirmWatchdogExpiry ∧ sec = s.dev.journal.seconds + BitVec.ofNat 32 s.dev.boot.ticksLeft
            ∨ c = .secondsTick ∧ s.dev.boot.confirmRemain ≤ s.dev.boot.confirmLeft
              ∧ sec = s.dev.journal.seconds + 1)) →
        ∃ t, exec c s = .next t
          ∧ ResetKept { s with dev := { s.dev with journal := { s.dev.journal with seconds := sec } } } t
          ∧ (∀ p, t.hlcfg p = s.hlcfg p)
          ∧ t.dev.trouble.maskA = s.dev.trouble.maskA ∧ t.dev.trouble.maskB = s.dev.trouble.maskB
          ∧ t.dev.lc.lcreq = clrBit s.dev.lc.lcreq 31 ∧ t.dev.lc.tamperBlock = s.dev.lc.tamperBlock
          ∧ t.dev.lc.tamperOpen = s.dev.lc.tamperOpen)

/-- 19 R434, 02 R29, R30: a bank supply that rises above VBDET is given its class by its level 100 µs later, which
holds until it falls again; bank B's loss changes nothing else; the loss of bank A or F makes a power-on reset, and
while VIN, bank A or bank F is below its threshold the device stays in it and answers no frame. -/
def Obligations.BankSupplyDetection : Prop :=
  ∀ s : State, s.dev.rst = .none →
    (∀ (b : Bank3) (mv : Nat), ∃ t, exec (.vddioDetection b (some mv)) s = .next t ∧ SameShell s t ∧ Keeps [.pins] s.dev t.dev
        ∧ t.dev.pins.vin = s.dev.pins.vin ∧ t.dev.pins.tamper = s.dev.pins.tamper
        ∧ vget t.dev.pins.bank (bankIx b) none
          = (match vget s.dev.pins.bank (bankIx b) none with
            | some c => some c
            | none => some (if mv < 2400 then .v18 else .v33))
        ∧ ∀ i, i ≠ bankIx b → vget t.dev.pins.bank i none = vget s.dev.pins.bank i none)
      ∧ (∃ t, exec (.vddioDetection .B none) s = .next t ∧ SameShell s t ∧ Keeps [.pins] s.dev t.dev
        ∧ t.dev.pins.vin = s.dev.pins.vin ∧ t.dev.pins.tamper = s.dev.pins.tamper
        ∧ (∀ i, i ≠ 1 → vget t.dev.pins.bank i none = vget s.dev.pins.bank i none)
        ∧ vget t.dev.pins.bank 1 none = none)
      ∧ (∀ b : Bank3, b ≠ .B → s.dev.boot.mgmt = none → ∃ t, exec (.vddioDetection b none) s = .next t
        ∧ t.shell = ⟨.fresh, .fresh⟩ ∧ t.dev.inPor = true
        ∧ t.dev.pins.vin = s.dev.pins.vin ∧ t.dev.pins.tamper = s.dev.pins.tamper
        ∧ Keeps [.pins] (Dev.fresh s.dev.otp s.dev.flash) t.dev)
      ∧ (s.dev.pins.vin = false ∨ vget s.dev.pins.bank 0 none = none ∨ vget s.dev.pins.bank 2 none = none →
        (∀ p f, exec (.read p f) s = .next s) ∧ exec .softReset s = .next s ∧ ∀ env, exec (.romBoot env) s = .next s)

/-! ### The host link (03) -/

/-- 03 R54, R56, R58, R63, R64: a READ of control words in view drives GSTAT and then the words, all from the state as
it stands, and the trailer where CRC is enabled; STATUS drives GSTAT and the trailer over the header as received, of
which the host clocks as many words as it will. Nothing else of the machine changes but the count of bad headers,
which is 0 again, and what the edge of CS# wakes (R69); a STATUS cut within GSTAT with CRC off records SHORT (R83). -/
def Obligations.ControlReadDrivesSnapshot : Prop :=
  (∀ (p : Port) (f : ReadFrame) (s : State), s.hears p → f.addr.toNat % 4 = 0 → winOf f.addr.toNat = none →
    (∀ i, i ≤ f.cnt.toNat → f.addr.toNat + 4 * i < unitEnd f.addr.toNat
      ∧ (s.dev.otp.endFuse = true ∨ s.dev.ctlSeen (some p) (f.addr.toNat + 4 * i) = true)) → f.cnt.toNat + 1 ≤ f.clocked →
    exec (.read p f) s = .next ((s.modPort p (fun x => { x with
      badHdr := 0
      out := driven s p (header 0xA1 f.addr f.cnt)
        (s.gstat p :: (List.range (f.cnt.toNat + 1)).map (fun i => s.ctlWord (some p) (f.addr.toNat + 4 * i))) })).woken p))
  ∧ (∀ (p : Port) (f : ReadFrame) (s : State), s.hears p →
    (bit (s.hlcfg p) 2 = true ∨ 1 ≤ f.clocked →
      exec (.status ⟨p, f⟩) s = .next ((s.modPort p (fun x => { x with
        badHdr := 0, out := (driven s p (header 0xA5 f.addr f.cnt) [s.gstat p]).take f.clocked })).woken p))
    ∧ (bit (s.hlcfg p) 2 = false → f.clocked = 0 →
      ∃ t, exec (.status ⟨p, f⟩) s = .next t ∧ bit t.dev.trouble.g0 4 = true ∧ (t.shell.port p).out = []
        ∧ Keeps [.trouble, .journal, .power] s.dev t.dev))

/-- 03 R71, 07 R167: a READ of one word of ring memory in view, or of a pool word in a LIVE buffer of a channel bound
to the port, the memory on and the word in time, drives GSTAT, LAT filler words of 0 and the word as memory holds it;
nothing else changes but what the edge of CS# wakes (R69). -/
def Obligations.WindowReadDrivesFillersThenWord : Prop :=
  ∀ (p : Port) (a : BitVec 24) (s : State) (x : Word), s.hears p → a.toNat % 4 = 0 → s.dev.otp.endFuse = false →
    s.dev.blocked (some p) a.toNat = false → s.dev.gRun = true →
    ((∃ n off, winOf a.toNat = some (.ring n off) ∧ s.dev.bound n = p ∧ (s.dev.chan n).state.active = true
        ∧ s.dev.domOff (44 + n.val) = false ∧ x = (s.dev.chan n).rings.mem.word 0 off)
      ∨ (∃ n off, winOf a.toNat = some (.pool off) ∧ s.dev.poolHit p off = .served n
        ∧ s.dev.domOff (60 + off / 65536) = false ∧ s.dev.pool.broken.contains off = false
        ∧ x = s.dev.pool.mem.word 0 off)) →
    exec (.read p ⟨a, 0, 1, none, [], []⟩) s = .next ((s.modPort p (fun y => { y with
      badHdr := 0
      out := driven s p (header 0xA1 a 0) (s.gstat p :: List.replicate (fld (s.hlcfg p) 11 8) 0 ++ [x]) })).woken p)

/-- 03 R57, R69: whatever a READ or STATUS frame finds, it changes no register, memory byte, pointer or state a host
can write: only the records of faults (sticky bits, journal queue, stamps), CH_STICKY, the list of pool words known
broken, the boot window's page request and, in STOP entry and STOP, what its CS# edge wakes change; ATTNMASK_A,
ATTNMASK_B, JSEL and the entry it fetched, HLCFG and the captured frames stay, but for a fallback due. -/
def Obligations.ReadFramesChangeNoHostState : Prop :=
  ∀ (c : Instr) (p : Port) (f : ReadFrame) (s t : State), c = .status ⟨p, f⟩ ∨ c = .read p f → exec c s = .next t →
      Keeps [.trouble, .journal, .chans, .pool, .gate, .power] s.dev t.dev
      ∧ (t.dev.trouble.maskA = s.dev.trouble.maskA ∧ t.dev.trouble.maskB = s.dev.trouble.maskB)
      ∧ (t.dev.journal.jsel = s.dev.journal.jsel ∧ t.dev.journal.jstat = s.dev.journal.jstat
        ∧ t.dev.journal.jent = s.dev.journal.jent ∧ t.dev.journal.jnewest = s.dev.journal.jnewest
        ∧ t.dev.journal.seconds = s.dev.journal.seconds)
      ∧ (∀ n, ∃ w, t.dev.chan n = { s.dev.chan n with sticky := w })
      ∧ (t.dev.pool.mem = s.dev.pool.mem ∧ t.dev.pool.bufs = s.dev.pool.bufs ∧ t.dev.pool.gens = s.dev.pool.gens
        ∧ t.dev.pool.dirty = s.dev.pool.dirty)
      ∧ (t.dev.gate.digests = s.dev.gate.digests ∧ t.dev.gate.ver = s.dev.gate.ver ∧ t.dev.gate.page = s.dev.gate.page)
      ∧ (∃ st w k ds, t.dev.power = { s.dev.power with st := st, wakeStat := w, woken := k, doms := ds })
      ∧ (s.dev.power.st = .run → t.dev.power = s.dev.power)
      ∧ (∀ q, (t.shell.port q).slots = (s.shell.port q).slots)
      ∧ ((s.shell.port p).badHdr < 4 → ∀ q, t.hlcfg q = s.hlcfg q)

/-- 03 R66, R69: a WRITE frame that is whole and aligned, with a commit slot free, is captured: its words wait in the
last slot, marked with whether the core runs; nothing of it takes effect yet but that the edge of CS# wakes. -/
def Obligations.WriteFrameWaitsInSlot : Prop :=
  ∀ (p : Port) (f : WriteFrame) (s : State), s.hears p → (s.shell.port p).slots.length < 2 → f.addr.toNat % 4 = 0 →
    f.cnt.toNat + 1 ≤ f.data.length →
    (bit (s.hlcfg p) 2 = true → f.trailer = some (bytesWord (crcCheck (header 0xA2 f.addr f.cnt
      ++ wordsBytes (f.data.take (f.cnt.toNat + 1)))))) →
    exec (.write p f) s = .next ((s.modPort p (fun x => { x with
      badHdr := 0
      slots := x.slots ++ [⟨.write f.addr.toNat (f.data.take (f.cnt.toNat + 1)), !s.dev.gRun⟩] })).woken p)

/-- 03 R67: with both slots occupied a WRITE, STREAM, SKIP or OUTREAD frame is refused: WBUSY is recorded, an OUTREAD
drives nothing, the captured frames stay; no word of it takes effect. (STREAM and SKIP, which this model lets commit
within their command, are stated for a core that does not run.) 03 R58: with CRC enabled a WRITE frame whose trailer
is missing or wrong records LINKCRC and leaves its slot without an effect. -/
def Obligations.ThirdFrameAndWrongTrailerRefused : Prop :=
  (∀ (c : Instr) (p : Port) (s : State), s.hears p → (s.shell.port p).slots.length = 2 →
      ((∃ f, c = .write p f) ∨ (∃ f, c = .outread p f) ∨ s.commits = false ∧ ∃ f, c = .stream p f ∨ c = .skip p f) →
      ∃ t, exec c s = .next t ∧ bit t.dev.trouble.g0 7 = true ∧ Keeps [.trouble, .journal, .power] s.dev t.dev
        ∧ (∀ q, (t.shell.port q).slots = (s.shell.port q).slots ∧ t.hlcfg q = s.hlcfg q)
        ∧ ((∃ f, c = .outread p f) → (t.shell.port p).out = []))
  ∧ (∀ (p : Port) (f : WriteFrame) (s : State), s.hears p → (s.shell.port p).slots.length < 2 → f.addr.toNat % 4 = 0 →
      bit (s.hlcfg p) 2 = true → f.trailer ≠ some (bytesWord (crcCheck (header 0xA2 f.addr f.cnt
        ++ wordsBytes (f.data.take (f.cnt.toNat + 1))))) →
      ∃ t, exec (.write p f) s = .next t ∧ bit t.dev.trouble.g0 1 = true ∧ Keeps [.trouble, .journal, .power] s.dev t.dev
        ∧ (t.shell.port p).slots = (s.shell.port p).slots ++ [⟨.ignored, !s.dev.gRun⟩])

/-- 03 R74: a whole STREAM frame of a port that sees channel n, the channel OPEN or DRAINING, its fill bank b on and
with room, appends its words at the bank's fill offset, which advances by 4 bytes a word; every other byte of the
stream memory and everything else is as before, but for what the edge of CS# wakes in STOP entry. -/
def Obligations.StreamAppendsToFillBank : Prop :=
  ∀ (p : Port) (f : WriteFrame) (s : State) (b : Nat), s.hears p → s.takes p → (s.shell.port p).slots = [] →
    f.addr.toNat % 4 = 0 → 0x140000 ≤ f.addr.toNat → f.addr.toNat < 0x180000 → f.cnt.toNat + 1 ≤ f.data.length →
    bit (s.hlcfg p) 2 = false → s.dev.bound (addrChn f.addr.toNat) = p →
    (s.dev.chan (addrChn f.addr.toNat)).state.active = true →
    (s.dev.chan (addrChn f.addr.toNat)).stream.fillBank = some b →
    s.dev.domOff (92 + 2 * (addrChn f.addr.toNat).val + b) = false →
    ((s.dev.chan (addrChn f.addr.toNat)).stream.bank b).count + 4 * (f.cnt.toNat + 1) ≤ 0x2000 →
    Mem.wf 0 (s.dev.chan (addrChn f.addr.toNat)).stream.mem = true →
    ∃ t, exec (.stream p f) s = .next t ∧ (t.shell.port p).slots = [] ∧ Keeps [.chans, .power] s.dev t.dev
      ∧ (s.dev.power.st = .run → t.dev.power = s.dev.power)
      ∧ OthersKept (addrChn f.addr.toNat) s.dev t.dev
      ∧ ((t.dev.chan (addrChn f.addr.toNat)).stream.bank b).count
        = ((s.dev.chan (addrChn f.addr.toNat)).stream.bank b).count + 4 * (f.cnt.toNat + 1)
      ∧ Wrote (s.dev.chan (addrChn f.addr.toNat)).stream.mem (t.dev.chan (addrChn f.addr.toNat)).stream.mem
        (0x2000 * b + ((s.dev.chan (addrChn f.addr.toNat)).stream.bank b).count)
        (wordsBytes (f.data.take (f.cnt.toNat + 1)))
      ∧ ∃ st, t.dev.chan (addrChn f.addr.toNat) = { s.dev.chan (addrChn f.addr.toNat) with stream := st }

/-- 03 R77: a SKIP frame, the record at OUT_HEAD sealed, consumes that record exactly as if it had been read whole:
OUT_HEAD moves to the next start or to OUT_TAIL, the cursor returns to 0; ring memory is as before; the edge of CS#
wakes in STOP entry. -/
def Obligations.SkipConsumesSealedRecord : Prop :=
  ∀ (p : Port) (f : WriteFrame) (s : State) (st : Nat) (l : List (Nat × Bool)), s.hears p → s.takes p →
    (s.shell.port p).slots = [] → f.addr.toNat % 4 = 0 → 0x100000 ≤ f.addr.toNat → f.addr.toNat < 0x140000 →
    bit (s.hlcfg p) 2 = false → s.dev.bound (addrChn f.addr.toNat) = p →
    (s.dev.chan (addrChn f.addr.toNat)).state.active = true →
    (s.dev.chan (addrChn f.addr.toNat)).rings.out.good = true →
    (s.dev.chan (addrChn f.addr.toNat)).rings.starts = (st, false) :: l →
    ∃ t, exec (.skip p f) s = .next t ∧ (t.shell.port p).slots = [] ∧ Keeps [.chans, .power] s.dev t.dev
      ∧ (s.dev.power.st = .run → t.dev.power = s.dev.power)
      ∧ ChanIs (addrChn f.addr.toNat) (fun c => { c with rings := { c.rings with
          out := { c.rings.out with head := (match l with | (x, _) :: _ => .of x | [] => c.rings.out.tail) }
          starts := l, cursor := 0, recNo := c.rings.recNo + 1 } }) s.dev t.dev

/-- 03 R75: an OUTREAD, the record at OUT_HEAD sealed, drives GSTAT, LAT fillers, the record's words from the cursor
on and zero words beyond its last, and waits in a slot with what it read and from where, its CS# edge waking; its
commit moves the cursor to the larger of where it is and the position read from plus the words clocked; past the
record's last word the record is consumed; where OUT_HEAD no longer names that record nothing changes. -/
def Obligations.OutreadDrivesRecordAndMovesCursor : Prop :=
  (∀ (p : Port) (a : BitVec 24) (cnt : BitVec 8) (s : State) (st k : Nat), s.hears p → s.takes p →
      (s.shell.port p).slots.length < 2 → a.toNat % 4 = 0 → 0x100000 ≤ a.toNat → a.toNat < 0x140000 →
      s.dev.bound (addrChn a.toNat) = p → (s.dev.chan (addrChn a.toNat)).state.active = true →
      s.dev.domOff (44 + (addrChn a.toNat).val) = false →
      (s.dev.chan (addrChn a.toNat)).rings.headRec = some (st, k) →
      (s.dev.chan (addrChn a.toNat)).rings.mem.word 0 ((s.dev.chan (addrChn a.toNat)).rings.out.base + st) ≠ 0 → 0 < k →
      exec (.outread p ⟨a, cnt, cnt.toNat + 1, none, [], []⟩) s = .next ((s.modPort p (fun x => { x with
        badHdr := 0
        out := driven s p (header 0xB4 a cnt) (s.gstat p :: List.replicate (fld (s.hlcfg p) 11 8) 0
          ++ (List.range (cnt.toNat + 1)).map (fun i =>
            if (s.dev.chan (addrChn a.toNat)).rings.cursor + i < k then
              (s.dev.chan (addrChn a.toNat)).rings.mem.word 0 ((s.dev.chan (addrChn a.toNat)).rings.out.base + st
                + 4 * ((s.dev.chan (addrChn a.toNat)).rings.cursor + i))
            else 0))
        slots := x.slots ++ [⟨.outread (addrChn a.toNat) (some ((s.dev.chan (addrChn a.toNat)).rings.recNo,
          (s.dev.chan (addrChn a.toNat)).rings.cursor, cnt.toNat + 1)), !s.dev.gRun⟩] })).woken p))
  ∧ (∀ (p : Port) (s : State) (n : Chn) (no start k : Nat) (b : Bool), s.takes p →
      (s.shell.port p).slots = [⟨.outread n (some (no, start, k)), b⟩] → (s.dev.chan n).state.active = true →
      (s.dev.chan n).rings.out.good = true →
      ∃ t, exec (.outreadCommit p) s = .next t ∧ (t.shell.port p).slots = [] ∧ Keeps [.chans] s.dev t.dev
        ∧ OthersKept n s.dev t.dev
        ∧ (∀ st w, (s.dev.chan n).rings.headRec = some (st, w) →
          ((s.dev.chan n).rings.recNo ≠ no → t.dev.chan n = s.dev.chan n)
          ∧ ((s.dev.chan n).rings.recNo = no → max (s.dev.chan n).rings.cursor (start + k) < w →
            t.dev.chan n = { s.dev.chan n with rings := { (s.dev.chan n).rings with
              cursor := max (s.dev.chan n).rings.cursor (start + k) } })
          ∧ ((s.dev.chan n).rings.recNo = no → w ≤ max (s.dev.chan n).rings.cursor (start + k) →
            t.dev.chan n = { s.dev.chan n with rings := (s.dev.chan n).rings.consume }
              ∧ (t.dev.chan n).rings.cursor = 0 ∧ (t.dev.chan n).rings.mem = (s.dev.chan n).rings.mem)))

/-- 03 R83, R84: a frame with an incomplete header or a wrong complement records LINKERR and counts toward the
fallback; one with an unknown code records BADCMD and returns the count to 0; with FBEN set, after four bad headers in
a row the fallback puts the port to MODE 0 with CRC off, LAT, BLAT and FBEN as they are, and records MODEFB (the count
starts again at 0 then: log entry 54). -/
def Obligations.BadHeadersLeadToFallback : Prop :=
  ∀ (p : Port) (s : State), s.dev.served p = true → s.dev.rst = .none →
    (∀ bytes : Bytes, s.hears p → (bytes.length < 6 ∨ par8 bytes 1 ≠ 255 - par8 bytes 0) →
      ∃ t, exec (.malformedFrame p bytes) s = .next t ∧ bit t.dev.trouble.g0 0 = true
        ∧ t.shell = s.shell.mod p (fun x => { x with badHdr := x.badHdr + 1, out := [] })
        ∧ Keeps [.trouble, .journal, .power] s.dev t.dev)
    ∧ (∀ bytes : Bytes, s.hears p → 6 ≤ bytes.length → par8 bytes 1 = 255 - par8 bytes 0 →
      linkCodes.contains (par8 bytes 0) = false →
      ∃ t, exec (.malformedFrame p bytes) s = .next t ∧ bit t.dev.trouble.g0 2 = true
        ∧ t.shell = s.shell.mod p (fun x => { x with badHdr := 0, out := [] })
        ∧ Keeps [.trouble, .journal, .power] s.dev t.dev)
    ∧ (4 ≤ (s.shell.port p).badHdr → bit (s.hlcfg p) 3 = true →
      ∃ t, exec (.linkFallback p) s = .next t ∧ bit t.dev.trouble.g0 10 = true
        ∧ t.shell = s.shell.mod p (fun x => { x with hlcfg := t.hlcfg p, badHdr := 0 })
        ∧ (∀ i, (t.hlcfg p).getLsbD i = (decide (3 ≤ i) && (s.hlcfg p).getLsbD i))
        ∧ Keeps [.trouble, .journal] s.dev t.dev)

/-- 03 R69, R81, 06 R454, 07 R167: a committed word at a ring memory address of a channel in view that is OPEN or
DRAINING, or at a pool address in a LIVE buffer of a channel bound to the port, the memory on, is written there; every
other byte of that memory, and every other part of the core, is as before, but that a clause whose range of the pool,
or whose open OUT record, the word lies in is raced. A word of the ring or stream memory of a channel in view whose
domain is off records WINOFF and is dropped, whatever the channel's state. -/
def Obligations.WindowWriteWritesOneWord : Prop :=
  ∀ (p : Port) (a : Nat) (w : Word) (s : State), s.takes p → a % 4 = 0 → s.dev.blocked (some p) a = false →
    (∀ n off, winOf a = some (.ring n off) → s.dev.bound n = p → (s.dev.chan n).state.active = true →
      s.dev.domOff (44 + n.val) = false → Mem.wf 0 (s.dev.chan n).rings.mem = true →
      ∃ t, exec (.windowWrite p a w) s = .next t ∧ SameShell s t ∧ Keeps [.chans] s.dev t.dev ∧ OthersKept n s.dev t.dev
        ∧ (∃ m x, t.dev.chan n = { s.dev.chan n with rings := { (s.dev.chan n).rings with mem := m }, sents := x })
        ∧ (t.dev.chan n).sents = (s.dev.chan n).sents.map (fun x => { x with job := x.job.map (fun j => { j with
            raced := j.raced || (s.dev.chan n).rings.openRec.any (fun o =>
              decide ((s.dev.chan n).rings.out.base + o.start + 4 < off + 4)
                && decide (off < (s.dev.chan n).rings.out.base + o.start + 4 + o.reserve)
                && (x.sid == o.sid || x.parent.any (fun q => q.sid == o.sid))) }) })
        ∧ Wrote (s.dev.chan n).rings.mem (t.dev.chan n).rings.mem off (wordBytes w))
    ∧ (∀ n off, winOf a = some (.pool off) → s.dev.poolHit p off = .served n → s.dev.domOff (60 + off / 65536) = false →
      Mem.wf 0 s.dev.pool.mem = true →
      ∃ t, exec (.windowWrite p a w) s = .next t ∧ SameShell s t ∧ Keeps [.chans, .pool] s.dev t.dev
        ∧ OthersKept n s.dev t.dev ∧ (∃ x, t.dev.chan n = { s.dev.chan n with sents := x })
        ∧ (t.dev.chan n).sents = (s.dev.chan n).sents.map (fun x => { x with job := x.job.map (fun j => { j with
            raced := j.raced || (x.clauses[x.idx]?).any (fun c => c.covers off) }) })
        ∧ t.dev.pool.bufs = s.dev.pool.bufs ∧ t.dev.pool.gens = s.dev.pool.gens
        ∧ t.dev.pool.dirty = s.dev.pool.dirty ∧ Wrote s.dev.pool.mem t.dev.pool.mem off (wordBytes w))
    ∧ (∀ n off, s.dev.bound n = p → (winOf a = some (.ring n off) ∧ s.dev.domOff (44 + n.val) = true
        ∨ winOf a = some (.stream n off) ∧ s.dev.domOff (92 + 2 * n.val + off / 0x2000) = true) →
      ∃ t, exec (.windowWrite p a w) s = .next t ∧ SameShell s t ∧ bit t.dev.trouble.g0 9 = true
        ∧ Keeps [.trouble, .journal] s.dev t.dev)

/-- 03 R59, 04 R91–R93, 00 R11, R16, 03 R62: a committed HLCFG takes CRC, FBEN, and LAT and MODE where they are not
reserved values, and BLAT on port A; a reserved LAT or MODE leaves that field and records RSVDVAL. A committed word
writes ATTNMASK_A or ATTNMASK_B with its reserved bits 0, clears the bits of GSTICKY0–GSTICKY3 and of CH_STICKY that
are written 1, the count INVAR as a whole where any of its bits is, and does nothing at a hole. -/
def Obligations.RegisterWritesTakeEffect : Prop :=
  (∀ (p : Port) (w : Word) (s : State), s.takes p →
    (fld w 11 8 ≤ 8 → fld w 1 0 ≤ 1 →
      ∃ t, exec (.hlcfgWrite p w) s = .next t ∧ t.dev.trouble = s.dev.trouble ∧ Keeps [] s.dev t.dev
        ∧ t.shell = s.shell.mod p (fun x => { x with
          hlcfg := w &&& (match p with | .A => 0x00FF0F0F | .B => 0x00000F0F) }))
    ∧ (8 < fld w 11 8 ∨ 1 < fld w 1 0 →
      ∃ t, exec (.hlcfgWrite p w) s = .next t ∧ bit t.dev.trouble.g0 12 = true ∧ Keeps [.trouble, .journal] s.dev t.dev
        ∧ t.shell = s.shell.mod p (fun x => { x with hlcfg := t.hlcfg p })
        ∧ ∀ i, i < 32 → (t.hlcfg p).getLsbD i =
          if (8 ≤ i ∧ i ≤ 11 ∧ 8 < fld w 11 8) ∨ (i ≤ 1 ∧ 1 < fld w 1 0) then (s.hlcfg p).getLsbD i
          else (w &&& (match p with | .A => 0x00FF0F0F | .B => 0x00000F0F)).getLsbD i))
  ∧ (∀ (w : Word) (s : State), s.takes .A →
    (∃ t, exec (.registerWrite .A 0x020 w) s = .next t ∧ SameShell s t ∧ Keeps [.trouble] s.dev t.dev
      ∧ t.dev.trouble = { s.dev.trouble with maskA := w &&& 0xF000FFFF })
    ∧ (∃ t, exec (.registerWrite .A 0x024 w) s = .next t ∧ SameShell s t ∧ Keeps [.trouble] s.dev t.dev
      ∧ t.dev.trouble = { s.dev.trouble with maskB := w &&& 0xF000FFFF })
    ∧ (∀ k < 4, ∃ t, exec (.registerWrite .A (0x030 + 4 * k) w) s = .next t ∧ SameShell s t ∧ Keeps [.trouble] s.dev t.dev
      ∧ t.dev.trouble = s.dev.trouble.setG k (s.dev.trouble.g k
        &&& ~~~(if k = 2 ∧ fld w 2 0 ≠ 0 then w ||| 7 else w)))
    ∧ (∃ t, exec (.registerWrite .A 0x0B0 w) s = .next t ∧ SameShell s t ∧ Keeps [] s.dev t.dev))
  ∧ (∀ (n : Chn) (w : Word) (s : State), s.takes (s.dev.bound n) →
    ∃ t, exec (.registerWrite (s.dev.bound n) (0x10008 + 0x1000 * n.val) w) s = .next t ∧ SameShell s t
      ∧ Keeps [.chans] s.dev t.dev ∧ ChanIs n (fun c => { c with sticky := c.sticky &&& ~~~w }) s.dev t.dev)

/-! ### Time and the journal (04 R97–R103) -/

/-- 04 R100, R103, 14 R336, log entry 14: a second steps the seconds count, from which FAULT24 is counted afresh over
the kept stamps, and takes the milliseconds up to this step from a confirm watchdog that runs and has more left;
nothing else. -/
def Obligations.SecondsCountWithTheWatchdog : Prop :=
  ∀ s : State, s.awake → s.dev.boot.confirmRun = false ∨ s.dev.boot.confirmLeft < s.dev.boot.confirmRemain →
    ∃ t, exec .secondsTick s = .next t ∧ SameShell s t ∧ Keeps [.journal, .boot] s.dev t.dev
      ∧ t.dev.journal = { s.dev.journal with seconds := s.dev.journal.seconds + 1 }
      ∧ t.dev.boot = (if s.dev.boot.confirmRun then { s.dev.boot with
          confirmRemain := s.dev.boot.confirmRemain - s.dev.boot.confirmLeft, confirmLeft := 1000 } else s.dev.boot)
      ∧ t.dev.fault24 = min 63 ((s.dev.trouble.stamps.filter (fun x =>
          (s.dev.journal.seconds + 1 - x).toNat < 86400)).length)

/-- 04 R99, R101: a write of JSEL sets BUSY and clears VALID, NOENT and ERR; when the fetch ends, JSTAT says NOENT
where no entry has the sequence number, else the eight words of the entry stand in JENT with VALID, and with ERR where
its CRC is wrong. In RUN below level 3, the seconds count restored, the oldest queued entry is programmed at the next
place, the place inside a sector: its 32 bytes stand there under the next sequence number, JNEWEST now, and it has
left the queue. -/
def Obligations.JournalIsFetchedAndWritten : Prop :=
  ((∀ (w : Word) (s : State), s.takes .A →
      ∃ t, exec (.jselWrite .A w) s = .next t ∧ SameShell s t ∧ Keeps [.journal] s.dev t.dev
        ∧ t.dev.journal = { s.dev.journal with jsel := w, jstat := 1 })
    ∧ (∀ s : State, s.awake → s.dev.flashFree = true → bit s.dev.journal.jstat 0 = true →
      (s.dev.journal.index.lookup s.dev.journal.jsel.toNat = none →
        ∃ t, exec .journalFetchDone s = .next t ∧ SameShell s t ∧ Keeps [.journal] s.dev t.dev
          ∧ t.dev.journal = { s.dev.journal with jstat := 4 })
      ∧ (∀ place, s.dev.journal.index.lookup s.dev.journal.jsel.toNat = some place →
        ∃ t, exec .journalFetchDone s = .next t ∧ SameShell s t ∧ Keeps [.journal] s.dev t.dev
          ∧ t.dev.journal.jsel = s.dev.journal.jsel ∧ t.dev.journal.queue = s.dev.journal.queue
          ∧ t.dev.journal.jstat = (if crcGood 28 (s.dev.flashRead (0x2000 + 32 * place) 32) then 2 else 10)
          ∧ ∀ i : Fin 8, t.dev.journal.jent[i]
            = bytesWord (slice (4 * i.val) 4 (s.dev.flashRead (0x2000 + 32 * place) 32)))))
  ∧ (∀ (s : State) (e : JEntry) (q : List JEntry), s.awake → s.dev.flashFree = true → s.dev.journal.restored = true →
      s.dev.flashUp = true → s.dev.journal.queue = e :: q → s.dev.journal.place % 128 ≠ 0 →
      Mem.wf 0xFF s.dev.flash.mem = true →
      ∃ t, exec (.journalWrite []) s = .next t ∧ SameShell s t ∧ Keeps [.journal, .flash] s.dev t.dev
        ∧ t.dev.journal.queue = q ∧ t.dev.journal.jnewest = s.dev.journal.nextSeq
        ∧ t.dev.journal.place = (s.dev.journal.place + 1) % 640
        ∧ t.dev.journal.index = s.dev.journal.index ++ [(s.dev.journal.nextSeq, s.dev.journal.place)]
        ∧ t.dev.journal.seconds = s.dev.journal.seconds ∧ t.dev.flash.present = s.dev.flash.present
        ∧ (∀ i b, (e.bytes s.dev.journal.nextSeq)[i]? = some b →
          Mem.get 0xFF t.dev.flash.mem (0x2000 + 32 * s.dev.journal.place + i) = b)
        ∧ (∀ x, (x < 0x2000 + 32 * s.dev.journal.place ∨ 0x2000 + 32 * s.dev.journal.place + 32 ≤ x) →
          Mem.get 0xFF t.dev.flash.mem x = Mem.get 0xFF s.dev.flash.mem x))

/-! ### Channels (05 R106–R121) -/

/-- 05 R107–R109, 16 R371: OPEN on a CLOSED channel, EN set, POLICY 0, no memory domain failed, starts the
initialization: CH_CFG takes CHCFGTn, the rings are laid out by SPLIT and empty, the quota set, and the four memory
domains are in use, so that their target is on; with them on it ends in OPEN with OPENERR 0, or, a CLOSE having been
written meanwhile, in DRAINING (log entry 70). -/
def Obligations.OpenWithoutPolicyInitialises : Prop :=
  (∀ (n : Chn) (s : State), s.takes (s.dev.bound n) → s.dev.power.st = .run → (s.dev.chan n).state = .closed →
    (s.dev.chan n).phase = .idle → bit s.dev.cfg.chcfgt[n.val] 31 = true → fld s.dev.cfg.chcfgt[n.val] 29 28 = 0 →
    s.dev.chanFailed n = false →
    ∃ t, exec (.chOpen n) s = .next t ∧ SameShell s t ∧ Keeps [.chans] s.dev t.dev ∧ OthersKept n s.dev t.dev
      ∧ (t.dev.chan n).phase = .init false ∧ (t.dev.chan n).state = .closed
      ∧ (t.dev.chan n).cfg = s.dev.cfg.chcfgt[n.val] ∧ (t.dev.chan n).quota = 16 * fld s.dev.cfg.chcfgt[n.val] 19 12
      ∧ (∀ k, (t.dev.chan n).rings.ring k = .fresh (splitPlace (fld s.dev.cfg.chcfgt[n.val] 25 24) k).1
        (splitPlace (fld s.dev.cfg.chcfgt[n.val] 25 24) k).2)
      ∧ (t.dev.chan n).rings.mem = [] ∧ (t.dev.chan n).stream = .fresh
      ∧ (t.dev.chan n).sticky = (s.dev.chan n).sticky ∧ (∀ x ∈ chanDoms n.val, t.dev.target x = true))
  ∧ (∀ (n : Chn) (s : State) (b : Bool), s.awake → s.dev.stopped = false → (s.dev.chan n).phase = .init b →
    (s.dev.chan n).state = .closed ∨ (s.dev.chan n).state = .opening → s.dev.allOn (chanDoms n.val) = true →
    ∃ t, exec (.openInitDone n) s = .next t ∧ SameShell s t ∧ Keeps [.chans] s.dev t.dev
      ∧ ChanIs n (fun c => { c with state := if b then .draining else .opened, phase := .idle, openErr := 0 })
        s.dev t.dev)

/-- 05 R107, R119–R121, 09 R207: OPEN under POLICY 1, the key of OPENKEY usable, asks the DRBG for 32 bytes and the
channel is OPENING: a request that is served at once has its bytes, one that is not waits behind the others. The bytes
drawn then stand in CH_NONCE with NONCEV; RESP, the charge possible at once, takes NONCEV, charges the slot one unit
and captures key, nonce and response for the check, class-H work that starts on the lane the scheduler prefers. -/
def Obligations.ChallengeIsDrawnAndAnswered : Prop :=
  ∀ (n : Chn) (s : State),
    (s.takes (s.dev.bound n) → s.dev.power.st = .run → (s.dev.chan n).state = .closed → (s.dev.chan n).phase = .idle →
      bit s.dev.cfg.chcfgt[n.val] 31 = true → fld s.dev.cfg.chcfgt[n.val] 29 28 = 1 → s.dev.chanFailed n = false →
      s.dev.openKeyErr n (fld s.dev.cfg.chcfgt[n.val] 7 0) = none → s.dev.entropyOut = false →
      (s.dev.chan n).lockout = false →
      (s.dev.servesNow (some (.plain 32)) = true →
        ∃ t, exec (.chOpen n) s = .next t ∧ SameShell s t ∧ Keeps [.chans, .drbg] s.dev t.dev
          ∧ t.dev.drbg = (s.dev.drbg.generate 32 []).2
          ∧ ChanIs n (fun c => { c with state := .opening, phase := .drawn (s.dev.drbg.generate 32 []).1 }) s.dev t.dev)
      ∧ (s.dev.servesNow (some (.plain 32)) = false →
        ∃ t, exec (.chOpen n) s = .next t ∧ SameShell s t ∧ Keeps [.chans, .entropy] s.dev t.dev
          ∧ t.dev.entropy.queue = s.dev.entropy.queue ++ [(.nonce n, .plain 32)] ∧ t.dev.entropy.busy = true
          ∧ ChanIs n (fun c => { c with state := .opening, phase := .drawing }) s.dev t.dev))
    ∧ (∀ nonce, s.awake → s.dev.stopped = false → (s.dev.chan n).state = .opening → (s.dev.chan n).phase = .drawn nonce →
      ∃ t, exec (.openNonceReady n) s = .next t ∧ SameShell s t ∧ Keeps [.chans] s.dev t.dev
        ∧ ChanIs n (fun c => { c with nonce := nonce, nonceV := true, phase := .noncev }) s.dev t.dev)
    ∧ (s.takes (s.dev.bound n) → (s.dev.chan n).state = .opening → (s.dev.chan n).nonceV = true →
      s.dev.openKeyErr n (fld s.dev.cfg.chcfgt[n.val] 7 0) = none →
      s.dev.chargeNow (fld s.dev.cfg.chcfgt[n.val] 7 0) 1 = true →
      ∃ t, exec (.chResp n) s = .next t ∧ SameShell s t ∧ Keeps [.chans, .ks] s.dev t.dev
        ∧ (t.dev.ks.budget (fld s.dev.cfg.chcfgt[n.val] 7 0)).1
          = (s.dev.ks.budget (fld s.dev.cfg.chcfgt[n.val] 7 0)).1 + 1
        ∧ ChanIs n (fun c => { c with nonceV := false, phase := (.checking
            (s.dev.keyValue (fld s.dev.cfg.chcfgt[n.val] 7 0)) c.nonce (wordsBytes c.resp.toList)
            (.of .hash 62)) }) s.dev t.dev)
    ∧ (∀ sid key nonce resp e, s.awake → s.dev.stopped = false → s.dev.sent n sid = none →
      (s.dev.chan n).phase = .checking key nonce resp (.of .hash 62) → s.dev.pick .hash = some (n, 0) →
      s.dev.prefer (Cls.hash.engines.filter s.dev.engFree) = some e → s.dev.domOn (12 + e) = true →
      ∃ t x, exec (.contextResume n sid) s = .next t ∧ SameShell s t ∧ Keeps [.chans] s.dev t.dev
        ∧ ChanIs n (fun c => { c with phase := .checking key nonce resp x }) s.dev t.dev
        ∧ x.cls = .hash ∧ x.phase = .run ∧ x.engine = engIdOf e)

/-- 05 R120, R121, Tables 05.2, 05.6: the check that ran on its lane ends: a response equal to HMAC-SHA-256 of the
open message starts the initialization; any other ends in CLOSED with OPENERR 7, CH_STICKY.OPENFAIL recorded and the
lockout on; both clear nonce and response. Five seconds without RESP end in CLOSED with OPENERR 8, CH_OPENRESP as it
is; the lockout's expiry lifts it. -/
def Obligations.ResponseDecidesOpen : Prop :=
  ∀ (n : Chn) (s : State), s.awake →
    (∀ key nonce resp x, s.dev.stopped = false → x.phase = .run → (s.dev.chan n).state = .opening →
      (s.dev.chan n).phase = .checking key nonce resp x →
      (hmac .sha256 key (ascii "AY-OPEN" ++ [0] ++ wordBytes devid ++ uidBytes ++ [BitVec.ofNat 8 n.val]
        ++ [if s.dev.bound n = .A then 0x41 else 0x42] ++ nonce) = resp →
        ∃ t, exec (.openRespResult n) s = .next t ∧ SameShell s t ∧ Keeps [.chans, .cores] s.dev t.dev
          ∧ OthersKept n s.dev t.dev ∧ (t.dev.chan n).phase = .init false ∧ (t.dev.chan n).state = .opening
          ∧ (t.dev.chan n).cfg = s.dev.cfg.chcfgt[n.val] ∧ (t.dev.chan n).resp = Vector.replicate 8 0
          ∧ (t.dev.chan n).nonce = [])
      ∧ (hmac .sha256 key (ascii "AY-OPEN" ++ [0] ++ wordBytes devid ++ uidBytes ++ [BitVec.ofNat 8 n.val]
        ++ [if s.dev.bound n = .A then 0x41 else 0x42] ++ nonce) ≠ resp →
        ∃ t, exec (.openRespResult n) s = .next t ∧ SameShell s t
          ∧ Keeps [.chans, .cores, .trouble, .journal] s.dev t.dev
          ∧ OthersKept n s.dev t.dev ∧ (t.dev.chan n).state = .closed ∧ (t.dev.chan n).openErr = 7
          ∧ (t.dev.chan n).lockout = true ∧ bit (t.dev.chan n).sticky 8 = true
          ∧ (t.dev.chan n).resp = Vector.replicate 8 0 ∧ (t.dev.chan n).nonce = []))
    ∧ ((s.dev.chan n).state = .opening → (s.dev.chan n).phase = .noncev →
      ∃ t, exec (.openTimeout n) s = .next t ∧ SameShell s t ∧ Keeps [.chans] s.dev t.dev
        ∧ ChanIs n (fun c => { c with state := .closed, openErr := 8, nonceV := false, nonce := [], phase := .idle })
          s.dev t.dev)
    ∧ (∃ t, exec (.openLockoutExpiry n) s = .next t ∧ SameShell s t ∧ Keeps [.chans] s.dev t.dev
      ∧ ChanIs n (fun c => { c with lockout := false }) s.dev t.dev)

/-- 05 R108, R110, R111, Table 05.2, 07 R160: CLOSE of an OPEN channel makes it DRAINING, CLOSE in OPENING abandons
the open, OPENERR as it is; while an open under policy NONE is initialized the channel drains once it has opened (log
entry 70). When its rings are empty and nothing is taken a DRAINING channel is CLOSED, OPENERR and CH_ALLOCRES as they
are. RESET of an OPEN or DRAINING channel makes it RESETTING: what waits or can stop is dropped, a lane or the service
processor goes on to its boundary, and then the channel is CLOSED, its page but for CH_CFG and CH_STICKY at its reset
values. At both ends no buffer, volatile slot, operand area, stream byte or record context of the channel is left. -/
def Obligations.CloseDrainsAndResetClears : Prop :=
  ∀ (n : Chn) (s : State),
    (s.takes (s.dev.bound n) →
      ((s.dev.chan n).state = .opened →
        ∃ t, exec (.chClose n) s = .next t ∧ SameShell s t ∧ Keeps [.chans] s.dev t.dev
          ∧ ChanIs n (fun c => { c with state := .draining }) s.dev t.dev)
      ∧ ((s.dev.chan n).state = .opening →
        ∃ t, exec (.chClose n) s = .next t ∧ SameShell s t ∧ Keeps [.chans, .cores] s.dev t.dev ∧ OthersKept n s.dev t.dev
          ∧ (t.dev.chan n).state = .closed ∧ (t.dev.chan n).openErr = (s.dev.chan n).openErr
          ∧ (t.dev.chan n).resp = (s.dev.chan n).resp ∧ (t.dev.chan n).nonceV = false ∧ (t.dev.chan n).nonce = [])
      ∧ (∀ b, (s.dev.chan n).state = .closed → (s.dev.chan n).phase = .init b →
        ∃ t, exec (.chClose n) s = .next t ∧ SameShell s t ∧ Keeps [.chans] s.dev t.dev
          ∧ ChanIs n (fun c => { c with phase := .init true }) s.dev t.dev))
    ∧ (s.takes (s.dev.bound n) → (s.dev.chan n).state.active = true →
      ∃ t, exec (.chReset n) s = .next t ∧ (t.dev.chan n).state = .resetting
        ∧ (t.dev.chan n).alloc = none ∧ (t.dev.chan n).sticky = (s.dev.chan n).sticky
        ∧ (t.dev.chan n).cfg = (s.dev.chan n).cfg ∧ OthersKept n s.dev t.dev ∧ t.dev.flash = s.dev.flash
        ∧ ((∀ x ∈ (s.dev.chan n).sents, x.parent = none ∧ ∀ j, x.job = some j → j.stopsAtOnce = true) →
          (t.dev.chan n).sents = [])
        ∧ (∀ x j, (s.dev.chan n).sents = [x] → x.parent = none → x.job = some j → j.stopsAtOnce = false →
          (t.dev.chan n).sents = [{ x with job := some { j with abort := true } }]))
    ∧ (∀ c, (c = .drainComplete n ∧ s.dev.drained n = true ∧ (∀ k, ((s.dev.chan n).rings.ring k).good = true)
          ∨ c = .chResetDone n ∧ (s.dev.chan n).state = .resetting ∧ (s.dev.chan n).sents = []) →
      s.awake → ∃ t, exec c s = .next t ∧ SameShell s t
        ∧ Keeps [.chans, .pool, .ks, .cores, .supply] s.dev t.dev ∧ OthersKept n s.dev t.dev
        ∧ (t.dev.chan n).state = .closed ∧ (t.dev.chan n).sents = [] ∧ (t.dev.chan n).quota = 0
        ∧ (t.dev.chan n).rings.mem = [] ∧ (t.dev.chan n).sticky = (s.dev.chan n).sticky
        ∧ (t.dev.chan n).cfg = (s.dev.chan n).cfg ∧ (t.dev.chan n).stream = .fresh
        ∧ (∀ i, i < 8 → t.dev.rec_ n i = none)
        ∧ (t.dev.chan n).openErr = (if c = .drainComplete n then (s.dev.chan n).openErr else 0)
        ∧ (t.dev.chan n).resp = (if c = .drainComplete n then (s.dev.chan n).resp else Vector.replicate 8 0)
        ∧ (t.dev.chan n).allocRes = (if c = .drainComplete n then (s.dev.chan n).allocRes else 0)
        ∧ (∀ b ∈ t.dev.pool.bufs, b.owner ≠ n) ∧ (∀ k ∈ t.dev.ks.vol, k.owner ≠ n.val)
        ∧ (∀ k (h : k < 4), t.dev.cores[k].owner ≠ some n))

/-- 05 R116–R118: a write of CHCFGTn from port A, the record loaded and not locked, the quotas within 4096 granules,
takes the word less its reserved bits, marks it in DIRTY and starts a record write; before ROOT exists it sets ERR
instead; the written record clears BUSY and ERR, and DIRTY where the registers still hold what was written. -/
def Obligations.ConfigurationIsWrittenAndStored : Prop :=
  (∀ (n : Chn) (w : Word) (s : State), s.takes .A → s.dev.cfgLocked = false → fld w 29 28 ≤ 1 → fld w 7 0 < 0xF0 →
    (s.dev.chan n).state ≠ .opening → s.dev.cfg.busy = false →
    quotaSum (s.dev.cfg.chcfgt.set n.val (w &&& 0xFBFFF0FF)).toList ≤ 4096 →
    s.dev.cfg.chcfgt[n.val] ≠ w &&& 0xFBFFF0FF →
    ∃ t, exec (.chcfgtWrite .A n w) s = .next t ∧ SameShell s t ∧ Keeps [.cfg] s.dev t.dev
      ∧ t.dev.cfg.chcfgt = s.dev.cfg.chcfgt.set n.val (w &&& 0xFBFFF0FF)
      ∧ t.dev.cfg.dirty = s.dev.cfg.dirty ||| BitVec.ofNat 16 (2 ^ n.val)
      ∧ (s.dev.otp.rooted = true → t.dev.cfg.busy = true ∧ t.dev.cfg.err = s.dev.cfg.err)
      ∧ (s.dev.otp.rooted = false → t.dev.cfg.busy = false ∧ t.dev.cfg.err = true)
      ∧ t.dev.cfg.tamperCfg = s.dev.cfg.tamperCfg ∧ t.dev.cfg.lgCfg = s.dev.cfg.lgCfg)
  ∧ (∀ s : State, s.awake → s.dev.cfg.busy = true → s.dev.cfg.again = false → s.dev.supply.level < 3 →
    s.dev.flashUp = true → s.dev.cfg.snap = s.dev.cfg.words →
    ∃ t, exec (.configRecordWrite []) s = .next t ∧ SameShell s t ∧ Keeps [.cfg, .flash] s.dev t.dev
      ∧ t.dev.cfg.busy = false ∧ t.dev.cfg.err = false ∧ t.dev.cfg.dirty = 0
      ∧ t.dev.cfg.chcfgt = s.dev.cfg.chcfgt)

/-! ### The buffer pool (07) -/

/-- 07 R158–R162, Table 07.5: CH_ALLOC on an OPEN channel with none in progress selects the lowest place for its
granules, or is refused with RESULT 1 over quota or 2 without space; its completion, the bank on, places a LIVE buffer
on zeroed granules and gives its handle, or gives the refusal with 0xFFFC. -/
def Obligations.AllocationPlacesZeroedBuffer : Prop :=
  (∀ (n : Chn) (count : Nat) (s : State), s.takes (s.dev.bound n) → s.dev.power.st = .run →
    (s.dev.chan n).state = .opened → 1 ≤ count → count ≤ 64 → (s.dev.chan n).alloc = none →
    ∃ t, exec (.chAlloc n count) s = .next t ∧ SameShell s t ∧ Keeps [.chans] s.dev t.dev ∧ OthersKept n s.dev t.dev
      ∧ (t.dev.chan n).state = .opened
      ∧ (s.dev.inQuota n count = false → (t.dev.chan n).alloc = some ⟨count, none, 1⟩)
      ∧ (s.dev.inQuota n count = true → s.dev.firstFit count = none → (t.dev.chan n).alloc = some ⟨count, none, 2⟩)
      ∧ (∀ g, s.dev.inQuota n count = true → s.dev.firstFit count = some g →
        (t.dev.chan n).alloc = some ⟨count, some g, 0⟩))
  ∧ (∀ (n : Chn) (s : State) (c r : Nat), s.awake → s.dev.stopped = false →
    (∀ f, (s.dev.chan n).alloc = some ⟨c, some f, r⟩ → s.dev.domOn (60 + f / 128) = true →
      ∃ t, exec (.allocComplete n) s = .next t ∧ SameShell s t ∧ Keeps [.chans, .pool] s.dev t.dev
        ∧ OthersKept n s.dev t.dev ∧ t.dev.pool.bufs = ⟨f, c, n, .live⟩ :: s.dev.pool.bufs
        ∧ t.dev.pool.gens = s.dev.pool.gens ∧ t.dev.pool.mem = s.dev.pool.mem.wipe (f * 512) (c * 512)
        ∧ bit (t.dev.chan n).allocReg 31 = false
        ∧ (t.dev.chan n).allocRes = at_ (flag (bit (s.dev.chan n).allocRes 30)) 30 ||| at_ 0 24 ||| at_ (s.dev.pool.handle f) 0
        ∧ (∃ a, t.dev.chan n = { s.dev.chan n with alloc := none, allocRes := a }))
    ∧ ((s.dev.chan n).alloc = some ⟨c, none, r⟩ →
      ∃ t, exec (.allocComplete n) s = .next t ∧ SameShell s t ∧ Keeps [.chans] s.dev t.dev
        ∧ ChanIs n (fun x =>
          { x with
            alloc := none
            allocRes := at_ (flag (bit x.allocRes 30)) 30 ||| at_ r 24 ||| at_ 0xFFFC 0 }) s.dev t.dev))

/-- 07 R156, R164–R166: CH_FREE of a LIVE buffer of the channel by its current handle advances its generation and
returns its granules, dirty, at once; while a dispatched clause uses it the buffer is DYING instead; zeroing the
lowest dirty granule whose bank is on clears its bytes and its mark and nothing else; no other one is zeroed. -/
def Obligations.FreeReturnsGranulesDirty : Prop :=
  (∀ (n : Chn) (h : BitVec 16) (b : Buf) (s : State), s.takes (s.dev.bound n) → (s.dev.chan n).state.active = true →
    s.dev.pool.buf (h.toNat % 4096) = some b → b.st = .live → b.owner = n → h.toNat < 0xFFFC →
    h.toNat / 4096 = s.dev.pool.gen (h.toNat % 4096) → 4096 ≤ h.toNat →
    ∃ t, exec (.chFree n h) s = .next t ∧ SameShell s t ∧ Keeps [.pool] s.dev t.dev
      ∧ t.dev.pool.gen (h.toNat % 4096) = nextGen (h.toNat % 4096) (h.toNat / 4096)
      ∧ t.dev.pool.mem = s.dev.pool.mem
      ∧ (s.dev.bufUsed n (h.toNat % 4096) = false →
        t.dev.pool.bufs = s.dev.pool.bufs.filter (fun x => x.first != h.toNat % 4096)
          ∧ t.dev.pool.dirty = (List.range b.count).map (fun i => h.toNat % 4096 + i) ++ s.dev.pool.dirty)
      ∧ (s.dev.bufUsed n (h.toNat % 4096) = true →
        t.dev.pool.buf (h.toNat % 4096) = some { b with st := .dying } ∧ t.dev.pool.dirty = s.dev.pool.dirty))
  ∧ (∀ (g : Nat) (s : State), s.awake → g < 4096 → s.dev.pool.dirty.contains g = true →
    s.dev.domOn (60 + g / 128) = true →
    (∀ h, h < g → s.dev.pool.dirty.contains h = true → s.dev.domOn (60 + h / 128) = false) →
    (∀ h, h ≠ g → ∃ t, exec (.granuleZero h) s = .next t ∧ SameShell s t ∧ Keeps [] s.dev t.dev) ∧
    ∃ t, exec (.granuleZero g) s = .next t ∧ SameShell s t ∧ Keeps [.pool] s.dev t.dev
      ∧ t.dev.pool.mem = s.dev.pool.mem.wipe (g * 512) 512 ∧ t.dev.pool.dirty = s.dev.pool.dirty.filter (· != g)
      ∧ t.dev.pool.bufs = s.dev.pool.bufs ∧ t.dev.pool.gens = s.dev.pool.gens)

/-! ### Rings (06 R125–R134, R145–R149) -/

/-- 06 R126: a host write of a good pointer moves it: SUB TAIL by at most the free entries, CPL HEAD by at most the
posted records, whose marks return, OUT HEAD to a start or TAIL, the read cursor at 0 then. A value outside the ring,
an advance past the free entries or the posted records, and an OUT HEAD that is no start, leave every pointer and
record RSVDVAL. -/
def Obligations.HostPointerWritesMovePointers : Prop :=
  ∀ (n : Chn) (w : Word) (s : State), s.takes (s.dev.bound n) →
    (∀ prio, (s.dev.chan n).state = .opened → ∀ r, r = (s.dev.chan n).rings.ring (if prio then .subp else .subb) →
      r.good = true →
      (fld w 13 0 < r.size → (fld w 13 0 + r.size - r.tail.nat) % r.size ≤ r.free →
        ∃ t, exec (.subTailWrite n prio w) s = .next t ∧ SameShell s t ∧ Keeps [.chans] s.dev t.dev
          ∧ ChanIs n (fun c =>
            { c with
              rings := c.rings.setRing (if prio then .subp else .subb) { r with tail := .of (fld w 13 0) } })
            s.dev t.dev)
      ∧ (r.size ≤ fld w 13 0 ∨ r.free < (fld w 13 0 + r.size - r.tail.nat) % r.size →
        ∃ t, exec (.subTailWrite n prio w) s = .next t ∧ SameShell s t ∧ Keeps [.trouble, .journal] s.dev t.dev
          ∧ bit t.dev.trouble.g0 12 = true))
    ∧ ((s.dev.chan n).state.active = true → ∀ r, r = (s.dev.chan n).rings.cpl → r.good = true →
      (fld w 13 0 < r.size → (fld w 13 0 + r.size - r.head.nat) % r.size ≤ r.used →
        ∃ t, exec (.cplHeadWrite n w) s = .next t ∧ SameShell s t ∧ Keeps [.chans] s.dev t.dev
          ∧ ChanIs n (fun c => { c with rings := { c.rings with
              cpl := { r with head := .of (fld w 13 0) },
              notify := c.rings.notify.drop ((fld w 13 0 + r.size - r.head.nat) % r.size) } }) s.dev t.dev)
      ∧ (r.size ≤ fld w 13 0 ∨ r.used < (fld w 13 0 + r.size - r.head.nat) % r.size →
        ∃ t, exec (.cplHeadWrite n w) s = .next t ∧ SameShell s t ∧ Keeps [.trouble, .journal] s.dev t.dev
          ∧ bit t.dev.trouble.g0 12 = true))
    ∧ ((s.dev.chan n).state.active = true → ∀ r, r = (s.dev.chan n).rings.out → r.good = true →
      (fld w 13 0 < r.size → (fld w 13 0 = r.tail.nat ∨ ∃ b, (fld w 13 0, b) ∈ (s.dev.chan n).rings.starts) →
        ∃ t, exec (.outHeadWrite n w) s = .next t ∧ SameShell s t ∧ Keeps [.chans] s.dev t.dev ∧ OthersKept n s.dev t.dev
          ∧ (t.dev.chan n).rings.out = { r with head := .of (fld w 13 0) } ∧ (t.dev.chan n).rings.cursor = 0
          ∧ (t.dev.chan n).rings.mem = (s.dev.chan n).rings.mem
          ∧ (t.dev.chan n).rings.starts = startsFrom (fld w 13 0) (s.dev.chan n).rings.starts)
      ∧ (r.size ≤ fld w 13 0 ∨ (fld w 13 0 ≠ r.tail.nat ∧ ∀ b, (fld w 13 0, b) ∉ (s.dev.chan n).rings.starts) →
        ∃ t, exec (.outHeadWrite n w) s = .next t ∧ SameShell s t ∧ Keeps [.trouble, .journal] s.dev t.dev
          ∧ bit t.dev.trouble.g0 12 = true))

/-- 04 R103, R104, 06 R128, R129: the scrub leaves everything as it is where every pointer pair of every OPEN or
DRAINING channel agrees; where one ring's pair alone disagrees, that ring is reset: its pointers 0, its memory zeroed,
its bit of CH_STICKY and RINGPTR of GSTICKY2 recorded, no other ring or channel touched; WHY.FAULTRATE is raised where
this fault has brought FAULT24 to 17. -/
def Obligations.ScrubResetsMismatchedRing : Prop :=
  ∀ s : State, s.awake →
    ((∀ n k, (s.dev.chan n).state.active = true → ((s.dev.chan n).rings.ring k).good = true) →
      ∃ t, exec (.ringScrub none) s = .next t ∧ SameShell s t ∧ Keeps [] s.dev t.dev)
    ∧ (∀ n k, (s.dev.chan n).state.active = true → ((s.dev.chan n).rings.ring k).good = false →
      (∀ m j, (m, j) ≠ (n, k) → (s.dev.chan m).state.active = true → ((s.dev.chan m).rings.ring j).good = true) →
      ∃ t, exec (.ringScrub none) s = .next t ∧ SameShell s t ∧ Keeps [.chans, .trouble, .journal] s.dev t.dev
        ∧ OthersKept n s.dev t.dev ∧ bit (t.dev.chan n).sticky k.num = true ∧ bit t.dev.trouble.g2 9 = true
        ∧ (s.dev.fault24 < 17 → 17 ≤ t.dev.fault24 → bit t.dev.trouble.why 4 = true)
        ∧ (t.dev.chan n).state = (s.dev.chan n).state
        ∧ (t.dev.chan n).rings.ring k = .fresh ((s.dev.chan n).rings.ring k).base ((s.dev.chan n).rings.ring k).size
        ∧ (∀ j, j ≠ k → (t.dev.chan n).rings.ring j = (s.dev.chan n).rings.ring j)
        ∧ (t.dev.chan n).rings.mem = (s.dev.chan n).rings.mem.wipe ((s.dev.chan n).rings.ring k).base
          (((s.dev.chan n).rings.ring k).bytes k))

/-- 06 R132–R135, R150, R454, 08 R175: the ring controller takes the next sentence of the first ring in rotation that
can give one: HEAD moves past its clauses, a CPL credit is reserved for each, the stream bytes are assigned in order,
and the sentence stands last among the channel's, none of its clauses dispatched. In the same core update its first
clause is judged: one that passes its checks stays, one that fails posts its record with engine id 0xFF, and the rest
of the sentence is SKIPPED. While a sentence with FENCE is taken, or another one for a sentence with FENCE, the ring
gives none. -/
def Obligations.SentenceTakenReservesCredits : Prop :=
  (∀ (s : State) (pre post : List (Chn × RingK)) (n : Chn) (k : RingK) (c : Clause) (cs : List Clause), s.awake →
    s.dev.stopped = false → s.dev.visits = pre ++ (n, k) :: post → (∀ v ∈ pre, visitRing v.1 v.2 s.dev = none) →
    (s.dev.chan n).state.active = true → ((s.dev.chan n).rings.ring k).good = true →
    (s.dev.chan n).rings.cpl.good = true →
    ((s.dev.chan n).rings.ring k).used ≠ 0 → (s.dev.chan n).subWait k = 0 →
    (s.dev.chan n).rings.nextSentence k = some (c :: cs) →
    ∃ e y, Judges .sentenceTake s n e ∧ Keeps [.chans, .sched] s.dev e
      ∧ e.sched.rot = n ∧ e.sched.cfg = s.dev.sched.cfg ∧ e.sched.weights = s.dev.sched.weights
      ∧ OthersKept n s.dev e
      ∧ ((e.chan n).rings.ring k).head
        = .of ((((s.dev.chan n).rings.ring k).head.nat + (cs.length + 1)) % ((s.dev.chan n).rings.ring k).size)
      ∧ ((e.chan n).rings.ring k).tail = ((s.dev.chan n).rings.ring k).tail
      ∧ (e.chan n).rings.reserved = (s.dev.chan n).rings.reserved + (cs.length + 1)
      ∧ (e.chan n).rings.mem = (s.dev.chan n).rings.mem ∧ (e.chan n).rings.cpl = (s.dev.chan n).rings.cpl
      ∧ (e.chan n).stream = (assignStream (s.dev.chan n).nextSid 0 (c :: cs) (s.dev.chan n).stream).settle
      ∧ (e.chan n).sents = (s.dev.chan n).sents ++ [y] ∧ y.sid = (s.dev.chan n).nextSid ∧ y.clauses = c :: cs
      ∧ y.idx = 0 ∧ y.job = none ∧ (y.prio = true ↔ k = .subp) ∧ y.fence = (c :: cs).any (·.fence)
      ∧ (∀ v a, (s.dev.chan n).sents = [] → y.overlong = false → v = specOf c.verb (par8 (e.params c) 0) →
        a = e.ask n y c → v.awaitsStore a = false →
        ∃ t, exec .sentenceTake s = .next t
          ∧ (v.judge a = none → (t.dev.chan n).sents = [{ y with judged := true }] ∧ (t.dev.chan n).rings = (e.chan n).rings)
          ∧ (∀ st, v.judge a = some st → (t.dev.chan n).sents = []
            ∧ (t.dev.chan n).rings = Rings.skipped cs 1
              ((e.chan n).rings.post (cplWords st 0xFF c.tag 0 0 c.w3hi 0) c.notify))))
  ∧ (∀ (s : State) (n : Chn) (k : RingK) (cs : List Clause), s.awake → (∀ m, m ≠ n → (s.dev.chan m).state.active = false) →
    (∀ j, ((s.dev.chan n).rings.ring j).good = true) → (∀ j, j ≠ k → ((s.dev.chan n).rings.ring j).used = 0) →
    (s.dev.chan n).rings.nextSentence k = some cs →
    (∃ z ∈ (s.dev.chan n).sents, z.fence = true ∨ cs.any (·.fence) = true) →
    ∃ t, exec .sentenceTake s = .next t ∧ SameShell s t ∧ Keeps [] s.dev t.dev)

/-- 06 R145, R148, R152: SUBMIT of 1 to all bytes of the FILL bank adds them to the submitted bytes; FLUSH discards
what no taken clause owns, and with no FILL bank left makes the lowest FREE bank the next; neither changes a byte of
stream memory; with no FILL bank SUBMIT records BANKOVF, with a count of 0 RSVDVAL. -/
def Obligations.StreamBanksSubmitAndFlush : Prop :=
  ∀ (n : Chn) (s : State), s.takes (s.dev.bound n) → (s.dev.chan n).state.active = true →
    (∀ (w : Word) (b : Nat), bit w 30 = false → (s.dev.chan n).stream.fillBank = some b → 1 ≤ fld w 13 0 →
      fld w 13 0 ≤ ((s.dev.chan n).stream.bank b).count →
      ∃ t, exec (.bankSubmit n w) s = .next t ∧ SameShell s t ∧ Keeps [.chans] s.dev t.dev
        ∧ ChanIs n (fun c => { c with stream := c.stream.submit b (fld w 13 0) }) s.dev t.dev
        ∧ (t.dev.chan n).stream.submitted = (s.dev.chan n).stream.submitted + fld w 13 0
        ∧ (t.dev.chan n).stream.mem = (s.dev.chan n).stream.mem)
    ∧ (∀ w : Word, bit w 30 = false → (s.dev.chan n).stream.fillBank = none →
      ∃ t, exec (.bankSubmit n w) s = .next t ∧ SameShell s t ∧ bit (t.dev.chan n).sticky 6 = true
        ∧ Keeps [.chans, .trouble, .journal] s.dev t.dev ∧ (t.dev.chan n).stream = (s.dev.chan n).stream)
    ∧ (∀ (w : Word) (b : Nat), bit w 30 = false → (s.dev.chan n).stream.fillBank = some b → fld w 13 0 = 0 →
      ∃ t, exec (.bankSubmit n w) s = .next t ∧ SameShell s t ∧ bit t.dev.trouble.g0 12 = true
        ∧ Keeps [.trouble, .journal] s.dev t.dev)
    ∧ (∃ t, exec (.bankFlush n) s = .next t ∧ SameShell s t ∧ Keeps [.chans] s.dev t.dev
      ∧ ChanIs n (fun c => { c with stream := c.stream.flush }) s.dev t.dev
      ∧ (t.dev.chan n).stream.submitted = min (s.dev.chan n).stream.submitted (s.dev.chan n).stream.owned
      ∧ (t.dev.chan n).stream.owned = (s.dev.chan n).stream.owned
      ∧ ((t.dev.chan n).stream.bank0.st = .free → (t.dev.chan n).stream.bank1.st = .fill)
      ∧ (t.dev.chan n).stream.mem = (s.dev.chan n).stream.mem)

/-- 06 R149, R136, R139: an abort of a channel's one taken sentence, whole or by a tag it has: a clause that has not
been dispatched posts ABORTED and the sentence is gone; of the dispatched ones, a context or a step that is on no
engine and a big-number job end at once, ABORTED, their output zeroed and the rest SKIPPED; a lane and the service
processor are marked and go on to their next boundary or the end of their step. An abort of a tag no sentence has
changes nothing. -/
def Obligations.AbortEndsWaitingMarksRunning : Prop :=
  ∀ (n : Chn) (x : Sentence) (s : State), s.takes (s.dev.bound n) → (s.dev.chan n).state.active = true →
    (s.dev.chan n).sents = [x] → x.parent = none → (s.dev.chan n).rings.cpl.good = true →
    (∀ c, (c = .abortAll n ∨ ∃ tag : BitVec 16, c = .abortTag n tag ∧ x.hasTag tag.toNat = true) →
      (∀ cl, x.job = none → x.clauses = [cl] → x.idx = 0 → Mem.wf 0 (s.dev.chan n).rings.mem = true →
        ∃ t, exec c s = .next t ∧ SameShell s t ∧ Keeps [.chans] s.dev t.dev ∧ OthersKept n s.dev t.dev
          ∧ (t.dev.chan n).sents = []
          ∧ Posted cl .aborted 0xFF 0 0 0 cl.w3hi (s.dev.chan n).rings (t.dev.chan n).rings)
      ∧ (∀ j, x.job = some j → j.stopsAtOnce = false →
        ∃ t, exec c s = .next t ∧ SameShell s t ∧ Keeps [.chans] s.dev t.dev
          ∧ ChanIs n (fun ch => { ch with sents := [{ x with job := some { j with abort := true } }] }) s.dev t.dev)
      ∧ (∀ j cl, x.job = some j → j.stopsAtOnce = true → x.clauses[x.idx]? = some cl → j.phrase = none →
        j.outGone = false → (∀ q, j.dst ≠ .append q) → j.touched = [] → (s.dev.chan n).rings.out.good = true →
        ∃ t, exec c s = .next t ∧ SameShell s t ∧ Keeps [.chans, .pool, .ks, .cores, .presig] s.dev t.dev
          ∧ OthersKept n s.dev t.dev ∧ (t.dev.chan n).sents = [] ∧ (∀ m, t.dev.ks.slot m = s.dev.ks.slot m)
          ∧ (t.dev.chan n).rings = Rings.skipped (x.clauses.drop (x.idx + 1)) (x.idx + 1)
            (j.ringsAfter cl .aborted x.idx j.written j.input.length
              (match j.dst with
                | .alloc _ => 0xFFFC
                | _ => cl.w3hi) (lenWord false true j.written) (zeros j.written) (s.dev.chan n).rings)))
    ∧ (∀ tag : BitVec 16, x.hasTag tag.toNat = false →
      ∃ t, exec (.abortTag n tag) s = .next t ∧ SameShell s t ∧ Keeps [] s.dev t.dev)

/-! ### The ring controller's own verbs (06 R135; 09 R206) -/

/-- 06 R135, R136, R139, 09 R206: NOP and FENCE, their fields as required, complete at dispatch with OK and engine id
0xFF, and the sentence goes on, its next clause judged in the same update (R454); a clause with an unassigned verb,
[19:16] of W0 being 0, completes BAD_VERB, and being its sentence's last the sentence is gone. -/
def Obligations.RingControllerCompletesItsVerbs : Prop :=
  ∀ (n : Chn) (x : Sentence) (c : Clause) (s : State), s.atClause n x c → x.parent = none →
    Mem.wf 0 (s.dev.chan n).rings.mem = true →
    (∀ i v, (i = .nop n x.sid ∧ v = 0 ∨ i = .fence n x.sid ∧ v = 1) → c.verb = v → x.ringReset = false →
      s.dev.preChecks n c (x.fits c) = none → c.fieldsOk false false .no .no false false = true →
      ∃ e, Judges i s n e ∧ Keeps [.chans] s.dev e ∧ OthersKept n s.dev e ∧ Advanced n x e
        ∧ Posted c .ok 0xFF x.idx 0 0 c.w3hi (s.dev.chan n).rings (e.chan n).rings)
    ∧ (unassigned c.verb = true → fld c.w0 19 16 = 0 → x.clauses.length = x.idx + 1 →
      ∃ t, exec (.unassignedVerb n x.sid) s = .next t ∧ SameShell s t ∧ Keeps [.chans] s.dev t.dev
        ∧ OthersKept n s.dev t.dev ∧ t.dev.sent n x.sid = none
        ∧ Posted c .badVerb 0xFF x.idx 0 0 c.w3hi (s.dev.chan n).rings (t.dev.chan n).rings)

/-! ### Verbs (08; 09; 10; 11; 15) -/

/-- 06 R135, R147, 08 R173–R184, 09 R207, R210, R219, 11 R256, R261, 12 R285: a clause that passes its checks and
waits for nothing starts on the engine it is given, or on the service processor, with its whole input read: the job
holds its parameters, input, steps and the verb's result, for RSA key generation no accepted prime yet; each slot's
counter takes the units charged and nothing else of it changes; a destination is reserved; a verb that draws advances
the DRBG by its one request; only an output in 0xFFFD changes the pool, only one in 0xFFFE the OUT ring, only input
0xFFFF the stream; no other channel changes. -/
def Obligations.VerbDispatchStartsJob : Prop :=
  ∀ (i : Instr) (r : VerbRow) (x : Sentence) (c : Clause) (e : Nat) (s : State), verbRow i = some r →
    s.starts r x c e →
    ∃ t j, exec i s = .next t ∧ SameShell s t
      ∧ Keeps [.chans, .pool, .ks, .cores, .drbg, .presig] s.dev t.dev ∧ OthersKept r.n s.dev t.dev
      ∧ t.dev.sent r.n x.sid = some { x with wait := .none, sel := none, job := some j } ∧ j.verb = r.verb
      ∧ j.engine = engIdOf e ∧ j.phase = .run ∧ j.abort = false ∧ j.raced = false
      ∧ j.params = s.dev.params c ∧ j.input = s.dev.inputBytes r.n x c 0 c.inLen
      ∧ j.steps = r.spec.steps (s.dev.ask r.n x c)
      ∧ (r.spec.rounds (s.dev.ask r.n x c) = false → j.primes = none ∧ j.result = some (r.spec.run (s.workOf r x c)))
      ∧ (r.spec.rounds (s.dev.ask r.n x c) = true → j.primes = some [] ∧ j.result = none)
      ∧ (∀ m, t.dev.ks.slot m = (s.dev.ks.slot m).map
          (fun y => { y with ctr := y.ctr + (r.spec.plan (s.dev.ask r.n x c)).units m }))
      ∧ (∃ v p a b, t.dev.ks = { s.dev.ks with vol := v, per := p, cache := a, reserved := b })
      ∧ t.dev.ks.reserved = ((r.spec.dest (s.dev.ask r.n x c)).map (·.slot)).toList ++ s.dev.ks.reserved
      ∧ (∀ q, r.spec.draw (s.dev.ask r.n x c) = some q → t.dev.drbg = (s.dev.drbg.generate q.len q.add).2)
      ∧ (r.spec.draw (s.dev.ask r.n x c) = none → t.dev.drbg = s.dev.drbg)
      ∧ (hi16 c.w4 ≠ 0xFFFD → t.dev.pool = s.dev.pool) ∧ (e < 12 ∨ 16 ≤ e → t.dev.cores = s.dev.cores)
      ∧ (r.verb ≠ 0x50 → r.verb ≠ 0x5E → t.dev.presig = s.dev.presig)
      ∧ (∃ a b u g h, t.dev.chan r.n =
        { s.dev.chan r.n with sents := a, rings := b, stream := u, recs := g, prog := h })
      ∧ (t.dev.chan r.n).rings = (if hi16 c.w4 = 0xFFFE ∧ x.parent = none then
          (s.dev.chan r.n).rings.openOut (recBytes c.outCap) x.sid else (s.dev.chan r.n).rings)
      ∧ (hi16 c.w2 ≠ 0xFFFF → (t.dev.chan r.n).stream = (s.dev.chan r.n).stream)
      ∧ (r.verb ≠ 0x60 → r.verb ≠ 0x61 → (t.dev.chan r.n).recs = (s.dev.chan r.n).recs)
      ∧ (e < 12 ∨ 16 ≤ e → (t.dev.chan r.n).prog = (s.dev.chan r.n).prog)

/-- 15 R365–R367, 08 R173: a PHRASE clause that passes its checks, which the scheduler picks, starts on the service
processor and its first template, the selected words put in, becomes SUBP work of the channel. A template that ends OK
is followed by the next; after the last the phrase has the result OK, its output what the templates put into the
record; the first that fails ends the phrase with that template's status, and a template whose words cannot be put in
with BAD_HANDLE. W2 names the deciding template in [31:28] and counts the input bytes the templates used. -/
def Obligations.PhraseRunsTemplates : Prop :=
  (∀ (n : Chn) (x : Sentence) (c : Clause) (s : State) (a : Ask) (q : PhraseRun), s.atClause n x c → x.parent = none →
    c.verb = 0x65 → x.holds = false → x.sel = none → a = s.dev.ask n x c → phraseVerb.awaitsStore a = false →
    phraseVerb.judge a = none → s.dev.bodyWait n x c = none → s.dev.pick .service = some (n, x.sid) →
    s.dev.brokenIn (hi16 c.w6) (lo16 c.w6) c.parLen = false →
    q = ⟨ptCopy s.dev.phrases.table (par8 a.ps 0), 0, 0, [], []⟩ → 36 ≤ q.tmpl.length →
    ∃ e j, Judges (.phrase n x.sid) s n e ∧ Keeps [.chans] s.dev e ∧ OthersKept n s.dev e
      ∧ e.sent n x.sid = some { x with wait := .none, job := some j } ∧ j.verb = 0x65 ∧ j.engine = 0x30
      ∧ j.phase = .run ∧ j.params = a.ps ∧ j.phrase = some q
      ∧ (e.chan n).rings = (if hi16 c.w4 = 0xFFFE then
          (s.dev.chan n).rings.openOut (recBytes c.outCap) x.sid else (s.dev.chan n).rings)
      ∧ (∀ u, substTemplate q c a.ps 0 = some u → j.result = none
        ∧ ∃ y ∈ (e.chan n).sents, y.parent.map (·.sid) = some x.sid ∧ y.clauses = [u] ∧ y.idx = 0 ∧ y.prio = true
          ∧ y.fence = false ∧ y.job = none)
      ∧ (substTemplate q c a.ps 0 = none → j.result = some ⟨.badHandle, [], 0, [], []⟩))
  ∧ (∀ (n : Chn) (x y : Sentence) (c u : Clause) (p : Parent) (j g : Job) (r : JobResult) (q v : PhraseRun) (s : State),
    s.templateAtEnd n x y c u p j g r q → persistentKey r.good = none ∨ r.status.failure = true →
    v = { q with
      used := q.used + (if hi16 u.w2 = 0xFFFF then (if r.status.failure then j.input.length else u.inLen) else 0)
      out := q.out ++ (if hi16 u.w4 = 0xFFFE then
        (if r.status.failure then zeros (max j.written r.out.length) else r.out) else [])
      scratch := (match j.dst with
        | .alloc f => if r.status.failure then [] else [s.dev.pool.handle f]
        | _ => []) ++ q.scratch } →
    ∃ e g', Judges (.clauseComplete n y.sid .none) s n e ∧ OthersKept n s.dev e
      ∧ e.sent n x.sid = some { x with job := some g' } ∧ (e.chan n).rings.cpl = (s.dev.chan n).rings.cpl
      ∧ (r.status.failure = true → g'.result = some ⟨r.status, v.out, v.w2, [], []⟩ ∧ e.childOf n x.sid = none)
      ∧ (r.status.failure = false →
        (v.count ≤ v.idx + 1 → g'.result = some ⟨.ok, v.out, v.w2, [], []⟩ ∧ e.childOf n x.sid = none)
        ∧ (v.idx + 1 < v.count →
          (∀ w, substTemplate { v with idx := v.idx + 1 } c g.params (v.idx + 1) = some w →
            g'.result = none ∧ g'.phrase = some { v with idx := v.idx + 1 }
              ∧ ∃ z, e.childOf n x.sid = some z ∧ z.clauses = [w] ∧ z.job = none)
          ∧ (substTemplate { v with idx := v.idx + 1 } c g.params (v.idx + 1) = none →
            g'.result = some ⟨.badHandle, v.out, (v.idx + 1) * 2 ^ 28 + v.used, [], []⟩))))

/-- 09 R206, R208–R214: what the cipher verbs give: CBC, CTR, CMAC, and the AEAD verbs, whose open gives the plaintext
where the tag is right and AUTH_FAIL otherwise, nothing written in HOLD mode. -/
def Obligations.CipherVerbsCompute : Prop :=
  ∀ (n : Chn) (sid : Nat),
    Computes (.copy n sid) (fun w => okOut w.inp w.inp.length)
    ∧ Computes (.zero n sid) (fun w => okOut (zeros w.c.outCap) 0)
    ∧ Computes (.aesCbcEncrypt n sid) (fun w => okOut (cbcEncrypt w.key w.ps w.inp) w.inp.length)
    ∧ Computes (.aesCbcDecrypt n sid) (fun w => okOut (cbcDecrypt w.key w.ps w.inp) w.inp.length)
    ∧ Computes (.aesCtr n sid) (fun w => okOut (ctrCrypt w.key 16 w.ps w.inp) w.inp.length)
    ∧ Computes (.aesCmac n sid) (fun w =>
      if w.ps = [] then okOut (cmac w.key w.inp) w.inp.length
      else if cmac w.key w.inp = w.ps then okOut [] w.inp.length else failOut .authFail [] w.inp.length)
    ∧ (∀ i crypt tag, (i, crypt, tag) ∈ [(Instr.aesGcmSeal n sid, gcmCrypt, gcmTag),
        (Instr.chachaPolySeal n sid, chachaCrypt, chachaTag)] →
      Computes i (fun w =>
        let iv := if w.ps.length = 4 then w.ps ++ zeros 3 ++ natBE 5 w.ctr else w.ps
        let ct := crypt w.key iv (w.inp.drop w.c.aadLen)
        okOut ((if w.ps.length = 4 then iv else []) ++ ct ++ tag w.key iv (w.inp.take w.c.aadLen) ct) w.inp.length))
    ∧ Computes (.aesCcmSeal n sid) (fun w =>
        let iv := w.ps.drop 2
        let ct := ccmCrypt w.key iv (w.inp.drop w.c.aadLen)
        okOut (ct ++ ccmTag w.key iv (par8 w.ps 0) (w.inp.take w.c.aadLen) (ccmCrypt w.key iv ct)) w.inp.length)
    ∧ (∀ i crypt tag, (i, crypt, tag) ∈ [(Instr.aesGcmOpen n sid, gcmCrypt, gcmTag),
        (Instr.chachaPolyOpen n sid, chachaCrypt, chachaTag)] →
      Computes i (fun w =>
        let ct := slice w.c.aadLen (w.c.inLen - w.c.aadLen - 16) w.inp
        if tag w.key w.ps (w.inp.take w.c.aadLen) ct = w.inp.drop (w.c.inLen - 16) then
          okOut (crypt w.key w.ps ct) w.inp.length
        else failOut .authFail (if w.hold then [] else crypt w.key w.ps ct) w.inp.length))
    ∧ Computes (.aesCcmOpen n sid) (fun w =>
        let t := par8 w.ps 0
        let pt := ccmCrypt w.key (w.ps.drop 2) (slice w.c.aadLen (w.c.inLen - w.c.aadLen - t) w.inp)
        if ccmTag w.key (w.ps.drop 2) t (w.inp.take w.c.aadLen) pt = w.inp.drop (w.c.inLen - t) then
          okOut pt w.inp.length
        else failOut .authFail (if w.hold then [] else pt) w.inp.length)

/-- 09 R209, R211–R213: an AEAD open undoes the seal: of the ciphertext and tag a seal made with the same key, IV and
AAD it gives the payload again, and of any other tag AUTH_FAIL, with nothing written in HOLD mode. -/
def Obligations.AeadOpenUndoesSeal : Prop :=
  ∀ (alg : AeadAlg) (key iv aad pt tag : Bytes) (tlen w2 : Nat) (hold : Bool),
    (alg = gcmAlg ∧ iv.length = 12 ∧ (key.length = 16 ∨ key.length = 32)
      ∨ alg = ccmAlg ∧ 7 ≤ iv.length ∧ iv.length ≤ 13 ∧ (key.length = 16 ∨ key.length = 32)
      ∨ alg = chachaAlg ∧ iv.length = 12 ∧ key.length = 32) →
    let ct := alg.crypt key iv pt
    sealOut alg [] key iv tlen aad pt = ct ++ alg.tag key iv tlen aad ct
      ∧ openOut alg key iv tlen aad ct (alg.tag key iv tlen aad ct) hold w2 = okOut pt w2
      ∧ (tag ≠ alg.tag key iv tlen aad ct →
        openOut alg key iv tlen aad ct tag true w2 = failOut .authFail [] w2)

/-- 09 R217, R218, R220–R223: what the hash verbs give: digests, exact-length XOF output, HMAC made or checked against
16 to HashLen leading bytes, HKDF and TLS 1.3 expansions to the output or to a slot. -/
def Obligations.HashVerbsCompute : Prop :=
  ∀ (n : Chn) (sid : Nat),
    Computes (.sha256 n sid) (fun w => okOut (sha256 w.inp) w.inp.length)
    ∧ Computes (.sha384 n sid) (fun w => okOut (sha384 w.inp) w.inp.length)
    ∧ Computes (.sha512 n sid) (fun w => okOut (sha512 w.inp) w.inp.length)
    ∧ Computes (.sha3256 n sid) (fun w => okOut (sha3_256 w.inp) w.inp.length)
    ∧ Computes (.sha3512 n sid) (fun w => okOut (sha3_512 w.inp) w.inp.length)
    ∧ Computes (.shake128 n sid) (fun w => okOut (shake128 w.c.outCap w.inp) w.inp.length)
    ∧ Computes (.shake256 n sid) (fun w => okOut (shake256 w.c.outCap w.inp) w.inp.length)
    ∧ (∀ i h, (i, h) ∈ [(Instr.hmacSha256 n sid, HmacHash.sha256), (Instr.hmacSha384 n sid, HmacHash.sha384)] →
      Computes i (fun w =>
        if w.ps = [] then okOut (hmac h w.key w.inp) w.inp.length
        else if (hmac h w.key w.inp).take w.ps.length = w.ps then okOut [] w.inp.length
        else failOut .authFail [] w.inp.length))
    ∧ Computes (.hkdfExtract n sid) (fun w =>
      let h := if par8 w.ps 0 = 2 then HmacHash.sha384 else HmacHash.sha256
      let ikm := if (par8 w.ps 1).testBit 0 then zeros h.len else w.key
      let salt := if (par8 w.ps 1).testBit 1 then (if (par8 w.ps 1).testBit 0 then w.key else w.key2)
        else if w.inp = [] then zeros h.len else w.inp
      { okOut [] w.inp.length with good := [.putKey ((kabAt w.ps 4).dest w.c.dstSlot)
          ((hkdfExtract h salt ikm).take (classLen (kabAt w.ps 4).cls))] })
    ∧ (∀ i expand, (i, expand) ∈ [(Instr.hkdfExpand n sid, fun (w : Work) (h : HmacHash) (l : Nat) =>
          hkdfExpand h w.key w.inp l),
        (Instr.tls13ExpandLabel n sid, fun (w : Work) (h : HmacHash) (l : Nat) =>
          expandLabel h (if (par8 w.ps 1).testBit 1 then "dtls13" else "tls13 ") w.key (w.ps.drop 13) w.inp l)] →
      Computes i (fun w =>
        let okm := expand w (if par8 w.ps 0 = 2 then HmacHash.sha384 else HmacHash.sha256) (par16 w.ps 2)
        if (par8 w.ps 1).testBit 0 then okOut okm w.inp.length
        else { okOut [] w.inp.length with good := [.putKey ((kabAt w.ps 4).dest w.c.dstSlot)
          (okm.take (classLen (kabAt w.ps 4).cls))] }))
    ∧ Computes (.hashSave n sid) (fun w => okOut (saveRecord w.ps w.inp) w.inp.length)
    ∧ Computes (.hashResume n sid) (fun w => okOut (resumeDigest w.ps w.inp w.c.outCap) w.inp.length)

/-- 09 R223, R224: hashing can stop and go on: for SHA-256, SHA-384 and SHA-512, a record saved from an empty one,
saved on with more input any number of times and resumed gives the digest of all the input in order. -/
def Obligations.SavedHashStateContinues : Prop :=
  ∀ (alg : Byte) (hash : Bytes → Bytes) (parts : List Bytes) (last : Bytes) (len : Nat),
    (alg, hash) ∈ [((0x20 : Byte), sha256), (0x21, sha384), (0x22, sha512)] →
    (parts.flatten ++ last).length < 2 ^ 48 →
    resumeDigest (parts.foldl saveRecord ([alg, 0x01] ++ zeros 6)) last len = hash (parts.flatten ++ last)

/-- 09 R206, R207, R215, R216, R225, R226, 12 R281: what the control and key verbs give: RANDOM and KEY_GEN the DRBG's
output, RETIRE_KEY the slot's retirement, KEY_INFO the slot's 24 bytes, KEY_WRAP the wrapped KAB and key, and
KEY_UNWRAP its key to the slot, AUTH_FAIL where the integrity value is wrong, KEY_DENIED for ORIGIN 1 or a class the
slot cannot hold. -/
def Obligations.KeyVerbsCompute : Prop :=
  ∀ (n : Chn) (sid : Nat),
    Computes (.random n sid) (fun w => okOut w.rnd 0)
    ∧ (∀ burns, Computes (.retireKey n sid burns) (fun w => { okOut [] 0 with good := [.retire w.c.keySlot burns] }))
    ∧ Computes (.keyGen n sid) (fun w =>
      { okOut [] 0 with good := [.putKey ((kabAt w.ps 0).dest w.c.dstSlot) w.rnd] })
    ∧ (∀ (r : VerbRow) (x : Sentence) (c : Clause) (e : Nat) (s : State) (y : KeySlot),
      s.starts r x c e → s.dev.ks.slot c.keySlot = some y →
      (verbRow (.keyInfo n sid) = some r → Runs (.keyInfo n sid) s r x (okOut (kabBytes y.cls y.usage false y.limit ++ natBE 8 y.ctr
        ++ [if y.ctr < y.limit then 0x01 else 0x02, if isVol y.slot then 0x02 else if isLarge y.slot then 0x01 else 0x00]
        ++ natBE 2 y.slot ++ zeros 4) 0))
      ∧ (∀ z, verbRow (.keyWrap n sid) = some r → s.dev.ks.slot c.dstSlot = some z →
        Runs (.keyWrap n sid) s r x (okOut (keyWrap (s.dev.keyValue c.keySlot)
          (kabBytes z.cls z.usage true (z.limit - z.ctr) ++ s.dev.keyValue c.dstSlot)) 0)))
    ∧ Computes (.keyUnwrap n sid) (fun w =>
      match keyUnwrap w.key w.inp with
      | none => failOut .authFail [] w.inp.length
      | some pt =>
        let kab := kabAt pt 0
        if kab.origin then failOut .keyDenied [] w.inp.length
        else if kab.symBody = false ∨ 8 + 8 * kab.len + 8 ≠ w.inp.length then failOut .badParam [] w.inp.length
        else if kindHolds w.c.dstSlot kab.cls = false then failOut .keyDenied [] w.inp.length
        else { okOut [] w.inp.length with good := [.putKey (kab.dest w.c.dstSlot) (slice 8 (8 * kab.len) pt)] })

/-- 11 R255, R260–R266, R268, R269: what the public-key verbs give: signatures and their verification, which writes
nothing, agreement and encapsulation with the secret put into the destination slot, an all-zero X25519 output or an
invalid point refused, and presignatures that each hold their nonce's r and inverse. RSA key generation runs in
rounds: each tries one candidate, the first prime accepted sets DONE to 128, with the second the clause has its key. -/
def Obligations.PublicKeyVerbsCompute : Prop :=
  ∀ (n : Chn) (sid : Nat),
    Computes (.ecdsaSign n sid) (fun w =>
      let cv := curveOf (w.d.slotCls w.c.keySlot)
      match ecdsaSign cv (beNat w.key) (cv.digest ((msgBlock w.ps).digest w.inp)) w.rnd w.presig with
      | some (a, b) => okOut (natBE cv.len a ++ natBE cv.len b) w.inp.length
      | none => failOut .invariant [] w.inp.length)
    ∧ Computes (.ecdsaVerify n sid) (fun w =>
      ecdsaCheck (if w.c.parLen = 133 then p256 else p384) (w.ps.drop 4) ((msgBlock w.ps).digest w.inp) w.inp.length)
    ∧ Computes (.ecdh n sid) (fun w =>
      let cv := curveOf (w.d.slotCls w.c.keySlot)
      match cv.decode w.inp with
      | none => failOut .badParam [] w.inp.length
      | some q => match cv.mul (beNat w.key) (some q) with
        | none => failOut .invariant [] w.inp.length
        | some (a, _) => { okOut [] w.inp.length with
          good := [.putKey ((kabAt w.ps 0).dest w.c.dstSlot) (natBE cv.len a)] })
    ∧ Computes (.x25519 n sid) (fun w =>
      if x25519 w.key w.inp = zeros 32 then failOut .badParam [] w.inp.length
      else { okOut [] w.inp.length with
        good := [.putKey ((kabAt w.ps 0).dest w.c.dstSlot) (x25519 w.key w.inp)] })
    ∧ Computes (.ed25519Sign n sid) (fun w => okOut (edSign w.key w.inp) w.inp.length)
    ∧ Computes (.ed25519Verify n sid) (fun w =>
      match edDecode (w.ps.take 32) with
      | none => failOut .badParam [] w.inp.length
      | some q => if edVerify q (w.ps.take 32) w.inp (w.ps.drop 32) = true then okOut [] w.inp.length
        else failOut .authFail [] w.inp.length)
    ∧ Computes (.rsaVerify n sid) (fun w =>
      let len := rsaVerifyLen w.c.parLen
      let b := msgBlock w.ps
      let md := beNat (slice 8 len w.ps)
      let sg := beNat (slice (8 + len) len w.ps)
      let em := natBE len (powMod sg (beNat (slice 4 4 w.ps)) md)
      if sg < md ∧ (if b.scheme = 1 then em = pkcs1Encode b.h len (b.digest w.inp)
          else pssVerify b.h len (b.digest w.inp) em (if b.salt = 0xFF then none else some b.salt) = true) then
        okOut [] w.inp.length
      else failOut .authFail [] w.inp.length)
    ∧ Computes (.rsaSign n sid) (fun w =>
      let half := rsaHalf (w.d.slotCls w.c.keySlot)
      let b := msgBlock w.ps
      let key := rsaOfBytes half w.key
      let em := beNat (if b.scheme = 1 then pkcs1Encode b.h (2 * half) (b.digest w.inp)
        else pssEncode b.h (2 * half) (b.digest w.inp) w.rnd)
      if key.signHolds em (key.sign em) = true then okOut (natBE (2 * half) (key.sign em)) w.inp.length
      else failOut .invariant [] w.inp.length)
    ∧ Computes (.mldsaVerify n sid) (fun w =>
      let k := par8 w.ps 1
      if dsaVerify (slice (2 + k) 1952 w.ps) (slice 2 k w.ps) w.inp (slice (1954 + k) 3309 w.ps) = true then
        okOut [] w.inp.length
      else failOut .authFail [] w.inp.length)
    ∧ Computes (.mldsaSign n sid) (fun w =>
      match dsaSign (dsaKeyGen w.key) (w.ps.drop 2) w.inp (if par8 w.ps 0 = 1 then zeros 32 else w.rnd) with
      | some sg => okOut sg w.inp.length
      | none => failOut .invariant [] w.inp.length)
    ∧ (∀ i, i = Instr.keypairGen n sid ∨ i = Instr.mlkemKeygen n sid →
      Computes i (fun w =>
        if w.c.keySlot ≠ 0 then okOut (publicKey (w.d.slotCls w.c.keySlot) w.key) 0
        else match privateKey (kabAt w.ps 0).cls (beNat (slice 8 4 w.ps)) w.rnd w.primes with
          | none => failOut .invariant [] 0
          | some v => { okOut (publicKey (kabAt w.ps 0).cls v) 0 with
            good := [.putKey ((kabAt w.ps 0).dest w.c.dstSlot) v] }))
    ∧ Computes (.mlkemEncaps n sid) (fun w =>
      let p := if w.c.inLen = 1568 then kem1024 else kem768
      if kemEkOk p w.inp = true then { okOut (kemEncaps p w.inp w.rnd).1 w.inp.length with
        good := [.putKey ((kabAt w.ps 0).dest w.c.dstSlot) (kemEncaps p w.inp w.rnd).2] }
      else failOut .badParam [] w.inp.length)
    ∧ Computes (.mlkemDecaps n sid) (fun w =>
      let p := if w.d.slotCls w.c.keySlot = 0x31 then kem1024 else kem768
      { okOut [] w.inp.length with good := [.putKey ((kabAt w.ps 0).dest w.c.dstSlot)
          (kemDecaps p (kemKeyGen p (w.key.take 32) (w.key.drop 32)) w.inp)] })
    ∧ (∀ (r : VerbRow) (x : Sentence) (c : Clause) (e : Nat) (s : State), s.starts r x c e →
      ∀ w, w = s.workOf r x c →
      (verbRow (.hybridKexEncaps n sid) = some r → kemEkOk kem768 (w.inp.take 1184) = true →
        x25519 (w.rnd.take 32) (w.inp.drop 1184) ≠ zeros 32 →
        Runs (.hybridKexEncaps n sid) s r x
          { okOut ((kemEncaps kem768 (w.inp.take 1184) (w.rnd.drop 32)).1 ++ x25519 (w.rnd.take 32) x25519Base) w.inp.length
            with good := [.putKey ((kabAt w.ps 8).dest w.c.dstSlot) (hkdfExtract (hashOfCode (par8 w.ps 1)) (hybSaltValue w)
              ((kemEncaps kem768 (w.inp.take 1184) (w.rnd.drop 32)).2
                ++ x25519 (w.rnd.take 32) (w.inp.drop 1184)))] })
      ∧ (verbRow (.hybridKexDecaps n sid) = some r → x25519 (hybridParts w.key).1 (w.inp.drop 1088) ≠ zeros 32 →
        Runs (.hybridKexDecaps n sid) s r x
          { okOut [] w.inp.length
            with good := [.putKey ((kabAt w.ps 8).dest w.c.dstSlot) (hkdfExtract (hashOfCode (par8 w.ps 1)) (hybSaltValue w)
              (kemDecaps kem768 (hybridKem w.key) (w.inp.take 1088)
                ++ x25519 (hybridParts w.key).1 (w.inp.drop 1088)))] })
      ∧ (verbRow (.presigFill n sid) = some r →
        ∃ ts o, Runs (.presigFill n sid) s r x o ∧ o.out = [] ∧ ts = makePresigs w.rnd (w.rnd.length / 32)
          ∧ Effect.presig ts ∈ o.good ∧ (o.status = .ok ↔ ts.length = w.rnd.length / 32)
          ∧ ∀ p ∈ ts, 1 ≤ p.1 ∧ p.1 < p256.n ∧ p.2.1 = pointX (p256.mul p.1 p256.g) % p256.n ∧ p.2.1 ≠ 0
            ∧ invMod p.1 p256.n = some p.2.2))
    ∧ (∀ (x : Sentence) (c : Clause) (j : Job) (s : State) (acc l : List Nat) (p b : Nat), s.awake → s.dev.working = true →
      (∀ k, ((s.dev.chan n).rings.ring k).good = true) → s.dev.sent n x.sid = some x → x.job = some j →
      x.clauses[x.idx]? = some c → c.verb = 0x58 → c.keySlot = 0 → j.verb = 0x58 → j.phase = .run → j.steps = [] →
      s.dev.lc.dbgHalt = false → j.drawing = false → j.abort = false → j.result = none → j.input.length = c.inLen →
      j.primes = some acc → acc.length < 2 → b = 8 * rsaHalf (kabAt j.params 0).cls →
      p = Config.primeCand b j.rnd s.dev.ctr →
      l = (if primeOk b (beNat (slice 8 4 j.params)) acc s.dev.ctr p then acc ++ [p] else acc) →
      ∃ t q, exec (.segmentBoundary n x.sid) s = .next t ∧ SameShell s t ∧ Keeps [.chans] s.dev t.dev
        ∧ OthersKept n s.dev t.dev ∧ t.dev.sent n x.sid = some { x with job := some q } ∧ q.primes = some l
        ∧ (l.length = 1 → ∀ k, coreOf j.engine = some k → (vget (t.dev.chan n).prog k ⟨false, 0, 0⟩).done = 128)
        ∧ (l.length < 2 → q.result = none)
        ∧ (l.length = 2 → isRsa (kabAt j.params 0).cls = true → q.result = some
          (match rsaOfPrimes (l.getD 0 0) (l.getD 1 0) (beNat (slice 8 4 j.params)) with
            | none => failOut .invariant [] 0
            | some y => { okOut (publicKey (kabAt j.params 0).cls (y.bytes (rsaHalf (kabAt j.params 0).cls))) 0 with
              good := [.putKey ((kabAt j.params 0).dest c.dstSlot) (y.bytes (rsaHalf (kabAt j.params 0).cls))] })))

/-- 10 R235–R242, Tables 10.3–10.5: what the primitive verbs leave on their core: the modular results over a CONTEXT
and its residues, the NTT of polynomials, samples, one slot written at DST; BN_STORE gives the stored value; a value
without inverse leaves BAD_PARAM; BN_CLEAR unwrites the slot, or with ALL every slot. -/
def Obligations.PrimitiveVerbsCompute : Prop :=
  ∀ (n : Chn) (sid : Nat) (r : VerbRow) (x : Sentence) (c : Clause) (e : Nat) (s : State), s.starts r x c e →
    ∀ (b : OpBlock) (ss : List OpSlot) (core : Fin 4), b = opBlock (s.dev.params c) → core.val = b.core % 4 →
      ss = s.dev.area b.core →
      (∀ i m y z f, (i, f) ∈ [(Instr.bnModadd n sid, fun y z m => (y + z) % m),
          (.bnModsub n sid, fun y z m => (y + m - z) % m), (.bnModmul n sid, fun y z m => y * z % m),
          (.bnModexp n sid, fun y z m => powMod y z m)] →
        verbRow i = some r → slotAt ss b.mod = some m → slotAt ss b.srcA = some y → slotAt ss b.srcB = some z →
        ∃ o new v, Runs i s r x o ∧ o.status = .ok ∧ o.out = [] ∧ o.good = [.area core new] ∧ v ∈ new
          ∧ v.first = nameCell b.dst ∧ v.kind = .residue ∧ v.ctx = m.first ∧ v.size = m.size
          ∧ v.secret = (b.secret || y.secret || z.secret) ∧ v.num = f y.num z.num m.num
          ∧ (∀ u ∈ new, u = v ∨ u ∈ ss))
      ∧ (∀ m y, verbRow (.bnModinv n sid) = some r → slotAt ss b.mod = some m → slotAt ss b.srcA = some y →
        ∃ o, Runs (.bnModinv n sid) s r x o
          ∧ (∀ q, invMod y.num m.num = some q → o.status = .ok ∧ ∃ new v, o.good = [.area core new] ∧ v ∈ new
            ∧ v.first = nameCell b.dst ∧ v.num = q ∧ v.ctx = m.first ∧ (∀ u ∈ new, u = v ∨ u ∈ ss))
          ∧ (invMod y.num m.num = none → o.status = .badParam ∧ ∃ new, o.bad = [.area core new]
            ∧ (∀ u ∈ new, u ∈ ss)))
      ∧ (verbRow (.bnSetmod n sid) = some r →
        ∃ o new v, Runs (.bnSetmod n sid) s r x o ∧ o.status = .ok ∧ o.good = [.area core new] ∧ v ∈ new
          ∧ v.first = nameCell b.dst ∧ v.kind = .context ∧ v.size = 8 * c.inLen
          ∧ v.num = beNat (s.workOf r x c).inp ∧ (∀ u ∈ new, u = v ∨ u ∈ ss))
      ∧ (verbRow (.bnLoad n sid) = some r → b.fmt = 2 →
        ∃ o new, Runs (.bnLoad n sid) s r x o ∧ o.status = .ok ∧ o.good = [.area core new]
          ∧ (∀ t, t < b.count → ∃ v ∈ new, v.first = nameCell b.dst + t * cellsOf (8 * (c.inLen / b.count))
            ∧ v.kind = .raw ∧ v.secret = b.secret
            ∧ v.num = beNat (slice (t * (c.inLen / b.count)) (c.inLen / b.count) (s.workOf r x c).inp)))
      ∧ (∀ m, verbRow (.bnLoad n sid) = some r → b.fmt = 0 ∨ b.fmt = 1 → slotAt ss b.mod = some m →
        ∃ o new, Runs (.bnLoad n sid) s r x o ∧ o.status = .ok ∧ o.good = [.area core new]
          ∧ (∀ t, t < b.count → ∃ v ∈ new, v.first = nameCell b.dst + t * cellsOf m.size ∧ v.kind = .residue
            ∧ v.ctx = m.first
            ∧ v.num = beNat (slice (t * (m.size / 8)) (m.size / 8) (s.workOf r x c).inp) % m.num))
      ∧ (∀ y, verbRow (.bnStore n sid) = some r → slotAt ss b.srcA = some y → b.count = 1 → b.ring = 0 →
        ∃ o, Runs (.bnStore n sid) s r x o ∧ o.status = .ok ∧ o.out = natBE (y.size / 8) y.num)
      ∧ (verbRow (.bnClear n sid) = some r →
        ∃ o new, Runs (.bnClear n sid) s r x o ∧ o.status = .ok ∧ o.out = [] ∧ o.good = [.area core new]
          ∧ (∀ u ∈ new, u ∈ ss ∧ u.first ≠ nameCell b.srcA) ∧ (b.bit1 = true → new = []))
      ∧ (∀ i y f fwd, (i, f, fwd) ∈ [(Instr.latNtt n sid, ntt b.ringOf, true), (.latIntt n sid, intt b.ringOf, false)] →
        verbRow i = some r → slotAt ss b.srcA = some y → b.count = 1 →
        ∃ o new v, Runs i s r x o ∧ o.status = .ok ∧ o.good = [.area core new] ∧ v ∈ new ∧ v.first = nameCell b.dst
          ∧ v.kind = .poly ∧ v.ring = b.ring ∧ v.ntt = fwd ∧ v.value = f y.value ∧ (∀ u ∈ new, u = v ∨ u ∈ ss))
      ∧ (∀ y z, verbRow (.latPmul n sid) = some r → slotAt ss b.srcA = some y → slotAt ss b.srcB = some z →
        b.count = 1 →
        ∃ o new v, Runs (.latPmul n sid) s r x o ∧ o.status = .ok ∧ o.good = [.area core new] ∧ v ∈ new
          ∧ v.first = nameCell b.dst ∧ (∀ u ∈ new, u = v ∨ u ∈ ss)
          ∧ (b.fmt = 0 → v.ntt = true ∧ v.value = nttMul b.ringOf y.value z.value)
          ∧ (b.fmt = 1 → v.ntt = true ∧ v.value = nttDot b.ringOf [y.value] [z.value])
          ∧ (b.fmt = 2 → v.ntt = y.ntt ∧ v.value = polyAdd b.ringOf y.value z.value)
          ∧ (b.fmt = 3 → v.ntt = y.ntt ∧ v.value = polySub b.ringOf y.value z.value))
      ∧ (verbRow (.latSample n sid) = some r →
        ∃ o new, Runs (.latSample n sid) s r x o ∧ o.status = .ok ∧ o.good = [.area core new]
          ∧ (∀ t, t < b.count → ∃ v ∈ new, v.first = nameCell b.dst + t * 16 ∧ v.kind = .poly
            ∧ v.secret = (b.secret || b.fmt != 0)
            ∧ (b.fmt = 0 → v.ntt = true ∧ v.value = sampleUniform b.ringOf ((s.workOf r x c).inp
              ++ [BitVec.ofNat 8 (b.nonce / 256 + t), BitVec.ofNat 8 b.nonce]))
            ∧ (b.fmt = 1 → v.ntt = false
              ∧ v.value = sampleCbd b.eta ((s.workOf r x c).inp ++ [BitVec.ofNat 8 (b.nonce + t)]))
            ∧ (b.fmt = 2 → v.ntt = false
              ∧ v.value = sampleBounded b.eta ((s.workOf r x c).inp ++ natLE 2 (b.nonce + t)))))

/-- 15 R353, R355, R357, R359–R363, 17 R407: what the protocol services give: INIT makes a LIVE context from the
secret, CLOSE frees it, INFO gives its 32 bytes; a record is protected under the context's number, which advances; one
received is opened under its own; TELEMETRY_SEAL, ATTEST and LASTGASP_ARM as their tables say. -/
def Obligations.ServiceVerbsCompute : Prop :=
  ∀ (n : Chn) (sid : Nat),
    (∀ i protect, (i, protect) ∈ [(Instr.recProtectInit n sid, true), (.recUnprotectInit n sid, false)] →
      Computes i (fun w => { okOut [] 0 with good := [.recCtx (par8 w.ps 1)
        (some { initCtx protect w.ps w.key with gen := w.d.ctr })] }))
    ∧ (∀ i, i = Instr.recProtectClose n sid ∨ i = Instr.recUnprotectClose n sid →
      Computes i (fun w => { okOut [] 0 with good := [.recCtx (par8 w.ps 1) none] }))
    ∧ (∀ (r : VerbRow) (x : Sentence) (c : Clause) (e : Nat) (s : State), s.starts r x c e → ∀ w, w = s.workOf r x c →
      (∀ i, i = Instr.recProtectInfo n sid ∨ i = Instr.recUnprotectInfo n sid → verbRow i = some r →
        (∀ y, s.dev.rec_ n (par8 w.ps 1) = some y → Runs i s r x (okOut y.info 0))
        ∧ (s.dev.rec_ n (par8 w.ps 1) = none → Runs i s r x (okOut (zeros 32) 0)))
      ∧ (∀ y, verbRow (.recProtectRecord n sid) = some r → s.dev.rec_ n (par8 w.ps 1) = some y →
        ∃ t j, exec (.recProtectRecord n sid) s = .next t ∧ t.dev.rec_ n (par8 w.ps 1) = some { y with seq := y.seq + 1 }
          ∧ t.dev.sent n sid = some { x with wait := .none, sel := none, job := some j }
          ∧ j.result = some (okOut (y.seal y.seq (par8 w.ps 2) (par16 w.ps 4) w.inp) w.inp.length))
      ∧ (∀ y, verbRow (.recUnprotectRecord n sid) = some r → s.dev.rec_ n (par8 w.ps 1) = some y →
        Runs (.recUnprotectRecord n sid) s r x (y.unseal (par8 w.ps 1) w.inp w.hold)
        ∧ (∀ t, exec (.recUnprotectRecord n sid) s = .next t → t.dev.rec_ n (par8 w.ps 1)
          = some (if y.proto = 1 then { y with seq := y.seq + 1 } else y))))
    ∧ Computes (.telemetrySeal n sid) (fun w =>
      let cls := w.d.slotCls w.c.keySlot
      let prot := teleHeader cls w.c.keySlot w.ctr w.d.journal.seconds.toNat
      if par8 w.ps 0 = 1 then
        match coseSig cls w.key w.rnd (sigStructure prot (w.ps.drop 8) w.inp) with
        | some sg => okOut (coseSign1 prot w.inp sg) w.inp.length
        | none => failOut .invariant [] w.inp.length
      else
        let iv := if (slice 4 4 w.ps).length = 4 then slice 4 4 w.ps ++ zeros 3 ++ natBE 5 w.ctr else slice 4 4 w.ps
        okOut (cborTag 16 ++ cborArray 3 ++ cborBytes prot ++ cborMap 1 ++ cborUint 5 ++ cborBytes iv
          ++ cborBytes (sealOut (if cls = 0x14 then chachaAlg else gcmAlg) [] w.key iv 16
            (cborArray 3 ++ cborText "Encrypt0" ++ cborBytes prot ++ cborBytes (w.ps.drop 8)) w.inp)) w.inp.length)
    ∧ Computes (.attest n sid) (fun w =>
      if par8 w.ps 0 = 1 then
        match es384Sign w.d.ks.aliasKey w.rnd (w.d.evidence w.n (w.ps.drop 4)) with
        | some sg => okOut sg 0
        | none => failOut .invariant [] 0
      else if par8 w.ps 0 = 2 then okOut w.d.ks.aliasStmt 0 else okOut w.d.ks.idPub 0)
    ∧ Computes (.lastgaspArm n sid) (fun w => { okOut [] 0 with
        good := [.arm ⟨w.n, w.c.keySlot, w.key, w.ctr, beNat (w.ps.take 4)⟩] })

/-- 15 R355–R357: a TLS record that REC_PROTECT made opens under a receive context of the same suite, keys and number:
its type, the context's epoch, the number and the content, and the context's number is the record's. -/
def Obligations.ProtectedRecordOpensAgain : Prop :=
  ∀ (p u : RecCtx) (i typ pad : Nat) (content : Bytes) (hold : Bool), p.proto = 1 → u.proto = 1 → p.suite = u.suite →
    suiteOk p.suite = true → p.key = u.key → p.key.length = suiteKeyLen p.suite → p.iv = u.iv → p.iv.length = 12 →
    p.seq = u.seq → 1 ≤ typ → typ < 256 → content.length + 1 + pad ≤ 16385 →
    u.unseal i (p.seal p.seq typ pad content) hold =
      ⟨.ok, [BitVec.ofNat 8 typ, 0] ++ natBE 2 u.epoch ++ natBE 8 u.seq ++ content,
        content.length + pad + 22, [.recDone i u.gen u.seq true], [.recDone i u.gen u.seq true]⟩

/-! ### How clauses go on and end (06; 08 R181–R182, R194; 12 R280, R285) -/

/-- 06 R136, R137, R139, R142, R149, 07 R161: a clause whose work is done posts its record with its engine id, the
length of its output and W2; its output lies in its buffer, its new buffer, LIVE with its handle in the record, or its
sealed OUT record, and the sentence goes on, its next clause judged in the same update. One that fails leaves zeros of
that length, frees its new buffer, and the rest of the sentence is SKIPPED; so does one with an abort, as ABORTED. -/
def Obligations.ClauseEndPostsRecordAndOutput : Prop :=
  ∀ (n : Chn) (x : Sentence) (c : Clause) (j : Job) (r : JobResult) (s : State), s.atEnd n x c j r → j.phase = .run →
    (j.abort = false → persistentKey r.good = none → r.status = .ok →
      ∃ e, Judges (.clauseComplete n x.sid .none) s n e
        ∧ Keeps [.chans, .pool, .ks, .cores, .presig, .supply, .otp, .trouble, .journal] s.dev e ∧ OthersKept n s.dev e
        ∧ Advanced n x e
        ∧ (e.chan n).rings = j.ringsAfter c .ok x.idx r.out.length r.w2
          (match j.dst with
            | .alloc f => s.dev.pool.handle f
            | _ => c.w3hi) (lenWord false false r.out.length) r.out (s.dev.chan n).rings
        ∧ e.pool.mem = (match j.dst with
          | .buf f off => s.dev.pool.mem.write 0 (f * 512 + off) r.out
          | .alloc f => s.dev.pool.mem.write 0 (f * 512) r.out
          | _ => s.dev.pool.mem)
        ∧ (r.good = [] → e.ks = s.dev.ks ∧ e.supply = s.dev.supply ∧ e.presig.avail = s.dev.presig.avail)
        ∧ (∀ dk v, r.good = [.putKey dk v] → isVol dk.slot = true →
          e.ks.slot dk.slot = some ⟨dk.slot, n.val, dk.cls, dk.usage, dk.limit, 0, .live, v, 0⟩)
        ∧ (∀ sl burns, r.good = [.retire sl burns] → isVol sl = true → e.ks.slot sl = none)
        ∧ (∀ i q, r.good = [.recCtx i q] → i < 8 → e.rec_ n i = q))
    ∧ (j.abort = false → r.status.failure = true → r.bad = [] →
      ∃ e w1, w1 = max j.written r.out.length ∧ Judges (.clauseComplete n x.sid .none) s n e
        ∧ Keeps [.chans, .pool, .ks, .cores, .presig, .trouble, .journal] s.dev e ∧ OthersKept n s.dev e
        ∧ e.sent n x.sid = none
        ∧ (e.chan n).rings = Rings.skipped (x.clauses.drop (x.idx + 1)) (x.idx + 1)
          (j.ringsAfter c r.status x.idx w1 r.w2
            (match j.dst with
              | .alloc _ => 0xFFFC
              | _ => c.w3hi) (lenWord (r.status == .authFail) true w1) (zeros w1) (s.dev.chan n).rings)
        ∧ e.pool.mem = (match j.dst with
          | .buf f off => s.dev.pool.mem.write 0 (f * 512 + off) (zeros w1)
          | _ => s.dev.pool.mem)
        ∧ (∀ f, j.dst = .alloc f → e.pool.buf f = none)
        ∧ (r.status = .authFail → bit (e.chan n).sticky 9 = true)
        ∧ (r.status = .engineFault → bit e.trouble.g2 10 = true))
    ∧ (j.abort = true → j.touched = [] → j.phrase = none →
      ∃ e, Judges (.clauseComplete n x.sid .none) s n e
        ∧ Keeps [.chans, .pool, .ks, .cores, .presig] s.dev e ∧ OthersKept n s.dev e ∧ e.sent n x.sid = none
        ∧ (e.chan n).rings = Rings.skipped (x.clauses.drop (x.idx + 1)) (x.idx + 1)
          (j.ringsAfter c .aborted x.idx j.written j.input.length
            (match j.dst with
              | .alloc _ => 0xFFFC
              | _ => c.w3hi) (lenWord false true j.written) (zeros j.written) (s.dev.chan n).rings)
        ∧ (∀ m, e.ks.slot m = s.dev.ks.slot m))

/-- 12 R280, R285, R289: a key for a persistent slot first frees its engine and waits; its writes put the slot record
at the next free place of its area and a clean counter record of 0 at the next place of the counter log, burn the
WRITTEN bit, make the slot LIVE with the counter at 0, and complete the clause OK. A checkpoint that ends writes one
open record of the counter. -/
def Obligations.PersistentKeyIsWritten : Prop :=
  ∀ (n : Chn) (x : Sentence) (c : Clause) (j : Job) (r : JobResult) (dk : DestKey) (v : Bytes) (s : State),
    (s.atEnd n x c j r → j.phase = .run → j.abort = false → r.status = .ok → r.good = [.putKey dk v] → isPer dk.slot = true →
      ∃ e, Judges (.clauseComplete n x.sid .none) s n e ∧ Keeps [.chans, .cores] s.dev e ∧ OthersKept n s.dev e
        ∧ e.sent n x.sid = some { x with job := some { j with phase := .persist } }
        ∧ (e.chan n).rings = (s.dev.chan n).rings ∧ (e.chan n).prog = (s.dev.chan n).prog)
    ∧ (s.atEnd n x c j r → j.phase = .persist → j.abort = false → r.status = .ok → r.good = [.putKey dk v] →
      isPer dk.slot = true → s.dev.supply.level < 3 → s.dev.flashUp = true → s.dev.ks.room dk.slot = true →
      s.dev.ks.logPos + s.dev.ks.inNext.length < 127 → s.dev.otp.rowIdx < s.dev.otp.rows.length →
      ∃ e a, Judges (.persistentWriteDone n x.sid [] []) s n e
        ∧ Keeps [.chans, .pool, .ks, .flash, .otp, .presig] s.dev e ∧ OthersKept n s.dev e ∧ Advanced n x e
        ∧ a = slotAddr (isLarge dk.slot) (if isLarge dk.slot then s.dev.ks.largeNext else s.dev.ks.stdNext)
        ∧ e.ks.slot dk.slot = some ⟨dk.slot, n.val, dk.cls, dk.usage, dk.limit, 0, .live, [], a⟩
        ∧ e.flash.mem = (s.dev.flash.mem.write 0xFF a
            (slotRecord s.dev.ks.kek s.dev.otp.rowIdx n.val dk v)).write 0xFF (logAddr s.dev.ks.logSec s.dev.ks.logPos)
          (ctrRecord s.dev.ks.kek dk.slot s.dev.otp.rowIdx 0 (nextSeqNo s.dev.ks.recSeq) 1)
        ∧ e.otp.row = { s.dev.otp.row with written := dk.slot :: s.dev.otp.row.written }
        ∧ (e.chan n).rings = j.ringsAfter c .ok x.idx r.out.length r.w2
          (match j.dst with
            | .alloc f => s.dev.pool.handle f
            | _ => c.w3hi) (lenWord false false r.out.length) r.out (s.dev.chan n).rings)
    ∧ (∀ (slot val : Nat), s.awake → s.dev.stopped = false → s.dev.ks.ckpts.lookup slot = some val → s.dev.ckptWaiters slot = [] →
      (∀ m nonce resp, (s.dev.chan m).phase ≠ .ckptWait slot nonce resp) → s.dev.flashUp = true →
      s.dev.ks.logPos + s.dev.ks.inNext.length < 127 →
      ∃ t, exec (.counterCheckpointDone slot []) s = .next t ∧ SameShell s t ∧ Keeps [.ks, .flash] s.dev t.dev
        ∧ t.dev.flash.mem = s.dev.flash.mem.write 0xFF (logAddr s.dev.ks.logSec s.dev.ks.logPos)
          (ctrRecord s.dev.ks.kek slot s.dev.otp.rowIdx val (nextSeqNo s.dev.ks.recSeq) 0)
        ∧ t.dev.ks.newest slot = some ⟨slot, val, 0, logAddr s.dev.ks.logSec s.dev.ks.logPos⟩
        ∧ t.dev.ks.ckpts = s.dev.ks.ckpts.filter (fun y => y.1 != slot) ∧ t.dev.ks.logPos = s.dev.ks.logPos + 1)

/-- 08 R173, R181, R182, R194: at a boundary a cipher or hash clause that lacks its next bytes is saved, or, with no
place for a context, keeps its lane; one that has them is saved while dispatches are stopped or its lane is out, and
goes on where no context can be saved; a saved one the scheduler picks goes on on the preferred free lane, with its
next 4 KiB; a step a clause has queued starts on the lane the scheduler picks for it and, done, makes room for the
next; a wait for a class that cannot serve a clause ends it NO_ENGINE. -/
def Obligations.SegmentsSaveAndResume : Prop :=
  ∀ (n : Chn) (x : Sentence) (c : Clause) (j : Job) (k : Cls) (s : State), s.awake → (s.dev.chan n).state.active = true →
    (∀ q, ((s.dev.chan n).rings.ring q).good = true) → s.dev.sent n x.sid = some x → x.clauses[x.idx]? = some c →
    verbClass c.verb = some k →
    (segmented c.verb = true → s.dev.working = true → x.job = some j → j.phase = .run → j.result = none → j.abort = false →
      j.verb = c.verb → j.steps = [] → j.primes = none → j.runOn = false → j.dst = .none → hi16 c.w2 = 0xFFFF →
      ∀ w, w = ((specOf c.verb (par8 j.params 0)).partialOut (j.work n c s.dev)).length →
      (∀ ph, s.dev.moreReady n x j = false ∧ ph = (if s.dev.canSave n then JobPhase.susp else .starved)
          ∨ s.dev.moreReady n x j = true ∧ s.dev.canSave n = true
            ∧ (s.dev.stopped = true ∨ s.dev.laneStays j.engine = false) ∧ ph = .susp →
        ∃ t, exec (.segmentBoundary n x.sid) s = .next t ∧ SameShell s t ∧ Keeps [.chans] s.dev t.dev
          ∧ OthersKept n s.dev t.dev ∧ (∃ ss, t.dev.chan n = { s.dev.chan n with sents := ss })
          ∧ t.dev.sent n x.sid = some { x with job := some { j with phase := ph, written := w } })
      ∧ (s.dev.moreReady n x j = true → s.dev.canSave n = false → j.input ≠ [] → nextLen c j.input.length < c.inLen →
        ∃ t q, exec (.segmentBoundary n x.sid) s = .next t ∧ SameShell s t ∧ Keeps [.chans] s.dev t.dev
          ∧ OthersKept n s.dev t.dev ∧ t.dev.sent n x.sid = some { x with job := some q, wait := .none, sel := none }
          ∧ q.phase = .run
          ∧ q.input = j.input ++ s.dev.inputBytes n x c j.input.length (nextLen c j.input.length)
          ∧ q.engine = j.engine ∧ q.written = w ∧ q.result = none
          ∧ q.runOn = !s.dev.laneStays j.engine))
    ∧ (∀ e, x.job = some j → j.phase = .susp → j.steps = [] → x.sel = none → s.dev.stopped = false →
      s.dev.pick k = some (n, x.sid) →
      s.dev.prefer (k.engines.filter s.dev.engFree) = some e → s.dev.domOn (12 + e) = true → j.result = none →
      hi16 c.w2 = 0xFFFF → j.input ≠ [] → nextLen c j.input.length < c.inLen →
      ∃ t q, exec (.contextResume n x.sid) s = .next t ∧ SameShell s t ∧ Keeps [.chans] s.dev t.dev ∧ OthersKept n s.dev t.dev
        ∧ t.dev.sent n x.sid = some { x with job := some q, wait := .none } ∧ q.phase = .run ∧ q.engine = engId e
        ∧ q.input = j.input ++ s.dev.inputBytes n x c j.input.length (nextLen c j.input.length)
        ∧ q.result = none)
    ∧ (∀ y, x.job = some j → j.step = some y → y.own = false → y.cls = .cipher ∨ y.cls = .hash →
      (∀ e, y.phase = .queued → y.sel = none → s.dev.stopped = false → s.dev.pick y.cls = some (n, x.sid) →
        s.dev.prefer (y.cls.engines.filter s.dev.engFree) = some e → s.dev.domOn (12 + e) = true →
        ∃ t z, exec (.contextResume n x.sid) s = .next t ∧ SameShell s t ∧ Keeps [.chans] s.dev t.dev
          ∧ OthersKept n s.dev t.dev
          ∧ t.dev.sent n x.sid = some { x with job := some { j with steps := z :: j.steps.drop 1 } } ∧ z.phase = .run
          ∧ z.engine = engId e ∧ z.cls = y.cls ∧ z.len = y.len ∧ z.pos = min y.len (y.pos + 4096) ∧ z.sel = none)
      ∧ (y.phase = .run → y.len ≤ y.pos → j.phase = .run → j.abort = false → s.dev.working = true →
        s.dev.halts j.verb = false → coreOf y.engine = none →
        ∃ e, Judges (.clauseComplete n x.sid .none) s n e ∧ Keeps [.chans] s.dev e ∧ OthersKept n s.dev e
          ∧ e.sent n x.sid = some { x with job := some { j with steps := j.steps.drop 1 } }))
    ∧ (x.job = none → x.parent = none → s.dev.workClass x c = some k → s.dev.stopped = false → x.wait.holds = false →
      s.dev.streamReady n x c = true →
      s.dev.outReady n x c = true → s.dev.holdReady n x c = true → s.dev.unserved n c k = true →
      ∃ t, exec (.classWaitExpiry n x.sid) s = .next t ∧ SameShell s t
        ∧ Keeps [.chans, .entropy, .power, .trouble, .journal] s.dev t.dev ∧ OthersKept n s.dev t.dev
        ∧ t.dev.sent n x.sid = none ∧ bit t.dev.trouble.g2 11 = true
        ∧ (t.dev.chan n).rings = Rings.skipped (x.clauses.drop (x.idx + 1)) (x.idx + 1)
          ((s.dev.chan n).rings.post (cplWords .noEngine 0xFF c.tag 0 0 c.w3hi x.idx) c.notify))

/-! ### Engines (08 R184–R191) -/

/-- 08 R184–R187, R190, R191: ENGCMD OUT takes an engine that is IN or in TEST out, and a clause that waited for its
switch-on has no engine selected any more; IN puts one that is OUT into TEST, its domain demanded and a core's operand
memory unowned, and is a reserved value on a denied domain (where the engine is not OUT: log entry 73). A passed test
ends in IN; a failed one adds one to the count and ends in OUT, or in QUAR at 3, its record not written at supply
level 3. A fault of an engine that is IN, by check or watchdog, ends its clause ENGINE_FAULT and starts a test. An
engine idle for EIDLE gives its domain up. -/
def Obligations.EnginesLeaveAndRejoinService : Prop :=
  ∀ (e : Eng) (s : State),
    (s.takes .A → (s.dev.eng e).svc = .inn ∨ (s.dev.eng e).svc = .test →
      ∃ t, exec (.engcmdOut e) s = .next t ∧ SameShell s t ∧ Keeps [.engines, .chans] s.dev t.dev
        ∧ (∀ f, t.dev.eng f = if f = e then { s.dev.eng e with svc := .out } else s.dev.eng f)
        ∧ (s.dev.engSel e.val = false → t.dev.chans = s.dev.chans)
        ∧ (∀ n x c y, (s.dev.eng e).svc = .inn → s.dev.sent n x.sid = some x → x.job = none →
          x.clauses[x.idx]? = some c → (verbClass c.verb).isSome = true → x.sel = some y → y.eng = e.val →
          t.dev.sent n x.sid = some { x with sel := none }))
    ∧ (s.takes .A → s.dev.denied (12 + e.val) = false → (s.dev.eng e).svc = .out →
      ∃ t, exec (.engcmdIn e) s = .next t ∧ SameShell s t ∧ Keeps [.engines, .cores, .power] s.dev t.dev
        ∧ (∀ f, t.dev.eng f = if f = e then { s.dev.eng e with svc := .test, cause := 1 } else s.dev.eng f)
        ∧ t.dev.power.doms = vmod s.dev.power.doms (12 + e.val) (fun x => { x with demand := true })
        ∧ (∀ k (h : k < 4), (e.val = 12 + k → s.dev.engBusy (engId e.val) = false →
            t.dev.cores[k].owner = none ∧ t.dev.cores[k].slots = [])
          ∧ (e.val ≠ 12 + k → t.dev.cores[k] = s.dev.cores[k])))
    ∧ (s.takes .A → s.dev.denied (12 + e.val) = true →
      ∃ t, exec (.engcmdIn e) s = .next t ∧ SameShell s t ∧ Keeps [.trouble, .journal] s.dev t.dev
        ∧ bit t.dev.trouble.g0 12 = true)
    ∧ (s.awake → s.dev.working = true → (s.dev.eng e).svc = .test → s.dev.domOn (12 + e.val) = true →
      s.dev.engBusy (engId e.val) = false →
      (∀ burns vfy, ∃ t, exec (.katComplete e true burns vfy) s = .next t ∧ SameShell s t ∧ Keeps [.engines] s.dev t.dev
        ∧ ∀ f, t.dev.eng f = if f = e then { s.dev.eng e with svc := .inn } else s.dev.eng f)
      ∧ (s.dev.katf e < 3 → (∀ f, f ≠ e → (s.dev.eng f).due = none) →
        ∃ t, exec (.katComplete e false [] []) s = .next t ∧ SameShell s t
          ∧ Keeps [.engines, .otp, .flash, .trouble, .journal] s.dev t.dev ∧ t.dev.katf e = s.dev.katf e + 1
          ∧ (s.dev.supply.level = 3 → t.dev.flash = s.dev.flash)
          ∧ (∀ f, f ≠ e → t.dev.eng f = s.dev.eng f) ∧ bit t.dev.trouble.g2 3 = true
          ∧ (s.dev.katf e < 2 → (t.dev.eng e).svc = .out)
          ∧ (s.dev.katf e = 2 → (t.dev.eng e).svc = .quar ∧ bit t.dev.trouble.why 0 = true)))
    ∧ (∀ n x j c i, s.awake → s.dev.dispatchOn e = some (n, x, j) → s.dev.sent n x.sid = some x →
      x.clauses[x.idx]? = some c → x.parent = none → (s.dev.eng e).svc = .inn → s.dev.engSel e.val = false →
      (s.dev.chan n).state.active = true → (∀ k, ((s.dev.chan n).rings.ring k).good = true) →
      j.phase = .run → j.outGone = false → j.phrase = none → (∀ a, j.dst ≠ .append a) →
      (∀ r, j.result = some r → r.bad = []) →
      i = .engineFault e ∨ i = .engineWatchdog e ∧ s.dev.working = true →
      ∃ t, exec i s = .next t ∧ SameShell s t
        ∧ Keeps [.chans, .pool, .ks, .cores, .presig, .engines, .power, .trouble, .journal] s.dev t.dev
        ∧ OthersKept n s.dev t.dev ∧ t.dev.sent n x.sid = none ∧ bit t.dev.trouble.g2 10 = true
        ∧ (∀ f, t.dev.eng f = if f = e then { s.dev.eng e with svc := .test, cause := 3 } else s.dev.eng f)
        ∧ (t.dev.chan n).rings = Rings.skipped (x.clauses.drop (x.idx + 1)) (x.idx + 1)
          (j.ringsAfter c .engineFault x.idx j.written j.input.length
            (match j.dst with
              | .alloc _ => 0xFFFC
              | _ => c.w3hi) (lenWord false true j.written) (zeros j.written) (s.dev.chan n).rings))
    ∧ (s.awake → s.dev.eidle ≠ 0 → s.dev.supply.level < 3 → s.dev.engBusy (engId e.val) = false → (s.dev.eng e).svc ≠ .test →
      s.dev.domOn (12 + e.val) = true →
      ∃ t, exec (.engineIdleOff e) s = .next t ∧ SameShell s t ∧ Keeps [.power] s.dev t.dev
        ∧ t.dev.power = { s.dev.power with
          doms := vmod s.dev.power.doms (12 + e.val) (fun x => { x with demand := false }) })

/-! ### Tamper, life cycle, debug, the recovery loader (12 R299–R305; 13; 14 R328) -/

/-- 12 R299–R301, 11 R272, 15 R351, 17 R408: an enabled input that becomes opened sets its bit of TAMPERSTAT and of
GSTICKY3, sets BLOCK where that action is enabled, and with ZERO empties every volatile slot, the key cache, the
presignatures and the record contexts, the last-gasp arm is lost and no last-gasp path runs on; a PRESIG_FILL in
progress ends and posts no record; its return to the closed level clears the bit; ACK clears BLOCK while no input with
BLOCK reads opened. -/
def Obligations.TamperInputsActAndAreAcknowledged : Prop :=
  ∀ (i : Fin 2) (s : State), s.awake →
    ((s.dev.tamperByte i).testBit 0 = true → s.dev.lc.tamperOpen.getLsbD i.val = false →
      (∀ n x j, x ∈ (s.dev.chan n).sents → x.job = some j → j.volatile = false ∧ j.filling = 0) →
      ∃ t, exec (.tamperOpened i) s = .next t ∧ SameShell s t
        ∧ Keeps [.lc, .pins, .trouble, .journal, .ks, .presig, .supply, .chans, .power] s.dev t.dev
        ∧ (s.dev.power.st = .run → t.dev.power = s.dev.power)
        ∧ t.dev.lc = { s.dev.lc with
          tamperOpen := put2 s.dev.lc.tamperOpen i true
          tamperBlock := s.dev.lc.tamperBlock || (s.dev.tamperByte i).testBit 5 }
        ∧ bit t.dev.trouble.g3 i.val = true
        ∧ ((s.dev.tamperByte i).testBit 4 = true → t.dev.ks = { s.dev.ks with vol := [], cache := [] }
          ∧ t.dev.presig.avail = [] ∧ t.dev.supply.gasp = none ∧ t.dev.supply.arm = none
          ∧ ∀ n, t.dev.chan n = { s.dev.chan n with recs := Vector.replicate 8 none })
        ∧ ((s.dev.tamperByte i).testBit 4 = false → t.dev.ks = s.dev.ks ∧ t.dev.presig = s.dev.presig
          ∧ t.dev.supply = s.dev.supply ∧ t.dev.chans = s.dev.chans))
    ∧ (∀ n x j, (s.dev.tamperByte i).testBit 0 = true → s.dev.lc.tamperOpen.getLsbD i.val = false →
      (s.dev.tamperByte i).testBit 4 = true → (s.dev.chan n).sents = [x] → (∀ m, m ≠ n → (s.dev.chan m).sents = []) →
      x.parent = none → x.job = some j → j.filling ≠ 0 →
      ∃ t, exec (.tamperOpened i) s = .next t ∧ (t.dev.chan n).sents = []
        ∧ (t.dev.chan n).rings.cpl = (s.dev.chan n).rings.cpl ∧ (t.dev.chan n).rings.mem = (s.dev.chan n).rings.mem
        ∧ t.dev.presig.avail = [] ∧ t.dev.presig.filling = 0)
    ∧ (∃ t, exec (.tamperClosed i) s = .next t ∧ SameShell s t ∧ Keeps [.lc, .pins] s.dev t.dev
      ∧ t.dev.lc = { s.dev.lc with tamperOpen := put2 s.dev.lc.tamperOpen i false })
    ∧ (s.dev.gRun = true → s.dev.otp.endFuse = false → s.dev.blockHeld = false →
      ∃ t, exec (.tamperAck .A) s = .next t ∧ SameShell s t ∧ Keeps [.lc] s.dev t.dev
        ∧ t.dev.lc = { s.dev.lc with tamperBlock := false })
    ∧ (s.dev.gRun = true → s.dev.otp.endFuse = false → s.dev.blockHeld = true →
      ∃ t, exec (.tamperAck .A) s = .next t ∧ SameShell s t ∧ Keeps [] s.dev t.dev)

/-- 13 R307, R310–R313, R317: LCREQ with NONCE draws the nonce, which ends after 60 s; LC_REQUEST starts the checks of
Table 13.5, whose first failure is RESULT, with LCREJ and the token zeroed; a debug unlock opens debug and empties the
volatile slots; an accepted transition resets every channel, burns the next unused epoch row or the END fuse, by which
the store and the volatile keys are lost and TRANSIT reads 1, and ends, at once or after a further command, in a SOFT
reset with RESULT DONE; a burn that fails ends it with RESULT 8 and OTPERR. -/
def Obligations.LifeCycleRequestsAreCheckedAndRun : Prop :=
  (∀ (w : Word) (s : State), s.takes .A → s.dev.lcBusy = false → (fld w 3 0 ≤ 3 ∨ fld w 3 0 = 0xF) →
    s.dev.entropyOut = false → s.dev.entropy.queue = [] → s.dev.drbg.reqs < 2 ^ 20 →
    ∃ t, exec (.lcNonce .A w) s = .next t ∧ SameShell s t ∧ Keeps [.lc, .drbg, .entropy] s.dev t.dev
      ∧ t.dev.drbg = (s.dev.drbg.generate 32 []).2
      ∧ t.dev.lc = { s.dev.lc with
        nonce := (s.dev.drbg.generate 32 []).1, nonceValid := true, lcreq := t.dev.lc.lcreq }
      ∧ fld t.dev.lc.lcreq 3 0 = fld w 3 0 ∧ bit t.dev.lc.lcreq 9 = bit w 9)
  ∧ (∀ s : State, s.awake → ∃ t, exec .lcNonceExpiry s = .next t ∧ SameShell s t ∧ Keeps [.lc] s.dev t.dev
    ∧ t.dev.lc = { s.dev.lc with nonce := [], nonceValid := false })
  ∧ (∀ s : State, s.awake → s.dev.gRun = true → s.dev.otp.endFuse = false → s.dev.boot.boot ≠ 3 → s.dev.lcBusy = false →
    ∃ t, exec .lcRequest s = .next t ∧ SameShell s t ∧ Keeps [.lc] s.dev t.dev ∧ t.dev.lcBusy = true
      ∧ t.dev.lc = { s.dev.lc with lcreq := setBit (putFld s.dev.lc.lcreq 0 23 16) 31, checking := true })
  ∧ (∀ (s : State) (target : Nat) (unlock : Bool) (r : Nat), s.awake → s.dev.lc.checking = true → s.dev.lc.shown = true →
    target = fld s.dev.lc.lcreq 3 0 → unlock = bit s.dev.lc.lcreq 9 →
    (unlock = true ∧ (s.dev.otp.lcCode ≠ 1 ∨ s.dev.lc.dbgUnlocked = true) ∧ r = 2
      ∨ unlock = false ∧ permitted s.dev.otp.lcCode target = false ∧ r = 2
      ∨ unlock = false ∧ permitted s.dev.otp.lcCode target = true ∧ target ≠ 0xF ∧ s.dev.otp.left = 0 ∧ r = 3
      ∨ (unlock = true ∧ s.dev.otp.lcCode = 1 ∧ s.dev.lc.dbgUnlocked = false
          ∨ unlock = false ∧ permitted s.dev.otp.lcCode target = true ∧ (target = 0xF ∨ s.dev.otp.left ≠ 0)
            ∧ needsToken s.dev.otp.lcCode target = true)
        ∧ r = (tokenChecks s.dev unlock target).1 ∧ r ≠ 0) →
    ∃ t, exec .lcCheckDone s = .next t ∧ SameShell s t ∧ Keeps [.lc, .trouble, .journal] s.dev t.dev
      ∧ t.dev.lc.lcreq = lcResult r s.dev.lc.lcreq ∧ t.dev.lc.token = Vector.replicate 128 0 ∧ t.dev.lc.accepted = none
      ∧ t.dev.lc.checking = false ∧ t.dev.lc.dbgOpen = s.dev.lc.dbgOpen ∧ bit t.dev.trouble.g3 6 = true)
  ∧ (∀ s : State, s.awake → s.dev.lc.checking = true → s.dev.lc.shown = true → bit s.dev.lc.lcreq 9 = true →
    s.dev.otp.lcCode = 1 → s.dev.lc.dbgUnlocked = false →
    (tokenChecks s.dev true (fld s.dev.lc.lcreq 3 0)).1 = 0 →
    (∀ n x j, x ∈ (s.dev.chan n).sents → x.job = some j → j.filling = 0) →
    ∃ t, exec .lcCheckDone s = .next t ∧ SameShell s t ∧ Keeps [.lc, .ks, .presig, .supply, .chans] s.dev t.dev
      ∧ t.dev.lc = { s.dev.lc with
        lcreq := lcResult 1 s.dev.lc.lcreq, token := Vector.replicate 128 0, nonce := [], nonceValid := false
        checking := false, dbgOpen := true, dbgUnlocked := true }
      ∧ t.dev.ks = { s.dev.ks with vol := [], cache := [] } ∧ t.dev.presig.avail = [] ∧ t.dev.supply.arm = none
      ∧ ∀ n, t.dev.chan n = { s.dev.chan n with recs := Vector.replicate 8 none })
  ∧ (∀ (s : State) (target : Nat) (owner : Bytes), s.awake → s.dev.lc.checking = true → s.dev.lc.shown = true →
    bit s.dev.lc.lcreq 9 = false → target = fld s.dev.lc.lcreq 3 0 → permitted s.dev.otp.lcCode target = true →
    (target = 0xF ∨ s.dev.otp.left ≠ 0) →
    (needsToken s.dev.otp.lcCode target = true ∧ (tokenChecks s.dev false target).1 = 0
        ∧ owner = (if target = 1 then (tokenChecks s.dev false target).2 else s.dev.otp.row.ownerHash)
      ∨ needsToken s.dev.otp.lcCode target = false ∧ owner = s.dev.otp.row.ownerHash) →
    ∃ t, exec .lcCheckDone s = .next t ∧ SameShell s t ∧ t.dev.lc.checking = false
      ∧ t.dev.lc.accepted = some (target, owner) ∧ t.dev.lc.lcreq = s.dev.lc.lcreq ∧ t.dev.otp = s.dev.otp
      ∧ (∀ n, (t.dev.chan n).state = .closed)
      ∧ ((∀ n, (s.dev.chan n).state = .closed ∧ (s.dev.chan n).phase = .idle) → Keeps [.lc] s.dev t.dev))
  ∧ (∀ (s : State) (target : Nat) (owner : Bytes) (vfy burns : List Bool) (whole : Bool), s.awake →
    s.dev.lc.accepted = some (target, owner) → s.dev.flashFree = true → s.dev.boot.mgmt = none →
    (s.dev.lc.transit = false → (burnBit burns).1 = true → ∀ row, row = (if target = 0xF then
        { s.dev.otp with endFuse := true } else { s.dev.otp with
          rows := s.dev.otp.rows.set s.dev.otp.nextRow
            { EpochRow.blank with used := true, lc := target, ownerHash := owner } }) →
      ∃ t, exec (.lcTransitionDone ⟨whole, vfy⟩ burns) s = .next t ∧ t.pending = s.pending ∧ t.dev.otp = row
        ∧ t.dev.ks.vol = [] ∧ t.dev.ks.per = [] ∧ t.dev.ks.ready = false
        ∧ (whole = false → t.shell = s.shell ∧ t.dev.lc.transit = true ∧ t.dev.lc.lcstate = target
          ∧ t.dev.lc.lcreq = s.dev.lc.lcreq ∧ t.dev.lc.accepted = some (target, owner) ∧ t.dev.presig.avail = [])
        ∧ (whole = true → t.shell.a.slots = [] ∧ t.shell.b.slots = [] ∧ (∀ n, (t.dev.chan n).state = .closed)
          ∧ fld t.dev.lc.lcreq 23 16 = 1 ∧ bit t.dev.lc.lcreq 31 = false))
    ∧ (s.dev.lc.transit = true →
      ∃ t, exec (.lcTransitionDone ⟨true, vfy⟩ burns) s = .next t ∧ t.pending = s.pending ∧ t.shell.a.slots = []
        ∧ t.shell.b.slots = [] ∧ (∀ n, (t.dev.chan n).state = .closed) ∧ t.dev.otp = s.dev.otp
        ∧ fld t.dev.lc.lcreq 23 16 = 1 ∧ bit t.dev.lc.lcreq 31 = false)
    ∧ (s.dev.lc.transit = false → (burnBit burns).1 = false →
      ∃ t, exec (.lcTransitionDone ⟨whole, vfy⟩ burns) s = .next t ∧ SameShell s t
        ∧ Keeps [.lc, .trouble, .journal] s.dev t.dev ∧ t.dev.lc.lcreq = lcResult 8 s.dev.lc.lcreq
        ∧ t.dev.lc.accepted = none ∧ bit t.dev.trouble.g3 9 = true))

/-- 13 R315, R316, Table 13.6: with D4 on, an instruction selects its register, EXTEST and DBGACC in an open state
alone, BYPASS standing for them in the others; a DBGACC access in an open state sets DONE and USED, and halts,
resumes, steps, reads or writes; an address outside every region, or not reachable now, is refused with ERR, and so is
a write that would request a transition; a boundary-scan instruction takes the bits shifted in. -/
def Obligations.JtagAndDebugAccesses : Prop :=
  ∀ s : State, s.awake → s.dev.domOn 4 = true →
    (∀ i op, (i, op) ∈ [(Instr.jtagTestLogicReset, (0x1 : BitVec 4)), (.jtagIdcode, 0x1), (.jtagBypass, 0xF)] →
      ∃ t, exec i s = .next t ∧ SameShell s t ∧ Keeps [.lc] s.dev t.dev ∧ t.dev.lc = { s.dev.lc with jtagIr := op })
    ∧ (∀ i op, (i, op) ∈ [(Instr.jtagSamplePreload, (0x2 : BitVec 4)),
        (.jtagExtest, if s.dev.debugOpen then 0x3 else 0xF)] →
      ∃ t bits, exec i s = .next t ∧ SameShell s t ∧ Keeps [.lc] s.dev t.dev
        ∧ t.dev.lc = { s.dev.lc with
          jtagIr := op, scan := if op = 0xF then s.dev.lc.scan else bits % 2 ^ Config.scanLen })
    ∧ (∀ i h, (i, h) ∈ [(Instr.dbgHalt, true), (.dbgResume, false), (.dbgStep, s.dev.lc.dbgHalt)] →
      (s.dev.debugOpen = true →
        ∃ t, exec i s = .next t ∧ SameShell s t ∧ Keeps [.lc] s.dev t.dev
          ∧ t.dev.lc = { s.dev.lc with jtagIr := 0x8, dbgUsed := true, dbgDone := true, dbgErr := false, dbgHalt := h })
      ∧ (s.dev.debugOpen = false →
        ∃ t, exec i s = .next t ∧ SameShell s t ∧ Keeps [.lc] s.dev t.dev ∧ t.dev.lc = { s.dev.lc with jtagIr := 0xF }))
    ∧ (∀ a, s.dev.debugOpen = true →
      (∀ i, s.dev.dbgRefused a = true ∧ (i = .dbgaccRead a ∨ (∃ w, i = .dbgaccWrite a w))
          ∨ (∃ w, i = .dbgaccWrite a w ∧ isLcRequest a w = true) →
        ∃ t, exec i s = .next t ∧ SameShell s t ∧ Keeps [.lc] s.dev t.dev
          ∧ t.dev.lc = { s.dev.lc with jtagIr := 0x8, dbgUsed := true, dbgDone := true, dbgErr := true })
      ∧ (s.dev.dbgRefused a = false → inSram a = false → winOf a = none →
        ∃ t, exec (.dbgaccRead a) s = .next t ∧ SameShell s t ∧ Keeps [.lc] s.dev t.dev
          ∧ t.dev.lc = { s.dev.lc with
            jtagIr := 0x8, dbgUsed := true, dbgDone := true, dbgErr := false, dbgData := s.ctlWord none a })
      ∧ (s.dev.dbgRefused a = false → inSram a = true →
        (∃ t, exec (.dbgaccRead a) s = .next t ∧ SameShell s t ∧ Keeps [.lc] s.dev t.dev
          ∧ t.dev.lc.dbgData = s.dev.boot.sram.word 0 (a - 0xC00000) ∧ t.dev.lc.dbgErr = false)
        ∧ (∀ w, ∃ t, exec (.dbgaccWrite a w) s = .next t ∧ SameShell s t ∧ Keeps [.lc, .boot] s.dev t.dev
          ∧ t.dev.boot = { s.dev.boot with sram := s.dev.boot.sram.setWord 0 (a - 0xC00000) w }
          ∧ t.dev.lc.dbgErr = false)))

/-- 14 R328, R329: the loader takes its rate once; each packet is answered: INFO with the identity, DATA by its range,
with the bytes in the SRAM, COMMIT with 03, 04 or, for an accepted image whose writes verify, 00, the program then
started as in a normal boot, RESET with a SOFT reset, a bad packet with 01 or 06; a timeout sends nothing. -/
def Obligations.LoaderAnswersItsPackets : Prop :=
  ∀ s : State, s.awake → s.dev.loading = true → s.dev.power.st = .run →
    (∀ baud, s.dev.boot.loaderBaud = none → 115200 ≤ baud → baud ≤ 3000000 →
      ∃ t, exec (.loaderAutobaud baud) s = .next t ∧ SameShell s t ∧ Keeps [.boot] s.dev t.dev
        ∧ t.dev.boot = { s.dev.boot with loaderBaud := some baud })
    ∧ (s.dev.boot.loaderBaud.isSome = true →
      (∃ t, exec .loaderInfo s = .next t ∧ SameShell s t ∧ Keeps [.boot] s.dev t.dev
        ∧ t.dev.boot = { s.dev.boot with
          loaderOut := loaderPacket 0x81 ([0] ++ wordBytes 0x7416B040 ++ uidBytes ++ natBE 1 s.dev.lc.lcstate
            ++ natBE 1 s.dev.otp.rowIdx ++ wordBytes s.dev.bootStatReg) })
      ∧ (∀ off data,
        (data.length % 4 = 0 → 0 < data.length → data.length ≤ 4092 → off.toNat + data.length ≤ 262144 →
          ∃ t, exec (.loaderData off data) s = .next t ∧ SameShell s t ∧ Keeps [.boot] s.dev t.dev
            ∧ t.dev.boot = { s.dev.boot with
              sram := s.dev.boot.sram.write 0 off.toNat data, loaderOut := loaderPacket 0x82 [0] })
        ∧ (data.length % 4 ≠ 0 ∨ 262144 < off.toNat + data.length →
          ∃ t, exec (.loaderData off data) s = .next t ∧ SameShell s t ∧ Keeps [.boot] s.dev t.dev
            ∧ t.dev.boot = { s.dev.boot with loaderOut := loaderPacket 0x82 [2] }))
      ∧ (∀ len img, img = s.dev.boot.sram.read 0 0 (min len.toNat 262144) →
        (imgValid (img.take 64) = false ∨ len.toNat ≠ 64 + imgLen img → ∀ vfy burns,
          ∃ t, exec (.loaderCommit len vfy burns) s = .next t ∧ SameShell s t ∧ Keeps [.boot] s.dev t.dev
            ∧ t.dev.boot = { s.dev.boot with loaderOut := loaderPacket 0x83 [3] })
        ∧ (imgValid (img.take 64) = true → len.toNat = 64 + imgLen img →
          (s.dev.accepts (sha384 img) (imgVer img) = false → ∀ vfy burns,
            ∃ t, exec (.loaderCommit len vfy burns) s = .next t ∧ SameShell s t ∧ Keeps [.boot] s.dev t.dev
              ∧ t.dev.boot.loaderOut = loaderPacket 0x83 [4] ∧ bit t.dev.boot.bootStat 0 = true)
          ∧ (s.dev.accepts (sha384 img) (imgVer img) = true → s.dev.flashUp = true →
            ∃ t, exec (.loaderCommit len [] []) s = .next t ∧ SameShell s t
              ∧ t.dev.boot.loaderOut = loaderPacket 0x83 [0] ∧ t.dev.boot.boot = 2)))
      ∧ (s.dev.boot.mgmt = none → s.dev.supply.fired = false →
        ∃ t, exec .loaderReset s = .next t ∧ ResetKept s t ∧ t.dev.boot.loaderOut = loaderPacket 0x84 [0])
      ∧ (∀ good, ∃ t, exec (.loaderBadPacket good) s = .next t ∧ SameShell s t ∧ Keeps [.boot] s.dev t.dev
        ∧ t.dev.boot = { s.dev.boot with loaderOut := loaderPacket 0xFF [if good then 6 else 1] })
      ∧ (∃ t, exec .loaderPacketTimeout s = .next t ∧ SameShell s t ∧ Keeps [] s.dev t.dev))

/-! ### Management commands, the gate, phrase tables, the ROM, clocks (14; 15 R364–R368; 18) -/

/-- 14 R331–R338, R344, 18 R429, R430: a management command is taken with its arguments and sets BUSY; ended, its
RESULT stands in MGMT_RES with BUSY 0. ENDORSE and HOSTIMG_STAGE end with their first failing check, or, their writes
verified, DONE; CONFIRM stops the watchdog and makes the trial the normal program; CALSAVE and RESTORE_FACTORY write
the calibration record; HOSTIMG_ACTIVATE stops the gate and starts it again; CHECKPOINT writes the records. -/
def Obligations.ManagementCommandsRunAndEnd : Prop :=
  (∀ s : State, s.takes .A → s.dev.mgmtBusy = false → s.dev.lcBusy = false → s.dev.boot.boot ≠ 3 →
    (∀ i cmd snap slots, (i, cmd, snap, slots) ∈ [(Instr.endorse, 1, [], []), (.restoreFactory, 4, s.dev.calBody, []),
        (.calsave, 5, s.dev.calBody, []), (.hostimgStage, 6, [], []),
        (.checkpoint, 9, [], sortSlots (s.dev.needsClean.map (·.slot)))] →
      ∃ t, exec i s = .next t ∧ SameShell s t ∧ Keeps [.boot] s.dev t.dev ∧ t.dev.mgmtBusy = true
        ∧ t.dev.boot = { s.dev.boot with
          mgmt := some ⟨cmd, s.dev.boot.mgmtArg, snap, slots⟩, mgmtRes := setBit (clrBit s.dev.boot.mgmtRes 30) 31 })
    ∧ (∃ t, exec .confirm s = .next t ∧ SameShell s t ∧ Keeps [.boot] s.dev t.dev ∧ t.dev.mgmtBusy = true
      ∧ t.dev.boot.mgmt = some ⟨2, s.dev.boot.mgmtArg, [], []⟩
      ∧ t.dev.boot.confirmRun = (s.dev.boot.confirmRun && !(s.dev.boot.boot == 1 && s.dev.ks.ready)))
    ∧ (∃ t, exec .hostimgActivate s = .next t ∧ SameShell s t ∧ Keeps [.boot, .gate] s.dev t.dev ∧ t.dev.mgmtBusy = true
      ∧ t.dev.boot.mgmt = some ⟨7, s.dev.boot.mgmtArg, [], []⟩ ∧ t.dev.hig = false ∧ t.dev.gate.pages = []))
  ∧ (∀ (s : State) (m : MgmtRun), s.awake → s.dev.flashFree = true → s.dev.boot.mgmt = some m →
    ((m.cmd = 1 ∨ m.cmd = 6) → ∀ r, (if m.cmd = 1 then endorseBad m s.dev else stageBad m s.dev) = some r →
      ∃ t, exec (.mgmtCmdDone [] []) s = .next t ∧ SameShell s t ∧ Keeps [.boot] s.dev t.dev
        ∧ t.dev.boot = { s.dev.boot with mgmt := none, mgmtRes := mgmtDone m.cmd r s.dev.boot.mgmtRes })
    ∧ (m.cmd = 1 → endorseBad m s.dev = none → s.dev.flashUp = true →
      ∃ t, exec (.mgmtCmdDone [] []) s = .next t ∧ SameShell s t
        ∧ Keeps [.boot, .flash, .ks, .trouble, .journal] s.dev t.dev
        ∧ t.dev.boot = { s.dev.boot with mgmt := none, mgmtRes := mgmtDone 1 1 s.dev.boot.mgmtRes })
    ∧ (m.cmd = 2 → s.dev.boot.boot = 1 → s.dev.ks.ready = true → s.dev.flashUp = true →
      ∃ t, exec (.mgmtCmdDone [] []) s = .next t ∧ SameShell s t
        ∧ Keeps [.boot, .flash, .ks, .otp, .trouble, .journal] s.dev t.dev
        ∧ t.dev.boot = { s.dev.boot with
          boot := 2, mgmt := none
          mgmtRes := mgmtDone 2 (if 64 ≤ s.dev.otp.row.ratchet then 0xB else 1) s.dev.boot.mgmtRes }
        ∧ (64 ≤ s.dev.otp.row.ratchet → t.dev.otp = s.dev.otp)
        ∧ (s.dev.otp.row.ratchet < 64 → t.dev.otp = { s.dev.otp with
          rows := s.dev.otp.rows.set s.dev.otp.rowIdx
            { s.dev.otp.row with ratchet := s.dev.otp.row.ratchet + 1 } }))
    ∧ (m.cmd = 2 → s.dev.boot.boot = 1 → s.dev.ks.ready = true → s.dev.flashUp = true →
      ∃ t, exec (.mgmtCmdDone [false] []) s = .next t ∧ SameShell s t
        ∧ Keeps [.boot, .flash, .ks, .trouble, .journal] s.dev t.dev ∧ t.dev.boot.boot = 1 ∧ t.dev.boot.mgmt = none
        ∧ t.dev.boot.mgmtRes = mgmtDone 2 8 s.dev.boot.mgmtRes ∧ t.dev.boot.confirmRun = true
        ∧ 1 ≤ t.dev.boot.confirmLeft ∧ t.dev.boot.confirmLeft ≤ 1000)
    ∧ (m.cmd = 2 → s.dev.boot.boot ≠ 1 →
      ∃ t, exec (.mgmtCmdDone [] []) s = .next t ∧ SameShell s t ∧ Keeps [.boot] s.dev t.dev
        ∧ t.dev.boot = { s.dev.boot with mgmt := none, mgmtRes := mgmtDone 2 2 s.dev.boot.mgmtRes })
    ∧ (m.cmd = 4 → s.dev.flashUp = true →
      ∃ t, exec (.mgmtCmdDone [] []) s = .next t ∧ SameShell s t
        ∧ Keeps [.boot, .flash, .power, .supply, .clocks, .trouble, .journal] s.dev t.dev
        ∧ t.dev.boot = { s.dev.boot with mgmt := none, mgmtRes := mgmtDone 4 1 s.dev.boot.mgmtRes }
        ∧ t.dev.power = { s.dev.power with seq := Vector.ofFn (fun i => calWord s.dev.calFactory i.val) }
        ∧ (∀ i : Fin 16, t.dev.supply.ride[i] = ⟨calWord s.dev.calFactory (32 + i.val), .idle, 0⟩)
        ∧ bit t.dev.clocks.calStat 31 = false)
    ∧ (m.cmd = 5 → s.dev.flashUp = true →
      ∃ t, exec (.mgmtCmdDone [] []) s = .next t ∧ SameShell s t ∧ Keeps [.boot, .flash, .clocks] s.dev t.dev
        ∧ t.dev.boot = { s.dev.boot with mgmt := none, mgmtRes := mgmtDone 5 1 s.dev.boot.mgmtRes }
        ∧ t.dev.flash = (writeCopy calCopies (calRecord false m.snap) true s.dev).flash
        ∧ t.dev.clocks = { s.dev.clocks with calStat := setBit s.dev.clocks.calStat 31, calRec := m.snap })
    ∧ (m.cmd = 6 → stageBad m s.dev = none → s.dev.flashUp = true → Mem.wf 0xFF s.dev.flash.mem = true →
      ∃ t a, a = (s.dev.stageSlot m.stage.target).1 + m.stage.off ∧ exec (.mgmtCmdDone [] []) s = .next t
        ∧ SameShell s t ∧ Keeps [.boot, .flash] s.dev t.dev
        ∧ t.dev.boot = { s.dev.boot with mgmt := none, mgmtRes := mgmtDone 6 1 s.dev.boot.mgmtRes }
        ∧ t.dev.flashRead a m.stage.len = s.dev.readBuf m.stage.handle 0 m.stage.len
        ∧ (∀ x, (x < a ∨ a + m.stage.len ≤ x) → Mem.get 0xFF t.dev.flash.mem x = Mem.get 0xFF s.dev.flash.mem x))
    ∧ (m.cmd = 7 → s.dev.otp.lcCode ≠ 0xF → s.dev.boot.boot ≠ 3 → s.dev.otp.endFuse = false →
      s.dev.hostTable (1 - s.dev.bootRec.hostAct) = none →
      ∃ t, exec (.mgmtCmdDone [] []) s = .next t ∧ SameShell s t ∧ Keeps [.boot, .gate] s.dev t.dev
        ∧ t.dev.boot = { s.dev.boot with mgmt := none, mgmtRes := mgmtDone 7 9 s.dev.boot.mgmtRes }
        ∧ t.dev.gate.starting = true ∧ t.dev.hig = false)
    ∧ (∀ tb, m.cmd = 7 → s.dev.otp.lcCode ≠ 0xF → s.dev.boot.boot ≠ 3 → s.dev.otp.endFuse = false → s.dev.flashUp = true →
      s.dev.hostTable (1 - s.dev.bootRec.hostAct) = some tb →
      (∀ u, s.dev.hostTable s.dev.bootRec.hostAct = some u → u.ver ≤ tb.ver) →
      s.dev.badPage (1 - s.dev.bootRec.hostAct) tb = none →
      ∃ t, exec (.mgmtCmdDone [] []) s = .next t ∧ SameShell s t ∧ Keeps [.boot, .gate, .flash] s.dev t.dev
        ∧ t.dev.boot = { s.dev.boot with mgmt := none, mgmtRes := mgmtDone 7 1 s.dev.boot.mgmtRes }
        ∧ t.dev.flash = (writeCopy bootCopies
          { s.dev.bootRec with hostAct := 1 - s.dev.bootRec.hostAct }.bytes true s.dev).flash
        ∧ t.dev.gate.starting = true ∧ t.dev.hig = false)
    ∧ (m.cmd = 9 → s.dev.otp.lcCode ≠ 3 → s.dev.otp.lcCode ≠ 0xF → s.dev.boot.boot ≠ 3 → s.dev.ks.ready = true →
      s.dev.flashUp = true → m.slots = [] → s.dev.journal.queue = [] →
      ∃ t, exec (.mgmtCmdDone [] []) s = .next t ∧ SameShell s t ∧ Keeps [.boot] s.dev t.dev
        ∧ t.dev.boot = { s.dev.boot with mgmt := none, mgmtRes := mgmtDone 9 1 s.dev.boot.mgmtRes })
    ∧ (∀ slot x, m.cmd = 9 → s.dev.otp.lcCode ≠ 3 → s.dev.otp.lcCode ≠ 0xF → s.dev.boot.boot ≠ 3 → s.dev.ks.ready = true →
      s.dev.flashUp = true → m.slots = [slot] → s.dev.journal.queue = [] → s.dev.ks.slot slot = some x → x.st = .live →
      s.dev.ks.logPos + s.dev.ks.inNext.length < 127 →
      ∃ t, exec (.mgmtCmdDone [] []) s = .next t ∧ SameShell s t ∧ Keeps [.boot, .ks, .flash] s.dev t.dev
        ∧ t.dev.boot = { s.dev.boot with mgmt := none, mgmtRes := mgmtDone 9 1 s.dev.boot.mgmtRes }
        ∧ t.dev.flash.mem = s.dev.flash.mem.write 0xFF (logAddr s.dev.ks.logSec s.dev.ks.logPos)
          (ctrRecord s.dev.ks.kek slot s.dev.otp.rowIdx x.ctr (nextSeqNo s.dev.ks.recSeq) 1)
        ∧ t.dev.ks.newest slot = some ⟨slot, x.ctr, 1, logAddr s.dev.ks.logSec s.dev.ks.logPos⟩))

/-- 14 R341, R343, 15 R368: the gate, started, loads the digests of the active table and becomes READY, or sets
TBLBAD; a HIGPAGE write of a page in the table fetches it, or queues it behind a fetch; a fetched page whose digest
matches is resident, another sets PGBAD. PTCTL loads the named buffer's table into flash and phrase memory, or gives
the RESULT of its first failing check. -/
def Obligations.GateAndPhraseTablesLoad : Prop :=
  (∀ s : State, s.awake → s.dev.gate.starting = true → s.dev.domOn 3 = true → s.dev.flashFree = true →
    (∀ tb, s.dev.hostTable s.dev.bootRec.hostAct = some tb →
      ∃ t, exec .higTableLoaded s = .next t ∧ SameShell s t ∧ Keeps [.gate] s.dev t.dev ∧ t.dev.hig = true
        ∧ t.dev.gate.digests = tb.digests ∧ t.dev.gate.ver = BitVec.ofNat 32 tb.ver ∧ t.dev.gate.starting = false
        ∧ bit t.dev.gate.stat 28 = false ∧ t.dev.gate.pages = s.dev.gate.pages)
    ∧ (s.dev.hostTable s.dev.bootRec.hostAct = none →
      ∃ t, exec .higTableLoaded s = .next t ∧ SameShell s t ∧ Keeps [.gate] s.dev t.dev
        ∧ bit t.dev.gate.stat 28 = true ∧ t.dev.hig = s.dev.hig ∧ t.dev.gate.starting = false))
  ∧ (∀ (s : State) (w : Word), s.takes .A →
    (fld w 11 0 < s.dev.npages →
      ∃ t, exec (.higpageWrite .A w) s = .next t ∧ SameShell s t ∧ Keeps [.gate] s.dev t.dev
        ∧ t.dev.gate.page = at_ (fld w 11 0) 0
        ∧ bit t.dev.gate.stat 30 = false ∧ bit t.dev.gate.stat 29 = false
        ∧ (s.dev.gate.fetch = none → t.dev.gate.fetch = some (fld w 11 0) ∧ bit t.dev.gate.stat 26 = true)
        ∧ (∀ p, s.dev.gate.fetch = some p → t.dev.gate.fetch = some p ∧ t.dev.gate.queued = some (fld w 11 0)))
    ∧ (s.dev.npages ≤ fld w 11 0 →
      ∃ t, exec (.higpageWrite .A w) s = .next t ∧ SameShell s t ∧ Keeps [.trouble, .journal] s.dev t.dev
        ∧ bit t.dev.trouble.g0 12 = true))
  ∧ (∀ (s : State) (p : Nat) (bs : Bytes), s.awake → s.dev.gate.fetch = some p → s.dev.domOn 3 = true →
    s.dev.flashFree = true →
    bs = s.dev.hostPage (fld s.dev.gate.info 31 31) (ceilDiv (352 + 32 * s.dev.npages) 4096) p →
    ∃ t, exec .higFetchDone s = .next t ∧ SameShell s t ∧ Keeps [.gate] s.dev t.dev
      ∧ t.dev.gate.fetch = s.dev.gate.queued ∧ t.dev.gate.queued = none
      ∧ (sha256 bs = s.dev.gate.digests.getD p [] →
        t.dev.gate.pages = ((p, bs) :: s.dev.gate.pages.filter (fun x => x.1 != p)).take 16
          ∧ (fld s.dev.gate.page 11 0 = p → bit t.dev.gate.stat 30 = true))
      ∧ (sha256 bs ≠ s.dev.gate.digests.getD p [] →
        t.dev.gate.pages = s.dev.gate.pages ∧ bit t.dev.gate.stat 29 = true ∧ fld t.dev.gate.info 11 0 = p % 4096))
  ∧ (∀ (s : State) (w : Word), s.takes .A → s.dev.ptBusy = false →
    ∃ t, exec (.ptLoad .A w) s = .next t ∧ SameShell s t ∧ Keeps [.phrases] s.dev t.dev
      ∧ t.dev.phrases = { s.dev.phrases with load := some (fld w 19 16, lo16 w, 0) })
  ∧ (∀ (s : State) (ch h k : Nat), s.awake → s.dev.phrases.load = some (ch, h, k) → s.dev.flashFree = true →
    (∀ r, (2 ≤ s.dev.otp.lcCode ∧ r = 2 ∨ s.dev.otp.lcCode < 2 ∧ s.dev.ptSource ch h = none ∧ r = 3
        ∨ s.dev.otp.lcCode < 2 ∧ (∃ tb, s.dev.ptSource ch h = some tb ∧ ptValid tb = false) ∧ r = 4) →
      ∃ t, exec (.ptLoadDone []) s = .next t ∧ SameShell s t ∧ Keeps [.phrases] s.dev t.dev
        ∧ t.dev.phrases = { s.dev.phrases with load := none, stat := putFld s.dev.phrases.stat (at_ r 16) 23 16 })
    ∧ (∀ tb, s.dev.otp.lcCode < 2 → s.dev.ptSource ch h = some tb → ptValid tb = true → s.dev.flashUp = true →
      ∃ t, exec (.ptLoadDone []) s = .next t ∧ SameShell s t ∧ Keeps [.phrases, .flash] s.dev t.dev
        ∧ t.dev.flash = (writeCopy phraseCopies (phraseRecord tb) true s.dev).flash
        ∧ t.dev.phrases = { s.dev.phrases with
          load := none, table := (t.dev.copyNow phraseCopies).getD tb
          stat := putFld s.dev.phrases.stat (at_ 1 16) 23 16 }))

/-- 14 R323, R328, 13 Table 13.6, 18 R418, R423, R426: the ROM runs once after a reset; it shows the life-cycle state
and opens debug in BLANK and RETURN; in END it stops there; with RECOV high or no flash the loader runs; else
GSTAT.BOOT is 1, 2 or 3 and a trial's watchdog runs. FSEL takes effect where it is not reserved; a conversion in RUN
gives TEMP; a passing entropy block counts, the second reseeds the DRBG, which then serves the request that waited for
it; the third failing in a row raises WHY.ENTROPY and fails the requests that wait. That the repetition count runs on
from one block to the next is the reading of log 66. -/
def Obligations.RomClocksAndEntropy : Prop :=
  (∀ (env : RomEnv) (s : State), s.awake →
    (s.dev.lc.shown = true → ∃ t, exec (.romBoot env) s = .next t ∧ SameShell s t ∧ Keeps [] s.dev t.dev)
    ∧ (s.dev.lc.shown = false → s.dev.boot.boot = 0 → s.dev.boot.confirmRun = false →
      ∃ t, exec (.romBoot env) s = .next t ∧ SameShell s t ∧ t.dev.lc.shown = true
        ∧ (t.dev.dom 4).phase = .on ∧ t.dev.lc.lcstate = s.dev.otp.lcCode
        ∧ t.dev.lc.dbgOpen = (s.dev.otp.lcCode == 0 || s.dev.otp.lcCode == 3)
        ∧ (s.dev.otp.endFuse = true → t.dev.boot = s.dev.boot ∧ t.dev.otp = s.dev.otp ∧ t.dev.flash = s.dev.flash)
        ∧ (s.dev.otp.endFuse = false → env.recov = true ∨ s.dev.flash.known = false → t.dev.boot.boot = 3)
        ∧ (s.dev.otp.endFuse = false → t.dev.boot.boot = 3 ∨ (t.dev.boot.boot = 1 ∨ t.dev.boot.boot = 2)
          ∧ t.dev.boot.confirmRun = (t.dev.boot.boot == 1) ∧ t.dev.gate.starting = true)))
  ∧ (∀ (s : State) (w : Word), s.takes .A →
    (fld w 1 0 ≠ 3 → ∃ t, exec (.fselWrite .A w) s = .next t ∧ SameShell s t ∧ Keeps [.clocks] s.dev t.dev
      ∧ t.dev.clocks = { s.dev.clocks with clkCfg := w &&& 3 })
    ∧ (fld w 1 0 = 3 → ∃ t, exec (.fselWrite .A w) s = .next t ∧ SameShell s t ∧ Keeps [.trouble, .journal] s.dev t.dev
      ∧ bit t.dev.trouble.g0 12 = true))
  ∧ (∀ (s : State) (deg : BitVec 16), s.awake → s.dev.power.st = .run →
    ∃ t, exec (.tempSample deg) s = .next t ∧ SameShell s t ∧ Keeps [.clocks] s.dev t.dev
      ∧ t.dev.clocks = { s.dev.clocks with
        temp := (deg + (vget s.dev.clocks.calib 4 0).setWidth 16).setWidth 32 })
  ∧ (∀ (s : State) (bits : List Bool), s.awake → s.dev.entropy.busy = true → bits.length = 1024 → s.dev.gRun = true →
    (rctRuns s.dev.rctc s.dev.drawn bits = false → aptFails s.dev.aptc bits = false →
      (s.dev.entropy.passed = 0 →
        ∃ t, exec (.entropyBlockDone bits) s = .next t ∧ SameShell s t ∧ Keeps [.entropy, .trouble] s.dev t.dev
          ∧ t.dev.entropy = { s.dev.entropy with bits := s.dev.entropy.bits ++ bits, passed := 1 }
          ∧ t.dev.trouble = { s.dev.trouble with entRun := 0 })
      ∧ (∀ who q g, s.dev.entropy.passed = 1 → s.dev.entropy.queue = [(who, q)] →
        g = (s.dev.drbg.reseed (sha384 (bitBytes (s.dev.entropy.bits ++ bits)))).generate q.len q.add →
        ∃ t, exec (.entropyBlockDone bits) s = .next t ∧ SameShell s t
          ∧ Keeps [.entropy, .trouble, .drbg, .lc, .chans] s.dev t.dev ∧ t.dev.drbg = g.2
          ∧ t.dev.entropy = { s.dev.entropy with busy := false, bits := [], passed := 0, queue := [] }
          ∧ t.dev.trouble = { s.dev.trouble with entRun := 0 }
          ∧ (who = .lcNonce → t.dev.chans = s.dev.chans
            ∧ t.dev.lc = { s.dev.lc with nonce := g.1, nonceValid := true })
          ∧ (∀ n, who = .nonce n → (s.dev.chan n).phase = .drawing →
            t.dev.lc = s.dev.lc ∧ ChanIs n (fun c => { c with phase := .drawn g.1 }) s.dev t.dev)
          ∧ (∀ n x j c, who = .clause n x.sid → s.dev.sent n x.sid = some x → x.job = some j →
            x.clauses[x.idx]? = some c → j.drawing = true →
            ∃ y, t.dev.lc = s.dev.lc ∧ t.dev.sent n x.sid = some { x with job := some y } ∧ y.rnd = g.1
              ∧ y.drawing = false)))
    ∧ (rctRuns s.dev.rctc s.dev.drawn bits = true ∨ aptFails s.dev.aptc bits = true →
      (s.dev.trouble.entRun < 2 →
        ∃ t, exec (.entropyBlockDone bits) s = .next t ∧ SameShell s t
          ∧ Keeps [.entropy, .trouble, .journal] s.dev t.dev
          ∧ t.dev.trouble.entRun = s.dev.trouble.entRun + 1 ∧ bit t.dev.trouble.g2 5 = true
          ∧ t.dev.entropy = { s.dev.entropy with stat := t.dev.entropy.stat }
          ∧ bit t.dev.entropy.stat 30 = rctRuns s.dev.rctc s.dev.drawn bits ∧ bit t.dev.entropy.stat 29 = aptFails s.dev.aptc bits)
      ∧ (2 ≤ s.dev.trouble.entRun →
        (s.dev.entropy.queue = [] ∨ (∃ q, s.dev.entropy.queue = [(DrawFor.lcNonce, q)]) →
          ∃ t, exec (.entropyBlockDone bits) s = .next t ∧ SameShell s t
            ∧ Keeps [.entropy, .trouble, .journal, .lc] s.dev t.dev
            ∧ t.dev.trouble.entRun = 3 ∧ bit t.dev.trouble.g2 6 = true ∧ bit t.dev.trouble.why 1 = true
            ∧ t.dev.entropy.busy = false ∧ t.dev.entropy.queue = []
            ∧ t.dev.lc = (if s.dev.entropy.queue = [] then s.dev.lc else
              { s.dev.lc with lcreq := putFld s.dev.lc.lcreq (at_ 9 16) 23 16 }))
        ∧ (∀ n x j c q, s.dev.entropy.queue = [(DrawFor.clause n x.sid, q)] → s.dev.sent n x.sid = some x →
          x.parent = none → x.job = some j → x.clauses[x.idx]? = some c → j.drawing = true → j.phrase = none →
          j.result = none → j.outGone = false → (∀ a, j.dst ≠ .append a) →
          (s.dev.chan n).state.active = true → (∀ k, ((s.dev.chan n).rings.ring k).good = true) →
          ∃ t, exec (.entropyBlockDone bits) s = .next t ∧ SameShell s t ∧ OthersKept n s.dev t.dev
            ∧ t.dev.sent n x.sid = none ∧ bit t.dev.trouble.why 1 = true ∧ t.dev.entropy.queue = []
            ∧ (t.dev.chan n).rings = Rings.skipped (x.clauses.drop (x.idx + 1)) (x.idx + 1)
              (j.ringsAfter c .entropy x.idx j.written j.input.length
                (match j.dst with
                  | .alloc _ => 0xFFFC
                  | _ => c.w3hi) (lenWord false true j.written) (zeros j.written) (s.dev.chan n).rings)))))

/-! ### Power domains and STOP (16) -/

/-- 16 R370–R372, R375, R377, R393: PDREQ, PDDENY and PDKEEP take the bits their domains have; a domain at rest whose
target differs starts its sequence; a step ends in the next step toward the target of that moment, a pool bank that
arrives dirty, one whose power opens without its content, and up-step 2 resets what lies in the domain: port B's shell
in D1, JTAG in D4, the tags in D6; a missed ready signal marks the domain failed with PDFAIL: an engine is counted and
in QUAR, a class-2 domain of a STOP exit makes a PIN reset. -/
def Obligations.DomainsAreSequenced : Prop :=
  (∀ (k : Nat) (w : Word) (s : State), s.takes .A → k < 5 →
    (∃ t, exec (.domainControlWrite .A (0x420 + 4 * k) w) s = .next t ∧ SameShell s t ∧ Keeps [.power] s.dev t.dev
      ∧ t.dev.power = { s.dev.power with req := vset s.dev.power.req k (w &&& domWord reqBit k) })
    ∧ (∃ t, exec (.domainControlWrite .A (0x440 + 4 * k) w) s = .next t ∧ SameShell s t
      ∧ Keeps [.power, .chans] s.dev t.dev ∧ (s.dev.sels = [] → t.dev.chans = s.dev.chans)
      ∧ t.dev.power = { s.dev.power with deny := vset s.dev.power.deny k (w &&& domWord denyBit k) })
    ∧ (∃ t, exec (.domainControlWrite .A (0x460 + 4 * k) w) s = .next t ∧ SameShell s t ∧ Keeps [.power] s.dev t.dev
      ∧ t.dev.power = { s.dev.power with keep := vset s.dev.power.keep k (w &&& domWord keepBit k) }))
  ∧ (∀ (x : Nat) (s : State), s.awake → 1 ≤ x → x < 140 →
    (s.dev.gRun = true → ∀ q, (s.dev.dom x).phase = .off ∧ s.dev.target x = true ∧ q = .up 0
        ∨ (s.dev.dom x).phase = .on ∧ s.dev.target x = false ∧ q = .down 3 →
      ∃ t, exec (.domainSequenceStart x) s = .next t ∧ SameShell s t
        ∧ Keeps (if x = 3 then [.power, .gate] else [.power]) s.dev t.dev ∧ (x = 3 → q = .down 3 → t.dev.hig = false)
        ∧ (t.dev.dom x) = { s.dev.dom x with phase := q } ∧ ∀ y, y ≠ x → t.dev.dom y = s.dev.dom y)
    ∧ (∀ q, (s.dev.dom x).phase.stepping = true → q = nextPhase (s.dev.target x) (s.dev.dom x).phase →
      ∃ t, exec (.domainStepDone x) s = .next t ∧ t.pending = s.pending ∧ t.shell.a = s.shell.a
        ∧ t.shell.b = (if x = 1 ∧ q = .up 2 then { PortShell.fresh with hlcfg := s.shell.b.hlcfg } else s.shell.b)
        ∧ Keeps (.power :: (if 60 ≤ x ∧ x < 92 then [.pool] else if x = 3 then [.gate] else if x = 4 then [.lc]
            else if x = 6 then [.pool, .sched] else if x = 7 then [.entropy] else if x = 11 then [.clocks] else []))
          s.dev t.dev
        ∧ (t.dev.dom x).phase = q
        ∧ (∀ y, y ≠ x → x ≠ 11 ∨ q ≠ .on ∨ y < 5 ∨ 10 < y → t.dev.dom y = s.dev.dom y)
        ∧ (x = 11 → q = .on → ∀ y, 5 ≤ y → y ≤ 10 → (s.dev.dom y).phase = .off → (t.dev.dom y).phase = .up 0)
        ∧ (x = 11 → (q = .up 2 → bit t.dev.clocks.clkStat 0 = true) ∧ (q = .up 3 → bit t.dev.clocks.clkStat 1 = true))
        ∧ (x = 4 → q = .up 2 → t.dev.lc.jtagIr = 0x1)
        ∧ (x = 6 → q = .up 2 → t.dev.sched.rot = Sched.fresh.rot ∧ t.dev.sched.cfg = s.dev.sched.cfg)
        ∧ (60 ≤ x → x < 92 →
          (q = .on → ∀ g, g / 128 = x - 60 → g ∈ t.dev.pool.dirty)
          ∧ (q = .down 0 → t.dev.pool.mem = s.dev.pool.mem.wipe ((x - 60) * 65536) 65536)
          ∧ (q ≠ .down 0 → t.dev.pool.mem = s.dev.pool.mem)))
    ∧ (∀ vfy burns, (s.dev.dom x).phase = .up 0 →
      (5 ≤ x → x ≤ 11 → s.dev.power.st = .exit ∨ s.dev.lc.shown = false → s.dev.boot.mgmt = none → s.dev.supply.fired = false →
        ∃ t, exec (.domainReadyTimeout x vfy burns) s = .next t ∧ t.shell = ⟨.fresh, .fresh⟩ ∧ t.pending = s.pending
          ∧ bit t.dev.trouble.g1 1 = true ∧ t.dev.flash = s.dev.flash ∧ t.dev.otp = s.dev.otp)
      ∧ (x < 5 ∨ 11 < x →
        ∃ t, exec (.domainReadyTimeout x vfy burns) s = .next t ∧ SameShell s t ∧ bit t.dev.trouble.g1 1 = true
          ∧ (t.dev.dom x).failed = true ∧ (t.dev.dom x).phase = .down 0)
      ∧ (∀ e : Eng, x = 12 + e.val → s.dev.katf e < 3 →
        ∃ t, exec (.domainReadyTimeout x [] []) s = .next t ∧ (t.dev.eng e).svc = .quar
          ∧ t.dev.katf e = s.dev.katf e + 1)))

/-- 16 R379–R388, Tables 16.6, 18.1, 12 R297: a STOP request is refused with its reason or latches the keep set,
starts entry and resets the open channels that are not kept; entry, its work over, ends in STOP with the domains
outside the keep set and the clocks off; the armed ones of the sources that fire wake, at once in STOP and after
entry, and are all recorded, the lowest as LAST; bytes at U_RXD are such a source; exit ends in RUN with D5–D11 on,
the clocks locked and STOPS one up, OTPERR recorded where reread OTP fails its check; without D9 the key store then
unlocks, but in RETURN. Armed sources that fire with the request's commit abandon it: RUN goes on. -/
def Obligations.StopIsEnteredAndLeft : Prop :=
  (∀ (w : Word) (srcs : List Nat) (s : State), s.takes .A → s.dev.power.st = .run →
    (s.dev.stopRefused ≠ 0 →
      ∃ t, exec (.stopRequest .A w srcs) s = .next t ∧ SameShell s t ∧ Keeps [.power] s.dev t.dev
        ∧ t.dev.power = { s.dev.power with
          keepKeys := bit w 8, pwrStat := putFld s.dev.power.pwrStat (at_ s.dev.stopRefused 24) 26 24 })
    ∧ (s.dev.stopRefused = 0 → s.dev.wakePending srcs = [] →
      ∃ t, exec (.stopRequest .A w srcs) s = .next t ∧ SameShell s t ∧ t.dev.power.st = .entry
        ∧ t.dev.power.latched = s.dev.power.keepList ∧ t.dev.power.latchedKeys = bit w 8
        ∧ t.dev.power.latchedWake = s.dev.power.wakeCfg ∧ t.dev.power.latchedTmr = s.dev.power.wakeTmr
        ∧ t.dev.power.supplyStop = false ∧ t.dev.power.woken = false ∧ t.dev.flash = s.dev.flash
        ∧ (∀ n, s.dev.keeps s.dev.power.keepList n = true → t.dev.chan n = s.dev.chan n)
        ∧ (∀ n, s.dev.keeps s.dev.power.keepList n = false → (s.dev.chan n).state.active = true →
          (t.dev.chan n).state = .resetting
          ∧ ((∀ y ∈ (s.dev.chan n).sents, y.job = none ∧ y.parent = none) → (t.dev.chan n).sents = [])))
    ∧ (∀ b bs, s.dev.stopRefused = 0 → s.dev.wakePending srcs = b :: bs →
      ∃ t, exec (.stopRequest .A w srcs) s = .next t ∧ SameShell s t
        ∧ Keeps [.power, .trouble, .journal] s.dev t.dev ∧ t.dev.power.st = .run
        ∧ t.dev.power.doms = s.dev.power.doms ∧ bit t.dev.trouble.g1 0 = true
        ∧ (∀ q ∈ b :: bs, bit t.dev.power.wakeStat q = true)
        ∧ fld t.dev.power.wakeStat 19 16 = bs.foldl min b + 1))
  ∧ (∀ (vfy : List Bool) (s : State), s.awake → s.dev.power.st = .entry → s.dev.entryBusy = false →
    (∀ n, (s.dev.chan n).state ≠ .resetting) →
    ∃ t, exec (.stopEntryDone vfy) s = .next t ∧ SameShell s t
      ∧ t.dev.power.st = (if s.dev.power.woken then .exit else .stop)
      ∧ t.dev.power.wakeLeft = s.dev.power.latchedTmr.toNat ∧ t.dev.clocks.clkStat = 0
      ∧ (∀ x : Fin 140, (t.dev.dom x.val).phase
        = if s.dev.power.woken ∧ x.val = 11 then .up 0
          else if (s.dev.dom x.val).phase = .on ∧ s.dev.stays x.val = true then .on else .off)
      ∧ (s.dev.power.latchedKeys = false → t.dev.ks.vol = [] ∧ t.dev.ks.per = [] ∧ t.dev.ks.ready = false
        ∧ t.dev.supply.arm = none ∧ t.dev.presig.avail = []
        ∧ ∀ n, (t.dev.chan n).sents = (s.dev.chan n).sents.map (fun y =>
          if y.holds then { y with wait := .ksready, judged := false } else y))
      ∧ (s.dev.power.latchedKeys = true → t.dev.ks.vol = s.dev.ks.vol
        ∧ ∀ n, (t.dev.chan n).sents = (s.dev.chan n).sents)
      ∧ (∀ n, (t.dev.chan n).rings = (s.dev.chan n).rings))
  ∧ (∀ (srcs fs : List Nat) (src : Nat) (s : State), s.awake →
    (src :: fs) = srcs.filter (s.dev.armed s.dev.power.latchedWake s.dev.power.latchedTmr s.dev.power.latched) →
    ((∀ q ∈ srcs, q ≤ 5) →
      ∃ t, exec (.wake srcs) s = .next t ∧ SameShell s t ∧ Keeps [.power] s.dev t.dev
        ∧ (s.dev.power.st = .stop → t.dev.power.st = .exit ∧ (t.dev.dom 11).phase = .up 0)
        ∧ (s.dev.power.st = .entry → t.dev.power.st = .entry ∧ t.dev.power.woken = true)
        ∧ (s.dev.power.st = .stop ∨ s.dev.power.st = .entry → (∀ q ∈ src :: fs, bit t.dev.power.wakeStat q = true)
          ∧ fld t.dev.power.wakeStat 19 16 = fs.foldl min src + 1)
        ∧ (s.dev.power.st = .run ∨ s.dev.power.st = .exit → t.dev.power = s.dev.power))
    ∧ (srcs = [6] → s.dev.power.st = .stop →
      ∃ t, exec .wakeTimerExpiry s = .next t ∧ SameShell s t ∧ Keeps [.power] s.dev t.dev ∧ t.dev.power.st = .exit
        ∧ t.dev.power.wakeLeft = 0 ∧ bit t.dev.power.wakeStat 6 = true ∧ fld t.dev.power.wakeStat 19 16 = 7)
    ∧ (∀ i, i = .loaderInfo ∨ i = .loaderReset ∨ (∃ baud, i = .loaderAutobaud baud) → srcs = [2] →
      s.dev.power.st = .stop →
      ∃ t, exec i s = .next t ∧ SameShell s t ∧ Keeps [.power] s.dev t.dev ∧ t.dev.power.st = .exit
        ∧ bit t.dev.power.wakeStat 2 = true ∧ fld t.dev.power.wakeStat 19 16 = 3))
  ∧ (∀ s : State, s.awake → s.dev.power.st = .exit → s.dev.power.held = [] →
    ∃ t, exec .stopExitDone s = .next t ∧ SameShell s t
      ∧ Keeps [.power, .pool, .ks, .sched, .entropy, .clocks, .trouble, .journal] s.dev t.dev
      ∧ (t.dev.trouble = s.dev.trouble ∧ t.dev.journal = s.dev.journal ∨ bit t.dev.trouble.g3 9 = true)
      ∧ t.dev.power.st = .run
      ∧ (∀ x, 5 ≤ x → x ≤ 11 → t.dev.domOn x = true) ∧ t.dev.clocks = { s.dev.clocks with clkStat := 3 }
      ∧ fld t.dev.power.pwrStat 23 16 = (fld s.dev.power.pwrStat 23 16 + 1) % 256
      ∧ t.dev.pool.mem = s.dev.pool.mem ∧ ((s.dev.dom 6).phase = .off → t.dev.pool.gens = [])
      ∧ t.dev.ks = (if s.dev.power.latchedKeys = true ∨ s.dev.otp.lcCode = 3 then s.dev.ks
        else { s.dev.ks with unlocking := true }))
  ∧ (∀ s : State, s.awake → s.dev.ks.unlocking = true → s.dev.otp.rooted = true →
    (∀ n, ∀ y ∈ (s.dev.chan n).sents, y.judged = true ∨ y.job.isSome = true) →
    (∀ r, s.dev.findKek s.dev.boot.progMeas s.dev.boot.progVer.toNat s.dev.wantState = .inr r →
      ∃ t, exec .keystoreUnlockDone s = .next t ∧ SameShell s t ∧ Keeps [.ks, .trouble, .journal, .chans] s.dev t.dev
        ∧ t.dev.ks = { s.dev.ks with ready := false, unlocking := false, lock := r } ∧ bit t.dev.trouble.g3 2 = true)
    ∧ (∀ x, s.dev.findKek s.dev.boot.progMeas s.dev.boot.progVer.toNat s.dev.wantState = .inl x →
      ∃ t, exec .keystoreUnlockDone s = .next t ∧ SameShell s t ∧ Keeps [.ks, .trouble, .journal, .chans] s.dev t.dev
        ∧ t.dev.ks.ready = true ∧ t.dev.ks.unlocking = false ∧ t.dev.ks.kek = x.1 ∧ t.dev.ks.vol = s.dev.ks.vol
        ∧ (∀ k ∈ t.dev.ks.per, k.slot ∈ s.dev.otp.row.written)
        ∧ ∀ n, t.dev.chan n = { s.dev.chan n with sents := (s.dev.chan n).sents.map (fun y =>
          if y.wait == .ksready then { y with wait := .none } else y) }))

/-! ### Supply and last gasp (17) -/

/-- 17 R395, R397, R399–R402, R405, R416: a tick in RUN takes both samples and moves each entry between IDLE, BELOW
and FIRED; the entries that fire act in entry order at the level of that update: their state, the level, each one's
one-shot record; a CHECKPOINT with a LASTGASP in the same update writes nothing; a STOP begins entry unless armed
sources fire with it. A RIDE write puts its entry to IDLE; filtered PFW sets its bit when enabled; LOWCLR restarts the
low fields with the next sample. (RIDE_ENTRY_FIRE is the tick on which the entry's timer reaches DUR: log entry 49.) -/
def Obligations.RideThroughTableActs : Prop :=
  (∀ (vin hold : BitVec 10) (wk : List Nat) (vfy : List Bool) (s : State) (u : Supply), s.awake → s.dev.power.st = .run →
    u = takeSamples (s.dev.adc 2 vin.toNat) (s.dev.adc 3 hold.toNat) s.dev.supply →
    (∀ i : Fin 16, (s.dev.supply.ride[i]).st = .fired ∨ (rideMove u 1 s.dev.supply.ride[i]).st ≠ .fired) →
    ∃ t, exec (.supplyTick ⟨vin, hold⟩ ⟨wk, vfy⟩) s = .next t ∧ SameShell s t
      ∧ Keeps [.supply, .trouble, .journal, .flash, .engines] s.dev t.dev
      ∧ ((∀ e, (s.dev.eng e).due = none) → t.dev.flash = s.dev.flash ∧ t.dev.engines = s.dev.engines)
      ∧ (t.dev.supply.level < 3 → ∀ e, (t.dev.eng e).due = none)
      ∧ t.dev.supply.vin = s.dev.adc 2 vin.toNat ∧ t.dev.supply.hold = s.dev.adc 3 hold.toNat
      ∧ t.dev.supply.vinLow = (if s.dev.supply.lowFresh then s.dev.adc 2 vin.toNat
        else min s.dev.supply.vinLow (s.dev.adc 2 vin.toNat))
      ∧ (∀ i : Fin 16, ∀ r, r = s.dev.supply.ride[i] →
        (bit r.reg 31 = false → (t.dev.supply.ride[i]).st = .idle)
        ∧ (bit r.reg 31 = true → r.st = .idle →
          (t.dev.supply.ride[i]).st = if u.rideBelow r.reg then .below else .idle)
        ∧ (bit r.reg 31 = true → r.st = .below →
          t.dev.supply.ride[i] = if u.rideBack r.reg then { r with st := .idle, timer := 0 }
            else { r with timer := r.timer + 1 })
        ∧ (bit r.reg 31 = true → r.st = .fired → (t.dev.supply.ride[i]).st = if u.rideBack r.reg then .idle else .fired))
      ∧ t.dev.supply.level = t.dev.supply.levelNow ∧ t.dev.supply.mailbox = s.dev.supply.mailbox)
  ∧ (∀ (i : Fin 16) (wk : List Nat) (vfy : List Bool) (s : State) (r : Ride) (dt : Nat), s.awake → s.dev.power.st = .run →
    r = s.dev.supply.ride[i] → r.st = .below → bit r.reg 31 = true → s.dev.supply.rideBack r.reg = false →
    dt = max 1 (rideDue r.reg - r.timer) → (∀ e, (s.dev.eng e).due = none) →
    ((∀ j : Fin 16, j ≠ i → (s.dev.supply.ride[j]).st = .fired ∨ (rideMove s.dev.supply dt s.dev.supply.ride[j]).st ≠ .fired) →
      (∀ act b, (act, b) ∈ [(1, 6), (3, 8)] → rideAction r.reg = act →
        ∃ t, exec (.rideEntryFire i ⟨wk, vfy⟩) s = .next t ∧ SameShell s t ∧ Keeps [.supply, .trouble, .journal] s.dev t.dev
          ∧ (t.dev.supply.ride[i]).st = .fired ∧ act ≤ t.dev.supply.level ∧ bit t.dev.trouble.g1 b = true)
      ∧ (rideAction r.reg = 4 → bit s.dev.supply.lgStat 30 = false →
        (s.dev.supply.arm = none →
          ∃ t, exec (.rideEntryFire i ⟨wk, vfy⟩) s = .next t ∧ SameShell s t ∧ Keeps [.supply, .trouble, .journal] s.dev t.dev
            ∧ fld t.dev.supply.lgStat 29 28 = 3 ∧ t.dev.supply.gasp = s.dev.supply.gasp ∧ t.dev.supply.fired = true
            ∧ t.dev.supply.marks = s.dev.supply.marks)
        ∧ (∀ a p ps, s.dev.supply.arm = some a → s.dev.presig.avail = p :: ps →
          ∃ t g, exec (.rideEntryFire i ⟨wk, vfy⟩) s = .next t ∧ SameShell s t
            ∧ Keeps [.supply, .presig, .trouble, .journal] s.dev t.dev ∧ t.dev.supply.gasp = some g ∧ g.arm = a ∧ g.presig = p
            ∧ g.full = none ∧ g.vin = s.dev.supply.vin ∧ g.hold = s.dev.supply.hold
            ∧ g.event = fld r.reg 27 26 * 64 + i.val ∧ t.dev.supply.arm = none
            ∧ t.dev.presig.avail = ps ∧ fld t.dev.supply.lgStat 29 28 = 1 ∧ bit t.dev.supply.lgStat 30 = true
            ∧ t.dev.supply.fired = true))
      ∧ (rideAction r.reg = 5 →
        ∃ t, exec (.rideEntryFire i ⟨wk, vfy⟩) s = .next t ∧ SameShell s t ∧ bit t.dev.trouble.g1 10 = true
          ∧ (t.dev.supply.ride[i]).st = (if s.dev.wakePending wk = [] then .idle else .fired)
          ∧ (s.dev.wakePending wk = [] → t.dev.power.st = .entry ∧ t.dev.power.supplyStop = true)
          ∧ (s.dev.wakePending wk ≠ [] → t.dev.power.st = .run ∧ bit t.dev.trouble.g1 0 = true)))
    ∧ (∀ j : Fin 16, j ≠ i → rideAction r.reg = 2 → (s.dev.supply.ride[j]).st ≠ .fired →
      (rideMove s.dev.supply dt s.dev.supply.ride[j]).st = .fired → rideAction (s.dev.supply.ride[j]).reg = 4 →
      s.dev.supply.arm = none →
      (∀ k : Fin 16, k ≠ i → k ≠ j →
        (s.dev.supply.ride[k]).st = .fired ∨ (rideMove s.dev.supply dt s.dev.supply.ride[k]).st ≠ .fired) →
      ∃ t, exec (.rideEntryFire i ⟨wk, vfy⟩) s = .next t ∧ SameShell s t ∧ Keeps [.supply, .trouble, .journal] s.dev t.dev
        ∧ (t.dev.supply.ride[i]).st = .fired ∧ (t.dev.supply.ride[j]).st = .fired ∧ 4 ≤ t.dev.supply.level
        ∧ bit t.dev.trouble.g1 7 = true ∧ t.dev.supply.fired = true))
  ∧ (∀ (i : Fin 16) (w : Word) (s : State), s.takes .A → rideAction w < 6 → fld w 27 26 ≠ 3 → fld w 25 24 ≠ 3 →
    ∃ t, exec (.rideWrite .A i w) s = .next t ∧ SameShell s t ∧ Keeps [.supply, .trouble, .journal] s.dev t.dev
      ∧ t.dev.supply.ride[i] = ⟨w, .idle, 0⟩ ∧ (∀ j : Fin 16, j ≠ i → t.dev.supply.ride[j] = s.dev.supply.ride[j])
      ∧ t.dev.supply.level = t.dev.supply.levelNow)
  ∧ (∀ s : State, s.awake →
    (bit s.dev.supply.pfwCfg 31 = true → s.dev.supply.pfw = false →
      ∃ t, exec .pfwAssert s = .next t ∧ SameShell s t ∧ Keeps [.supply, .trouble, .journal, .power] s.dev t.dev
        ∧ t.dev.supply = { s.dev.supply with pfw := true } ∧ bit t.dev.trouble.g1 5 = true
        ∧ (s.dev.power.st = .run → t.dev.power = s.dev.power))
    ∧ (∃ t, exec .pfwDeassert s = .next t ∧ SameShell s t ∧ Keeps [.supply] s.dev t.dev
      ∧ t.dev.supply = { s.dev.supply with pfw := false }))
  ∧ (∀ s : State, s.takes .A → ∃ t, exec (.lowclr .A) s = .next t ∧ SameShell s t ∧ Keeps [.supply] s.dev t.dev
    ∧ t.dev.supply = { s.dev.supply with lowFresh := true })

/-- 17 R409–R412, Tables 17.3, 17.4: a path whose signature holds its check seals: the mailbox carries the COSE_Sign1
of the latched event under SEALED, a mark is due (an ACK after it where the level is below 4 again); one whose check
fails is INVARIANT, ends a full path without a record, and gives a presignature path its next triple; the oldest mark
that may be written is one record of the counter log in place of slot 0xFFFF, and sets MARKDONE unless it is an ACK. -/
def Obligations.LastGaspSealsAndMarks : Prop :=
  (∀ (g : Gasp) (p : Nat × Nat) (s : State), s.awake → s.dev.supply.gasp = some g → g.sign = some p →
    ∃ t msg, exec (.lastgaspSeal false) s = .next t ∧ SameShell s t ∧ Keeps [.supply] s.dev t.dev
      ∧ msg = coseSign1 g.header g.payload (natBE 32 p.1 ++ natBE 32 p.2)
      ∧ t.dev.supply = { s.dev.supply with
        gasp := none, sealed := true, mailbox := t.dev.supply.mailbox
        fired := s.dev.supply.fired && 4 ≤ s.dev.supply.level
        marks := s.dev.supply.marks ++ s.dev.supply.endMarks (1 + 4 * flag g.full.isSome) (markV g.sec g.event) }
      ∧ bit t.dev.supply.mailbox[0] 31 = true
      ∧ (msg.length ≤ 252 → bit t.dev.supply.mailbox[0] 30 = g.full.isSome ∧ fld t.dev.supply.mailbox[0] 15 0 = msg.length
        ∧ (wordsBytes (t.dev.supply.mailbox.toList.drop 1)).take msg.length = msg))
  ∧ (∀ (g : Gasp) (s : State), s.awake → s.dev.supply.gasp = some g →
    (∀ c, g.full = some c →
      ∃ t, exec (.lastgaspSeal true) s = .next t ∧ SameShell s t ∧ Keeps [.supply, .trouble, .journal] s.dev t.dev
        ∧ t.dev.supply.gasp = none ∧ fld t.dev.supply.lgStat 29 28 = 3 ∧ t.dev.supply.sealed = s.dev.supply.sealed
        ∧ t.dev.supply.marks = s.dev.supply.marks ++ s.dev.supply.endMarks 0 (markV g.sec g.event))
    ∧ (∀ p ps, g.full = none → s.dev.presig.avail = p :: ps →
      ∃ t, exec (.lastgaspSeal true) s = .next t ∧ SameShell s t
        ∧ Keeps [.supply, .presig, .trouble, .journal] s.dev t.dev
        ∧ t.dev.supply.gasp = some { g with presig := p } ∧ t.dev.presig.avail = ps))
  ∧ (∀ (flags v : Nat) (ms : List (Nat × Nat)) (s : State), s.awake → s.dev.supply.marks = (flags, v) :: ms →
    s.dev.gRun = true → s.dev.supply.level < 3 ∨ 4 ≤ s.dev.supply.level ∧ flags.testBit 1 = false →
    (s.dev.ks.ready = true → s.dev.flashUp = true → s.dev.ks.logPos + s.dev.ks.inNext.length < 127 →
      ∃ t, exec (.lastgaspMark []) s = .next t ∧ SameShell s t ∧ Keeps [.supply, .ks, .flash] s.dev t.dev
        ∧ t.dev.supply.marks = ms ∧ t.dev.supply.mailbox = s.dev.supply.mailbox
        ∧ (flags.testBit 1 = false → bit t.dev.supply.lgStat 27 = true)
        ∧ (flags.testBit 1 = true → t.dev.supply.lgStat = s.dev.supply.lgStat)
        ∧ t.dev.flash.mem = s.dev.flash.mem.write 0xFF (logAddr s.dev.ks.logSec s.dev.ks.logPos)
          (ctrRecord s.dev.ks.kek 0xFFFF s.dev.otp.rowIdx v (nextSeqNo s.dev.ks.recSeq) flags)
        ∧ t.dev.ks.newest 0xFFFF = some ⟨0xFFFF, v, flags, logAddr s.dev.ks.logSec s.dev.ks.logPos⟩)
    ∧ (s.dev.ks.ready = false →
      ∃ t, exec (.lastgaspMark []) s = .next t ∧ SameShell s t ∧ Keeps [.supply] s.dev t.dev
        ∧ t.dev.supply = { s.dev.supply with marks := ms, lgStat := setBit s.dev.supply.lgStat 26 }))
end

