-- ==== Sys2Proof/Laws/Mem.lean ====
section
/-!
SUPPORT. The sparse memory: every operation keeps its canonical form, a byte read after a write is the byte
written, every other byte is as before.
-/

namespace Sys2Proof.Machine

/-- Every key of a memory in canonical form from `lo` is at least `lo`, its value not the default. -/
theorem Mem.wfFrom_mem {dflt : Byte} {c : Host.Cell} :
    ∀ {lo : Nat} {m : Mem}, Mem.wfFrom dflt lo m = true → c ∈ m → lo ≤ c.1 ∧ c.2 ≠ dflt
  | _, [], _, h => by simp at h
  | lo, (k, v) :: m, hw, h => by
    simp only [Mem.wfFrom, Bool.and_eq_true, decide_eq_true_eq, bne_iff_ne] at hw
    rcases List.mem_cons.1 h with rfl | h
    · exact hw.1
    · have := Mem.wfFrom_mem hw.2 h
      exact ⟨by omega, this.2⟩

theorem Mem.wfFrom_le {dflt : Byte} {lo lo' : Nat} (hl : lo' ≤ lo) :
    ∀ {m : Mem}, Mem.wfFrom dflt lo m = true → Mem.wfFrom dflt lo' m = true
  | [], _ => rfl
  | (k, v) :: m, h => by
    simp only [Mem.wfFrom, Bool.and_eq_true, decide_eq_true_eq] at h ⊢
    exact ⟨⟨by omega, h.1.2⟩, h.2⟩

theorem Mem.wfFrom_filter {dflt : Byte} (p : Host.Cell → Bool) :
    ∀ {lo : Nat} {m : Mem}, Mem.wfFrom dflt lo m = true → Mem.wfFrom dflt lo (m.filter p) = true
  | _, [], _ => rfl
  | lo, (k, v) :: m, h => by
    simp only [Mem.wfFrom, Bool.and_eq_true, decide_eq_true_eq] at h
    have ih := Mem.wfFrom_filter p h.2
    by_cases hp : p (k, v)
    · rw [List.filter_cons_of_pos hp]
      simp only [Mem.wfFrom, Bool.and_eq_true, decide_eq_true_eq]
      exact ⟨h.1, ih⟩
    · rw [List.filter_cons_of_neg hp]
      exact Mem.wfFrom_le (by omega) ih

/-- A memory in canonical form below `mid`, followed by one in canonical form from `mid`. -/
theorem Mem.wfFrom_append {dflt : Byte} {mid : Nat} {m' : Mem} (h' : Mem.wfFrom dflt mid m' = true) :
    ∀ {lo : Nat} {m : Mem}, Mem.wfFrom dflt lo m = true → (∀ c ∈ m, c.1 < mid) → lo ≤ mid →
      Mem.wfFrom dflt lo (m ++ m') = true
  | _, [], _, _, hl => Mem.wfFrom_le hl h'
  | lo, (k, v) :: m, h, hb, _ => by
    simp only [List.cons_append, Mem.wfFrom, Bool.and_eq_true, decide_eq_true_eq] at h ⊢
    have hk : k < mid := hb (k, v) (by simp)
    exact ⟨h.1, Mem.wfFrom_append h' h.2 (fun c hc => hb c (by simp [hc])) (by omega)⟩

theorem Mem.cells_wf {dflt : Byte} : ∀ (bs : Bytes) (a : Nat), Mem.wfFrom dflt a (Mem.cells dflt a bs) = true
  | [], _ => rfl
  | b :: bs, a => by
    have ih := Mem.cells_wf (dflt := dflt) bs (a + 1)
    unfold Mem.cells
    split
    · exact Mem.wfFrom_le (by omega) ih
    · simp only [Mem.wfFrom, Bool.and_eq_true, decide_eq_true_eq, bne_iff_ne]
      exact ⟨⟨le_refl _, by assumption⟩, ih⟩

/-- What the cells of a byte string list. -/
theorem Mem.mem_cells {dflt : Byte} {c : Host.Cell} : ∀ {bs : Bytes} {a : Nat}, c ∈ Mem.cells dflt a bs ↔
      a ≤ c.1 ∧ bs[c.1 - a]? = some c.2 ∧ c.2 ≠ dflt
  | [], a => by simp [Mem.cells]
  | b :: bs, a => by
    have ih := Mem.mem_cells (dflt := dflt) (c := c) (bs := bs) (a := a + 1)
    unfold Mem.cells
    rcases Nat.lt_trichotomy c.1 a with hlt | rfl | hgt
    · split
      · rw [ih]; constructor <;> intro h <;> omega
      · rw [List.mem_cons, ih]
        constructor
        · rintro (rfl | h)
          · simp at hlt
          · omega
        · intro h; omega
    · split
      · next hb =>
        rw [ih]
        constructor
        · intro h; omega
        · rintro ⟨-, h, hd⟩
          simp at h
          exact absurd (h ▸ hb) hd
      · next hb =>
        rw [List.mem_cons, ih]
        constructor
        · rintro (h | h)
          · refine ⟨le_refl _, ?_, ?_⟩
            · rw [h]; simp
            · rw [h]; exact hb
          · omega
        · rintro ⟨-, h, -⟩
          simp at h
          exact .inl (by rw [h])
    · have e : c.1 - a = (c.1 - (a + 1)) + 1 := by omega
      split
      · rw [ih, e]; simp only [List.getElem?_cons_succ]
        constructor
        · rintro ⟨_, h⟩; exact ⟨by omega, h⟩
        · rintro ⟨_, h⟩; exact ⟨by omega, h⟩
      · rw [List.mem_cons, ih, e]; simp only [List.getElem?_cons_succ]
        constructor
        · rintro (rfl | ⟨_, h⟩)
          · simp at hgt
          · exact ⟨by omega, h⟩
        · rintro ⟨_, h⟩; exact .inr ⟨by omega, h⟩

/-- A write keeps the canonical form. -/
theorem Mem.write_wf {dflt : Byte} {m : Mem} (h : m.wf dflt = true) (a : Nat) (bs : Bytes) :
    (m.write dflt a bs).wf dflt = true := by
  unfold Mem.wf at h ⊢
  unfold Mem.write
  rw [List.append_assoc]
  have hhi : Mem.wfFrom dflt (a + bs.length) (m.filter (fun c => a + bs.length ≤ c.1)) = true := by
    have h2 := Mem.wfFrom_filter (fun c => decide (a + bs.length ≤ c.1)) h
    revert h2
    generalize hf : m.filter (fun c => decide (a + bs.length ≤ c.1)) = f
    intro h2
    cases f with
    | nil => rfl
    | cons c f =>
      have hc : c ∈ m.filter (fun c => decide (a + bs.length ≤ c.1)) := by rw [hf]; simp
      simp only [List.mem_filter, decide_eq_true_eq] at hc
      simp only [Mem.wfFrom, Bool.and_eq_true, decide_eq_true_eq] at h2 ⊢
      exact ⟨⟨hc.2, h2.1.2⟩, h2.2⟩
  have hmid : Mem.wfFrom dflt a (Mem.cells dflt a bs ++ m.filter (fun c => a + bs.length ≤ c.1)) = true := by
    refine Mem.wfFrom_append hhi (Mem.cells_wf bs a) ?_ (by omega)
    intro c hc
    have hm := Mem.mem_cells.1 hc
    have := (List.getElem?_eq_some_iff.1 hm.2.1).1
    omega
  refine Mem.wfFrom_append hmid (Mem.wfFrom_filter _ h) ?_ (by omega)
  intro c hc
  simpa using (List.mem_filter.1 hc).2

/-- A wipe keeps the canonical form. -/
theorem Mem.wipe_wf {dflt : Byte} {m : Mem} (h : m.wf dflt = true) (a n : Nat) : (m.wipe a n).wf dflt = true :=
  Mem.wfFrom_filter _ h

/-- A word written keeps the canonical form. -/
theorem Mem.setWord_wf {dflt : Byte} {m : Mem} (h : m.wf dflt = true) (a : Nat) (w : Word) :
    (m.setWord dflt a w).wf dflt = true := Mem.write_wf h a _

theorem Mem.get_of_not_mem {dflt : Byte} {x : Nat} : ∀ {m : Mem}, (∀ v, (x, v) ∉ m) → Mem.get dflt m x = dflt
  | [], _ => rfl
  | (k, v) :: m, h => by
    unfold Mem.get
    have hk : k ≠ x := by rintro rfl; exact h v (by simp)
    rw [if_neg hk]
    split
    · rfl
    · exact Mem.get_of_not_mem (fun v hv => h v (by simp [hv]))

theorem Mem.get_of_mem {dflt : Byte} {x : Nat} {v : Byte} :
    ∀ {lo : Nat} {m : Mem}, Mem.wfFrom dflt lo m = true → (x, v) ∈ m → Mem.get dflt m x = v
  | _, [], _, h => by simp at h
  | lo, (k, w) :: m, hw, h => by
    simp only [Mem.wfFrom, Bool.and_eq_true, decide_eq_true_eq] at hw
    unfold Mem.get
    rcases List.mem_cons.1 h with e | h
    · cases e; simp
    · have := (Mem.wfFrom_mem hw.2 h).1
      simp only at this
      rw [if_neg (by omega), if_neg (by omega)]
      exact Mem.get_of_mem hw.2 h

/-- The byte at an address is `v` exactly when the memory lists it so, or lists nothing and `v` is the default. -/
theorem Mem.get_eq_iff {dflt : Byte} {m : Mem} (h : m.wf dflt = true) {x : Nat} {v : Byte} (hv : v ≠ dflt) :
    Mem.get dflt m x = v ↔ (x, v) ∈ m := by
  constructor
  · intro e
    by_contra hn
    by_cases hx : ∃ w, (x, w) ∈ m
    · obtain ⟨w, hw⟩ := hx
      rw [Mem.get_of_mem h hw] at e
      exact hn (e ▸ hw)
    · exact hv (e ▸ Mem.get_of_not_mem (fun w hw => hx ⟨w, hw⟩))
  · exact Mem.get_of_mem h

theorem Mem.get_ext {dflt : Byte} {m m' : Mem} (h : m.wf dflt = true) (h' : m'.wf dflt = true) {x y : Nat}
    (e : ∀ v, v ≠ dflt → ((x, v) ∈ m ↔ (y, v) ∈ m')) : Mem.get dflt m x = Mem.get dflt m' y := by
  by_cases hd : Mem.get dflt m x = dflt
  · by_cases hd' : Mem.get dflt m' y = dflt
    · rw [hd, hd']
    · have := (e _ hd').2 ((Mem.get_eq_iff h' hd').1 rfl)
      exact (Mem.get_eq_iff h hd').2 this
  · exact ((Mem.get_eq_iff h' hd).2 ((e _ hd).1 ((Mem.get_eq_iff h hd).1 rfl))).symm

theorem Mem.mem_write {dflt : Byte} {m : Mem} {a : Nat} {bs : Bytes} {c : Host.Cell} : c ∈ m.write dflt a bs ↔
    (c ∈ m ∧ c.1 < a) ∨ (a ≤ c.1 ∧ bs[c.1 - a]? = some c.2 ∧ c.2 ≠ dflt) ∨ (c ∈ m ∧ a + bs.length ≤ c.1) := by
  simp only [Mem.write, List.mem_append, List.mem_filter, decide_eq_true_eq, Mem.mem_cells, or_assoc]

/-- A byte outside the written ones is as before. -/
theorem Mem.get_write_other {dflt : Byte} {m : Mem} (h : m.wf dflt = true) {a x : Nat} {bs : Bytes}
    (hx : x < a ∨ a + bs.length ≤ x) : Mem.get dflt (m.write dflt a bs) x = Mem.get dflt m x := by
  refine Mem.get_ext (Mem.write_wf h a bs) h (fun v hv => ?_)
  rw [Mem.mem_write]
  simp only
  constructor
  · rintro (⟨hm, -⟩ | ⟨h1, h2, -⟩ | ⟨hm, -⟩)
    · exact hm
    · have := (List.getElem?_eq_some_iff.1 h2).1
      omega
    · exact hm
  · intro hm
    rcases hx with hx | hx
    · exact .inl ⟨hm, hx⟩
    · exact .inr (.inr ⟨hm, hx⟩)

/-- A written byte reads back. -/
theorem Mem.get_write_same {dflt : Byte} {m : Mem} (h : m.wf dflt = true) {a i : Nat} {bs : Bytes} {b : Byte}
    (hb : bs[i]? = some b) : Mem.get dflt (m.write dflt a bs) (a + i) = b := by
  have hi := (List.getElem?_eq_some_iff.1 hb).1
  by_cases hd : b = dflt
  · subst hd
    refine Mem.get_of_not_mem (fun v hv => ?_)
    have := (Mem.mem_write).1 hv
    simp only [Nat.add_sub_cancel_left] at this
    rcases this with ⟨-, h1⟩ | ⟨-, h2, h3⟩ | ⟨-, h1⟩
    · omega
    · rw [hb] at h2; exact h3 (Option.some.inj h2).symm
    · omega
  · refine (Mem.get_eq_iff (Mem.write_wf h a bs) hd).2 ((Mem.mem_write).2 (.inr (.inl ?_)))
    simp [hb, hd]

end Sys2Proof.Machine
end

