-- ==== Sys2Proof/Laws/State.lean ====
section
/-!
SUPPORT. One lemma per field per update of the core: what each named update and record leaves as it was.
-/

namespace Sys2Proof.Machine

/-! ### The plain record updates -/

@[simp] theorem settle_pins (d : Dev) : (settle d).pins = d.pins := rfl
@[simp] theorem settle_flash (d : Dev) : (settle d).flash = d.flash := rfl
@[simp] theorem settle_otp (d : Dev) : (settle d).otp = d.otp := rfl
@[simp] theorem settle_boot (d : Dev) : (settle d).boot = d.boot := rfl
@[simp] theorem settle_lc (d : Dev) : (settle d).lc = d.lc := rfl
@[simp] theorem settle_cfg (d : Dev) : (settle d).cfg = d.cfg := rfl
@[simp] theorem settle_trouble (d : Dev) : (settle d).trouble = d.trouble := rfl
@[simp] theorem settle_journal (d : Dev) : (settle d).journal = d.journal := rfl
@[simp] theorem settle_chans (d : Dev) : (settle d).chans = d.chans := rfl
@[simp] theorem settle_pool (d : Dev) : (settle d).pool = d.pool := rfl
@[simp] theorem settle_engines (d : Dev) : (settle d).engines = d.engines := rfl
@[simp] theorem settle_cores (d : Dev) : (settle d).cores = d.cores := rfl
@[simp] theorem settle_drbg (d : Dev) : (settle d).drbg = d.drbg := rfl
@[simp] theorem settle_entropy (d : Dev) : (settle d).entropy = d.entropy := rfl
@[simp] theorem settle_presig (d : Dev) : (settle d).presig = d.presig := rfl
@[simp] theorem settle_ks (d : Dev) : (settle d).ks = d.ks := rfl
@[simp] theorem settle_gate (d : Dev) : (settle d).gate = d.gate := rfl
@[simp] theorem settle_phrases (d : Dev) : (settle d).phrases = d.phrases := rfl
@[simp] theorem settle_power (d : Dev) : (settle d).power = d.power := rfl
@[simp] theorem settle_supply (d : Dev) : (settle d).supply = d.supply := rfl
@[simp] theorem settle_clocks (d : Dev) : (settle d).clocks = d.clocks := rfl
@[simp] theorem settle_rst (d : Dev) : (settle d).rst = d.rst := rfl
@[simp] theorem settle_ctr (d : Dev) : (settle d).ctr = d.ctr := rfl

@[simp] theorem bump_pins (d : Dev) : (bump d).pins = d.pins := rfl
@[simp] theorem bump_flash (d : Dev) : (bump d).flash = d.flash := rfl
@[simp] theorem bump_otp (d : Dev) : (bump d).otp = d.otp := rfl
@[simp] theorem bump_boot (d : Dev) : (bump d).boot = d.boot := rfl
@[simp] theorem bump_lc (d : Dev) : (bump d).lc = d.lc := rfl
@[simp] theorem bump_cfg (d : Dev) : (bump d).cfg = d.cfg := rfl
@[simp] theorem bump_trouble (d : Dev) : (bump d).trouble = d.trouble := rfl
@[simp] theorem bump_journal (d : Dev) : (bump d).journal = d.journal := rfl
@[simp] theorem bump_chans (d : Dev) : (bump d).chans = d.chans := rfl
@[simp] theorem bump_pool (d : Dev) : (bump d).pool = d.pool := rfl
@[simp] theorem bump_sched (d : Dev) : (bump d).sched = d.sched := rfl
@[simp] theorem bump_engines (d : Dev) : (bump d).engines = d.engines := rfl
@[simp] theorem bump_cores (d : Dev) : (bump d).cores = d.cores := rfl
@[simp] theorem bump_drbg (d : Dev) : (bump d).drbg = d.drbg := rfl
@[simp] theorem bump_entropy (d : Dev) : (bump d).entropy = d.entropy := rfl
@[simp] theorem bump_presig (d : Dev) : (bump d).presig = d.presig := rfl
@[simp] theorem bump_ks (d : Dev) : (bump d).ks = d.ks := rfl
@[simp] theorem bump_gate (d : Dev) : (bump d).gate = d.gate := rfl
@[simp] theorem bump_phrases (d : Dev) : (bump d).phrases = d.phrases := rfl
@[simp] theorem bump_power (d : Dev) : (bump d).power = d.power := rfl
@[simp] theorem bump_supply (d : Dev) : (bump d).supply = d.supply := rfl
@[simp] theorem bump_clocks (d : Dev) : (bump d).clocks = d.clocks := rfl
@[simp] theorem bump_rst (d : Dev) : (bump d).rst = d.rst := rfl

@[simp] theorem setChan_pins (n : Chn) (c : Chan) (d : Dev) : (setChan n c d).pins = d.pins := rfl
@[simp] theorem setChan_flash (n : Chn) (c : Chan) (d : Dev) : (setChan n c d).flash = d.flash := rfl
@[simp] theorem setChan_otp (n : Chn) (c : Chan) (d : Dev) : (setChan n c d).otp = d.otp := rfl
@[simp] theorem setChan_boot (n : Chn) (c : Chan) (d : Dev) : (setChan n c d).boot = d.boot := rfl
@[simp] theorem setChan_lc (n : Chn) (c : Chan) (d : Dev) : (setChan n c d).lc = d.lc := rfl
@[simp] theorem setChan_cfg (n : Chn) (c : Chan) (d : Dev) : (setChan n c d).cfg = d.cfg := rfl
@[simp] theorem setChan_trouble (n : Chn) (c : Chan) (d : Dev) : (setChan n c d).trouble = d.trouble := rfl
@[simp] theorem setChan_journal (n : Chn) (c : Chan) (d : Dev) : (setChan n c d).journal = d.journal := rfl
@[simp] theorem setChan_pool (n : Chn) (c : Chan) (d : Dev) : (setChan n c d).pool = d.pool := rfl
@[simp] theorem setChan_sched (n : Chn) (c : Chan) (d : Dev) : (setChan n c d).sched = d.sched := rfl
@[simp] theorem setChan_engines (n : Chn) (c : Chan) (d : Dev) : (setChan n c d).engines = d.engines := rfl
@[simp] theorem setChan_cores (n : Chn) (c : Chan) (d : Dev) : (setChan n c d).cores = d.cores := rfl
@[simp] theorem setChan_drbg (n : Chn) (c : Chan) (d : Dev) : (setChan n c d).drbg = d.drbg := rfl
@[simp] theorem setChan_entropy (n : Chn) (c : Chan) (d : Dev) : (setChan n c d).entropy = d.entropy := rfl
@[simp] theorem setChan_presig (n : Chn) (c : Chan) (d : Dev) : (setChan n c d).presig = d.presig := rfl
@[simp] theorem setChan_ks (n : Chn) (c : Chan) (d : Dev) : (setChan n c d).ks = d.ks := rfl
@[simp] theorem setChan_gate (n : Chn) (c : Chan) (d : Dev) : (setChan n c d).gate = d.gate := rfl
@[simp] theorem setChan_phrases (n : Chn) (c : Chan) (d : Dev) : (setChan n c d).phrases = d.phrases := rfl
@[simp] theorem setChan_power (n : Chn) (c : Chan) (d : Dev) : (setChan n c d).power = d.power := rfl
@[simp] theorem setChan_supply (n : Chn) (c : Chan) (d : Dev) : (setChan n c d).supply = d.supply := rfl
@[simp] theorem setChan_clocks (n : Chn) (c : Chan) (d : Dev) : (setChan n c d).clocks = d.clocks := rfl
@[simp] theorem setChan_rst (n : Chn) (c : Chan) (d : Dev) : (setChan n c d).rst = d.rst := rfl
@[simp] theorem setChan_ctr (n : Chn) (c : Chan) (d : Dev) : (setChan n c d).ctr = d.ctr := rfl

@[simp] theorem modChan_pins (n : Chn) (f : Chan → Chan) (d : Dev) : (modChan n f d).pins = d.pins := rfl
@[simp] theorem modChan_flash (n : Chn) (f : Chan → Chan) (d : Dev) : (modChan n f d).flash = d.flash := rfl
@[simp] theorem modChan_otp (n : Chn) (f : Chan → Chan) (d : Dev) : (modChan n f d).otp = d.otp := rfl
@[simp] theorem modChan_boot (n : Chn) (f : Chan → Chan) (d : Dev) : (modChan n f d).boot = d.boot := rfl
@[simp] theorem modChan_lc (n : Chn) (f : Chan → Chan) (d : Dev) : (modChan n f d).lc = d.lc := rfl
@[simp] theorem modChan_cfg (n : Chn) (f : Chan → Chan) (d : Dev) : (modChan n f d).cfg = d.cfg := rfl
@[simp] theorem modChan_trouble (n : Chn) (f : Chan → Chan) (d : Dev) : (modChan n f d).trouble = d.trouble := rfl
@[simp] theorem modChan_journal (n : Chn) (f : Chan → Chan) (d : Dev) : (modChan n f d).journal = d.journal := rfl
@[simp] theorem modChan_pool (n : Chn) (f : Chan → Chan) (d : Dev) : (modChan n f d).pool = d.pool := rfl
@[simp] theorem modChan_sched (n : Chn) (f : Chan → Chan) (d : Dev) : (modChan n f d).sched = d.sched := rfl
@[simp] theorem modChan_engines (n : Chn) (f : Chan → Chan) (d : Dev) : (modChan n f d).engines = d.engines := rfl
@[simp] theorem modChan_cores (n : Chn) (f : Chan → Chan) (d : Dev) : (modChan n f d).cores = d.cores := rfl
@[simp] theorem modChan_drbg (n : Chn) (f : Chan → Chan) (d : Dev) : (modChan n f d).drbg = d.drbg := rfl
@[simp] theorem modChan_entropy (n : Chn) (f : Chan → Chan) (d : Dev) : (modChan n f d).entropy = d.entropy := rfl
@[simp] theorem modChan_presig (n : Chn) (f : Chan → Chan) (d : Dev) : (modChan n f d).presig = d.presig := rfl
@[simp] theorem modChan_ks (n : Chn) (f : Chan → Chan) (d : Dev) : (modChan n f d).ks = d.ks := rfl
@[simp] theorem modChan_gate (n : Chn) (f : Chan → Chan) (d : Dev) : (modChan n f d).gate = d.gate := rfl
@[simp] theorem modChan_phrases (n : Chn) (f : Chan → Chan) (d : Dev) : (modChan n f d).phrases = d.phrases := rfl
@[simp] theorem modChan_power (n : Chn) (f : Chan → Chan) (d : Dev) : (modChan n f d).power = d.power := rfl
@[simp] theorem modChan_supply (n : Chn) (f : Chan → Chan) (d : Dev) : (modChan n f d).supply = d.supply := rfl
@[simp] theorem modChan_clocks (n : Chn) (f : Chan → Chan) (d : Dev) : (modChan n f d).clocks = d.clocks := rfl
@[simp] theorem modChan_rst (n : Chn) (f : Chan → Chan) (d : Dev) : (modChan n f d).rst = d.rst := rfl
@[simp] theorem modChan_ctr (n : Chn) (f : Chan → Chan) (d : Dev) : (modChan n f d).ctr = d.ctr := rfl

@[simp] theorem modRings_pins (n : Chn) (f : Rings → Rings) (d : Dev) : (modRings n f d).pins = d.pins := rfl
@[simp] theorem modRings_flash (n : Chn) (f : Rings → Rings) (d : Dev) : (modRings n f d).flash = d.flash := rfl
@[simp] theorem modRings_otp (n : Chn) (f : Rings → Rings) (d : Dev) : (modRings n f d).otp = d.otp := rfl
@[simp] theorem modRings_boot (n : Chn) (f : Rings → Rings) (d : Dev) : (modRings n f d).boot = d.boot := rfl
@[simp] theorem modRings_lc (n : Chn) (f : Rings → Rings) (d : Dev) : (modRings n f d).lc = d.lc := rfl
@[simp] theorem modRings_cfg (n : Chn) (f : Rings → Rings) (d : Dev) : (modRings n f d).cfg = d.cfg := rfl
@[simp] theorem modRings_trouble (n : Chn) (f : Rings → Rings) (d : Dev) : (modRings n f d).trouble = d.trouble := rfl
@[simp] theorem modRings_journal (n : Chn) (f : Rings → Rings) (d : Dev) : (modRings n f d).journal = d.journal := rfl
@[simp] theorem modRings_pool (n : Chn) (f : Rings → Rings) (d : Dev) : (modRings n f d).pool = d.pool := rfl
@[simp] theorem modRings_sched (n : Chn) (f : Rings → Rings) (d : Dev) : (modRings n f d).sched = d.sched := rfl
@[simp] theorem modRings_engines (n : Chn) (f : Rings → Rings) (d : Dev) : (modRings n f d).engines = d.engines := rfl
@[simp] theorem modRings_cores (n : Chn) (f : Rings → Rings) (d : Dev) : (modRings n f d).cores = d.cores := rfl
@[simp] theorem modRings_drbg (n : Chn) (f : Rings → Rings) (d : Dev) : (modRings n f d).drbg = d.drbg := rfl
@[simp] theorem modRings_entropy (n : Chn) (f : Rings → Rings) (d : Dev) : (modRings n f d).entropy = d.entropy := rfl
@[simp] theorem modRings_presig (n : Chn) (f : Rings → Rings) (d : Dev) : (modRings n f d).presig = d.presig := rfl
@[simp] theorem modRings_ks (n : Chn) (f : Rings → Rings) (d : Dev) : (modRings n f d).ks = d.ks := rfl
@[simp] theorem modRings_gate (n : Chn) (f : Rings → Rings) (d : Dev) : (modRings n f d).gate = d.gate := rfl
@[simp] theorem modRings_phrases (n : Chn) (f : Rings → Rings) (d : Dev) : (modRings n f d).phrases = d.phrases := rfl
@[simp] theorem modRings_power (n : Chn) (f : Rings → Rings) (d : Dev) : (modRings n f d).power = d.power := rfl
@[simp] theorem modRings_supply (n : Chn) (f : Rings → Rings) (d : Dev) : (modRings n f d).supply = d.supply := rfl
@[simp] theorem modRings_clocks (n : Chn) (f : Rings → Rings) (d : Dev) : (modRings n f d).clocks = d.clocks := rfl
@[simp] theorem modRings_rst (n : Chn) (f : Rings → Rings) (d : Dev) : (modRings n f d).rst = d.rst := rfl
@[simp] theorem modRings_ctr (n : Chn) (f : Rings → Rings) (d : Dev) : (modRings n f d).ctr = d.ctr := rfl

@[simp] theorem modSent_pins (n : Chn) (sid : Nat) (f : Sentence → Sentence) (d : Dev) : (modSent n sid f d).pins = d.pins := rfl
@[simp] theorem modSent_flash (n : Chn) (sid : Nat) (f : Sentence → Sentence) (d : Dev) : (modSent n sid f d).flash = d.flash := rfl
@[simp] theorem modSent_otp (n : Chn) (sid : Nat) (f : Sentence → Sentence) (d : Dev) : (modSent n sid f d).otp = d.otp := rfl
@[simp] theorem modSent_boot (n : Chn) (sid : Nat) (f : Sentence → Sentence) (d : Dev) : (modSent n sid f d).boot = d.boot := rfl
@[simp] theorem modSent_lc (n : Chn) (sid : Nat) (f : Sentence → Sentence) (d : Dev) : (modSent n sid f d).lc = d.lc := rfl
@[simp] theorem modSent_cfg (n : Chn) (sid : Nat) (f : Sentence → Sentence) (d : Dev) : (modSent n sid f d).cfg = d.cfg := rfl
@[simp] theorem modSent_trouble (n : Chn) (sid : Nat) (f : Sentence → Sentence) (d : Dev) : (modSent n sid f d).trouble = d.trouble := rfl
@[simp] theorem modSent_journal (n : Chn) (sid : Nat) (f : Sentence → Sentence) (d : Dev) : (modSent n sid f d).journal = d.journal := rfl
@[simp] theorem modSent_pool (n : Chn) (sid : Nat) (f : Sentence → Sentence) (d : Dev) : (modSent n sid f d).pool = d.pool := rfl
@[simp] theorem modSent_sched (n : Chn) (sid : Nat) (f : Sentence → Sentence) (d : Dev) : (modSent n sid f d).sched = d.sched := rfl
@[simp] theorem modSent_engines (n : Chn) (sid : Nat) (f : Sentence → Sentence) (d : Dev) : (modSent n sid f d).engines = d.engines := rfl
@[simp] theorem modSent_cores (n : Chn) (sid : Nat) (f : Sentence → Sentence) (d : Dev) : (modSent n sid f d).cores = d.cores := rfl
@[simp] theorem modSent_drbg (n : Chn) (sid : Nat) (f : Sentence → Sentence) (d : Dev) : (modSent n sid f d).drbg = d.drbg := rfl
@[simp] theorem modSent_entropy (n : Chn) (sid : Nat) (f : Sentence → Sentence) (d : Dev) : (modSent n sid f d).entropy = d.entropy := rfl
@[simp] theorem modSent_presig (n : Chn) (sid : Nat) (f : Sentence → Sentence) (d : Dev) : (modSent n sid f d).presig = d.presig := rfl
@[simp] theorem modSent_ks (n : Chn) (sid : Nat) (f : Sentence → Sentence) (d : Dev) : (modSent n sid f d).ks = d.ks := rfl
@[simp] theorem modSent_gate (n : Chn) (sid : Nat) (f : Sentence → Sentence) (d : Dev) : (modSent n sid f d).gate = d.gate := rfl
@[simp] theorem modSent_phrases (n : Chn) (sid : Nat) (f : Sentence → Sentence) (d : Dev) : (modSent n sid f d).phrases = d.phrases := rfl
@[simp] theorem modSent_power (n : Chn) (sid : Nat) (f : Sentence → Sentence) (d : Dev) : (modSent n sid f d).power = d.power := rfl
@[simp] theorem modSent_supply (n : Chn) (sid : Nat) (f : Sentence → Sentence) (d : Dev) : (modSent n sid f d).supply = d.supply := rfl
@[simp] theorem modSent_clocks (n : Chn) (sid : Nat) (f : Sentence → Sentence) (d : Dev) : (modSent n sid f d).clocks = d.clocks := rfl
@[simp] theorem modSent_rst (n : Chn) (sid : Nat) (f : Sentence → Sentence) (d : Dev) : (modSent n sid f d).rst = d.rst := rfl
@[simp] theorem modSent_ctr (n : Chn) (sid : Nat) (f : Sentence → Sentence) (d : Dev) : (modSent n sid f d).ctr = d.ctr := rfl

@[simp] theorem modJob_pins (n : Chn) (sid : Nat) (f : Job → Job) (d : Dev) : (modJob n sid f d).pins = d.pins := rfl
@[simp] theorem modJob_flash (n : Chn) (sid : Nat) (f : Job → Job) (d : Dev) : (modJob n sid f d).flash = d.flash := rfl
@[simp] theorem modJob_otp (n : Chn) (sid : Nat) (f : Job → Job) (d : Dev) : (modJob n sid f d).otp = d.otp := rfl
@[simp] theorem modJob_boot (n : Chn) (sid : Nat) (f : Job → Job) (d : Dev) : (modJob n sid f d).boot = d.boot := rfl
@[simp] theorem modJob_lc (n : Chn) (sid : Nat) (f : Job → Job) (d : Dev) : (modJob n sid f d).lc = d.lc := rfl
@[simp] theorem modJob_cfg (n : Chn) (sid : Nat) (f : Job → Job) (d : Dev) : (modJob n sid f d).cfg = d.cfg := rfl
@[simp] theorem modJob_trouble (n : Chn) (sid : Nat) (f : Job → Job) (d : Dev) : (modJob n sid f d).trouble = d.trouble := rfl
@[simp] theorem modJob_journal (n : Chn) (sid : Nat) (f : Job → Job) (d : Dev) : (modJob n sid f d).journal = d.journal := rfl
@[simp] theorem modJob_pool (n : Chn) (sid : Nat) (f : Job → Job) (d : Dev) : (modJob n sid f d).pool = d.pool := rfl
@[simp] theorem modJob_sched (n : Chn) (sid : Nat) (f : Job → Job) (d : Dev) : (modJob n sid f d).sched = d.sched := rfl
@[simp] theorem modJob_engines (n : Chn) (sid : Nat) (f : Job → Job) (d : Dev) : (modJob n sid f d).engines = d.engines := rfl
@[simp] theorem modJob_cores (n : Chn) (sid : Nat) (f : Job → Job) (d : Dev) : (modJob n sid f d).cores = d.cores := rfl
@[simp] theorem modJob_drbg (n : Chn) (sid : Nat) (f : Job → Job) (d : Dev) : (modJob n sid f d).drbg = d.drbg := rfl
@[simp] theorem modJob_entropy (n : Chn) (sid : Nat) (f : Job → Job) (d : Dev) : (modJob n sid f d).entropy = d.entropy := rfl
@[simp] theorem modJob_presig (n : Chn) (sid : Nat) (f : Job → Job) (d : Dev) : (modJob n sid f d).presig = d.presig := rfl
@[simp] theorem modJob_ks (n : Chn) (sid : Nat) (f : Job → Job) (d : Dev) : (modJob n sid f d).ks = d.ks := rfl
@[simp] theorem modJob_gate (n : Chn) (sid : Nat) (f : Job → Job) (d : Dev) : (modJob n sid f d).gate = d.gate := rfl
@[simp] theorem modJob_phrases (n : Chn) (sid : Nat) (f : Job → Job) (d : Dev) : (modJob n sid f d).phrases = d.phrases := rfl
@[simp] theorem modJob_power (n : Chn) (sid : Nat) (f : Job → Job) (d : Dev) : (modJob n sid f d).power = d.power := rfl
@[simp] theorem modJob_supply (n : Chn) (sid : Nat) (f : Job → Job) (d : Dev) : (modJob n sid f d).supply = d.supply := rfl
@[simp] theorem modJob_clocks (n : Chn) (sid : Nat) (f : Job → Job) (d : Dev) : (modJob n sid f d).clocks = d.clocks := rfl
@[simp] theorem modJob_rst (n : Chn) (sid : Nat) (f : Job → Job) (d : Dev) : (modJob n sid f d).rst = d.rst := rfl
@[simp] theorem modJob_ctr (n : Chn) (sid : Nat) (f : Job → Job) (d : Dev) : (modJob n sid f d).ctr = d.ctr := rfl

@[simp] theorem modPow_power (f : Power → Power) (d : Dev) : (modPow f d).power = f d.power := rfl
@[simp] theorem modPow_pins (f : Power → Power) (d : Dev) : (modPow f d).pins = d.pins := rfl
@[simp] theorem modPow_flash (f : Power → Power) (d : Dev) : (modPow f d).flash = d.flash := rfl
@[simp] theorem modPow_otp (f : Power → Power) (d : Dev) : (modPow f d).otp = d.otp := rfl
@[simp] theorem modPow_boot (f : Power → Power) (d : Dev) : (modPow f d).boot = d.boot := rfl
@[simp] theorem modPow_lc (f : Power → Power) (d : Dev) : (modPow f d).lc = d.lc := rfl
@[simp] theorem modPow_cfg (f : Power → Power) (d : Dev) : (modPow f d).cfg = d.cfg := rfl
@[simp] theorem modPow_trouble (f : Power → Power) (d : Dev) : (modPow f d).trouble = d.trouble := rfl
@[simp] theorem modPow_journal (f : Power → Power) (d : Dev) : (modPow f d).journal = d.journal := rfl
@[simp] theorem modPow_chans (f : Power → Power) (d : Dev) : (modPow f d).chans = d.chans := rfl
@[simp] theorem modPow_pool (f : Power → Power) (d : Dev) : (modPow f d).pool = d.pool := rfl
@[simp] theorem modPow_sched (f : Power → Power) (d : Dev) : (modPow f d).sched = d.sched := rfl
@[simp] theorem modPow_engines (f : Power → Power) (d : Dev) : (modPow f d).engines = d.engines := rfl
@[simp] theorem modPow_cores (f : Power → Power) (d : Dev) : (modPow f d).cores = d.cores := rfl
@[simp] theorem modPow_drbg (f : Power → Power) (d : Dev) : (modPow f d).drbg = d.drbg := rfl
@[simp] theorem modPow_entropy (f : Power → Power) (d : Dev) : (modPow f d).entropy = d.entropy := rfl
@[simp] theorem modPow_presig (f : Power → Power) (d : Dev) : (modPow f d).presig = d.presig := rfl
@[simp] theorem modPow_ks (f : Power → Power) (d : Dev) : (modPow f d).ks = d.ks := rfl
@[simp] theorem modPow_gate (f : Power → Power) (d : Dev) : (modPow f d).gate = d.gate := rfl
@[simp] theorem modPow_phrases (f : Power → Power) (d : Dev) : (modPow f d).phrases = d.phrases := rfl
@[simp] theorem modPow_supply (f : Power → Power) (d : Dev) : (modPow f d).supply = d.supply := rfl
@[simp] theorem modPow_clocks (f : Power → Power) (d : Dev) : (modPow f d).clocks = d.clocks := rfl
@[simp] theorem modPow_rst (f : Power → Power) (d : Dev) : (modPow f d).rst = d.rst := rfl
@[simp] theorem modPow_ctr (f : Power → Power) (d : Dev) : (modPow f d).ctr = d.ctr := rfl

@[simp] theorem modClk_clocks (f : Clocks → Clocks) (d : Dev) : (modClk f d).clocks = f d.clocks := rfl
@[simp] theorem modClk_pins (f : Clocks → Clocks) (d : Dev) : (modClk f d).pins = d.pins := rfl
@[simp] theorem modClk_flash (f : Clocks → Clocks) (d : Dev) : (modClk f d).flash = d.flash := rfl
@[simp] theorem modClk_otp (f : Clocks → Clocks) (d : Dev) : (modClk f d).otp = d.otp := rfl
@[simp] theorem modClk_boot (f : Clocks → Clocks) (d : Dev) : (modClk f d).boot = d.boot := rfl
@[simp] theorem modClk_lc (f : Clocks → Clocks) (d : Dev) : (modClk f d).lc = d.lc := rfl
@[simp] theorem modClk_cfg (f : Clocks → Clocks) (d : Dev) : (modClk f d).cfg = d.cfg := rfl
@[simp] theorem modClk_trouble (f : Clocks → Clocks) (d : Dev) : (modClk f d).trouble = d.trouble := rfl
@[simp] theorem modClk_journal (f : Clocks → Clocks) (d : Dev) : (modClk f d).journal = d.journal := rfl
@[simp] theorem modClk_chans (f : Clocks → Clocks) (d : Dev) : (modClk f d).chans = d.chans := rfl
@[simp] theorem modClk_pool (f : Clocks → Clocks) (d : Dev) : (modClk f d).pool = d.pool := rfl
@[simp] theorem modClk_sched (f : Clocks → Clocks) (d : Dev) : (modClk f d).sched = d.sched := rfl
@[simp] theorem modClk_engines (f : Clocks → Clocks) (d : Dev) : (modClk f d).engines = d.engines := rfl
@[simp] theorem modClk_cores (f : Clocks → Clocks) (d : Dev) : (modClk f d).cores = d.cores := rfl
@[simp] theorem modClk_drbg (f : Clocks → Clocks) (d : Dev) : (modClk f d).drbg = d.drbg := rfl
@[simp] theorem modClk_entropy (f : Clocks → Clocks) (d : Dev) : (modClk f d).entropy = d.entropy := rfl
@[simp] theorem modClk_presig (f : Clocks → Clocks) (d : Dev) : (modClk f d).presig = d.presig := rfl
@[simp] theorem modClk_ks (f : Clocks → Clocks) (d : Dev) : (modClk f d).ks = d.ks := rfl
@[simp] theorem modClk_gate (f : Clocks → Clocks) (d : Dev) : (modClk f d).gate = d.gate := rfl
@[simp] theorem modClk_phrases (f : Clocks → Clocks) (d : Dev) : (modClk f d).phrases = d.phrases := rfl
@[simp] theorem modClk_power (f : Clocks → Clocks) (d : Dev) : (modClk f d).power = d.power := rfl
@[simp] theorem modClk_supply (f : Clocks → Clocks) (d : Dev) : (modClk f d).supply = d.supply := rfl
@[simp] theorem modClk_rst (f : Clocks → Clocks) (d : Dev) : (modClk f d).rst = d.rst := rfl
@[simp] theorem modClk_ctr (f : Clocks → Clocks) (d : Dev) : (modClk f d).ctr = d.ctr := rfl

@[simp] theorem modEnt_entropy (f : Entropy → Entropy) (d : Dev) : (modEnt f d).entropy = f d.entropy := rfl
@[simp] theorem modEnt_pins (f : Entropy → Entropy) (d : Dev) : (modEnt f d).pins = d.pins := rfl
@[simp] theorem modEnt_flash (f : Entropy → Entropy) (d : Dev) : (modEnt f d).flash = d.flash := rfl
@[simp] theorem modEnt_otp (f : Entropy → Entropy) (d : Dev) : (modEnt f d).otp = d.otp := rfl
@[simp] theorem modEnt_boot (f : Entropy → Entropy) (d : Dev) : (modEnt f d).boot = d.boot := rfl
@[simp] theorem modEnt_lc (f : Entropy → Entropy) (d : Dev) : (modEnt f d).lc = d.lc := rfl
@[simp] theorem modEnt_cfg (f : Entropy → Entropy) (d : Dev) : (modEnt f d).cfg = d.cfg := rfl
@[simp] theorem modEnt_trouble (f : Entropy → Entropy) (d : Dev) : (modEnt f d).trouble = d.trouble := rfl
@[simp] theorem modEnt_journal (f : Entropy → Entropy) (d : Dev) : (modEnt f d).journal = d.journal := rfl
@[simp] theorem modEnt_chans (f : Entropy → Entropy) (d : Dev) : (modEnt f d).chans = d.chans := rfl
@[simp] theorem modEnt_pool (f : Entropy → Entropy) (d : Dev) : (modEnt f d).pool = d.pool := rfl
@[simp] theorem modEnt_sched (f : Entropy → Entropy) (d : Dev) : (modEnt f d).sched = d.sched := rfl
@[simp] theorem modEnt_engines (f : Entropy → Entropy) (d : Dev) : (modEnt f d).engines = d.engines := rfl
@[simp] theorem modEnt_cores (f : Entropy → Entropy) (d : Dev) : (modEnt f d).cores = d.cores := rfl
@[simp] theorem modEnt_drbg (f : Entropy → Entropy) (d : Dev) : (modEnt f d).drbg = d.drbg := rfl
@[simp] theorem modEnt_presig (f : Entropy → Entropy) (d : Dev) : (modEnt f d).presig = d.presig := rfl
@[simp] theorem modEnt_ks (f : Entropy → Entropy) (d : Dev) : (modEnt f d).ks = d.ks := rfl
@[simp] theorem modEnt_gate (f : Entropy → Entropy) (d : Dev) : (modEnt f d).gate = d.gate := rfl
@[simp] theorem modEnt_phrases (f : Entropy → Entropy) (d : Dev) : (modEnt f d).phrases = d.phrases := rfl
@[simp] theorem modEnt_power (f : Entropy → Entropy) (d : Dev) : (modEnt f d).power = d.power := rfl
@[simp] theorem modEnt_supply (f : Entropy → Entropy) (d : Dev) : (modEnt f d).supply = d.supply := rfl
@[simp] theorem modEnt_clocks (f : Entropy → Entropy) (d : Dev) : (modEnt f d).clocks = d.clocks := rfl
@[simp] theorem modEnt_rst (f : Entropy → Entropy) (d : Dev) : (modEnt f d).rst = d.rst := rfl
@[simp] theorem modEnt_ctr (f : Entropy → Entropy) (d : Dev) : (modEnt f d).ctr = d.ctr := rfl

@[simp] theorem modGate_gate (f : Gate → Gate) (d : Dev) : (modGate f d).gate = f d.gate := rfl
@[simp] theorem modGate_pins (f : Gate → Gate) (d : Dev) : (modGate f d).pins = d.pins := rfl
@[simp] theorem modGate_flash (f : Gate → Gate) (d : Dev) : (modGate f d).flash = d.flash := rfl
@[simp] theorem modGate_otp (f : Gate → Gate) (d : Dev) : (modGate f d).otp = d.otp := rfl
@[simp] theorem modGate_boot (f : Gate → Gate) (d : Dev) : (modGate f d).boot = d.boot := rfl
@[simp] theorem modGate_lc (f : Gate → Gate) (d : Dev) : (modGate f d).lc = d.lc := rfl
@[simp] theorem modGate_cfg (f : Gate → Gate) (d : Dev) : (modGate f d).cfg = d.cfg := rfl
@[simp] theorem modGate_trouble (f : Gate → Gate) (d : Dev) : (modGate f d).trouble = d.trouble := rfl
@[simp] theorem modGate_journal (f : Gate → Gate) (d : Dev) : (modGate f d).journal = d.journal := rfl
@[simp] theorem modGate_chans (f : Gate → Gate) (d : Dev) : (modGate f d).chans = d.chans := rfl
@[simp] theorem modGate_pool (f : Gate → Gate) (d : Dev) : (modGate f d).pool = d.pool := rfl
@[simp] theorem modGate_sched (f : Gate → Gate) (d : Dev) : (modGate f d).sched = d.sched := rfl
@[simp] theorem modGate_engines (f : Gate → Gate) (d : Dev) : (modGate f d).engines = d.engines := rfl
@[simp] theorem modGate_cores (f : Gate → Gate) (d : Dev) : (modGate f d).cores = d.cores := rfl
@[simp] theorem modGate_drbg (f : Gate → Gate) (d : Dev) : (modGate f d).drbg = d.drbg := rfl
@[simp] theorem modGate_entropy (f : Gate → Gate) (d : Dev) : (modGate f d).entropy = d.entropy := rfl
@[simp] theorem modGate_presig (f : Gate → Gate) (d : Dev) : (modGate f d).presig = d.presig := rfl
@[simp] theorem modGate_ks (f : Gate → Gate) (d : Dev) : (modGate f d).ks = d.ks := rfl
@[simp] theorem modGate_phrases (f : Gate → Gate) (d : Dev) : (modGate f d).phrases = d.phrases := rfl
@[simp] theorem modGate_power (f : Gate → Gate) (d : Dev) : (modGate f d).power = d.power := rfl
@[simp] theorem modGate_supply (f : Gate → Gate) (d : Dev) : (modGate f d).supply = d.supply := rfl
@[simp] theorem modGate_clocks (f : Gate → Gate) (d : Dev) : (modGate f d).clocks = d.clocks := rfl
@[simp] theorem modGate_rst (f : Gate → Gate) (d : Dev) : (modGate f d).rst = d.rst := rfl
@[simp] theorem modGate_ctr (f : Gate → Gate) (d : Dev) : (modGate f d).ctr = d.ctr := rfl

@[simp] theorem modJ_journal (f : Journal → Journal) (d : Dev) : (modJ f d).journal = f d.journal := rfl
@[simp] theorem modJ_pins (f : Journal → Journal) (d : Dev) : (modJ f d).pins = d.pins := rfl
@[simp] theorem modJ_flash (f : Journal → Journal) (d : Dev) : (modJ f d).flash = d.flash := rfl
@[simp] theorem modJ_otp (f : Journal → Journal) (d : Dev) : (modJ f d).otp = d.otp := rfl
@[simp] theorem modJ_boot (f : Journal → Journal) (d : Dev) : (modJ f d).boot = d.boot := rfl
@[simp] theorem modJ_lc (f : Journal → Journal) (d : Dev) : (modJ f d).lc = d.lc := rfl
@[simp] theorem modJ_cfg (f : Journal → Journal) (d : Dev) : (modJ f d).cfg = d.cfg := rfl
@[simp] theorem modJ_trouble (f : Journal → Journal) (d : Dev) : (modJ f d).trouble = d.trouble := rfl
@[simp] theorem modJ_chans (f : Journal → Journal) (d : Dev) : (modJ f d).chans = d.chans := rfl
@[simp] theorem modJ_pool (f : Journal → Journal) (d : Dev) : (modJ f d).pool = d.pool := rfl
@[simp] theorem modJ_sched (f : Journal → Journal) (d : Dev) : (modJ f d).sched = d.sched := rfl
@[simp] theorem modJ_engines (f : Journal → Journal) (d : Dev) : (modJ f d).engines = d.engines := rfl
@[simp] theorem modJ_cores (f : Journal → Journal) (d : Dev) : (modJ f d).cores = d.cores := rfl
@[simp] theorem modJ_drbg (f : Journal → Journal) (d : Dev) : (modJ f d).drbg = d.drbg := rfl
@[simp] theorem modJ_entropy (f : Journal → Journal) (d : Dev) : (modJ f d).entropy = d.entropy := rfl
@[simp] theorem modJ_presig (f : Journal → Journal) (d : Dev) : (modJ f d).presig = d.presig := rfl
@[simp] theorem modJ_ks (f : Journal → Journal) (d : Dev) : (modJ f d).ks = d.ks := rfl
@[simp] theorem modJ_gate (f : Journal → Journal) (d : Dev) : (modJ f d).gate = d.gate := rfl
@[simp] theorem modJ_phrases (f : Journal → Journal) (d : Dev) : (modJ f d).phrases = d.phrases := rfl
@[simp] theorem modJ_power (f : Journal → Journal) (d : Dev) : (modJ f d).power = d.power := rfl
@[simp] theorem modJ_supply (f : Journal → Journal) (d : Dev) : (modJ f d).supply = d.supply := rfl
@[simp] theorem modJ_clocks (f : Journal → Journal) (d : Dev) : (modJ f d).clocks = d.clocks := rfl
@[simp] theorem modJ_rst (f : Journal → Journal) (d : Dev) : (modJ f d).rst = d.rst := rfl
@[simp] theorem modJ_ctr (f : Journal → Journal) (d : Dev) : (modJ f d).ctr = d.ctr := rfl

@[simp] theorem modKs_ks (f : KeyStore → KeyStore) (d : Dev) : (modKs f d).ks = f d.ks := rfl
@[simp] theorem modKs_pins (f : KeyStore → KeyStore) (d : Dev) : (modKs f d).pins = d.pins := rfl
@[simp] theorem modKs_flash (f : KeyStore → KeyStore) (d : Dev) : (modKs f d).flash = d.flash := rfl
@[simp] theorem modKs_otp (f : KeyStore → KeyStore) (d : Dev) : (modKs f d).otp = d.otp := rfl
@[simp] theorem modKs_boot (f : KeyStore → KeyStore) (d : Dev) : (modKs f d).boot = d.boot := rfl
@[simp] theorem modKs_lc (f : KeyStore → KeyStore) (d : Dev) : (modKs f d).lc = d.lc := rfl
@[simp] theorem modKs_cfg (f : KeyStore → KeyStore) (d : Dev) : (modKs f d).cfg = d.cfg := rfl
@[simp] theorem modKs_trouble (f : KeyStore → KeyStore) (d : Dev) : (modKs f d).trouble = d.trouble := rfl
@[simp] theorem modKs_journal (f : KeyStore → KeyStore) (d : Dev) : (modKs f d).journal = d.journal := rfl
@[simp] theorem modKs_chans (f : KeyStore → KeyStore) (d : Dev) : (modKs f d).chans = d.chans := rfl
@[simp] theorem modKs_pool (f : KeyStore → KeyStore) (d : Dev) : (modKs f d).pool = d.pool := rfl
@[simp] theorem modKs_sched (f : KeyStore → KeyStore) (d : Dev) : (modKs f d).sched = d.sched := rfl
@[simp] theorem modKs_engines (f : KeyStore → KeyStore) (d : Dev) : (modKs f d).engines = d.engines := rfl
@[simp] theorem modKs_cores (f : KeyStore → KeyStore) (d : Dev) : (modKs f d).cores = d.cores := rfl
@[simp] theorem modKs_drbg (f : KeyStore → KeyStore) (d : Dev) : (modKs f d).drbg = d.drbg := rfl
@[simp] theorem modKs_entropy (f : KeyStore → KeyStore) (d : Dev) : (modKs f d).entropy = d.entropy := rfl
@[simp] theorem modKs_presig (f : KeyStore → KeyStore) (d : Dev) : (modKs f d).presig = d.presig := rfl
@[simp] theorem modKs_gate (f : KeyStore → KeyStore) (d : Dev) : (modKs f d).gate = d.gate := rfl
@[simp] theorem modKs_phrases (f : KeyStore → KeyStore) (d : Dev) : (modKs f d).phrases = d.phrases := rfl
@[simp] theorem modKs_power (f : KeyStore → KeyStore) (d : Dev) : (modKs f d).power = d.power := rfl
@[simp] theorem modKs_supply (f : KeyStore → KeyStore) (d : Dev) : (modKs f d).supply = d.supply := rfl
@[simp] theorem modKs_clocks (f : KeyStore → KeyStore) (d : Dev) : (modKs f d).clocks = d.clocks := rfl
@[simp] theorem modKs_rst (f : KeyStore → KeyStore) (d : Dev) : (modKs f d).rst = d.rst := rfl
@[simp] theorem modKs_ctr (f : KeyStore → KeyStore) (d : Dev) : (modKs f d).ctr = d.ctr := rfl

@[simp] theorem modLc_lc (f : LifeCycle → LifeCycle) (d : Dev) : (modLc f d).lc = f d.lc := rfl
@[simp] theorem modLc_pins (f : LifeCycle → LifeCycle) (d : Dev) : (modLc f d).pins = d.pins := rfl
@[simp] theorem modLc_flash (f : LifeCycle → LifeCycle) (d : Dev) : (modLc f d).flash = d.flash := rfl
@[simp] theorem modLc_otp (f : LifeCycle → LifeCycle) (d : Dev) : (modLc f d).otp = d.otp := rfl
@[simp] theorem modLc_boot (f : LifeCycle → LifeCycle) (d : Dev) : (modLc f d).boot = d.boot := rfl
@[simp] theorem modLc_cfg (f : LifeCycle → LifeCycle) (d : Dev) : (modLc f d).cfg = d.cfg := rfl
@[simp] theorem modLc_trouble (f : LifeCycle → LifeCycle) (d : Dev) : (modLc f d).trouble = d.trouble := rfl
@[simp] theorem modLc_journal (f : LifeCycle → LifeCycle) (d : Dev) : (modLc f d).journal = d.journal := rfl
@[simp] theorem modLc_chans (f : LifeCycle → LifeCycle) (d : Dev) : (modLc f d).chans = d.chans := rfl
@[simp] theorem modLc_pool (f : LifeCycle → LifeCycle) (d : Dev) : (modLc f d).pool = d.pool := rfl
@[simp] theorem modLc_sched (f : LifeCycle → LifeCycle) (d : Dev) : (modLc f d).sched = d.sched := rfl
@[simp] theorem modLc_engines (f : LifeCycle → LifeCycle) (d : Dev) : (modLc f d).engines = d.engines := rfl
@[simp] theorem modLc_cores (f : LifeCycle → LifeCycle) (d : Dev) : (modLc f d).cores = d.cores := rfl
@[simp] theorem modLc_drbg (f : LifeCycle → LifeCycle) (d : Dev) : (modLc f d).drbg = d.drbg := rfl
@[simp] theorem modLc_entropy (f : LifeCycle → LifeCycle) (d : Dev) : (modLc f d).entropy = d.entropy := rfl
@[simp] theorem modLc_presig (f : LifeCycle → LifeCycle) (d : Dev) : (modLc f d).presig = d.presig := rfl
@[simp] theorem modLc_ks (f : LifeCycle → LifeCycle) (d : Dev) : (modLc f d).ks = d.ks := rfl
@[simp] theorem modLc_gate (f : LifeCycle → LifeCycle) (d : Dev) : (modLc f d).gate = d.gate := rfl
@[simp] theorem modLc_phrases (f : LifeCycle → LifeCycle) (d : Dev) : (modLc f d).phrases = d.phrases := rfl
@[simp] theorem modLc_power (f : LifeCycle → LifeCycle) (d : Dev) : (modLc f d).power = d.power := rfl
@[simp] theorem modLc_supply (f : LifeCycle → LifeCycle) (d : Dev) : (modLc f d).supply = d.supply := rfl
@[simp] theorem modLc_clocks (f : LifeCycle → LifeCycle) (d : Dev) : (modLc f d).clocks = d.clocks := rfl
@[simp] theorem modLc_rst (f : LifeCycle → LifeCycle) (d : Dev) : (modLc f d).rst = d.rst := rfl
@[simp] theorem modLc_ctr (f : LifeCycle → LifeCycle) (d : Dev) : (modLc f d).ctr = d.ctr := rfl

@[simp] theorem modSup_supply (f : Supply → Supply) (d : Dev) : (modSup f d).supply = f d.supply := rfl
@[simp] theorem modSup_pins (f : Supply → Supply) (d : Dev) : (modSup f d).pins = d.pins := rfl
@[simp] theorem modSup_flash (f : Supply → Supply) (d : Dev) : (modSup f d).flash = d.flash := rfl
@[simp] theorem modSup_otp (f : Supply → Supply) (d : Dev) : (modSup f d).otp = d.otp := rfl
@[simp] theorem modSup_boot (f : Supply → Supply) (d : Dev) : (modSup f d).boot = d.boot := rfl
@[simp] theorem modSup_lc (f : Supply → Supply) (d : Dev) : (modSup f d).lc = d.lc := rfl
@[simp] theorem modSup_cfg (f : Supply → Supply) (d : Dev) : (modSup f d).cfg = d.cfg := rfl
@[simp] theorem modSup_trouble (f : Supply → Supply) (d : Dev) : (modSup f d).trouble = d.trouble := rfl
@[simp] theorem modSup_journal (f : Supply → Supply) (d : Dev) : (modSup f d).journal = d.journal := rfl
@[simp] theorem modSup_chans (f : Supply → Supply) (d : Dev) : (modSup f d).chans = d.chans := rfl
@[simp] theorem modSup_pool (f : Supply → Supply) (d : Dev) : (modSup f d).pool = d.pool := rfl
@[simp] theorem modSup_sched (f : Supply → Supply) (d : Dev) : (modSup f d).sched = d.sched := rfl
@[simp] theorem modSup_engines (f : Supply → Supply) (d : Dev) : (modSup f d).engines = d.engines := rfl
@[simp] theorem modSup_cores (f : Supply → Supply) (d : Dev) : (modSup f d).cores = d.cores := rfl
@[simp] theorem modSup_drbg (f : Supply → Supply) (d : Dev) : (modSup f d).drbg = d.drbg := rfl
@[simp] theorem modSup_entropy (f : Supply → Supply) (d : Dev) : (modSup f d).entropy = d.entropy := rfl
@[simp] theorem modSup_presig (f : Supply → Supply) (d : Dev) : (modSup f d).presig = d.presig := rfl
@[simp] theorem modSup_ks (f : Supply → Supply) (d : Dev) : (modSup f d).ks = d.ks := rfl
@[simp] theorem modSup_gate (f : Supply → Supply) (d : Dev) : (modSup f d).gate = d.gate := rfl
@[simp] theorem modSup_phrases (f : Supply → Supply) (d : Dev) : (modSup f d).phrases = d.phrases := rfl
@[simp] theorem modSup_power (f : Supply → Supply) (d : Dev) : (modSup f d).power = d.power := rfl
@[simp] theorem modSup_clocks (f : Supply → Supply) (d : Dev) : (modSup f d).clocks = d.clocks := rfl
@[simp] theorem modSup_rst (f : Supply → Supply) (d : Dev) : (modSup f d).rst = d.rst := rfl
@[simp] theorem modSup_ctr (f : Supply → Supply) (d : Dev) : (modSup f d).ctr = d.ctr := rfl

@[simp] theorem modBoot_boot (f : Boot → Boot) (d : Dev) : (modBoot f d).boot = f d.boot := rfl
@[simp] theorem modBoot_pins (f : Boot → Boot) (d : Dev) : (modBoot f d).pins = d.pins := rfl
@[simp] theorem modBoot_flash (f : Boot → Boot) (d : Dev) : (modBoot f d).flash = d.flash := rfl
@[simp] theorem modBoot_otp (f : Boot → Boot) (d : Dev) : (modBoot f d).otp = d.otp := rfl
@[simp] theorem modBoot_lc (f : Boot → Boot) (d : Dev) : (modBoot f d).lc = d.lc := rfl
@[simp] theorem modBoot_cfg (f : Boot → Boot) (d : Dev) : (modBoot f d).cfg = d.cfg := rfl
@[simp] theorem modBoot_trouble (f : Boot → Boot) (d : Dev) : (modBoot f d).trouble = d.trouble := rfl
@[simp] theorem modBoot_journal (f : Boot → Boot) (d : Dev) : (modBoot f d).journal = d.journal := rfl
@[simp] theorem modBoot_chans (f : Boot → Boot) (d : Dev) : (modBoot f d).chans = d.chans := rfl
@[simp] theorem modBoot_pool (f : Boot → Boot) (d : Dev) : (modBoot f d).pool = d.pool := rfl
@[simp] theorem modBoot_sched (f : Boot → Boot) (d : Dev) : (modBoot f d).sched = d.sched := rfl
@[simp] theorem modBoot_engines (f : Boot → Boot) (d : Dev) : (modBoot f d).engines = d.engines := rfl
@[simp] theorem modBoot_cores (f : Boot → Boot) (d : Dev) : (modBoot f d).cores = d.cores := rfl
@[simp] theorem modBoot_drbg (f : Boot → Boot) (d : Dev) : (modBoot f d).drbg = d.drbg := rfl
@[simp] theorem modBoot_entropy (f : Boot → Boot) (d : Dev) : (modBoot f d).entropy = d.entropy := rfl
@[simp] theorem modBoot_presig (f : Boot → Boot) (d : Dev) : (modBoot f d).presig = d.presig := rfl
@[simp] theorem modBoot_ks (f : Boot → Boot) (d : Dev) : (modBoot f d).ks = d.ks := rfl
@[simp] theorem modBoot_gate (f : Boot → Boot) (d : Dev) : (modBoot f d).gate = d.gate := rfl
@[simp] theorem modBoot_phrases (f : Boot → Boot) (d : Dev) : (modBoot f d).phrases = d.phrases := rfl
@[simp] theorem modBoot_power (f : Boot → Boot) (d : Dev) : (modBoot f d).power = d.power := rfl
@[simp] theorem modBoot_supply (f : Boot → Boot) (d : Dev) : (modBoot f d).supply = d.supply := rfl
@[simp] theorem modBoot_clocks (f : Boot → Boot) (d : Dev) : (modBoot f d).clocks = d.clocks := rfl
@[simp] theorem modBoot_rst (f : Boot → Boot) (d : Dev) : (modBoot f d).rst = d.rst := rfl
@[simp] theorem modBoot_ctr (f : Boot → Boot) (d : Dev) : (modBoot f d).ctr = d.ctr := rfl

@[simp] theorem modPhr_phrases (f : Phrases → Phrases) (d : Dev) : (modPhr f d).phrases = f d.phrases := rfl
@[simp] theorem modPhr_pins (f : Phrases → Phrases) (d : Dev) : (modPhr f d).pins = d.pins := rfl
@[simp] theorem modPhr_flash (f : Phrases → Phrases) (d : Dev) : (modPhr f d).flash = d.flash := rfl
@[simp] theorem modPhr_otp (f : Phrases → Phrases) (d : Dev) : (modPhr f d).otp = d.otp := rfl
@[simp] theorem modPhr_boot (f : Phrases → Phrases) (d : Dev) : (modPhr f d).boot = d.boot := rfl
@[simp] theorem modPhr_lc (f : Phrases → Phrases) (d : Dev) : (modPhr f d).lc = d.lc := rfl
@[simp] theorem modPhr_cfg (f : Phrases → Phrases) (d : Dev) : (modPhr f d).cfg = d.cfg := rfl
@[simp] theorem modPhr_trouble (f : Phrases → Phrases) (d : Dev) : (modPhr f d).trouble = d.trouble := rfl
@[simp] theorem modPhr_journal (f : Phrases → Phrases) (d : Dev) : (modPhr f d).journal = d.journal := rfl
@[simp] theorem modPhr_chans (f : Phrases → Phrases) (d : Dev) : (modPhr f d).chans = d.chans := rfl
@[simp] theorem modPhr_pool (f : Phrases → Phrases) (d : Dev) : (modPhr f d).pool = d.pool := rfl
@[simp] theorem modPhr_sched (f : Phrases → Phrases) (d : Dev) : (modPhr f d).sched = d.sched := rfl
@[simp] theorem modPhr_engines (f : Phrases → Phrases) (d : Dev) : (modPhr f d).engines = d.engines := rfl
@[simp] theorem modPhr_cores (f : Phrases → Phrases) (d : Dev) : (modPhr f d).cores = d.cores := rfl
@[simp] theorem modPhr_drbg (f : Phrases → Phrases) (d : Dev) : (modPhr f d).drbg = d.drbg := rfl
@[simp] theorem modPhr_entropy (f : Phrases → Phrases) (d : Dev) : (modPhr f d).entropy = d.entropy := rfl
@[simp] theorem modPhr_presig (f : Phrases → Phrases) (d : Dev) : (modPhr f d).presig = d.presig := rfl
@[simp] theorem modPhr_ks (f : Phrases → Phrases) (d : Dev) : (modPhr f d).ks = d.ks := rfl
@[simp] theorem modPhr_gate (f : Phrases → Phrases) (d : Dev) : (modPhr f d).gate = d.gate := rfl
@[simp] theorem modPhr_power (f : Phrases → Phrases) (d : Dev) : (modPhr f d).power = d.power := rfl
@[simp] theorem modPhr_supply (f : Phrases → Phrases) (d : Dev) : (modPhr f d).supply = d.supply := rfl
@[simp] theorem modPhr_clocks (f : Phrases → Phrases) (d : Dev) : (modPhr f d).clocks = d.clocks := rfl
@[simp] theorem modPhr_rst (f : Phrases → Phrases) (d : Dev) : (modPhr f d).rst = d.rst := rfl
@[simp] theorem modPhr_ctr (f : Phrases → Phrases) (d : Dev) : (modPhr f d).ctr = d.ctr := rfl

@[simp] theorem modEng_pins (e : Eng) (f : Engine → Engine) (d : Dev) : (modEng e f d).pins = d.pins := rfl
@[simp] theorem modEng_flash (e : Eng) (f : Engine → Engine) (d : Dev) : (modEng e f d).flash = d.flash := rfl
@[simp] theorem modEng_otp (e : Eng) (f : Engine → Engine) (d : Dev) : (modEng e f d).otp = d.otp := rfl
@[simp] theorem modEng_boot (e : Eng) (f : Engine → Engine) (d : Dev) : (modEng e f d).boot = d.boot := rfl
@[simp] theorem modEng_lc (e : Eng) (f : Engine → Engine) (d : Dev) : (modEng e f d).lc = d.lc := rfl
@[simp] theorem modEng_cfg (e : Eng) (f : Engine → Engine) (d : Dev) : (modEng e f d).cfg = d.cfg := rfl
@[simp] theorem modEng_trouble (e : Eng) (f : Engine → Engine) (d : Dev) : (modEng e f d).trouble = d.trouble := rfl
@[simp] theorem modEng_journal (e : Eng) (f : Engine → Engine) (d : Dev) : (modEng e f d).journal = d.journal := rfl
@[simp] theorem modEng_chans (e : Eng) (f : Engine → Engine) (d : Dev) : (modEng e f d).chans = d.chans := rfl
@[simp] theorem modEng_pool (e : Eng) (f : Engine → Engine) (d : Dev) : (modEng e f d).pool = d.pool := rfl
@[simp] theorem modEng_sched (e : Eng) (f : Engine → Engine) (d : Dev) : (modEng e f d).sched = d.sched := rfl
@[simp] theorem modEng_cores (e : Eng) (f : Engine → Engine) (d : Dev) : (modEng e f d).cores = d.cores := rfl
@[simp] theorem modEng_drbg (e : Eng) (f : Engine → Engine) (d : Dev) : (modEng e f d).drbg = d.drbg := rfl
@[simp] theorem modEng_entropy (e : Eng) (f : Engine → Engine) (d : Dev) : (modEng e f d).entropy = d.entropy := rfl
@[simp] theorem modEng_presig (e : Eng) (f : Engine → Engine) (d : Dev) : (modEng e f d).presig = d.presig := rfl
@[simp] theorem modEng_ks (e : Eng) (f : Engine → Engine) (d : Dev) : (modEng e f d).ks = d.ks := rfl
@[simp] theorem modEng_gate (e : Eng) (f : Engine → Engine) (d : Dev) : (modEng e f d).gate = d.gate := rfl
@[simp] theorem modEng_phrases (e : Eng) (f : Engine → Engine) (d : Dev) : (modEng e f d).phrases = d.phrases := rfl
@[simp] theorem modEng_power (e : Eng) (f : Engine → Engine) (d : Dev) : (modEng e f d).power = d.power := rfl
@[simp] theorem modEng_supply (e : Eng) (f : Engine → Engine) (d : Dev) : (modEng e f d).supply = d.supply := rfl
@[simp] theorem modEng_clocks (e : Eng) (f : Engine → Engine) (d : Dev) : (modEng e f d).clocks = d.clocks := rfl
@[simp] theorem modEng_rst (e : Eng) (f : Engine → Engine) (d : Dev) : (modEng e f d).rst = d.rst := rfl
@[simp] theorem modEng_ctr (e : Eng) (f : Engine → Engine) (d : Dev) : (modEng e f d).ctr = d.ctr := rfl

@[simp] theorem modDom_pins (x : Nat) (f : Dom → Dom) (d : Dev) : (modDom x f d).pins = d.pins := rfl
@[simp] theorem modDom_flash (x : Nat) (f : Dom → Dom) (d : Dev) : (modDom x f d).flash = d.flash := rfl
@[simp] theorem modDom_otp (x : Nat) (f : Dom → Dom) (d : Dev) : (modDom x f d).otp = d.otp := rfl
@[simp] theorem modDom_boot (x : Nat) (f : Dom → Dom) (d : Dev) : (modDom x f d).boot = d.boot := rfl
@[simp] theorem modDom_lc (x : Nat) (f : Dom → Dom) (d : Dev) : (modDom x f d).lc = d.lc := rfl
@[simp] theorem modDom_cfg (x : Nat) (f : Dom → Dom) (d : Dev) : (modDom x f d).cfg = d.cfg := rfl
@[simp] theorem modDom_trouble (x : Nat) (f : Dom → Dom) (d : Dev) : (modDom x f d).trouble = d.trouble := rfl
@[simp] theorem modDom_journal (x : Nat) (f : Dom → Dom) (d : Dev) : (modDom x f d).journal = d.journal := rfl
@[simp] theorem modDom_chans (x : Nat) (f : Dom → Dom) (d : Dev) : (modDom x f d).chans = d.chans := rfl
@[simp] theorem modDom_pool (x : Nat) (f : Dom → Dom) (d : Dev) : (modDom x f d).pool = d.pool := rfl
@[simp] theorem modDom_sched (x : Nat) (f : Dom → Dom) (d : Dev) : (modDom x f d).sched = d.sched := rfl
@[simp] theorem modDom_engines (x : Nat) (f : Dom → Dom) (d : Dev) : (modDom x f d).engines = d.engines := rfl
@[simp] theorem modDom_cores (x : Nat) (f : Dom → Dom) (d : Dev) : (modDom x f d).cores = d.cores := rfl
@[simp] theorem modDom_drbg (x : Nat) (f : Dom → Dom) (d : Dev) : (modDom x f d).drbg = d.drbg := rfl
@[simp] theorem modDom_entropy (x : Nat) (f : Dom → Dom) (d : Dev) : (modDom x f d).entropy = d.entropy := rfl
@[simp] theorem modDom_presig (x : Nat) (f : Dom → Dom) (d : Dev) : (modDom x f d).presig = d.presig := rfl
@[simp] theorem modDom_ks (x : Nat) (f : Dom → Dom) (d : Dev) : (modDom x f d).ks = d.ks := rfl
@[simp] theorem modDom_gate (x : Nat) (f : Dom → Dom) (d : Dev) : (modDom x f d).gate = d.gate := rfl
@[simp] theorem modDom_phrases (x : Nat) (f : Dom → Dom) (d : Dev) : (modDom x f d).phrases = d.phrases := rfl
@[simp] theorem modDom_supply (x : Nat) (f : Dom → Dom) (d : Dev) : (modDom x f d).supply = d.supply := rfl
@[simp] theorem modDom_clocks (x : Nat) (f : Dom → Dom) (d : Dev) : (modDom x f d).clocks = d.clocks := rfl
@[simp] theorem modDom_rst (x : Nat) (f : Dom → Dom) (d : Dev) : (modDom x f d).rst = d.rst := rfl
@[simp] theorem modDom_ctr (x : Nat) (f : Dom → Dom) (d : Dev) : (modDom x f d).ctr = d.ctr := rfl

@[simp] theorem setArea_pins (k : Nat) (ss : List OpSlot) (d : Dev) : (setArea k ss d).pins = d.pins := rfl
@[simp] theorem setArea_flash (k : Nat) (ss : List OpSlot) (d : Dev) : (setArea k ss d).flash = d.flash := rfl
@[simp] theorem setArea_otp (k : Nat) (ss : List OpSlot) (d : Dev) : (setArea k ss d).otp = d.otp := rfl
@[simp] theorem setArea_boot (k : Nat) (ss : List OpSlot) (d : Dev) : (setArea k ss d).boot = d.boot := rfl
@[simp] theorem setArea_lc (k : Nat) (ss : List OpSlot) (d : Dev) : (setArea k ss d).lc = d.lc := rfl
@[simp] theorem setArea_cfg (k : Nat) (ss : List OpSlot) (d : Dev) : (setArea k ss d).cfg = d.cfg := rfl
@[simp] theorem setArea_trouble (k : Nat) (ss : List OpSlot) (d : Dev) : (setArea k ss d).trouble = d.trouble := rfl
@[simp] theorem setArea_journal (k : Nat) (ss : List OpSlot) (d : Dev) : (setArea k ss d).journal = d.journal := rfl
@[simp] theorem setArea_chans (k : Nat) (ss : List OpSlot) (d : Dev) : (setArea k ss d).chans = d.chans := rfl
@[simp] theorem setArea_pool (k : Nat) (ss : List OpSlot) (d : Dev) : (setArea k ss d).pool = d.pool := rfl
@[simp] theorem setArea_sched (k : Nat) (ss : List OpSlot) (d : Dev) : (setArea k ss d).sched = d.sched := rfl
@[simp] theorem setArea_engines (k : Nat) (ss : List OpSlot) (d : Dev) : (setArea k ss d).engines = d.engines := rfl
@[simp] theorem setArea_drbg (k : Nat) (ss : List OpSlot) (d : Dev) : (setArea k ss d).drbg = d.drbg := rfl
@[simp] theorem setArea_entropy (k : Nat) (ss : List OpSlot) (d : Dev) : (setArea k ss d).entropy = d.entropy := rfl
@[simp] theorem setArea_presig (k : Nat) (ss : List OpSlot) (d : Dev) : (setArea k ss d).presig = d.presig := rfl
@[simp] theorem setArea_ks (k : Nat) (ss : List OpSlot) (d : Dev) : (setArea k ss d).ks = d.ks := rfl
@[simp] theorem setArea_gate (k : Nat) (ss : List OpSlot) (d : Dev) : (setArea k ss d).gate = d.gate := rfl
@[simp] theorem setArea_phrases (k : Nat) (ss : List OpSlot) (d : Dev) : (setArea k ss d).phrases = d.phrases := rfl
@[simp] theorem setArea_power (k : Nat) (ss : List OpSlot) (d : Dev) : (setArea k ss d).power = d.power := rfl
@[simp] theorem setArea_supply (k : Nat) (ss : List OpSlot) (d : Dev) : (setArea k ss d).supply = d.supply := rfl
@[simp] theorem setArea_clocks (k : Nat) (ss : List OpSlot) (d : Dev) : (setArea k ss d).clocks = d.clocks := rfl
@[simp] theorem setArea_rst (k : Nat) (ss : List OpSlot) (d : Dev) : (setArea k ss d).rst = d.rst := rfl
@[simp] theorem setArea_ctr (k : Nat) (ss : List OpSlot) (d : Dev) : (setArea k ss d).ctr = d.ctr := rfl

@[simp] theorem unfill_pins (k : Nat) (d : Dev) : (unfill k d).pins = d.pins := rfl
@[simp] theorem unfill_flash (k : Nat) (d : Dev) : (unfill k d).flash = d.flash := rfl
@[simp] theorem unfill_otp (k : Nat) (d : Dev) : (unfill k d).otp = d.otp := rfl
@[simp] theorem unfill_boot (k : Nat) (d : Dev) : (unfill k d).boot = d.boot := rfl
@[simp] theorem unfill_lc (k : Nat) (d : Dev) : (unfill k d).lc = d.lc := rfl
@[simp] theorem unfill_cfg (k : Nat) (d : Dev) : (unfill k d).cfg = d.cfg := rfl
@[simp] theorem unfill_trouble (k : Nat) (d : Dev) : (unfill k d).trouble = d.trouble := rfl
@[simp] theorem unfill_journal (k : Nat) (d : Dev) : (unfill k d).journal = d.journal := rfl
@[simp] theorem unfill_chans (k : Nat) (d : Dev) : (unfill k d).chans = d.chans := rfl
@[simp] theorem unfill_pool (k : Nat) (d : Dev) : (unfill k d).pool = d.pool := rfl
@[simp] theorem unfill_sched (k : Nat) (d : Dev) : (unfill k d).sched = d.sched := rfl
@[simp] theorem unfill_engines (k : Nat) (d : Dev) : (unfill k d).engines = d.engines := rfl
@[simp] theorem unfill_cores (k : Nat) (d : Dev) : (unfill k d).cores = d.cores := rfl
@[simp] theorem unfill_drbg (k : Nat) (d : Dev) : (unfill k d).drbg = d.drbg := rfl
@[simp] theorem unfill_entropy (k : Nat) (d : Dev) : (unfill k d).entropy = d.entropy := rfl
@[simp] theorem unfill_ks (k : Nat) (d : Dev) : (unfill k d).ks = d.ks := rfl
@[simp] theorem unfill_gate (k : Nat) (d : Dev) : (unfill k d).gate = d.gate := rfl
@[simp] theorem unfill_phrases (k : Nat) (d : Dev) : (unfill k d).phrases = d.phrases := rfl
@[simp] theorem unfill_power (k : Nat) (d : Dev) : (unfill k d).power = d.power := rfl
@[simp] theorem unfill_supply (k : Nat) (d : Dev) : (unfill k d).supply = d.supply := rfl
@[simp] theorem unfill_clocks (k : Nat) (d : Dev) : (unfill k d).clocks = d.clocks := rfl
@[simp] theorem unfill_rst (k : Nat) (d : Dev) : (unfill k d).rst = d.rst := rfl
@[simp] theorem unfill_ctr (k : Nat) (d : Dev) : (unfill k d).ctr = d.ctr := rfl

@[simp] theorem writePool_pins (a : Nat) (bs : Bytes) (d : Dev) : (writePool a bs d).pins = d.pins := rfl
@[simp] theorem writePool_flash (a : Nat) (bs : Bytes) (d : Dev) : (writePool a bs d).flash = d.flash := rfl
@[simp] theorem writePool_otp (a : Nat) (bs : Bytes) (d : Dev) : (writePool a bs d).otp = d.otp := rfl
@[simp] theorem writePool_boot (a : Nat) (bs : Bytes) (d : Dev) : (writePool a bs d).boot = d.boot := rfl
@[simp] theorem writePool_lc (a : Nat) (bs : Bytes) (d : Dev) : (writePool a bs d).lc = d.lc := rfl
@[simp] theorem writePool_cfg (a : Nat) (bs : Bytes) (d : Dev) : (writePool a bs d).cfg = d.cfg := rfl
@[simp] theorem writePool_trouble (a : Nat) (bs : Bytes) (d : Dev) : (writePool a bs d).trouble = d.trouble := rfl
@[simp] theorem writePool_journal (a : Nat) (bs : Bytes) (d : Dev) : (writePool a bs d).journal = d.journal := rfl
@[simp] theorem writePool_chans (a : Nat) (bs : Bytes) (d : Dev) : (writePool a bs d).chans = d.chans := rfl
@[simp] theorem writePool_sched (a : Nat) (bs : Bytes) (d : Dev) : (writePool a bs d).sched = d.sched := rfl
@[simp] theorem writePool_engines (a : Nat) (bs : Bytes) (d : Dev) : (writePool a bs d).engines = d.engines := rfl
@[simp] theorem writePool_cores (a : Nat) (bs : Bytes) (d : Dev) : (writePool a bs d).cores = d.cores := rfl
@[simp] theorem writePool_drbg (a : Nat) (bs : Bytes) (d : Dev) : (writePool a bs d).drbg = d.drbg := rfl
@[simp] theorem writePool_entropy (a : Nat) (bs : Bytes) (d : Dev) : (writePool a bs d).entropy = d.entropy := rfl
@[simp] theorem writePool_presig (a : Nat) (bs : Bytes) (d : Dev) : (writePool a bs d).presig = d.presig := rfl
@[simp] theorem writePool_ks (a : Nat) (bs : Bytes) (d : Dev) : (writePool a bs d).ks = d.ks := rfl
@[simp] theorem writePool_gate (a : Nat) (bs : Bytes) (d : Dev) : (writePool a bs d).gate = d.gate := rfl
@[simp] theorem writePool_phrases (a : Nat) (bs : Bytes) (d : Dev) : (writePool a bs d).phrases = d.phrases := rfl
@[simp] theorem writePool_power (a : Nat) (bs : Bytes) (d : Dev) : (writePool a bs d).power = d.power := rfl
@[simp] theorem writePool_supply (a : Nat) (bs : Bytes) (d : Dev) : (writePool a bs d).supply = d.supply := rfl
@[simp] theorem writePool_clocks (a : Nat) (bs : Bytes) (d : Dev) : (writePool a bs d).clocks = d.clocks := rfl
@[simp] theorem writePool_rst (a : Nat) (bs : Bytes) (d : Dev) : (writePool a bs d).rst = d.rst := rfl
@[simp] theorem writePool_ctr (a : Nat) (bs : Bytes) (d : Dev) : (writePool a bs d).ctr = d.ctr := rfl

/-! ### Records: the sticky bits and the journal queue -/

@[simp] theorem queueEntry_pins (e : JEntry) (d : Dev) : (queueEntry e d).pins = d.pins := by
  unfold queueEntry; split <;> rfl
@[simp] theorem queueEntry_flash (e : JEntry) (d : Dev) : (queueEntry e d).flash = d.flash := by
  unfold queueEntry; split <;> rfl
@[simp] theorem queueEntry_otp (e : JEntry) (d : Dev) : (queueEntry e d).otp = d.otp := by
  unfold queueEntry; split <;> rfl
@[simp] theorem queueEntry_boot (e : JEntry) (d : Dev) : (queueEntry e d).boot = d.boot := by
  unfold queueEntry; split <;> rfl
@[simp] theorem queueEntry_lc (e : JEntry) (d : Dev) : (queueEntry e d).lc = d.lc := by
  unfold queueEntry; split <;> rfl
@[simp] theorem queueEntry_cfg (e : JEntry) (d : Dev) : (queueEntry e d).cfg = d.cfg := by
  unfold queueEntry; split <;> rfl
@[simp] theorem queueEntry_chans (e : JEntry) (d : Dev) : (queueEntry e d).chans = d.chans := by
  unfold queueEntry; split <;> rfl
@[simp] theorem queueEntry_pool (e : JEntry) (d : Dev) : (queueEntry e d).pool = d.pool := by
  unfold queueEntry; split <;> rfl
@[simp] theorem queueEntry_sched (e : JEntry) (d : Dev) : (queueEntry e d).sched = d.sched := by
  unfold queueEntry; split <;> rfl
@[simp] theorem queueEntry_engines (e : JEntry) (d : Dev) : (queueEntry e d).engines = d.engines := by
  unfold queueEntry; split <;> rfl
@[simp] theorem queueEntry_cores (e : JEntry) (d : Dev) : (queueEntry e d).cores = d.cores := by
  unfold queueEntry; split <;> rfl
@[simp] theorem queueEntry_drbg (e : JEntry) (d : Dev) : (queueEntry e d).drbg = d.drbg := by
  unfold queueEntry; split <;> rfl
@[simp] theorem queueEntry_entropy (e : JEntry) (d : Dev) : (queueEntry e d).entropy = d.entropy := by
  unfold queueEntry; split <;> rfl
@[simp] theorem queueEntry_presig (e : JEntry) (d : Dev) : (queueEntry e d).presig = d.presig := by
  unfold queueEntry; split <;> rfl
@[simp] theorem queueEntry_ks (e : JEntry) (d : Dev) : (queueEntry e d).ks = d.ks := by
  unfold queueEntry; split <;> rfl
@[simp] theorem queueEntry_gate (e : JEntry) (d : Dev) : (queueEntry e d).gate = d.gate := by
  unfold queueEntry; split <;> rfl
@[simp] theorem queueEntry_phrases (e : JEntry) (d : Dev) : (queueEntry e d).phrases = d.phrases := by
  unfold queueEntry; split <;> rfl
@[simp] theorem queueEntry_power (e : JEntry) (d : Dev) : (queueEntry e d).power = d.power := by
  unfold queueEntry; split <;> rfl
@[simp] theorem queueEntry_supply (e : JEntry) (d : Dev) : (queueEntry e d).supply = d.supply := by
  unfold queueEntry; split <;> rfl
@[simp] theorem queueEntry_clocks (e : JEntry) (d : Dev) : (queueEntry e d).clocks = d.clocks := by
  unfold queueEntry; split <;> rfl
@[simp] theorem queueEntry_rst (e : JEntry) (d : Dev) : (queueEntry e d).rst = d.rst := by
  unfold queueEntry; split <;> rfl
@[simp] theorem queueEntry_ctr (e : JEntry) (d : Dev) : (queueEntry e d).ctr = d.ctr := by
  unfold queueEntry; split <;> rfl

@[simp] theorem noteGx_pins (k b e : Nat) (w : Word) (d : Dev) : (noteGx k b e w d).pins = d.pins := by
  unfold noteGx; split <;> simp
@[simp] theorem noteGx_flash (k b e : Nat) (w : Word) (d : Dev) : (noteGx k b e w d).flash = d.flash := by
  unfold noteGx; split <;> simp
@[simp] theorem noteGx_otp (k b e : Nat) (w : Word) (d : Dev) : (noteGx k b e w d).otp = d.otp := by
  unfold noteGx; split <;> simp
@[simp] theorem noteGx_boot (k b e : Nat) (w : Word) (d : Dev) : (noteGx k b e w d).boot = d.boot := by
  unfold noteGx; split <;> simp
@[simp] theorem noteGx_lc (k b e : Nat) (w : Word) (d : Dev) : (noteGx k b e w d).lc = d.lc := by
  unfold noteGx; split <;> simp
@[simp] theorem noteGx_cfg (k b e : Nat) (w : Word) (d : Dev) : (noteGx k b e w d).cfg = d.cfg := by
  unfold noteGx; split <;> simp
@[simp] theorem noteGx_chans (k b e : Nat) (w : Word) (d : Dev) : (noteGx k b e w d).chans = d.chans := by
  unfold noteGx; split <;> simp
@[simp] theorem noteGx_pool (k b e : Nat) (w : Word) (d : Dev) : (noteGx k b e w d).pool = d.pool := by
  unfold noteGx; split <;> simp
@[simp] theorem noteGx_sched (k b e : Nat) (w : Word) (d : Dev) : (noteGx k b e w d).sched = d.sched := by
  unfold noteGx; split <;> simp
@[simp] theorem noteGx_engines (k b e : Nat) (w : Word) (d : Dev) : (noteGx k b e w d).engines = d.engines := by
  unfold noteGx; split <;> simp
@[simp] theorem noteGx_cores (k b e : Nat) (w : Word) (d : Dev) : (noteGx k b e w d).cores = d.cores := by
  unfold noteGx; split <;> simp
@[simp] theorem noteGx_drbg (k b e : Nat) (w : Word) (d : Dev) : (noteGx k b e w d).drbg = d.drbg := by
  unfold noteGx; split <;> simp
@[simp] theorem noteGx_entropy (k b e : Nat) (w : Word) (d : Dev) : (noteGx k b e w d).entropy = d.entropy := by
  unfold noteGx; split <;> simp
@[simp] theorem noteGx_presig (k b e : Nat) (w : Word) (d : Dev) : (noteGx k b e w d).presig = d.presig := by
  unfold noteGx; split <;> simp
@[simp] theorem noteGx_ks (k b e : Nat) (w : Word) (d : Dev) : (noteGx k b e w d).ks = d.ks := by
  unfold noteGx; split <;> simp
@[simp] theorem noteGx_gate (k b e : Nat) (w : Word) (d : Dev) : (noteGx k b e w d).gate = d.gate := by
  unfold noteGx; split <;> simp
@[simp] theorem noteGx_phrases (k b e : Nat) (w : Word) (d : Dev) : (noteGx k b e w d).phrases = d.phrases := by
  unfold noteGx; split <;> simp
@[simp] theorem noteGx_power (k b e : Nat) (w : Word) (d : Dev) : (noteGx k b e w d).power = d.power := by
  unfold noteGx; split <;> simp
@[simp] theorem noteGx_supply (k b e : Nat) (w : Word) (d : Dev) : (noteGx k b e w d).supply = d.supply := by
  unfold noteGx; split <;> simp
@[simp] theorem noteGx_clocks (k b e : Nat) (w : Word) (d : Dev) : (noteGx k b e w d).clocks = d.clocks := by
  unfold noteGx; split <;> simp
@[simp] theorem noteGx_rst (k b e : Nat) (w : Word) (d : Dev) : (noteGx k b e w d).rst = d.rst := by
  unfold noteGx; split <;> simp
@[simp] theorem noteGx_ctr (k b e : Nat) (w : Word) (d : Dev) : (noteGx k b e w d).ctr = d.ctr := by
  unfold noteGx; split <;> simp

@[simp] theorem noteG_pins (k b : Nat) (d : Dev) : (noteG k b d).pins = d.pins := noteGx_pins k b 0 0 d
@[simp] theorem noteG_flash (k b : Nat) (d : Dev) : (noteG k b d).flash = d.flash := noteGx_flash k b 0 0 d
@[simp] theorem noteG_otp (k b : Nat) (d : Dev) : (noteG k b d).otp = d.otp := noteGx_otp k b 0 0 d
@[simp] theorem noteG_boot (k b : Nat) (d : Dev) : (noteG k b d).boot = d.boot := noteGx_boot k b 0 0 d
@[simp] theorem noteG_lc (k b : Nat) (d : Dev) : (noteG k b d).lc = d.lc := noteGx_lc k b 0 0 d
@[simp] theorem noteG_cfg (k b : Nat) (d : Dev) : (noteG k b d).cfg = d.cfg := noteGx_cfg k b 0 0 d
@[simp] theorem noteG_chans (k b : Nat) (d : Dev) : (noteG k b d).chans = d.chans := noteGx_chans k b 0 0 d
@[simp] theorem noteG_pool (k b : Nat) (d : Dev) : (noteG k b d).pool = d.pool := noteGx_pool k b 0 0 d
@[simp] theorem noteG_sched (k b : Nat) (d : Dev) : (noteG k b d).sched = d.sched := noteGx_sched k b 0 0 d
@[simp] theorem noteG_engines (k b : Nat) (d : Dev) : (noteG k b d).engines = d.engines := noteGx_engines k b 0 0 d
@[simp] theorem noteG_cores (k b : Nat) (d : Dev) : (noteG k b d).cores = d.cores := noteGx_cores k b 0 0 d
@[simp] theorem noteG_drbg (k b : Nat) (d : Dev) : (noteG k b d).drbg = d.drbg := noteGx_drbg k b 0 0 d
@[simp] theorem noteG_entropy (k b : Nat) (d : Dev) : (noteG k b d).entropy = d.entropy := noteGx_entropy k b 0 0 d
@[simp] theorem noteG_presig (k b : Nat) (d : Dev) : (noteG k b d).presig = d.presig := noteGx_presig k b 0 0 d
@[simp] theorem noteG_ks (k b : Nat) (d : Dev) : (noteG k b d).ks = d.ks := noteGx_ks k b 0 0 d
@[simp] theorem noteG_gate (k b : Nat) (d : Dev) : (noteG k b d).gate = d.gate := noteGx_gate k b 0 0 d
@[simp] theorem noteG_phrases (k b : Nat) (d : Dev) : (noteG k b d).phrases = d.phrases := noteGx_phrases k b 0 0 d
@[simp] theorem noteG_power (k b : Nat) (d : Dev) : (noteG k b d).power = d.power := noteGx_power k b 0 0 d
@[simp] theorem noteG_supply (k b : Nat) (d : Dev) : (noteG k b d).supply = d.supply := noteGx_supply k b 0 0 d
@[simp] theorem noteG_clocks (k b : Nat) (d : Dev) : (noteG k b d).clocks = d.clocks := noteGx_clocks k b 0 0 d
@[simp] theorem noteG_rst (k b : Nat) (d : Dev) : (noteG k b d).rst = d.rst := noteGx_rst k b 0 0 d
@[simp] theorem noteG_ctr (k b : Nat) (d : Dev) : (noteG k b d).ctr = d.ctr := noteGx_ctr k b 0 0 d

@[simp] theorem noteLink_pins (p : Port) (b : Nat) (d : Dev) : (noteLink p b d).pins = d.pins := by
  unfold noteLink; simp
@[simp] theorem noteLink_flash (p : Port) (b : Nat) (d : Dev) : (noteLink p b d).flash = d.flash := by
  unfold noteLink; simp
@[simp] theorem noteLink_otp (p : Port) (b : Nat) (d : Dev) : (noteLink p b d).otp = d.otp := by
  unfold noteLink; simp
@[simp] theorem noteLink_boot (p : Port) (b : Nat) (d : Dev) : (noteLink p b d).boot = d.boot := by
  unfold noteLink; simp
@[simp] theorem noteLink_lc (p : Port) (b : Nat) (d : Dev) : (noteLink p b d).lc = d.lc := by
  unfold noteLink; simp
@[simp] theorem noteLink_cfg (p : Port) (b : Nat) (d : Dev) : (noteLink p b d).cfg = d.cfg := by
  unfold noteLink; simp
@[simp] theorem noteLink_chans (p : Port) (b : Nat) (d : Dev) : (noteLink p b d).chans = d.chans := by
  unfold noteLink; simp
@[simp] theorem noteLink_pool (p : Port) (b : Nat) (d : Dev) : (noteLink p b d).pool = d.pool := by
  unfold noteLink; simp
@[simp] theorem noteLink_sched (p : Port) (b : Nat) (d : Dev) : (noteLink p b d).sched = d.sched := by
  unfold noteLink; simp
@[simp] theorem noteLink_engines (p : Port) (b : Nat) (d : Dev) : (noteLink p b d).engines = d.engines := by
  unfold noteLink; simp
@[simp] theorem noteLink_cores (p : Port) (b : Nat) (d : Dev) : (noteLink p b d).cores = d.cores := by
  unfold noteLink; simp
@[simp] theorem noteLink_drbg (p : Port) (b : Nat) (d : Dev) : (noteLink p b d).drbg = d.drbg := by
  unfold noteLink; simp
@[simp] theorem noteLink_entropy (p : Port) (b : Nat) (d : Dev) : (noteLink p b d).entropy = d.entropy := by
  unfold noteLink; simp
@[simp] theorem noteLink_presig (p : Port) (b : Nat) (d : Dev) : (noteLink p b d).presig = d.presig := by
  unfold noteLink; simp
@[simp] theorem noteLink_ks (p : Port) (b : Nat) (d : Dev) : (noteLink p b d).ks = d.ks := by
  unfold noteLink; simp
@[simp] theorem noteLink_gate (p : Port) (b : Nat) (d : Dev) : (noteLink p b d).gate = d.gate := by
  unfold noteLink; simp
@[simp] theorem noteLink_phrases (p : Port) (b : Nat) (d : Dev) : (noteLink p b d).phrases = d.phrases := by
  unfold noteLink; simp
@[simp] theorem noteLink_power (p : Port) (b : Nat) (d : Dev) : (noteLink p b d).power = d.power := by
  unfold noteLink; simp
@[simp] theorem noteLink_supply (p : Port) (b : Nat) (d : Dev) : (noteLink p b d).supply = d.supply := by
  unfold noteLink; simp
@[simp] theorem noteLink_clocks (p : Port) (b : Nat) (d : Dev) : (noteLink p b d).clocks = d.clocks := by
  unfold noteLink; simp
@[simp] theorem noteLink_rst (p : Port) (b : Nat) (d : Dev) : (noteLink p b d).rst = d.rst := by
  unfold noteLink; simp
@[simp] theorem noteLink_ctr (p : Port) (b : Nat) (d : Dev) : (noteLink p b d).ctr = d.ctr := by
  unfold noteLink; simp

@[simp] theorem noteCh_pins (n : Chn) (b e : Nat) (w : Word) (d : Dev) : (noteCh n b e w d).pins = d.pins := by
  unfold noteCh; split <;> simp
@[simp] theorem noteCh_flash (n : Chn) (b e : Nat) (w : Word) (d : Dev) : (noteCh n b e w d).flash = d.flash := by
  unfold noteCh; split <;> simp
@[simp] theorem noteCh_otp (n : Chn) (b e : Nat) (w : Word) (d : Dev) : (noteCh n b e w d).otp = d.otp := by
  unfold noteCh; split <;> simp
@[simp] theorem noteCh_boot (n : Chn) (b e : Nat) (w : Word) (d : Dev) : (noteCh n b e w d).boot = d.boot := by
  unfold noteCh; split <;> simp
@[simp] theorem noteCh_lc (n : Chn) (b e : Nat) (w : Word) (d : Dev) : (noteCh n b e w d).lc = d.lc := by
  unfold noteCh; split <;> simp
@[simp] theorem noteCh_cfg (n : Chn) (b e : Nat) (w : Word) (d : Dev) : (noteCh n b e w d).cfg = d.cfg := by
  unfold noteCh; split <;> simp
@[simp] theorem noteCh_pool (n : Chn) (b e : Nat) (w : Word) (d : Dev) : (noteCh n b e w d).pool = d.pool := by
  unfold noteCh; split <;> simp
@[simp] theorem noteCh_sched (n : Chn) (b e : Nat) (w : Word) (d : Dev) : (noteCh n b e w d).sched = d.sched := by
  unfold noteCh; split <;> simp
@[simp] theorem noteCh_engines (n : Chn) (b e : Nat) (w : Word) (d : Dev) : (noteCh n b e w d).engines = d.engines := by
  unfold noteCh; split <;> simp
@[simp] theorem noteCh_cores (n : Chn) (b e : Nat) (w : Word) (d : Dev) : (noteCh n b e w d).cores = d.cores := by
  unfold noteCh; split <;> simp
@[simp] theorem noteCh_drbg (n : Chn) (b e : Nat) (w : Word) (d : Dev) : (noteCh n b e w d).drbg = d.drbg := by
  unfold noteCh; split <;> simp
@[simp] theorem noteCh_entropy (n : Chn) (b e : Nat) (w : Word) (d : Dev) : (noteCh n b e w d).entropy = d.entropy := by
  unfold noteCh; split <;> simp
@[simp] theorem noteCh_presig (n : Chn) (b e : Nat) (w : Word) (d : Dev) : (noteCh n b e w d).presig = d.presig := by
  unfold noteCh; split <;> simp
@[simp] theorem noteCh_ks (n : Chn) (b e : Nat) (w : Word) (d : Dev) : (noteCh n b e w d).ks = d.ks := by
  unfold noteCh; split <;> simp
@[simp] theorem noteCh_gate (n : Chn) (b e : Nat) (w : Word) (d : Dev) : (noteCh n b e w d).gate = d.gate := by
  unfold noteCh; split <;> simp
@[simp] theorem noteCh_phrases (n : Chn) (b e : Nat) (w : Word) (d : Dev) : (noteCh n b e w d).phrases = d.phrases := by
  unfold noteCh; split <;> simp
@[simp] theorem noteCh_power (n : Chn) (b e : Nat) (w : Word) (d : Dev) : (noteCh n b e w d).power = d.power := by
  unfold noteCh; split <;> simp
@[simp] theorem noteCh_supply (n : Chn) (b e : Nat) (w : Word) (d : Dev) : (noteCh n b e w d).supply = d.supply := by
  unfold noteCh; split <;> simp
@[simp] theorem noteCh_clocks (n : Chn) (b e : Nat) (w : Word) (d : Dev) : (noteCh n b e w d).clocks = d.clocks := by
  unfold noteCh; split <;> simp
@[simp] theorem noteCh_rst (n : Chn) (b e : Nat) (w : Word) (d : Dev) : (noteCh n b e w d).rst = d.rst := by
  unfold noteCh; split <;> simp
@[simp] theorem noteCh_ctr (n : Chn) (b e : Nat) (w : Word) (d : Dev) : (noteCh n b e w d).ctr = d.ctr := by
  unfold noteCh; split <;> simp

@[simp] theorem raiseWhy_pins (b e : Nat) (d : Dev) : (raiseWhy b e d).pins = d.pins := by
  unfold raiseWhy; split <;> simp
@[simp] theorem raiseWhy_flash (b e : Nat) (d : Dev) : (raiseWhy b e d).flash = d.flash := by
  unfold raiseWhy; split <;> simp
@[simp] theorem raiseWhy_otp (b e : Nat) (d : Dev) : (raiseWhy b e d).otp = d.otp := by
  unfold raiseWhy; split <;> simp
@[simp] theorem raiseWhy_boot (b e : Nat) (d : Dev) : (raiseWhy b e d).boot = d.boot := by
  unfold raiseWhy; split <;> simp
@[simp] theorem raiseWhy_lc (b e : Nat) (d : Dev) : (raiseWhy b e d).lc = d.lc := by
  unfold raiseWhy; split <;> simp
@[simp] theorem raiseWhy_cfg (b e : Nat) (d : Dev) : (raiseWhy b e d).cfg = d.cfg := by
  unfold raiseWhy; split <;> simp
@[simp] theorem raiseWhy_chans (b e : Nat) (d : Dev) : (raiseWhy b e d).chans = d.chans := by
  unfold raiseWhy; split <;> simp
@[simp] theorem raiseWhy_pool (b e : Nat) (d : Dev) : (raiseWhy b e d).pool = d.pool := by
  unfold raiseWhy; split <;> simp
@[simp] theorem raiseWhy_sched (b e : Nat) (d : Dev) : (raiseWhy b e d).sched = d.sched := by
  unfold raiseWhy; split <;> simp
@[simp] theorem raiseWhy_engines (b e : Nat) (d : Dev) : (raiseWhy b e d).engines = d.engines := by
  unfold raiseWhy; split <;> simp
@[simp] theorem raiseWhy_cores (b e : Nat) (d : Dev) : (raiseWhy b e d).cores = d.cores := by
  unfold raiseWhy; split <;> simp
@[simp] theorem raiseWhy_drbg (b e : Nat) (d : Dev) : (raiseWhy b e d).drbg = d.drbg := by
  unfold raiseWhy; split <;> simp
@[simp] theorem raiseWhy_entropy (b e : Nat) (d : Dev) : (raiseWhy b e d).entropy = d.entropy := by
  unfold raiseWhy; split <;> simp
@[simp] theorem raiseWhy_presig (b e : Nat) (d : Dev) : (raiseWhy b e d).presig = d.presig := by
  unfold raiseWhy; split <;> simp
@[simp] theorem raiseWhy_ks (b e : Nat) (d : Dev) : (raiseWhy b e d).ks = d.ks := by
  unfold raiseWhy; split <;> simp
@[simp] theorem raiseWhy_gate (b e : Nat) (d : Dev) : (raiseWhy b e d).gate = d.gate := by
  unfold raiseWhy; split <;> simp
@[simp] theorem raiseWhy_phrases (b e : Nat) (d : Dev) : (raiseWhy b e d).phrases = d.phrases := by
  unfold raiseWhy; split <;> simp
@[simp] theorem raiseWhy_power (b e : Nat) (d : Dev) : (raiseWhy b e d).power = d.power := by
  unfold raiseWhy; split <;> simp
@[simp] theorem raiseWhy_supply (b e : Nat) (d : Dev) : (raiseWhy b e d).supply = d.supply := by
  unfold raiseWhy; split <;> simp
@[simp] theorem raiseWhy_clocks (b e : Nat) (d : Dev) : (raiseWhy b e d).clocks = d.clocks := by
  unfold raiseWhy; split <;> simp
@[simp] theorem raiseWhy_rst (b e : Nat) (d : Dev) : (raiseWhy b e d).rst = d.rst := by
  unfold raiseWhy; split <;> simp
@[simp] theorem raiseWhy_ctr (b e : Nat) (d : Dev) : (raiseWhy b e d).ctr = d.ctr := by
  unfold raiseWhy; split <;> simp

@[simp] theorem judgeFault24_pins (b : Nat) (d : Dev) : (judgeFault24 b d).pins = d.pins := by
  unfold judgeFault24; split <;> simp
@[simp] theorem judgeFault24_flash (b : Nat) (d : Dev) : (judgeFault24 b d).flash = d.flash := by
  unfold judgeFault24; split <;> simp
@[simp] theorem judgeFault24_otp (b : Nat) (d : Dev) : (judgeFault24 b d).otp = d.otp := by
  unfold judgeFault24; split <;> simp
@[simp] theorem judgeFault24_boot (b : Nat) (d : Dev) : (judgeFault24 b d).boot = d.boot := by
  unfold judgeFault24; split <;> simp
@[simp] theorem judgeFault24_lc (b : Nat) (d : Dev) : (judgeFault24 b d).lc = d.lc := by
  unfold judgeFault24; split <;> simp
@[simp] theorem judgeFault24_cfg (b : Nat) (d : Dev) : (judgeFault24 b d).cfg = d.cfg := by
  unfold judgeFault24; split <;> simp
@[simp] theorem judgeFault24_chans (b : Nat) (d : Dev) : (judgeFault24 b d).chans = d.chans := by
  unfold judgeFault24; split <;> simp
@[simp] theorem judgeFault24_pool (b : Nat) (d : Dev) : (judgeFault24 b d).pool = d.pool := by
  unfold judgeFault24; split <;> simp
@[simp] theorem judgeFault24_sched (b : Nat) (d : Dev) : (judgeFault24 b d).sched = d.sched := by
  unfold judgeFault24; split <;> simp
@[simp] theorem judgeFault24_engines (b : Nat) (d : Dev) : (judgeFault24 b d).engines = d.engines := by
  unfold judgeFault24; split <;> simp
@[simp] theorem judgeFault24_cores (b : Nat) (d : Dev) : (judgeFault24 b d).cores = d.cores := by
  unfold judgeFault24; split <;> simp
@[simp] theorem judgeFault24_drbg (b : Nat) (d : Dev) : (judgeFault24 b d).drbg = d.drbg := by
  unfold judgeFault24; split <;> simp
@[simp] theorem judgeFault24_entropy (b : Nat) (d : Dev) : (judgeFault24 b d).entropy = d.entropy := by
  unfold judgeFault24; split <;> simp
@[simp] theorem judgeFault24_presig (b : Nat) (d : Dev) : (judgeFault24 b d).presig = d.presig := by
  unfold judgeFault24; split <;> simp
@[simp] theorem judgeFault24_ks (b : Nat) (d : Dev) : (judgeFault24 b d).ks = d.ks := by
  unfold judgeFault24; split <;> simp
@[simp] theorem judgeFault24_gate (b : Nat) (d : Dev) : (judgeFault24 b d).gate = d.gate := by
  unfold judgeFault24; split <;> simp
@[simp] theorem judgeFault24_phrases (b : Nat) (d : Dev) : (judgeFault24 b d).phrases = d.phrases := by
  unfold judgeFault24; split <;> simp
@[simp] theorem judgeFault24_power (b : Nat) (d : Dev) : (judgeFault24 b d).power = d.power := by
  unfold judgeFault24; split <;> simp
@[simp] theorem judgeFault24_supply (b : Nat) (d : Dev) : (judgeFault24 b d).supply = d.supply := by
  unfold judgeFault24; split <;> simp
@[simp] theorem judgeFault24_clocks (b : Nat) (d : Dev) : (judgeFault24 b d).clocks = d.clocks := by
  unfold judgeFault24; split <;> simp
@[simp] theorem judgeFault24_rst (b : Nat) (d : Dev) : (judgeFault24 b d).rst = d.rst := by
  unfold judgeFault24; split <;> simp
@[simp] theorem judgeFault24_ctr (b : Nat) (d : Dev) : (judgeFault24 b d).ctr = d.ctr := by
  unfold judgeFault24; split <;> simp

@[simp] theorem stampFault_pins (d : Dev) : (stampFault d).pins = d.pins := by
  unfold stampFault; simp
@[simp] theorem stampFault_flash (d : Dev) : (stampFault d).flash = d.flash := by
  unfold stampFault; simp
@[simp] theorem stampFault_otp (d : Dev) : (stampFault d).otp = d.otp := by
  unfold stampFault; simp
@[simp] theorem stampFault_boot (d : Dev) : (stampFault d).boot = d.boot := by
  unfold stampFault; simp
@[simp] theorem stampFault_lc (d : Dev) : (stampFault d).lc = d.lc := by
  unfold stampFault; simp
@[simp] theorem stampFault_cfg (d : Dev) : (stampFault d).cfg = d.cfg := by
  unfold stampFault; simp
@[simp] theorem stampFault_chans (d : Dev) : (stampFault d).chans = d.chans := by
  unfold stampFault; simp
@[simp] theorem stampFault_pool (d : Dev) : (stampFault d).pool = d.pool := by
  unfold stampFault; simp
@[simp] theorem stampFault_sched (d : Dev) : (stampFault d).sched = d.sched := by
  unfold stampFault; simp
@[simp] theorem stampFault_engines (d : Dev) : (stampFault d).engines = d.engines := by
  unfold stampFault; simp
@[simp] theorem stampFault_cores (d : Dev) : (stampFault d).cores = d.cores := by
  unfold stampFault; simp
@[simp] theorem stampFault_drbg (d : Dev) : (stampFault d).drbg = d.drbg := by
  unfold stampFault; simp
@[simp] theorem stampFault_entropy (d : Dev) : (stampFault d).entropy = d.entropy := by
  unfold stampFault; simp
@[simp] theorem stampFault_presig (d : Dev) : (stampFault d).presig = d.presig := by
  unfold stampFault; simp
@[simp] theorem stampFault_ks (d : Dev) : (stampFault d).ks = d.ks := by
  unfold stampFault; simp
@[simp] theorem stampFault_gate (d : Dev) : (stampFault d).gate = d.gate := by
  unfold stampFault; simp
@[simp] theorem stampFault_phrases (d : Dev) : (stampFault d).phrases = d.phrases := by
  unfold stampFault; simp
@[simp] theorem stampFault_power (d : Dev) : (stampFault d).power = d.power := by
  unfold stampFault; simp
@[simp] theorem stampFault_supply (d : Dev) : (stampFault d).supply = d.supply := by
  unfold stampFault; simp
@[simp] theorem stampFault_clocks (d : Dev) : (stampFault d).clocks = d.clocks := by
  unfold stampFault; simp
@[simp] theorem stampFault_rst (d : Dev) : (stampFault d).rst = d.rst := by
  unfold stampFault; simp
@[simp] theorem stampFault_ctr (d : Dev) : (stampFault d).ctr = d.ctr := by
  unfold stampFault; simp

@[simp] theorem noteUncorrectable_pins (o : Option Chn) (e : Nat) (w : Word) (d : Dev) : (noteUncorrectable o e w d).pins = d.pins := by
  unfold noteUncorrectable; cases o <;> simp
@[simp] theorem noteUncorrectable_flash (o : Option Chn) (e : Nat) (w : Word) (d : Dev) : (noteUncorrectable o e w d).flash = d.flash := by
  unfold noteUncorrectable; cases o <;> simp
@[simp] theorem noteUncorrectable_otp (o : Option Chn) (e : Nat) (w : Word) (d : Dev) : (noteUncorrectable o e w d).otp = d.otp := by
  unfold noteUncorrectable; cases o <;> simp
@[simp] theorem noteUncorrectable_boot (o : Option Chn) (e : Nat) (w : Word) (d : Dev) : (noteUncorrectable o e w d).boot = d.boot := by
  unfold noteUncorrectable; cases o <;> simp
@[simp] theorem noteUncorrectable_lc (o : Option Chn) (e : Nat) (w : Word) (d : Dev) : (noteUncorrectable o e w d).lc = d.lc := by
  unfold noteUncorrectable; cases o <;> simp
@[simp] theorem noteUncorrectable_cfg (o : Option Chn) (e : Nat) (w : Word) (d : Dev) : (noteUncorrectable o e w d).cfg = d.cfg := by
  unfold noteUncorrectable; cases o <;> simp
@[simp] theorem noteUncorrectable_pool (o : Option Chn) (e : Nat) (w : Word) (d : Dev) : (noteUncorrectable o e w d).pool = d.pool := by
  unfold noteUncorrectable; cases o <;> simp
@[simp] theorem noteUncorrectable_sched (o : Option Chn) (e : Nat) (w : Word) (d : Dev) : (noteUncorrectable o e w d).sched = d.sched := by
  unfold noteUncorrectable; cases o <;> simp
@[simp] theorem noteUncorrectable_engines (o : Option Chn) (e : Nat) (w : Word) (d : Dev) : (noteUncorrectable o e w d).engines = d.engines := by
  unfold noteUncorrectable; cases o <;> simp
@[simp] theorem noteUncorrectable_cores (o : Option Chn) (e : Nat) (w : Word) (d : Dev) : (noteUncorrectable o e w d).cores = d.cores := by
  unfold noteUncorrectable; cases o <;> simp
@[simp] theorem noteUncorrectable_drbg (o : Option Chn) (e : Nat) (w : Word) (d : Dev) : (noteUncorrectable o e w d).drbg = d.drbg := by
  unfold noteUncorrectable; cases o <;> simp
@[simp] theorem noteUncorrectable_entropy (o : Option Chn) (e : Nat) (w : Word) (d : Dev) : (noteUncorrectable o e w d).entropy = d.entropy := by
  unfold noteUncorrectable; cases o <;> simp
@[simp] theorem noteUncorrectable_presig (o : Option Chn) (e : Nat) (w : Word) (d : Dev) : (noteUncorrectable o e w d).presig = d.presig := by
  unfold noteUncorrectable; cases o <;> simp
@[simp] theorem noteUncorrectable_ks (o : Option Chn) (e : Nat) (w : Word) (d : Dev) : (noteUncorrectable o e w d).ks = d.ks := by
  unfold noteUncorrectable; cases o <;> simp
@[simp] theorem noteUncorrectable_gate (o : Option Chn) (e : Nat) (w : Word) (d : Dev) : (noteUncorrectable o e w d).gate = d.gate := by
  unfold noteUncorrectable; cases o <;> simp
@[simp] theorem noteUncorrectable_phrases (o : Option Chn) (e : Nat) (w : Word) (d : Dev) : (noteUncorrectable o e w d).phrases = d.phrases := by
  unfold noteUncorrectable; cases o <;> simp
@[simp] theorem noteUncorrectable_power (o : Option Chn) (e : Nat) (w : Word) (d : Dev) : (noteUncorrectable o e w d).power = d.power := by
  unfold noteUncorrectable; cases o <;> simp
@[simp] theorem noteUncorrectable_supply (o : Option Chn) (e : Nat) (w : Word) (d : Dev) : (noteUncorrectable o e w d).supply = d.supply := by
  unfold noteUncorrectable; cases o <;> simp
@[simp] theorem noteUncorrectable_clocks (o : Option Chn) (e : Nat) (w : Word) (d : Dev) : (noteUncorrectable o e w d).clocks = d.clocks := by
  unfold noteUncorrectable; cases o <;> simp
@[simp] theorem noteUncorrectable_rst (o : Option Chn) (e : Nat) (w : Word) (d : Dev) : (noteUncorrectable o e w d).rst = d.rst := by
  unfold noteUncorrectable; cases o <;> simp
@[simp] theorem noteUncorrectable_ctr (o : Option Chn) (e : Nat) (w : Word) (d : Dev) : (noteUncorrectable o e w d).ctr = d.ctr := by
  unfold noteUncorrectable; cases o <;> simp

@[simp] theorem noteCorrected_pins (d : Dev) : (noteCorrected d).pins = d.pins := by
  unfold noteCorrected; simp
@[simp] theorem noteCorrected_flash (d : Dev) : (noteCorrected d).flash = d.flash := by
  unfold noteCorrected; simp
@[simp] theorem noteCorrected_otp (d : Dev) : (noteCorrected d).otp = d.otp := by
  unfold noteCorrected; simp
@[simp] theorem noteCorrected_boot (d : Dev) : (noteCorrected d).boot = d.boot := by
  unfold noteCorrected; simp
@[simp] theorem noteCorrected_lc (d : Dev) : (noteCorrected d).lc = d.lc := by
  unfold noteCorrected; simp
@[simp] theorem noteCorrected_cfg (d : Dev) : (noteCorrected d).cfg = d.cfg := by
  unfold noteCorrected; simp
@[simp] theorem noteCorrected_chans (d : Dev) : (noteCorrected d).chans = d.chans := by
  unfold noteCorrected; simp
@[simp] theorem noteCorrected_pool (d : Dev) : (noteCorrected d).pool = d.pool := by
  unfold noteCorrected; simp
@[simp] theorem noteCorrected_sched (d : Dev) : (noteCorrected d).sched = d.sched := by
  unfold noteCorrected; simp
@[simp] theorem noteCorrected_engines (d : Dev) : (noteCorrected d).engines = d.engines := by
  unfold noteCorrected; simp
@[simp] theorem noteCorrected_cores (d : Dev) : (noteCorrected d).cores = d.cores := by
  unfold noteCorrected; simp
@[simp] theorem noteCorrected_drbg (d : Dev) : (noteCorrected d).drbg = d.drbg := by
  unfold noteCorrected; simp
@[simp] theorem noteCorrected_entropy (d : Dev) : (noteCorrected d).entropy = d.entropy := by
  unfold noteCorrected; simp
@[simp] theorem noteCorrected_presig (d : Dev) : (noteCorrected d).presig = d.presig := by
  unfold noteCorrected; simp
@[simp] theorem noteCorrected_ks (d : Dev) : (noteCorrected d).ks = d.ks := by
  unfold noteCorrected; simp
@[simp] theorem noteCorrected_gate (d : Dev) : (noteCorrected d).gate = d.gate := by
  unfold noteCorrected; simp
@[simp] theorem noteCorrected_phrases (d : Dev) : (noteCorrected d).phrases = d.phrases := by
  unfold noteCorrected; simp
@[simp] theorem noteCorrected_power (d : Dev) : (noteCorrected d).power = d.power := by
  unfold noteCorrected; simp
@[simp] theorem noteCorrected_supply (d : Dev) : (noteCorrected d).supply = d.supply := by
  unfold noteCorrected; simp
@[simp] theorem noteCorrected_clocks (d : Dev) : (noteCorrected d).clocks = d.clocks := by
  unfold noteCorrected; simp
@[simp] theorem noteCorrected_rst (d : Dev) : (noteCorrected d).rst = d.rst := by
  unfold noteCorrected; simp
@[simp] theorem noteCorrected_ctr (d : Dev) : (noteCorrected d).ctr = d.ctr := by
  unfold noteCorrected; simp

@[simp] theorem noteInvar_pins (e : Nat) (w : Word) (d : Dev) : (noteInvar e w d).pins = d.pins := by
  unfold noteInvar; simp
@[simp] theorem noteInvar_flash (e : Nat) (w : Word) (d : Dev) : (noteInvar e w d).flash = d.flash := by
  unfold noteInvar; simp
@[simp] theorem noteInvar_otp (e : Nat) (w : Word) (d : Dev) : (noteInvar e w d).otp = d.otp := by
  unfold noteInvar; simp
@[simp] theorem noteInvar_boot (e : Nat) (w : Word) (d : Dev) : (noteInvar e w d).boot = d.boot := by
  unfold noteInvar; simp
@[simp] theorem noteInvar_lc (e : Nat) (w : Word) (d : Dev) : (noteInvar e w d).lc = d.lc := by
  unfold noteInvar; simp
@[simp] theorem noteInvar_cfg (e : Nat) (w : Word) (d : Dev) : (noteInvar e w d).cfg = d.cfg := by
  unfold noteInvar; simp
@[simp] theorem noteInvar_chans (e : Nat) (w : Word) (d : Dev) : (noteInvar e w d).chans = d.chans := by
  unfold noteInvar; simp
@[simp] theorem noteInvar_pool (e : Nat) (w : Word) (d : Dev) : (noteInvar e w d).pool = d.pool := by
  unfold noteInvar; simp
@[simp] theorem noteInvar_sched (e : Nat) (w : Word) (d : Dev) : (noteInvar e w d).sched = d.sched := by
  unfold noteInvar; simp
@[simp] theorem noteInvar_engines (e : Nat) (w : Word) (d : Dev) : (noteInvar e w d).engines = d.engines := by
  unfold noteInvar; simp
@[simp] theorem noteInvar_cores (e : Nat) (w : Word) (d : Dev) : (noteInvar e w d).cores = d.cores := by
  unfold noteInvar; simp
@[simp] theorem noteInvar_drbg (e : Nat) (w : Word) (d : Dev) : (noteInvar e w d).drbg = d.drbg := by
  unfold noteInvar; simp
@[simp] theorem noteInvar_entropy (e : Nat) (w : Word) (d : Dev) : (noteInvar e w d).entropy = d.entropy := by
  unfold noteInvar; simp
@[simp] theorem noteInvar_presig (e : Nat) (w : Word) (d : Dev) : (noteInvar e w d).presig = d.presig := by
  unfold noteInvar; simp
@[simp] theorem noteInvar_ks (e : Nat) (w : Word) (d : Dev) : (noteInvar e w d).ks = d.ks := by
  unfold noteInvar; simp
@[simp] theorem noteInvar_gate (e : Nat) (w : Word) (d : Dev) : (noteInvar e w d).gate = d.gate := by
  unfold noteInvar; simp
@[simp] theorem noteInvar_phrases (e : Nat) (w : Word) (d : Dev) : (noteInvar e w d).phrases = d.phrases := by
  unfold noteInvar; simp
@[simp] theorem noteInvar_power (e : Nat) (w : Word) (d : Dev) : (noteInvar e w d).power = d.power := by
  unfold noteInvar; simp
@[simp] theorem noteInvar_supply (e : Nat) (w : Word) (d : Dev) : (noteInvar e w d).supply = d.supply := by
  unfold noteInvar; simp
@[simp] theorem noteInvar_clocks (e : Nat) (w : Word) (d : Dev) : (noteInvar e w d).clocks = d.clocks := by
  unfold noteInvar; simp
@[simp] theorem noteInvar_rst (e : Nat) (w : Word) (d : Dev) : (noteInvar e w d).rst = d.rst := by
  unfold noteInvar; simp
@[simp] theorem noteInvar_ctr (e : Nat) (w : Word) (d : Dev) : (noteInvar e w d).ctr = d.ctr := by
  unfold noteInvar; simp

@[simp] theorem noteSlotFail_pins (d : Dev) : (noteSlotFail d).pins = d.pins := by
  unfold noteSlotFail; simp
@[simp] theorem noteSlotFail_flash (d : Dev) : (noteSlotFail d).flash = d.flash := by
  unfold noteSlotFail; simp
@[simp] theorem noteSlotFail_otp (d : Dev) : (noteSlotFail d).otp = d.otp := by
  unfold noteSlotFail; simp
@[simp] theorem noteSlotFail_boot (d : Dev) : (noteSlotFail d).boot = d.boot := by
  unfold noteSlotFail; simp
@[simp] theorem noteSlotFail_lc (d : Dev) : (noteSlotFail d).lc = d.lc := by
  unfold noteSlotFail; simp
@[simp] theorem noteSlotFail_cfg (d : Dev) : (noteSlotFail d).cfg = d.cfg := by
  unfold noteSlotFail; simp
@[simp] theorem noteSlotFail_chans (d : Dev) : (noteSlotFail d).chans = d.chans := by
  unfold noteSlotFail; simp
@[simp] theorem noteSlotFail_pool (d : Dev) : (noteSlotFail d).pool = d.pool := by
  unfold noteSlotFail; simp
@[simp] theorem noteSlotFail_sched (d : Dev) : (noteSlotFail d).sched = d.sched := by
  unfold noteSlotFail; simp
@[simp] theorem noteSlotFail_engines (d : Dev) : (noteSlotFail d).engines = d.engines := by
  unfold noteSlotFail; simp
@[simp] theorem noteSlotFail_cores (d : Dev) : (noteSlotFail d).cores = d.cores := by
  unfold noteSlotFail; simp
@[simp] theorem noteSlotFail_drbg (d : Dev) : (noteSlotFail d).drbg = d.drbg := by
  unfold noteSlotFail; simp
@[simp] theorem noteSlotFail_entropy (d : Dev) : (noteSlotFail d).entropy = d.entropy := by
  unfold noteSlotFail; simp
@[simp] theorem noteSlotFail_presig (d : Dev) : (noteSlotFail d).presig = d.presig := by
  unfold noteSlotFail; simp
@[simp] theorem noteSlotFail_ks (d : Dev) : (noteSlotFail d).ks = d.ks := by
  unfold noteSlotFail; simp
@[simp] theorem noteSlotFail_gate (d : Dev) : (noteSlotFail d).gate = d.gate := by
  unfold noteSlotFail; simp
@[simp] theorem noteSlotFail_phrases (d : Dev) : (noteSlotFail d).phrases = d.phrases := by
  unfold noteSlotFail; simp
@[simp] theorem noteSlotFail_power (d : Dev) : (noteSlotFail d).power = d.power := by
  unfold noteSlotFail; simp
@[simp] theorem noteSlotFail_supply (d : Dev) : (noteSlotFail d).supply = d.supply := by
  unfold noteSlotFail; simp
@[simp] theorem noteSlotFail_clocks (d : Dev) : (noteSlotFail d).clocks = d.clocks := by
  unfold noteSlotFail; simp
@[simp] theorem noteSlotFail_rst (d : Dev) : (noteSlotFail d).rst = d.rst := by
  unfold noteSlotFail; simp
@[simp] theorem noteSlotFail_ctr (d : Dev) : (noteSlotFail d).ctr = d.ctr := by
  unfold noteSlotFail; simp

@[simp] theorem noteOtpErr_pins (d : Dev) : (noteOtpErr d).pins = d.pins := by
  unfold noteOtpErr; simp
@[simp] theorem noteOtpErr_flash (d : Dev) : (noteOtpErr d).flash = d.flash := by
  unfold noteOtpErr; simp
@[simp] theorem noteOtpErr_otp (d : Dev) : (noteOtpErr d).otp = d.otp := by
  unfold noteOtpErr; simp
@[simp] theorem noteOtpErr_boot (d : Dev) : (noteOtpErr d).boot = d.boot := by
  unfold noteOtpErr; simp
@[simp] theorem noteOtpErr_lc (d : Dev) : (noteOtpErr d).lc = d.lc := by
  unfold noteOtpErr; simp
@[simp] theorem noteOtpErr_cfg (d : Dev) : (noteOtpErr d).cfg = d.cfg := by
  unfold noteOtpErr; simp
@[simp] theorem noteOtpErr_chans (d : Dev) : (noteOtpErr d).chans = d.chans := by
  unfold noteOtpErr; simp
@[simp] theorem noteOtpErr_pool (d : Dev) : (noteOtpErr d).pool = d.pool := by
  unfold noteOtpErr; simp
@[simp] theorem noteOtpErr_sched (d : Dev) : (noteOtpErr d).sched = d.sched := by
  unfold noteOtpErr; simp
@[simp] theorem noteOtpErr_engines (d : Dev) : (noteOtpErr d).engines = d.engines := by
  unfold noteOtpErr; simp
@[simp] theorem noteOtpErr_cores (d : Dev) : (noteOtpErr d).cores = d.cores := by
  unfold noteOtpErr; simp
@[simp] theorem noteOtpErr_drbg (d : Dev) : (noteOtpErr d).drbg = d.drbg := by
  unfold noteOtpErr; simp
@[simp] theorem noteOtpErr_entropy (d : Dev) : (noteOtpErr d).entropy = d.entropy := by
  unfold noteOtpErr; simp
@[simp] theorem noteOtpErr_presig (d : Dev) : (noteOtpErr d).presig = d.presig := by
  unfold noteOtpErr; simp
@[simp] theorem noteOtpErr_ks (d : Dev) : (noteOtpErr d).ks = d.ks := by
  unfold noteOtpErr; simp
@[simp] theorem noteOtpErr_gate (d : Dev) : (noteOtpErr d).gate = d.gate := by
  unfold noteOtpErr; simp
@[simp] theorem noteOtpErr_phrases (d : Dev) : (noteOtpErr d).phrases = d.phrases := by
  unfold noteOtpErr; simp
@[simp] theorem noteOtpErr_power (d : Dev) : (noteOtpErr d).power = d.power := by
  unfold noteOtpErr; simp
@[simp] theorem noteOtpErr_supply (d : Dev) : (noteOtpErr d).supply = d.supply := by
  unfold noteOtpErr; simp
@[simp] theorem noteOtpErr_clocks (d : Dev) : (noteOtpErr d).clocks = d.clocks := by
  unfold noteOtpErr; simp
@[simp] theorem noteOtpErr_rst (d : Dev) : (noteOtpErr d).rst = d.rst := by
  unfold noteOtpErr; simp
@[simp] theorem noteOtpErr_ctr (d : Dev) : (noteOtpErr d).ctr = d.ctr := by
  unfold noteOtpErr; simp

end Sys2Proof.Machine
end

