-- ==== Sys2Proof/Laws/Step.lean ====
section
/-!
SUPPORT. What the wrappers of a command do, said once: a command that acts on the core answers the state after
its effect; a committed write that reaches its register; the parts of the core a command leaves.
-/

namespace Sys2Proof.Machine

/-! ### The state after an effect on the core -/

@[simp] theorem through_pins (f : Dev → Dev) (s : State) : (s.through f).dev.pins = (f s.dev).pins := settle_pins (f s.dev)
@[simp] theorem through_flash (f : Dev → Dev) (s : State) : (s.through f).dev.flash = (f s.dev).flash := settle_flash (f s.dev)
@[simp] theorem through_otp (f : Dev → Dev) (s : State) : (s.through f).dev.otp = (f s.dev).otp := settle_otp (f s.dev)
@[simp] theorem through_boot (f : Dev → Dev) (s : State) : (s.through f).dev.boot = (f s.dev).boot := settle_boot (f s.dev)
@[simp] theorem through_lc (f : Dev → Dev) (s : State) : (s.through f).dev.lc = (f s.dev).lc := settle_lc (f s.dev)
@[simp] theorem through_cfg (f : Dev → Dev) (s : State) : (s.through f).dev.cfg = (f s.dev).cfg := settle_cfg (f s.dev)
@[simp] theorem through_trouble (f : Dev → Dev) (s : State) : (s.through f).dev.trouble = (f s.dev).trouble := settle_trouble (f s.dev)
@[simp] theorem through_journal (f : Dev → Dev) (s : State) : (s.through f).dev.journal = (f s.dev).journal := settle_journal (f s.dev)
@[simp] theorem through_chans (f : Dev → Dev) (s : State) : (s.through f).dev.chans = (f s.dev).chans := settle_chans (f s.dev)
@[simp] theorem through_pool (f : Dev → Dev) (s : State) : (s.through f).dev.pool = (f s.dev).pool := settle_pool (f s.dev)
@[simp] theorem through_engines (f : Dev → Dev) (s : State) : (s.through f).dev.engines = (f s.dev).engines := settle_engines (f s.dev)
@[simp] theorem through_cores (f : Dev → Dev) (s : State) : (s.through f).dev.cores = (f s.dev).cores := settle_cores (f s.dev)
@[simp] theorem through_drbg (f : Dev → Dev) (s : State) : (s.through f).dev.drbg = (f s.dev).drbg := settle_drbg (f s.dev)
@[simp] theorem through_entropy (f : Dev → Dev) (s : State) : (s.through f).dev.entropy = (f s.dev).entropy := settle_entropy (f s.dev)
@[simp] theorem through_presig (f : Dev → Dev) (s : State) : (s.through f).dev.presig = (f s.dev).presig := settle_presig (f s.dev)
@[simp] theorem through_ks (f : Dev → Dev) (s : State) : (s.through f).dev.ks = (f s.dev).ks := settle_ks (f s.dev)
@[simp] theorem through_gate (f : Dev → Dev) (s : State) : (s.through f).dev.gate = (f s.dev).gate := settle_gate (f s.dev)
@[simp] theorem through_phrases (f : Dev → Dev) (s : State) : (s.through f).dev.phrases = (f s.dev).phrases := settle_phrases (f s.dev)
@[simp] theorem through_power (f : Dev → Dev) (s : State) : (s.through f).dev.power = (f s.dev).power := settle_power (f s.dev)
@[simp] theorem through_supply (f : Dev → Dev) (s : State) : (s.through f).dev.supply = (f s.dev).supply := settle_supply (f s.dev)
@[simp] theorem through_clocks (f : Dev → Dev) (s : State) : (s.through f).dev.clocks = (f s.dev).clocks := settle_clocks (f s.dev)
@[simp] theorem through_ctr (f : Dev → Dev) (s : State) : (s.through f).dev.ctr = (f s.dev).ctr := settle_ctr (f s.dev)
@[simp] theorem through_rst (f : Dev → Dev) (s : State) : (s.through f).dev.rst = .none := rfl
@[simp] theorem through_pending (f : Dev → Dev) (s : State) : (s.through f).pending = s.pending := rfl
@[simp] theorem through_chan (f : Dev → Dev) (s : State) (n : Chn) : (s.through f).dev.chan n = (f s.dev).chan n := rfl
@[simp] theorem reset_none (x : PortShell) : x.reset .none = x := rfl

theorem setCls_regs (x : Sched) (k : Cls) (c : ClassSched) :
    (x.setCls k c).cfg = x.cfg ∧ (x.setCls k c).weights = x.weights ∧ (x.setCls k c).rot = x.rot := by
  cases k <;> exact ⟨rfl, rfl, rfl⟩

/-- Settling the scheduler's books changes its tags alone. -/
theorem settle_regs (d : Dev) : (settle d).sched.cfg = d.sched.cfg ∧ (settle d).sched.weights = d.sched.weights
    ∧ (settle d).sched.rot = d.sched.rot := ⟨rfl, rfl, rfl⟩

@[simp] theorem through_schedCfg (f : Dev → Dev) (s : State) :
    (s.through f).dev.sched.cfg = (f s.dev).sched.cfg := rfl
@[simp] theorem through_weights (f : Dev → Dev) (s : State) :
    (s.through f).dev.sched.weights = (f s.dev).sched.weights := rfl
@[simp] theorem through_rot (f : Dev → Dev) (s : State) :
    (s.through f).dev.sched.rot = (f s.dev).sched.rot := rfl

/-- The shells are untouched by an effect that makes no reset. -/
theorem through_shell {f : Dev → Dev} {s : State} (h : (f s.dev).rst = .none) : (s.through f).shell = s.shell := by
  unfold State.through State.withDev
  have : (settle (f s.dev)).rst = .none := by rw [settle_rst, h]
  rw [this]
  rfl

/-- An effect that makes no reset leaves the queue and the shells. -/
theorem through_same {f : Dev → Dev} {s : State} (h : (f s.dev).rst = .none) : SameShell s (s.through f) :=
  ⟨rfl, through_shell h⟩

/-! ### The wrappers -/

/-- A command on the core answers the state after its effect. -/
theorem onDev_awake {f : Dev → Dev} {s : State} (h : s.awake) : onDev f s = .next (s.through f) := by
  simp [onDev, h.1]

theorem portWrite_takes {p : Port} {f : Dev → Dev} {s : State} (h : s.takes p) : portWrite p f s.dev = f s.dev := by
  obtain ⟨-, hr, he, ht⟩ := h
  cases p <;> simp_all [portWrite]

theorem through_congr {f g : Dev → Dev} {s : State} (h : f s.dev = g s.dev) : s.through f = s.through g := by
  simp [State.through, h]

/-- A committed write that reaches its register answers the state after its effect. -/
theorem onWrite_takes {p : Port} {f : Dev → Dev} {s : State} (h : s.takes p) : onWrite p f s = .next (s.through f) := by
  rw [onWrite, onDev_awake h.1, through_congr (portWrite_takes h)]

theorem onA_takes {f : Dev → Dev} {s : State} (h : s.takes .A) : onA .A f s = .next (s.through f) := by
  rw [onA, onWrite_takes h]
  rfl

theorem onPage_takes {n : Chn} {f : Dev → Dev} {s : State} (h : s.takes (s.dev.bound n)) :
    onPage n f s = .next (s.through f) := by
  rw [onPage, onDev_awake h.1]
  exact congrArg _ (through_congr (f := fun d => portWrite (d.bound n) f d) (portWrite_takes h))

theorem commits_takes {p : Port} {s : State} (h : s.takes p) : s.commits = true := by
  simp [State.commits, h.2.1, h.1.1]

/-! ### Frames -/

/-- A frame of an effect carries over to the state after the command. -/
theorem Keeps.through {ps : List Part} {f : Dev → Dev} {s : State} (h : Keeps ps s.dev (f s.dev)) :
    Keeps ps s.dev (s.through f).dev := by
  intro p hp ht
  have := h p hp ht
  cases p
  case tags => exact absurd rfl ht
  all_goals simpa only [Part.same, through_pins, through_flash, through_otp, through_boot, through_lc, through_cfg, through_trouble, through_journal, through_chans, through_pool, through_engines, through_cores, through_drbg, through_entropy, through_presig, through_ks, through_gate, through_phrases, through_power, through_supply, through_clocks, through_schedCfg, through_weights, through_rot] using this

theorem Keeps.refl (ps : List Part) (d : Dev) : Keeps ps d d := by
  intro p _ _
  cases p <;> simp [Part.same]

theorem Keeps.trans {ps : List Part} {d e f : Dev} (h : Keeps ps d e) (h' : Keeps ps e f) : Keeps ps d f := by
  intro p hp ht
  have a := h p hp ht
  have b := h' p hp ht
  cases p <;> simp_all [Part.same]

theorem Keeps.mono {ps qs : List Part} {d e : Dev} (h : Keeps ps d e) (hs : ∀ p ∈ ps, p ∈ qs) : Keeps qs d e :=
  fun p hp ht => h p (fun hm => hp (hs p hm)) ht

/-! ### Channels -/

@[simp] theorem chan_setChan_same (n : Chn) (c : Chan) (d : Dev) : (setChan n c d).chan n = c := by
  simp [setChan, Dev.chan]

theorem chan_setChan_other {n m : Chn} (h : m ≠ n) (c : Chan) (d : Dev) : (setChan n c d).chan m = d.chan m := by
  have : n.val ≠ m.val := fun e => h (Fin.ext e.symm)
  simp [setChan, Dev.chan, Vector.getElem_set_ne _ _ this]

@[simp] theorem chan_modChan_same (n : Chn) (f : Chan → Chan) (d : Dev) : (modChan n f d).chan n = f (d.chan n) :=
  chan_setChan_same n _ d

theorem chan_modChan_other {n m : Chn} (h : m ≠ n) (f : Chan → Chan) (d : Dev) :
    (modChan n f d).chan m = d.chan m := chan_setChan_other h _ d

/-- One channel changed, the others kept. -/
theorem ChanIs.modChan (n : Chn) (f : Chan → Chan) (d : Dev) : ChanIs n f d (modChan n f d) :=
  ⟨chan_modChan_same n f d, fun _ h => chan_modChan_other h f d⟩

theorem keeps_modChan (n : Chn) (f : Chan → Chan) (d : Dev) : Keeps [.chans] d (modChan n f d) := by
  intro p hp _
  cases p <;> simp [Part.same] at hp ⊢

theorem ChanIs.through {n : Chn} {g : Chan → Chan} {f : Dev → Dev} {s : State} (h : ChanIs n g s.dev (f s.dev)) :
    ChanIs n g s.dev (s.through f).dev := h

/-! ### The state after a command whose effect is known -/

theorem onDev_to {f : Dev → Dev} {s : State} (h : s.awake) {D : Dev} (e : f s.dev = D) : onDev f s = .next (s.through (fun _ => D)) := by
  rw [onDev_awake h, through_congr (g := fun _ => D) e]

theorem onPage_to {n : Chn} {f : Dev → Dev} {s : State} (h : s.takes (s.dev.bound n)) {D : Dev} (e : f s.dev = D) : onPage n f s = .next (s.through (fun _ => D)) := by
  rw [onPage_takes h, through_congr (g := fun _ => D) e]

theorem onWrite_to {p : Port} {f : Dev → Dev} {s : State} (h : s.takes p) {D : Dev} (e : f s.dev = D) : onWrite p f s = .next (s.through (fun _ => D)) := by
  rw [onWrite_takes h, through_congr (g := fun _ => D) e]

theorem onA_to {f : Dev → Dev} {s : State} (h : s.takes .A) {D : Dev} (e : f s.dev = D) : onA .A f s = .next (s.through (fun _ => D)) := by
  rw [onA_takes h, through_congr (g := fun _ => D) e]

theorem same_const {s : State} (h : s.awake) {D : Dev} (hf : D.rst = s.dev.rst) : SameShell s (s.through (fun _ => D)) :=
  through_same (by rw [hf, h.2])

theorem keeps_const {ps : List Part} {s : State} {D : Dev} (h : Keeps ps s.dev D) : Keeps ps s.dev (s.through (fun _ => D)).dev := Keeps.through h

theorem keeps_up {ps qs : List Part} {d e : Dev} (h : Keeps ps d e) (hs : ∀ p ∈ ps, p ∈ qs := by decide) : Keeps qs d e := h.mono hs

theorem chan_of {d e : Dev} (h : e.chans = d.chans) (n : Chn) : e.chan n = d.chan n := by simp [Dev.chan, h]

/-! ### Wakes, held records, the power-on reset -/

/-- Outside entry and STOP no source wakes anything (16 R386). -/
theorem wakes_run {d : Dev} (h : d.power.st = .run) (srcs : List Nat) : wakes srcs d = d := by
  unfold wakes
  simp [h]

/-- Sources recorded change WAKESTAT alone (16 R385). -/
theorem noteWake_power (srcs : List Nat) (d : Dev) : ∃ w, noteWake srcs d = modPow (fun p => { p with wakeStat := w }) d := by
  cases srcs with
  | nil => exact ⟨d.power.wakeStat, rfl⟩
  | cons b bs => exact ⟨_, rfl⟩

/-- At supply level 3 and above no quarantine record is written (17 R403). -/
theorem recordFailures_held {d : Dev} (h : 3 ≤ d.supply.level) (vfy : List Bool) : recordFailures vfy d = d := by
  unfold recordFailures
  simp [h]

/-- VIN below its threshold holds the power-on reset (19 R434). -/
theorem inPor_vinMoves {d : Dev} (h : d.pins.vin = true) : (vinMoves d).inPor = true := by
  unfold vinMoves Dev.inPor
  simp [h]

/-- While the power-on reset is asserted a command on the core changes nothing (19 R434). -/
theorem onDev_inPor {f : Dev → Dev} {s : State} (h : s.dev.inPor = true) : onDev f s = .next s := by
  unfold onDev
  rw [if_pos h]

end Sys2Proof.Machine
end

