-- ==== Sys2Proof/Laws/Ops.lean ====
section
/-!
SUPPORT. The records: a bit that is noted is set, and a record changes the sticky registers, the journal queue and,
where a channel is named, its CH_STICKY, and nothing else.
-/

namespace Sys2Proof.Machine

theorem bit_setBit {w : Word} {b : Nat} (h : b < 32) : bit (setBit w b) b = true := by
  simp [bit, setBit, h]

theorem bit_setBit_of {w : Word} {b c : Nat} (h : bit w c = true) : bit (setBit w b) c = true := by
  simp only [bit, setBit] at *
  simp [h]

theorem bit_or_setBit {w x : Word} {b c : Nat} (h : bit (w ||| x) c = true) : bit (setBit w b ||| x) c = true := by
  simp only [bit, setBit, BitVec.getLsbD_or, Bool.or_eq_true] at *
  rcases h with h | h <;> simp [h]

/-! ### The sticky registers under the records -/

/-- Queueing an entry sets at most JRNLERR of GSTICKY2. -/
theorem queueEntry_g (e : JEntry) (d : Dev) : (queueEntry e d).trouble = d.trouble
    ∨ (queueEntry e d).trouble = { d.trouble with g2 := setBit d.trouble.g2 12 } := by
  unfold queueEntry
  split
  · exact .inl rfl
  · exact .inr rfl

theorem queueEntry_bit {k b : Nat} (e : JEntry) {d : Dev} (h : bit (d.trouble.g k) b = true) :
    bit ((queueEntry e d).trouble.g k) b = true := by
  rcases queueEntry_g e d with h' | h' <;> rw [h']
  · exact h
  · unfold Trouble.g at *
    split at h <;> first | exact h | exact bit_setBit_of h

@[simp] theorem g_setG (t : Trouble) (w : Word) : ∀ k, (t.setG k w).g k = w
  | 0 => rfl
  | 1 => rfl
  | 2 => rfl
  | _ + 3 => rfl

theorem setG_bit (t : Trouble) (k b : Nat) (hb : b < 32) : bit ((t.setG k (setBit (t.g k) b)).g k) b = true := by
  rw [g_setG]
  exact bit_setBit hb

/-- A noted bit is set. -/
theorem noteGx_bit (k e : Nat) {b : Nat} (hb : b < 32) (w : Word) (d : Dev) :
    bit ((noteGx k b e w d).trouble.g k) b = true := by
  unfold noteGx
  split
  · assumption
  · exact queueEntry_bit _ (setG_bit _ k b hb)

theorem noteG_bit (k : Nat) {b : Nat} (hb : b < 32) (d : Dev) : bit ((noteG k b d).trouble.g k) b = true :=
  noteGx_bit k 0 hb 0 d

theorem setG_keeps (t : Trouble) (k b c : Nat) (h : bit (t.g k) c = true) :
    bit ((t.setG k (setBit (t.g k) b)).g k) c = true := by
  rw [g_setG]
  exact bit_setBit_of h

/-- A set bit stays set under a record of the same register. -/
theorem noteGx_stays (k b e c : Nat) (w : Word) {d : Dev} (h : bit (d.trouble.g k) c = true) :
    bit ((noteGx k b e w d).trouble.g k) c = true := by
  unfold noteGx
  split
  · exact h
  · exact queueEntry_bit _ (setG_keeps _ k b c h)

/-- A frame fault of a port is recorded in GSTICKY0. -/
theorem noteLink_bit (p : Port) {b : Nat} (hb : b < 32) (d : Dev) : bit (noteLink p b d).trouble.g0 b = true := by
  unfold noteLink
  exact noteGx_stays 0 _ 0 b 0 (noteG_bit 0 hb d)

theorem raiseWhy_bit (e : Nat) {b : Nat} (hb : b < 32) (d : Dev) : bit (raiseWhy b e d).trouble.why b = true := by
  unfold raiseWhy
  split
  · assumption
  · rcases queueEntry_g _ _ with h | h <;> rw [h] <;> exact bit_setBit hb

/-! ### Frames of the records -/

theorem keeps_queueEntry (e : JEntry) (d : Dev) : Keeps [.trouble, .journal] d (queueEntry e d) := by
  intro q hq _
  cases q <;> simp [Part.same] at hq ⊢

theorem keeps_noteGx (k b e : Nat) (w : Word) (d : Dev) : Keeps [.trouble, .journal] d (noteGx k b e w d) := by
  intro q hq _
  cases q <;> simp [Part.same] at hq ⊢

theorem keeps_noteG (k b : Nat) (d : Dev) : Keeps [.trouble, .journal] d (noteG k b d) := keeps_noteGx k b 0 0 d

theorem keeps_noteLink (p : Port) (b : Nat) (d : Dev) : Keeps [.trouble, .journal] d (noteLink p b d) := by
  intro q hq _
  cases q <;> simp [Part.same] at hq ⊢

theorem keeps_raiseWhy (b e : Nat) (d : Dev) : Keeps [.trouble, .journal] d (raiseWhy b e d) := by
  intro q hq _
  cases q <;> simp [Part.same] at hq ⊢

theorem keeps_noteCh (n : Chn) (b e : Nat) (w : Word) (d : Dev) :
    Keeps [.trouble, .journal, .chans] d (noteCh n b e w d) := by
  intro q hq _
  cases q <;> simp [Part.same] at hq ⊢

/-- A record of a channel changes its CH_STICKY alone, of all channels. -/
theorem chan_noteCh (n m : Chn) (b e : Nat) (w : Word) (d : Dev) :
    ∃ x, (noteCh n b e w d).chan m = { d.chan m with sticky := x } := by
  unfold noteCh
  split
  · exact ⟨_, rfl⟩
  · simp only [Dev.chan, queueEntry_chans]
    by_cases h : m = n
    · subst h
      exact ⟨_, chan_modChan_same m _ d⟩
    · exact ⟨(d.chan m).sticky, chan_modChan_other h _ d⟩

/-- A record of a channel leaves every other channel. -/
theorem chan_noteCh_other {n m : Chn} (h : m ≠ n) (b e : Nat) (w : Word) (d : Dev) :
    (noteCh n b e w d).chan m = d.chan m := by
  unfold noteCh
  split
  · rfl
  · simp only [Dev.chan, queueEntry_chans]
    exact chan_modChan_other h _ d

/-- A bit noted for a channel is set. -/
theorem noteCh_bit (n : Chn) (e : Nat) {b : Nat} (hb : b < 32) (w : Word) (d : Dev) :
    bit ((noteCh n b e w d).chan n).sticky b = true := by
  unfold noteCh
  split
  · assumption
  · have h : ∀ d' : Dev, ∀ e', (queueEntry e' d').chan n = d'.chan n := fun d' e' => by
      unfold Dev.chan
      rw [queueEntry_chans]
    simp only [h, chan_modChan_same]
    exact bit_setBit hb

end Sys2Proof.Machine
end

