-- ==== Sys2Proof/Laws/Effects.lean ====
section
/-!
SUPPORT. What the shared effects do, said once: domains demanded, DRBG requests, flash operations, FAULT24.
-/

namespace Sys2Proof.Machine

theorem judgeFault24_stamps (b : Nat) (d : Dev) : (judgeFault24 b d).trouble.stamps = d.trouble.stamps := by
  unfold judgeFault24
  split
  · unfold raiseWhy
    split
    · rfl
    · simp only
      rcases queueEntry_g _ _ with h | h <;> rw [h]
  · rfl

theorem judgeFault24_seconds (b : Nat) (d : Dev) : (judgeFault24 b d).journal.seconds = d.journal.seconds := by
  unfold judgeFault24
  split
  · unfold raiseWhy queueEntry
    split
    · rfl
    · simp only
      split <;> rfl
  · rfl

theorem judgeFault24_fault24 (b : Nat) (d : Dev) : (judgeFault24 b d).fault24 = d.fault24 := by
  unfold Dev.fault24 Dev.age
  rw [judgeFault24_stamps, judgeFault24_seconds]

theorem demandOn_keeps (x : Nat) (d : Dev) : Keeps [.power] d (demandOn x d) := by (intro q hq _; cases q <;> first | exact absurd (by decide) hq | exact absurd rfl ‹_› | rfl | exact ⟨rfl, rfl, rfl⟩)

theorem demandOff_keeps (x : Nat) (d : Dev) : Keeps [.power] d (demandOff x d) := by (intro q hq _; cases q <;> first | exact absurd (by decide) hq | exact absurd rfl ‹_› | rfl | exact ⟨rfl, rfl, rfl⟩)

/-- A request served changes the generator alone, by its one generate call. -/
theorem serveDraw_frame (r : DrawReq) (d : Dev) :
    (serveDraw r d).1 = (d.drbg.generate r.len r.add).1
      ∧ (serveDraw r d).2 = { d with drbg := (d.drbg.generate r.len r.add).2 } := ⟨rfl, rfl⟩

/-- A request served at once: its bytes, and the generator after it. -/
theorem enterDraw_now {who : DrawFor} {r : DrawReq} {d : Dev} (h : d.servesNow (some r) = true) :
    enterDraw who r d = (some (d.drbg.generate r.len r.add).1, { d with drbg := (d.drbg.generate r.len r.add).2 }) := by
  unfold enterDraw
  unfold Dev.servesNow at h
  rw [if_pos h]
  rfl

/-- A request that is not served at once joins the end of the queue and changes nothing but the source's own state. -/
theorem enterDraw_later {who : DrawFor} {r : DrawReq} {d : Dev} (h : d.servesNow (some r) = false) :
    (enterDraw who r d).1 = none ∧ (enterDraw who r d).2.entropy.queue = d.entropy.queue ++ [(who, r)]
      ∧ (enterDraw who r d).2.entropy.busy = true ∧ (enterDraw who r d).2.rst = d.rst
      ∧ Keeps [.entropy] d (enterDraw who r d).2 := by
  unfold Dev.servesNow at h
  unfold enterDraw startOccasion
  simp only [h]
  cases hb : d.entropy.busy
  · exact ⟨rfl, rfl, rfl, rfl, by (intro q hq _; cases q <;> first | exact absurd (by decide) hq | exact absurd rfl ‹_› | rfl | exact ⟨rfl, rfl, rfl⟩)⟩
  · exact ⟨rfl, rfl, rfl, rfl, by (intro q hq _; cases q <;> first | exact absurd (by decide) hq | exact absurd rfl ‹_› | rfl | exact ⟨rfl, rfl, rfl⟩)⟩

theorem sameBytes_iff (a b : Bytes) : sameBytes a b = true ↔ a = b := by
  unfold sameBytes
  simp

/-- An erase changes the flash alone, and makes no reset. -/
theorem flashErase_frame (x k : Nat) (d : Dev) :
    (flashErase x k d).rst = d.rst ∧ Keeps [.flash] d (flashErase x k d) := by
  unfold flashErase
  split
  · exact ⟨rfl, Keeps.refl _ _⟩
  · exact ⟨rfl, by (intro q hq _; cases q <;> first | exact absurd (by decide) hq | exact absurd rfl ‹_› | rfl | exact ⟨rfl, rfl, rfl⟩)⟩

/-- A program that verifies changes the flash alone, and makes no reset. -/
theorem flashProgram_frame (x : Nat) (bs : Bytes) (d : Dev) :
    (flashProgram x bs true d).rst = d.rst ∧ Keeps [.flash] d (flashProgram x bs true d) := by
  unfold flashProgram
  split
  · exact ⟨rfl, Keeps.refl _ _⟩
  · exact ⟨rfl, by simp only [if_true]; (intro q hq _; cases q <;> first | exact absurd (by decide) hq | exact absurd rfl ‹_› | rfl | exact ⟨rfl, rfl, rfl⟩)⟩

/-- A program that verifies puts its bytes into the flash. -/
theorem flashProgram_ok {d : Dev} (h : d.flashUp = true) (a : Nat) (bs : Bytes) :
    flashProgram a bs true d = { d with flash := { d.flash with mem := d.flash.mem.write 0xFF a bs } } := by
  simp [flashProgram, h]

/-- A record written to the copy that does not count changes the flash alone, and makes no reset. -/
theorem writeCopy_frame (r : TwoCopies) (mk : Nat → Nat → Bytes) (d : Dev) :
    (writeCopy r mk true d).rst = d.rst ∧ Keeps [.flash] d (writeCopy r mk true d) := by
  unfold writeCopy
  exact ⟨(flashProgram_frame _ _ _).1.trans (flashErase_frame _ _ _).1,
    (flashErase_frame _ _ _).2.trans (flashProgram_frame _ _ _).2⟩

end Sys2Proof.Machine
end

