-- ==== Sys2Proof/Laws/Channel.lean ====
section
/-!
SUPPORT. What opening, failing, resetting and clearing a channel do, said once.
-/

namespace Sys2Proof.Machine

/-! ### Opening -/

theorem startInit_chan (n : Chn) (d : Dev) : (startInit n d).chan n = (fun c : Chan => { c with
    phase := .init false, cfg := d.chcfgt n, rings := .opened (fld (d.chcfgt n) 25 24) c.rings.recNo, stream := .fresh
    quota := 16 * fld (d.chcfgt n) 19 12, nonceV := false, nonce := [] }) (d.chan n) := by
  unfold startInit
  rw [chan_modChan_same]

theorem startInit_other (n : Chn) (d : Dev) : OthersKept n d (startInit n d) := by
  intro m hm
  unfold startInit
  rw [chan_modChan_other hm]

theorem startInit_keeps (n : Chn) (d : Dev) : Keeps [.chans] d (startInit n d) := keeps_modChan n _ d

theorem startInit_rst (n : Chn) (d : Dev) : (startInit n d).rst = d.rst := rfl

/-! ### A step or a clause leaves its engine -/

/-- What leaving an engine may do to channel `n`: CH_PROGk, the job area of a core and the scheduler's tags change. -/
structure LeaveFrame (n : Chn) (d e : Dev) : Prop where
  k : Keeps [.chans, .cores] d e
  o : OthersKept n d e
  c : ∃ p, e.chan n = { d.chan n with prog := p }
  r : e.rst = d.rst

theorem LeaveFrame.refl (n : Chn) (d : Dev) : LeaveFrame n d d := ⟨Keeps.refl _ _, fun _ _ => rfl, ⟨_, rfl⟩, rfl⟩

theorem LeaveFrame.trans {n : Chn} {d e f : Dev} (h : LeaveFrame n d e) (h' : LeaveFrame n e f) : LeaveFrame n d f := by
  obtain ⟨p, hp⟩ := h.c
  obtain ⟨q, hq⟩ := h'.c
  exact ⟨h.k.trans h'.k, fun m hm => (h'.o m hm).trans (h.o m hm), ⟨q, by rw [hq, hp]⟩, h'.r.trans h.r⟩

theorem LeaveFrame.of {n : Chn} {d e : Dev} (k : Keeps [.chans, .cores] d e) (c : e.chans = d.chans) (r : e.rst = d.rst) :
    LeaveFrame n d e := ⟨k, fun m _ => chan_of c m, ⟨_, chan_of c n⟩, r⟩

theorem LeaveFrame.refund (n m : Chn) (k : Cls) (w b t : Nat) (d : Dev) : LeaveFrame n d (refundTag k m w b t d) := by
  refine LeaveFrame.of ?_ rfl rfl
  intro q hq _
  cases q <;> first | (exact absurd (by decide) hq) | (exact absurd rfl ‹_›) | rfl | exact setCls_regs _ _ _

theorem LeaveFrame.correct (n m : Chn) (k : Cls) (w b : Nat) (d : Dev) : LeaveFrame n d (correctTag k m w b d) :=
  (LeaveFrame.refund n m k w b _ d).trans (LeaveFrame.of (by (intro q hq _; cases q <;> first | exact absurd (by decide) hq | exact absurd rfl ‹_› | rfl | exact ⟨rfl, rfl, rfl⟩)) rfl rfl)

theorem LeaveFrame.prog (n : Chn) (k : Nat) (f : Prog → Prog) (d : Dev) :
    LeaveFrame n d (modChan n (fun c => { c with prog := vmod c.prog k f }) d) :=
  ⟨keeps_up (keeps_modChan _ _ _), fun m hm => chan_modChan_other hm _ d, ⟨_, chan_modChan_same ..⟩, rfl⟩

theorem LeaveFrame.release (n : Chn) (eng : Nat) (d : Dev) : LeaveFrame n d (releaseCore eng d) := by
  unfold releaseCore
  split
  · exact LeaveFrame.refl ..
  · exact LeaveFrame.of (by (intro q hq _; cases q <;> first | exact absurd (by decide) hq | exact absurd rfl ‹_› | rfl | exact ⟨rfl, rfl, rfl⟩)) rfl rfl

theorem LeaveFrame.progEnds (n : Chn) (eng : Nat) (ok st : Bool) (d : Dev) : LeaveFrame n d (progEnds n eng ok st d) := by
  unfold Sys2Proof.Machine.progEnds
  split
  · exact LeaveFrame.refl ..
  · exact LeaveFrame.prog ..

theorem LeaveFrame.endProg (n : Chn) (eng : Nat) (ok st : Bool) (d : Dev) : LeaveFrame n d (endProg n eng ok st d) :=
  (LeaveFrame.progEnds ..).trans (LeaveFrame.release ..)

theorem LeaveFrame.step (n : Chn) (ok : Bool) (t : Step) (d : Dev) : LeaveFrame n d (leaveStep n ok t d) := by
  unfold leaveStep
  split
  · exact (LeaveFrame.correct ..).trans (LeaveFrame.endProg ..)
  · split
    · exact LeaveFrame.refund ..
    · exact LeaveFrame.refl ..

theorem LeaveFrame.sel (n : Chn) (k : Cls) (o : Option Sel) (d : Dev) : LeaveFrame n d (match o with
    | some x => dropSel k n x d
    | none => d) := by
  cases o with
  | none => exact LeaveFrame.refl ..
  | some x => exact LeaveFrame.refund ..

theorem LeaveFrame.claim (n : Chn) (s : Sentence) (j : Job) (k : Cls) (d : Dev) : LeaveFrame n d
    (if j.phase == .run && j.onEngine && j.weight != 0 then correctTag k n j.weight j.tagBefore (match s.sel with
      | some x => dropSel k n x d
      | none => d) else match s.sel with
      | some x => dropSel k n x d
      | none => d) := by
  have h := LeaveFrame.sel n k s.sel d
  split
  · exact h.trans (LeaveFrame.correct ..)
  · exact h

theorem LeaveFrame.engine (n : Chn) (s : Sentence) (j : Job) (d : Dev) : LeaveFrame n d (leaveEngine n s j d) := by
  unfold leaveEngine
  dsimp only
  cases j.step with
  | none =>
    cases verbClass j.verb with
    | none => exact LeaveFrame.refl ..
    | some k => exact LeaveFrame.claim n s j k d
  | some t =>
    cases verbClass j.verb with
    | none => exact LeaveFrame.step ..
    | some k => exact (LeaveFrame.step ..).trans (LeaveFrame.claim n s j k _)

theorem LeaveFrame.check (n : Chn) (d : Dev) : LeaveFrame n d (leaveCheck n d) := by
  unfold leaveCheck
  split
  · exact LeaveFrame.step ..
  · exact LeaveFrame.refl ..

/-- An open attempt that fails: CLOSED with its code, nonce gone; the response registers stay (05 Table 05.2). -/
theorem openFails_frame (n : Chn) (err : Nat) (d : Dev) :
    (∃ p, (openFails n err d).chan n = { d.chan n with
        prog := p, state := .closed, openErr := err, nonceV := false, nonce := [], phase := .idle })
      ∧ OthersKept n d (openFails n err d) ∧ Keeps [.chans, .cores] d (openFails n err d)
      ∧ (openFails n err d).rst = d.rst := by
  have h := LeaveFrame.check n d
  obtain ⟨p, hp⟩ := h.c
  unfold openFails
  refine ⟨⟨p, ?_⟩, ?_, ?_, ?_⟩
  · rw [chan_modChan_same, hp]
  · intro m hm
    rw [chan_modChan_other hm, h.o m hm]
  · exact h.k.trans (keeps_up (keeps_modChan _ _ _))
  · rw [modChan_rst, h.r]

/-! ### A sentence dropped by a reset of its channel -/

/-- What dropping a sentence of channel `n` may change; CH_STICKY and CH_CFG it leaves. -/
structure DropFrame (n : Chn) (d e : Dev) : Prop where
  k : Keeps [.chans, .cores, .presig, .ks, .pool] d e
  o : OthersKept n d e
  c : (e.chan n).sticky = (d.chan n).sticky ∧ (e.chan n).cfg = (d.chan n).cfg
  r : e.rst = d.rst

theorem DropFrame.refl (n : Chn) (d : Dev) : DropFrame n d d := ⟨Keeps.refl _ _, fun _ _ => rfl, ⟨rfl, rfl⟩, rfl⟩

theorem DropFrame.trans {n : Chn} {d e f : Dev} (h : DropFrame n d e) (h' : DropFrame n e f) : DropFrame n d f :=
  ⟨h.k.trans h'.k, fun m hm => (h'.o m hm).trans (h.o m hm), ⟨h'.c.1.trans h.c.1, h'.c.2.trans h.c.2⟩, h'.r.trans h.r⟩

theorem DropFrame.of {n : Chn} {d e : Dev} (k : Keeps [.chans, .cores, .presig, .ks, .pool] d e)
    (c : e.chans = d.chans) (r : e.rst = d.rst) : DropFrame n d e :=
  ⟨k, fun m _ => chan_of c m, by rw [chan_of c]; exact ⟨rfl, rfl⟩, r⟩

theorem DropFrame.leave {n : Chn} {d e : Dev} (h : LeaveFrame n d e) : DropFrame n d e := by
  obtain ⟨p, hp⟩ := h.c
  exact ⟨keeps_up h.k, h.o, by rw [hp]; exact ⟨rfl, rfl⟩, h.r⟩

theorem DropFrame.mod {n : Chn} {d : Dev} (f : Chan → Chan) (h1 : (f (d.chan n)).sticky = (d.chan n).sticky)
    (h2 : (f (d.chan n)).cfg = (d.chan n).cfg) : DropFrame n d (modChan n f d) :=
  ⟨keeps_up (keeps_modChan _ _ _), fun m hm => chan_modChan_other hm f d, by rw [chan_modChan_same]; exact ⟨h1, h2⟩, rfl⟩

theorem DropFrame.zero (n : Chn) (ts : List (Nat × Nat × Nat)) (d : Dev) : DropFrame n d (zeroTouched ts d) := by
  unfold zeroTouched
  induction ts generalizing d with
  | nil => exact DropFrame.refl ..
  | cons t ts ih =>
    rw [List.foldl_cons]
    have h1 : DropFrame n d (setArea t.1 (unwrite (fun s => s.meets t.2.1 t.2.2) (d.area t.1)) d) :=
      DropFrame.of (by (intro q hq _; cases q <;> first | exact absurd (by decide) hq | exact absurd rfl ‹_› | rfl | exact ⟨rfl, rfl, rfl⟩)) rfl rfl
    exact h1.trans (ih _)

theorem DropFrame.freeBuf (n : Chn) (f : Nat) (d : Dev) : DropFrame n d (freeBuf f d) := by
  unfold Sys2Proof.Machine.freeBuf dropBuf
  split <;> exact DropFrame.of (by (intro q hq _; cases q <;> first | exact absurd (by decide) hq | exact absurd rfl ‹_› | rfl | exact ⟨rfl, rfl, rfl⟩)) rfl rfl

theorem DropFrame.scratch (n : Chn) (hs : List Nat) (d : Dev) : DropFrame n d (freeScratch hs d) := by
  unfold freeScratch
  induction hs generalizing d with
  | nil => exact DropFrame.refl ..
  | cons h hs ih =>
    rw [List.foldl_cons]
    refine DropFrame.trans ?_ (ih _)
    split
    · exact DropFrame.freeBuf ..
    · exact DropFrame.refl ..

theorem DropFrame.dropJob (n : Chn) (s : Sentence) (j : Job) (d : Dev) : DropFrame n d (dropJob n s j d) := by
  unfold Sys2Proof.Machine.dropJob
  simp only
  have h1 : DropFrame n d (if j.phase == .persist then leaveEngine n s j d
      else Sys2Proof.Machine.endProg n j.engine false j.primes.isSome (leaveEngine n s j d)) := by
    split
    · exact DropFrame.leave (LeaveFrame.engine ..)
    · exact DropFrame.leave ((LeaveFrame.engine ..).trans (LeaveFrame.endProg ..))
  have h0 : ∀ e, DropFrame n e (unfill j.filling e) := fun e => DropFrame.of
    (by (intro q hq _; cases q <;> first | exact absurd (by decide) hq | exact absurd rfl ‹_› | rfl | exact ⟨rfl, rfl, rfl⟩)) rfl rfl
  have h2 : ∀ e, DropFrame n e (zeroTouched j.touched (unfill j.filling e)) := fun e => (h0 e).trans (DropFrame.zero ..)
  have h3 : ∀ (x : Nat) (e : Dev), DropFrame n e (unreserve x e) := fun x e => DropFrame.of
    (by (intro q hq _; cases q <;> first | exact absurd (by decide) hq | exact absurd rfl ‹_› | rfl | exact ⟨rfl, rfl, rfl⟩)) rfl rfl
  refine DropFrame.trans ?_ (DropFrame.scratch ..)
  split
  · exact (h1.trans (h2 _)).trans (h3 ..)
  · exact h1.trans (h2 _)

/-- Dropping one sentence: its work leaves its engine, and the sentence is gone. -/
theorem DropFrame.dropOne (n : Chn) (s : Sentence) (d : Dev) : DropFrame n d (dropOne n s d) := by
  unfold Sys2Proof.Machine.dropOne removeSent
  refine DropFrame.trans ?_ (DropFrame.mod _ rfl rfl)
  split
  · exact DropFrame.dropJob ..
  · split
    · exact DropFrame.leave (LeaveFrame.refund ..)
    · exact DropFrame.refl ..

/-! ### Clearing what a channel holds -/

structure ClearFrame (n : Chn) (d e : Dev) : Prop where
  k : Keeps [.chans, .pool, .ks, .cores, .power, .supply] d e
  o : OthersKept n d e
  r : e.rst = d.rst

theorem freeBuf_frame (f : Nat) (d : Dev) : ClearFrame n d (freeBuf f d) ∧ ClearFrame n d (dropBuf f d) := by
  unfold freeBuf dropBuf
  constructor <;> split <;> refine ⟨?_, fun _ _ => rfl, rfl⟩ <;> (intro q hq _; cases q <;> first | exact absurd (by decide) hq | exact absurd rfl ‹_› | rfl | exact ⟨rfl, rfl, rfl⟩)

theorem freeBuf_chan (f : Nat) (d : Dev) : (freeBuf f d).chans = d.chans ∧ (dropBuf f d).chans = d.chans := by
  unfold freeBuf dropBuf
  constructor <;> split <;> rfl

theorem dropBuf_bufs (f : Nat) (d : Dev) : (dropBuf f d).pool.bufs = d.pool.bufs.filter (fun x => x.first != f) := by
  unfold dropBuf
  split
  · next h =>
    unfold Pool.buf at h
    rw [List.find?_eq_none] at h
    symm
    rw [List.filter_eq_self]
    intro a ha
    have := h a ha
    simpa using this
  · rfl

theorem freeBuf_bufs (f : Nat) (d : Dev) : (freeBuf f d).pool.bufs = d.pool.bufs.filter (fun x => x.first != f) := by
  unfold freeBuf
  rw [dropBuf_bufs]; rfl

theorem freeAll_bufs (_n : Chn) (l : List Buf) (d : Dev) : ∀ b ∈ (l.foldl (fun d b => if b.st == .dying then dropBuf b.first d else freeBuf b.first d) d).pool.bufs, b ∈ d.pool.bufs ∧ ∀ x ∈ l, b.first ≠ x.first := by
  induction l generalizing d with
  | nil => intro b hb; exact ⟨hb, by simp⟩
  | cons a l ih =>
    intro b hb
    rw [List.foldl_cons] at hb
    have := ih _ b hb
    have hm : b ∈ d.pool.bufs.filter (fun x => x.first != a.first) := by
      have h := this.1
      split at h
      · rwa [dropBuf_bufs] at h
      · rwa [freeBuf_bufs] at h
    rw [List.mem_filter] at hm
    refine ⟨hm.1, ?_⟩
    intro x hx
    rcases List.mem_cons.1 hx with rfl | hx
    · simpa using hm.2
    · exact this.2 x hx

theorem freeAll_frame (n : Chn) (l : List Buf) (d : Dev) : ClearFrame n d (l.foldl (fun d b => if b.st == .dying then dropBuf b.first d else freeBuf b.first d) d) ∧ (l.foldl (fun d b => if b.st == .dying then dropBuf b.first d else freeBuf b.first d) d).chans = d.chans := by
  induction l generalizing d with
  | nil => exact ⟨⟨Keeps.refl _ _, fun _ _ => rfl, rfl⟩, rfl⟩
  | cons a l ih =>
    rw [List.foldl_cons]
    have h1 : ClearFrame n d (if a.st == .dying then dropBuf a.first d else freeBuf a.first d) ∧ (if a.st == .dying then dropBuf a.first d else freeBuf a.first d).chans = d.chans := by
      split
      · exact ⟨(freeBuf_frame _ _).2, (freeBuf_chan _ _).2⟩
      · exact ⟨(freeBuf_frame _ _).1, (freeBuf_chan _ _).1⟩
    have h2 := ih (if a.st == .dying then dropBuf a.first d else freeBuf a.first d)
    exact ⟨⟨h1.1.k.trans h2.1.k, fun m hm => (h2.1.o m hm).trans (h1.1.o m hm), h2.1.r.trans h1.1.r⟩, h2.2.trans h1.2⟩

/-- What the release of a channel gives back; its reset differs in its own registers alone (R110, R111). -/
theorem freeHeld_all (n : Chn) (d : Dev) : ClearFrame n d (freeHeld n d)
    ∧ (∀ b ∈ (freeHeld n d).pool.bufs, b.owner ≠ n) ∧ (∀ k ∈ (freeHeld n d).ks.vol, k.owner ≠ n.val)
    ∧ (∀ k (h : k < 4), (freeHeld n d).cores[k].owner ≠ some n)
    ∧ (freeHeld n d).chan n = (fun c : Chan => { c with
    state := .closed, nonceV := false, phase := .idle, nonce := [], quota := 0, rings := c.rings.ended
    stream := .fresh, sents := [], alloc := none, recs := Vector.replicate 8 none }) (d.chan n) := by
  have hf := freeAll_frame n (d.pool.bufs.filter (fun b => b.owner = n)) d
  have hb := freeAll_bufs n (d.pool.bufs.filter (fun b => b.owner = n)) d
  change ClearFrame n d (freeAll n d) ∧ (freeAll n d).chans = d.chans at hf
  change ∀ b ∈ (freeAll n d).pool.bufs, _ at hb
  have hv : ∀ e : Dev, (emptyVolOf n e).pool = e.pool ∧ (emptyVolOf n e).chans = e.chans ∧ (emptyVolOf n e).rst = e.rst
      ∧ (emptyVolOf n e).cores = e.cores ∧ (emptyVolOf n e).ks = { e.ks with vol := e.ks.vol.filter (fun x => x.owner != n.val) }
      ∧ Keeps [.ks, .supply] e (emptyVolOf n e) := by
    intro e
    unfold emptyVolOf dropArm
    simp only
    split
    · split <;> refine ⟨rfl, rfl, rfl, rfl, rfl, ?_⟩ <;> (intro q hq _; cases q <;> first | exact absurd (by decide) hq | exact absurd rfl ‹_› | rfl | exact ⟨rfl, rfl, rfl⟩)
    · refine ⟨rfl, rfl, rfl, rfl, rfl, ?_⟩; (intro q hq _; cases q <;> first | exact absurd (by decide) hq | exact absurd rfl ‹_› | rfl | exact ⟨rfl, rfl, rfl⟩)
  obtain ⟨v1, v2, v3, v4, v5, v6⟩ := hv (freeAll n d)
  have a : ∀ e : Dev, Keeps [.cores] e (freeAreas n e) := fun e => by unfold freeAreas; (intro q hq _; cases q <;> first | exact absurd (by decide) hq | exact absurd rfl ‹_› | rfl | exact ⟨rfl, rfl, rfl⟩)
  unfold freeHeld
  refine ⟨⟨?_, ?_, ?_⟩, ?_, ?_, ?_, ?_⟩
  · exact hf.1.k.trans ((keeps_up v6).trans ((keeps_up (a _)).trans (keeps_up (keeps_modChan _ _ _))))
  · intro m hm
    rw [chan_modChan_other hm, chan_of (e := freeAreas n _) (d := emptyVolOf n (freeAll n d)) rfl]
    rw [chan_of v2, chan_of hf.2]
  · show (emptyVolOf n (freeAll n d)).rst = _
    rw [v3, hf.1.r]
  · intro b hb'
    have : b ∈ (freeAll n d).pool.bufs := by
      rw [← v1]; exact hb'
    intro ho
    have := hb b this
    exact this.2 b (List.mem_filter.2 ⟨this.1, by simp [ho]⟩) rfl
  · intro k hk
    have : k ∈ (emptyVolOf n (freeAll n d)).ks.vol := hk
    rw [v5] at this
    simpa using (List.mem_filter.1 this).2
  · intro k h
    show (((emptyVolOf n (freeAll n d)).cores.map (fun b => if b.owner = some n then { b with owner := none, slots := [] } else b))[k]).owner ≠ some n
    rw [Vector.getElem_map]
    split
    · simp
    · assumption
  · rw [chan_modChan_same, chan_of (e := freeAreas n _) (d := emptyVolOf n (freeAll n d)) rfl, chan_of v2, chan_of hf.2]

/-- A channel reset gives back what a release gives back, and puts its registers to their reset values but for CH_CFG
and CH_STICKY. -/
theorem clearChan_eq (n : Chn) (d : Dev) : (clearChan n d).chan n = (fun c : Chan => { c with
      openErr := 0, resp := Vector.replicate 8 0, allocRes := 0, prog := Vector.replicate 4 ⟨false, 0, 0⟩ })
        ((freeHeld n d).chan n)
    ∧ (∀ m, m ≠ n → (clearChan n d).chan m = (freeHeld n d).chan m) ∧ (clearChan n d).rst = (freeHeld n d).rst
    ∧ Keeps [.chans] (freeHeld n d) (clearChan n d) :=
  ⟨chan_modChan_same .., fun _ hm => chan_modChan_other hm _ _, rfl, keeps_modChan _ _ _⟩

end Sys2Proof.Machine
end

