-- ==== Sys2Proof/Laws/Link.lean ====
section
/-!
SUPPORT. The port shells: HLCFG stays legal under a write of it and under the fallback, bit by bit.
-/

namespace Sys2Proof.Machine

/-- A field of a word bit by bit. -/
theorem fld_testBit (w : Word) (hi lo i : Nat) :
    (fld w hi lo).testBit i = (decide (i < hi + 1 - lo) && w.getLsbD (lo + i)) := by
  unfold fld
  rw [Nat.testBit_mod_two_pow, Nat.testBit_div_two_pow, BitVec.testBit_toNat, Nat.add_comm i lo]

theorem nibble_le : ∀ x : Nat, x < 16 → (x ≤ 8 ↔
    ¬(x.testBit 3 = true ∧ (x.testBit 0 = true ∨ x.testBit 1 = true ∨ x.testBit 2 = true))) := by decide

theorem pair_le : ∀ x : Nat, x < 4 → (x ≤ 1 ↔ x.testBit 1 = false) := by decide

theorem fld_lt (w : Word) (hi lo : Nat) : fld w hi lo < 2 ^ (hi + 1 - lo) :=
  Nat.mod_lt _ (Nat.two_pow_pos _)

/-- A word has no bit of a mask. -/
theorem and_eq_zero_iff (w m : Word) : w &&& m = 0 ↔ ∀ i, m.getLsbD i = true → w.getLsbD i = false := by
  constructor
  · intro h i hi
    have := congrArg (fun x => x.getLsbD i) h
    simpa [hi] using this
  · intro h
    apply BitVec.eq_of_getLsbD_eq
    intro i _
    simp only [BitVec.getLsbD_and]
    cases hm : m.getLsbD i
    · simp
    · simp [h i hm]

/-- A legal HLCFG bit by bit (03 Table 03.7). -/
theorem hlcfgLegal_iff (w : Word) : hlcfgLegal w = true ↔
    (∀ i, (0xFF00F0F0 : Word).getLsbD i = true → w.getLsbD i = false)
      ∧ ¬(w.getLsbD 11 = true ∧ (w.getLsbD 8 = true ∨ w.getLsbD 9 = true ∨ w.getLsbD 10 = true))
      ∧ w.getLsbD 1 = false := by
  unfold hlcfgLegal
  simp only [Bool.and_eq_true, beq_iff_eq, decide_eq_true_eq, and_assoc]
  rw [and_eq_zero_iff, nibble_le _ (fld_lt w 11 8), pair_le _ (fld_lt w 1 0)]
  simp only [fld_testBit]
  simp

/-- The bit of a word in whose field another word's has been put. -/
theorem putFld_bit (old new : Word) {hi lo : Nat} (hl : lo ≤ hi) (i : Nat) (hi' : i < 32) :
    (putFld old new hi lo).getLsbD i = if lo ≤ i ∧ i ≤ hi then new.getLsbD i else old.getLsbD i := by
  have hm : (BitVec.ofNat 32 ((2 ^ (hi + 1 - lo) - 1) * 2 ^ lo)).getLsbD i = decide (lo ≤ i ∧ i ≤ hi) := by
    rw [BitVec.getLsbD_ofNat, Nat.testBit_mul_two_pow, Nat.testBit_two_pow_sub_one]
    by_cases h1 : lo ≤ i
    · by_cases h2 : i ≤ hi
      · simp [h1, h2, hi']; omega
      · simp [h1, h2]; omega
    · simp [h1]
  unfold putFld
  simp only [BitVec.getLsbD_or, BitVec.getLsbD_and, BitVec.getLsbD_not, hm, hi', decide_true, Bool.true_and]
  by_cases hc : lo ≤ i ∧ i ≤ hi
  · simp [hc]
  · simp [hc]

/-- A word whose fields LAT and MODE are legal, each from one legal word or from within its bounds. -/
theorem hlcfgLegal_of {w : Word} (hm : ∀ i, i < 32 → (0xFF00F0F0 : Word).getLsbD i = true → w.getLsbD i = false)
    (hl : ¬(w.getLsbD 11 = true ∧ (w.getLsbD 8 = true ∨ w.getLsbD 9 = true ∨ w.getLsbD 10 = true)))
    (h1 : w.getLsbD 1 = false) : hlcfgLegal w = true := by
  rw [hlcfgLegal_iff]
  refine ⟨fun i hi => ?_, hl, h1⟩
  by_cases hb : i < 32
  · exact hm i hb hi
  · exact BitVec.getLsbD_of_ge _ _ (by omega)

/-- A fallback keeps HLCFG legal (03 R84). -/
theorem fallback_hlcfg_legal {w : Word} (h : hlcfgLegal w = true) : hlcfgLegal (putFld w 0 2 0) = true := by
  rw [hlcfgLegal_iff] at h
  refine hlcfgLegal_of (fun i hb hi => ?_) ?_ ?_
  · rw [putFld_bit _ _ (by omega) i hb]
    split
    · simp
    · exact h.1 i hi
  · rw [putFld_bit _ _ (by omega) 11 (by omega), putFld_bit _ _ (by omega) 8 (by omega),
      putFld_bit _ _ (by omega) 9 (by omega), putFld_bit _ _ (by omega) 10 (by omega)]
    exact h.2.1
  · rw [putFld_bit _ _ (by omega) 1 (by omega)]
    simp

/-- LAT and MODE put back from a legal word where they are out of bounds. -/
theorem keepIf_legal {old w n : Word} (h : hlcfgLegal old = true)
    (hmask : ∀ i, i < 32 → (0xFF00F0F0 : Word).getLsbD i = true → n.getLsbD i = false)
    (hbit : ∀ i, (i = 1 ∨ i = 8 ∨ i = 9 ∨ i = 10 ∨ i = 11) → n.getLsbD i = w.getLsbD i) :
    hlcfgLegal (keepIf (8 < fld w 11 8) 11 8 old (keepIf (1 < fld w 1 0) 1 0 old (n, false))).1 = true := by
  have hl : fld w 11 8 ≤ 8 ↔
      ¬(w.getLsbD 11 = true ∧ (w.getLsbD 8 = true ∨ w.getLsbD 9 = true ∨ w.getLsbD 10 = true)) := by
    rw [nibble_le _ (fld_lt w 11 8)]
    simp only [fld_testBit]
    simp
  have hm : fld w 1 0 ≤ 1 ↔ w.getLsbD 1 = false := by
    rw [pair_le _ (fld_lt w 1 0)]
    simp only [fld_testBit]
    simp
  rw [hlcfgLegal_iff] at h
  have step1 : ∃ m, (keepIf (1 < fld w 1 0) 1 0 old (n, false)).1 = m ∧ m.getLsbD 1 = false
      ∧ (∀ i, i < 32 → (0xFF00F0F0 : Word).getLsbD i = true → m.getLsbD i = false)
      ∧ (∀ i, 8 ≤ i → i ≤ 11 → m.getLsbD i = w.getLsbD i) := by
    by_cases h1 : 1 < fld w 1 0
    · refine ⟨putFld n old 1 0, by simp [keepIf, h1], ?_, fun i hb hi => ?_, fun i h8 h11 => ?_⟩
      · rw [putFld_bit _ _ (by omega) 1 (by omega)]
        exact h.2.2
      · rw [putFld_bit _ _ (by omega) i hb]
        split
        · exact h.1 i hi
        · exact hmask i hb hi
      · rw [putFld_bit _ _ (by omega) i (by omega), if_neg (by omega)]
        exact hbit i (by omega)
    · refine ⟨n, by simp [keepIf, h1], ?_, hmask, fun i h8 h11 => hbit i (by omega)⟩
      rw [hbit 1 (by omega)]
      exact hm.1 (by omega)
  obtain ⟨m, he, hm1, hmm, hm8⟩ := step1
  by_cases h8 : 8 < fld w 11 8
  · rw [keepIf, if_pos (by simpa using h8), he]
    refine hlcfgLegal_of (fun i hb hi => ?_) ?_ ?_
    · rw [putFld_bit _ _ (by omega) i hb]
      split
      · exact h.1 i hi
      · exact hmm i hb hi
    · rw [putFld_bit _ _ (by omega) 11 (by omega), putFld_bit _ _ (by omega) 8 (by omega),
        putFld_bit _ _ (by omega) 9 (by omega), putFld_bit _ _ (by omega) 10 (by omega)]
      exact h.2.1
    · rw [putFld_bit _ _ (by omega) 1 (by omega)]
      exact hm1
  · rw [keepIf, if_neg (by simpa using h8), he]
    refine hlcfgLegal_of hmm ?_ hm1
    rw [hm8 11 (by omega) (by omega), hm8 8 (by omega) (by omega), hm8 9 (by omega) (by omega),
      hm8 10 (by omega) (by omega)]
    exact hl.1 (by omega)

/-- A write of HLCFG keeps it legal (03 Table 03.7, 00 R11). -/
theorem hlcfgMerge_legal {p : Port} {old w : Word} (h : hlcfgLegal old = true) :
    hlcfgLegal (hlcfgMerge p old w).1 = true := by
  have key : ∀ i : Fin 32, (0xFF00F0F0 : Word).getLsbD i.val = true →
      (0x00FF0F0F : Word).getLsbD i.val = false ∧ (0x00000F0F : Word).getLsbD i.val = false := by decide
  cases p
  · refine keepIf_legal h (fun i hb hi => ?_) ?_
    · rw [BitVec.getLsbD_and, (key ⟨i, hb⟩ hi).1, Bool.and_false]
    · rintro i (rfl | rfl | rfl | rfl | rfl) <;> rw [BitVec.getLsbD_and] <;> simp
  · refine keepIf_legal h (fun i hb hi => ?_) ?_
    · rw [BitVec.getLsbD_and, (key ⟨i, hb⟩ hi).2, Bool.and_false]
    · rintro i (rfl | rfl | rfl | rfl | rfl) <;> rw [BitVec.getLsbD_and] <;> simp

end Sys2Proof.Machine
end

