-- ==== Sys2Proof/WellFormed.lean ====
section
/-!
DEFINITION. Which commands are well formed: an operand outside the range its rule gives it names no event that
can arise. `exec` is total all the same.
-/

namespace Sys2Proof

/-- Whether a command is well formed. -/
def Instr.wf (i : Instr) : Bool :=
  match i with
  | .por => true
  | .pinReset _ => true
  | .softReset => true
  | .romBoot _ => true
  | .read _ f => decide (f.clocked ≤ 256)
  | .write _ f => decide (f.data.length ≤ 256)
  | .status f => decide (f.frame.clocked ≤ 2)
  | .stream _ f => decide (f.data.length ≤ 256)
  | .outread _ f => decide (f.clocked ≤ 256)
  | .outreadCommit _ => true
  | .skip _ f => decide (f.data.length ≤ 256)
  | .malformedFrame _ _ => true
  | .linkFallback _ => true
  | .windowWrite _ a _ => decide (a % 4 = 0 ∧ a < 2 ^ 24)
  | .registerWrite _ a _ => decide (a % 4 = 0 ∧ a < 2 ^ 24)
  | .hlcfgWrite _ _ => true
  | .journalWrite _ => true
  | .jselWrite _ _ => true
  | .journalFetchDone => true
  | .secondsTick => true
  | .chOpen _ => true
  | .chClose _ => true
  | .chResp _ => true
  | .chReset _ => true
  | .openNonceReady _ => true
  | .openRespResult _ => true
  | .openTimeout _ => true
  | .openLockoutExpiry _ => true
  | .openInitDone _ => true
  | .drainComplete _ => true
  | .chResetDone _ => true
  | .chcfgtWrite _ _ _ => true
  | .configRecordWrite _ => true
  | .subTailWrite _ _ _ => true
  | .cplHeadWrite _ _ => true
  | .outHeadWrite _ _ => true
  | .ringScrub _ => true
  | .sentenceTake => true
  | .unassignedVerb _ _ => true
  | .clauseComplete _ _ _ => true
  | .segmentBoundary _ _ => true
  | .contextResume _ _ => true
  | .bankSubmit _ _ => true
  | .bankFlush _ => true
  | .abortAll _ => true
  | .abortTag _ _ => true
  | .chAlloc _ c => decide (c < 128)
  | .allocComplete _ => true
  | .chFree _ _ => true
  | .granuleZero g => decide (g < 4096)
  | .engineIdleOff _ => true
  | .engcmdOut _ => true
  | .engcmdIn _ => true
  | .katComplete _ _ _ _ => true
  | .engineFault _ => true
  | .engineWatchdog _ => true
  | .classWaitExpiry _ _ => true
  | .nop _ _ => true
  | .fence _ _ => true
  | .retireKey _ _ _ => true
  | .random _ _ => true
  | .copy _ _ => true
  | .zero _ _ => true
  | .aesCbcEncrypt _ _ => true
  | .aesCbcDecrypt _ _ => true
  | .aesCtr _ _ => true
  | .aesGcmSeal _ _ => true
  | .aesGcmOpen _ _ => true
  | .aesCcmSeal _ _ => true
  | .aesCcmOpen _ _ => true
  | .aesCmac _ _ => true
  | .chachaPolySeal _ _ => true
  | .chachaPolyOpen _ _ => true
  | .keyWrap _ _ => true
  | .keyUnwrap _ _ => true
  | .sha256 _ _ => true
  | .sha384 _ _ => true
  | .sha512 _ _ => true
  | .sha3256 _ _ => true
  | .sha3512 _ _ => true
  | .shake128 _ _ => true
  | .shake256 _ _ => true
  | .hmacSha256 _ _ => true
  | .hmacSha384 _ _ => true
  | .hkdfExtract _ _ => true
  | .hkdfExpand _ _ => true
  | .tls13ExpandLabel _ _ => true
  | .hashSave _ _ => true
  | .hashResume _ _ => true
  | .keyGen _ _ => true
  | .keyInfo _ _ => true
  | .persistentWriteDone _ _ _ _ => true
  | .counterCheckpointDone slot _ => decide (slot < 256)
  | .bnLoad _ _ => true
  | .bnStore _ _ => true
  | .bnModadd _ _ => true
  | .bnModsub _ _ => true
  | .bnModmul _ _ => true
  | .bnModinv _ _ => true
  | .bnModexp _ _ => true
  | .bnSetmod _ _ => true
  | .bnClear _ _ => true
  | .latNtt _ _ => true
  | .latIntt _ _ => true
  | .latPmul _ _ => true
  | .latSample _ _ => true
  | .ecdsaSign _ _ => true
  | .ecdsaVerify _ _ => true
  | .ecdh _ _ => true
  | .x25519 _ _ => true
  | .ed25519Sign _ _ => true
  | .ed25519Verify _ _ => true
  | .rsaVerify _ _ => true
  | .rsaSign _ _ => true
  | .keypairGen _ _ => true
  | .mlkemKeygen _ _ => true
  | .mlkemEncaps _ _ => true
  | .mlkemDecaps _ _ => true
  | .mldsaVerify _ _ => true
  | .mldsaSign _ _ => true
  | .presigFill _ _ => true
  | .hybridKexEncaps _ _ => true
  | .hybridKexDecaps _ _ => true
  | .recProtectInit _ _ => true
  | .recProtectRecord _ _ => true
  | .recProtectClose _ _ => true
  | .recProtectInfo _ _ => true
  | .recUnprotectInit _ _ => true
  | .recUnprotectRecord _ _ => true
  | .recUnprotectClose _ _ => true
  | .recUnprotectInfo _ _ => true
  | .telemetrySeal _ _ => true
  | .attest _ _ => true
  | .lastgaspArm _ _ => true
  | .phrase _ _ => true
  | .tamperOpened _ => true
  | .tamperAck _ => true
  | .lcNonce _ _ => true
  | .lcNonceExpiry => true
  | .lcRequest => true
  | .lcCheckDone => true
  | .lcTransitionDone _ _ => true
  | .jtagTestLogicReset => true
  | .jtagIdcode => true
  | .jtagBypass => true
  | .jtagSamplePreload => true
  | .jtagExtest => true
  | .dbgaccRead a => decide (a < 2 ^ 24)
  | .dbgaccWrite a _ => decide (a < 2 ^ 24)
  | .dbgHalt => true
  | .dbgResume => true
  | .dbgStep => true
  | .loaderAutobaud baud => decide (115200 ≤ baud ∧ baud ≤ 3000000)
  | .loaderInfo => true
  | .loaderData _ data => decide (data.length ≤ 4092)
  | .loaderCommit _ _ _ => true
  | .loaderReset => true
  | .loaderBadPacket _ => true
  | .loaderPacketTimeout => true
  | .endorse => true
  | .confirm => true
  | .restoreFactory => true
  | .calsave => true
  | .hostimgStage => true
  | .hostimgActivate => true
  | .checkpoint => true
  | .mgmtCmdDone _ _ => true
  | .confirmWatchdogExpiry => true
  | .higTableLoaded => true
  | .higpageWrite _ _ => true
  | .higFetchDone => true
  | .ptLoad _ _ => true
  | .ptLoadDone _ => true
  | .domainControlWrite _ a _ => decide (a % 4 = 0 ∧ 0x420 ≤ a ∧ a ≤ 0x470)
  | .domainSequenceStart x => decide (1 ≤ x ∧ x < 140)
  | .domainStepDone x => decide (1 ≤ x ∧ x < 140)
  | .domainReadyTimeout x _ _ => decide (1 ≤ x ∧ x < 140)
  | .stopRequest _ _ ws => ws.all (· < 8)
  | .stopEntryDone _ => true
  | .wake xs => xs.all (· ≤ 5)
  | .wakeTimerExpiry => true
  | .stopExitDone => true
  | .keystoreUnlockDone => true
  | .supplyTick _ env => env.wake.all (· < 8)
  | .rideEntryFire _ env => env.wake.all (· < 8)
  | .lastgaspSeal _ => true
  | .lastgaspMark _ => true
  | .pfwAssert => true
  | .pfwDeassert => true
  | .rideWrite _ _ _ => true
  | .lowclr _ => true
  | .fselWrite _ _ => true
  | .tempSample _ => true
  | .entropyBlockDone bits => decide (bits.length = 1024)
  | .vddioDetection _ _ => true
  | .tamperClosed _ => true

end Sys2Proof
end

