-- ==== Sys2Proof/Tests/Slice0.lean ====
section
/-!
SUPPORT. Tests: ill-formed commands are refused; for each statement with hypotheses, a concrete state and operands
that meet them.
-/

namespace Sys2Proof.Tests

open Sys2Proof Sys2Proof.Machine

set_option Elab.async false

/-! ### Well-formedness -/

theorem test_wf_frames : Instr.wf (.status ⟨.A, ⟨0, 0, 3, none, [], []⟩⟩) = false
    ∧ Instr.wf (.status ⟨.A, ⟨0xABCDEF, 7, 2, none, [], []⟩⟩) = true ∧ Instr.wf (.read .A ⟨0, 255, 256, none, [], []⟩) = true
    ∧ Instr.wf (.read .A ⟨0, 255, 257, none, [], []⟩) = false
    ∧ Instr.wf (.outread .A ⟨0x100000, 255, 257, none, [], []⟩) = false
    ∧ Instr.wf (.write .A ⟨0, 255, List.replicate 257 0, none⟩) = false
    ∧ Instr.wf (.stream .A ⟨0x140000, 255, List.replicate 257 0, none⟩) = false
    ∧ Instr.wf (.skip .A ⟨0x100000, 255, List.replicate 257 0, none⟩) = false := by decide +kernel

theorem test_wf_addresses : Instr.wf (.windowWrite .A 0x100004 0) = true ∧ Instr.wf (.windowWrite .A 0x100002 0) = false
    ∧ Instr.wf (.windowWrite .A 0x1000000 0) = false ∧ Instr.wf (.registerWrite .A 0x006 0) = false
    ∧ Instr.wf (.registerWrite .A 0x1000000 0) = false ∧ Instr.wf (.dbgaccRead 0x1000000) = false
    ∧ Instr.wf (.dbgaccWrite 0x1000000 0) = false ∧ Instr.wf (.domainControlWrite .A 0x41C 0) = false
    ∧ Instr.wf (.domainControlWrite .A 0x474 0) = false ∧ Instr.wf (.domainControlWrite .A 0x470 0) = true := by
  decide +kernel

theorem test_wf_ranges : Instr.wf (.chAlloc 0 128) = false ∧ Instr.wf (.granuleZero 4096) = false
    ∧ Instr.wf (.counterCheckpointDone 256 []) = false ∧ Instr.wf (.domainSequenceStart 0) = false
    ∧ Instr.wf (.domainStepDone 140) = false ∧ Instr.wf (.domainReadyTimeout 140 [] []) = false
    ∧ Instr.wf (.wake [0, 6]) = false ∧ Instr.wf (.wake [0, 5]) = true ∧ Instr.wf (.loaderAutobaud 115199) = false
    ∧ Instr.wf (.loaderAutobaud 3000001) = false ∧ Instr.wf (.loaderData 0 (List.replicate 4093 0)) = false
    ∧ Instr.wf (.entropyBlockDone (List.replicate 1023 true)) = false := by decide +kernel

/-! ### States -/

/-- A channel OPEN on port A: SPLIT 0, the whole pool its quota, HOLD mode. -/
def openChan : Chan :=
  { Chan.fresh with state := .opened, cfg := 0x800FF000, quota := 4096, rings := .opened 0 0, stream := .fresh }

/-- A volatile slot of class `c` that channel 0 owns, with every usage bit of its class: slot 0x400 + `c`. -/
def volSlot (c : Nat) : KeySlot := ⟨0x400 + c, 0, c, classUsage c, 4096, 0, .live, List.replicate (classLen c) 1, 0⟩

/-- A persistent slot of class `c` that channel 0 owns, its value in the cache. -/
def perSlot (s c : Nat) : KeySlot := ⟨s, 0, c, classUsage c, 4096, 0, .live, [], 0x24000⟩

/-- A core that runs: the ROM has run in BLANK's successor state, every domain is on, channel 0 is OPEN, its keys
are one volatile slot of each class but RSA, HMAC key 1 and RSA key 0xF0; a buffer of 64 granules at granule 0. -/
def dev : Dev :=
  let d := State.reset.dev
  { d with
    otp := { d.otp with root := List.replicate 32 1, rows := d.otp.rows.set 0 { EpochRow.blank with used := true, lc := 1 } }
    boot := { d.boot with boot := 2 }
    lc := { d.lc with shown := true, lcstate := 1 }
    cfg := { d.cfg with loaded := true, lgCfg := 0x80000000, chcfgt := d.cfg.chcfgt.set 0 0x800FF000 }
    journal := { d.journal with restored := true }
    chans := d.chans.set 0 openChan
    pool := { d.pool with bufs := [⟨0, 64, 0, .live⟩] }
    cores := d.cores.set 0 ⟨some 0, [
      ⟨0, 3, .context, 256, 0, false, 0, false, [2 ^ 255 - 19], 0⟩, ⟨8, 1, .residue, 256, 0, false, 0, false, [5], 0⟩,
      ⟨9, 1, .residue, 256, 0, false, 0, false, [7], 0⟩, ⟨10, 1, .raw, 256, 0, false, 0, false, [3], 0⟩,
      ⟨32, 16, .poly, 0, 1, false, 0, false, List.replicate 256 1, 0⟩,
      ⟨48, 16, .poly, 0, 1, true, 0, false, List.replicate 256 2, 0⟩,
      ⟨64, 16, .poly, 0, 1, true, 0, false, List.replicate 256 3, 0⟩,
      ⟨11, 1, .residue, 256, 0, false, 0, false, [0], 0⟩], false⟩
    drbg := ⟨true, zeros 32, zeros 16, 1⟩
    presig := ⟨List.replicate 5 (1, 1, 1), 0, 0⟩
    ks := { d.ks with
      ready := true, kek := zeros 32, aliasKey := List.replicate 48 1, aliasStmt := [1], idPub := [1]
      vol := [0x10, 0x11, 0x12, 0x13, 0x14, 0x15, 0x18, 0x19, 0x1A, 0x1B, 0x20, 0x21, 0x22, 0x23, 0x24, 0x25, 0x30, 0x31,
        0x34, 0x38].map volSlot
      per := [perSlot 0x01 0x18, perSlot 0xF0 0x28]
      cache := [(0x01, List.replicate 32 1), (0xF0, List.replicate 644 1)]
      recs := [⟨0x01, 0, 0, 0x34000⟩, ⟨0xF0, 0, 0, 0x34020⟩] }
    power := { d.power with doms := Vector.replicate 140 ⟨.on, false, false⟩ } }

/-- The machine with a core. -/
def of (d : Dev) : State := { State.reset with dev := d }

/-! ### Verbs that start -/

/-- A verb command with the fields of a clause: slots, input, output capacity, parameters, AAD length. -/
structure Case where
  i : Instr
  key : Nat := 0
  dst : Nat := 0
  inp : Option Bytes := none
  out : Option Nat := none
  ps : Option Bytes := none
  aad : Nat := 0
  flags : Nat := 0

/-- Its clause: input at the start of the buffer, parameters at 0x4000, output at 0x6000. -/
def Case.clause (x : Case) (verb : Nat) : Clause :=
  { w0 := at_ verb 24 ||| at_ x.flags 20 ||| 7
    w1 := at_ x.key 16 ||| at_ x.dst 0
    w2 := if x.inp.isSome then 0x10000000 else 0xFFFC0000
    w3 := BitVec.ofNat 32 ((x.inp.map (·.length)).getD 0)
    w4 := if x.out.isSome then 0x10006000 else 0xFFFC0000
    w5 := BitVec.ofNat 32 (x.out.getD 0)
    w6 := if x.ps.isSome then 0x10004000 else 0xFFFC0000
    w7 := at_ x.aad 16 ||| at_ ((x.ps.map (·.length)).getD 0) 0 }

/-- The sentence of one clause, taken, with id 0. -/
def taken (c : Clause) : Sentence := ⟨0, false, false, [c], 0, false, false, .none, false, none, none, none⟩

/-- A core where the clause of a case is the next of sentence 0 of channel 0. -/
def Case.core (x : Case) (verb : Nat) (d : Dev) : Dev :=
  modChan 0 (fun ch => { ch with sents := [taken (x.clause verb)], nextSid := 1 })
    { d with pool := { d.pool with
        mem := (d.pool.mem.write 0 0 (x.inp.getD [])).write 0 0x4000 (x.ps.getD []) } }

/-- Whether the clause `c` of sentence `x`, without a selection, starts under the row. -/
def startsB (s : State) (r : VerbRow) (x : Sentence) (c : Clause) (e : Nat) : Bool :=
  decide (s.dev.sent r.n x.sid = some x) && decide (x.clauses[x.idx]? = some c)
    && !s.dev.inPor && decide (s.dev.rst = .none) && !s.dev.stopped && (s.dev.chan r.n).state.active
    && ((s.dev.chan r.n).rings.ring .subp).good && ((s.dev.chan r.n).rings.ring .subb).good
    && ((s.dev.chan r.n).rings.ring .cpl).good && ((s.dev.chan r.n).rings.ring .out).good
    && x.job.isNone && !x.overlong && decide (r.sid = x.sid) && decide (c.verb = r.verb)
    && (r.op.isNone || decide (r.op = some (par8 (s.dev.params c) 0))) && (verbClass r.verb).isSome
    && !x.holds && !r.spec.awaitsStore (s.dev.ask r.n x c) && decide (r.spec.judge (s.dev.ask r.n x c) = none)
    && decide (s.dev.bodyWait r.n x c = none)
    && decide (s.dev.needsCkpt ((r.spec.plan (s.dev.ask r.n x c)).charges.filter (fun y => isPer y.1)) = none)
    && (match s.dev.workClass x c with
      | some k => decide (s.dev.pick k = some (r.n, x.sid))
        && decide ((if k == .service then some 16 else s.dev.engineFor k c) = some e)
      | none => decide (e = 17) && !s.dev.lc.dbgHalt)
    && s.dev.allOn (r.spec.needs (s.dev.ask r.n x c) e) && s.dev.servesNow (r.spec.draw (s.dev.ask r.n x c))
    && decide (nextLen c 0 = c.inLen) && decide ((s.dev.ask r.n x c).inp.length = c.inLen)
    && !s.dev.brokenIn (hi16 c.w2) (lo16 c.w2) c.inLen && !s.dev.brokenIn (hi16 c.w6) (lo16 c.w6) c.parLen

/-- What `startsB` says. -/
theorem starts_of_startsB {s : State} {r : VerbRow} {x : Sentence} {c : Clause} {e : Nat} (hs : x.sel = none)
    (h : startsB s r x c e = true) : s.starts r x c e := by
  simp only [startsB, Bool.and_eq_true, Bool.not_eq_true', decide_eq_true_eq] at h
  obtain ⟨⟨⟨⟨⟨⟨⟨⟨⟨⟨⟨⟨⟨⟨⟨⟨⟨⟨⟨⟨⟨⟨⟨⟨⟨⟨⟨hx, hc⟩, h1⟩, h2⟩, h3⟩, h4⟩, h5⟩, h6⟩, h7⟩, h8⟩, h9⟩, h10⟩, h11⟩, h12⟩, h13⟩, h14⟩,
    h15⟩, h16⟩, h17⟩, h18⟩, h19⟩, h20⟩, h21⟩, h22⟩, h23⟩, h24⟩, h25⟩, h26⟩ := h
  refine ⟨⟨⟨h1, h2⟩, h3, h4, ?_, hx, ?_, hc, h10⟩, h11, h12, ?_, h14, h15, h16, h17, h18, h19, ?_, h21, h22, h23, h24, h25,
    h26⟩
  · intro q
    cases q <;> assumption
  · simpa using h9
  · intro o ho
    rw [ho] at h13
    simpa [eq_comm] using h13
  · unfold State.given
    rw [hs]
    cases hk : s.dev.workClass x c with
    | none => simpa [hk] using h20
    | some k => simpa [hk] using h20

/-- The engine index a case starts on: 17 before a message hash, 16 the service processor, else the first engine of its
class. -/
def Case.engine (d : Dev) (x : Case) (verb : Nat) : Nat :=
  match (x.core verb d).workClass (taken (x.clause verb)) (x.clause verb) with
  | some .cipher => 0
  | some .hash => 8
  | some .bignum => 12
  | some .service => 16
  | none => 17

/-- The case starts from a core, on the first engine of its class. -/
def Case.starts (d : Dev) (x : Case) : Bool :=
  match verbRow x.i with
  | none => false
  | some r => startsB (of (x.core r.verb d)) r (taken (x.clause r.verb)) (x.clause r.verb) (x.engine d r.verb)

/-- The command of a case starts its clause in some state. -/
def Starts (i : Instr) : Prop := ∃ r x c e s, verbRow i = some r ∧ State.starts s r x c e

/-- A case that starts shows that its command does. -/
theorem Case.shows {d : Dev} {x : Case} (h : x.starts d = true) : Starts x.i := by
  unfold Case.starts at h
  split at h
  · cases h
  · rename_i r hr
    exact ⟨r, _, _, _, _, hr, starts_of_startsB rfl h⟩

/-- Every case of a list shows its command. -/
theorem all_show {d : Dev} {l : List Case} (h : l.all (·.starts d) = true) : ∀ x ∈ l, Starts x.i :=
  fun x hx => Case.shows (List.all_eq_true.mp h x hx)

/-- A block of 16 bytes. -/
def block16 : Bytes := List.replicate 16 1

/-- A key attribute block of class `c` with every usage bit of the class and limit 1. -/
def kab (c : Nat) : Bytes := kabBytes c (classUsage c) false 1

def cipherCases : List Case := [
  { i := .copy 0 0, inp := some [1], out := some 1 }, { i := .zero 0 0, out := some 1 },
  { i := .aesCbcEncrypt 0 0, key := 0x410, inp := some block16, out := some 16, ps := some block16 },
  { i := .aesCbcDecrypt 0 0, key := 0x411, inp := some block16, out := some 16, ps := some block16 },
  { i := .aesCtr 0 0, key := 0x410, inp := some [1], out := some 1, ps := some block16 },
  { i := .aesCmac 0 0, key := 0x410, out := some 16 },
  { i := .aesGcmSeal 0 0, key := 0x412, inp := some [1, 2], out := some 29, ps := some (zeros 4), aad := 1 },
  { i := .aesGcmOpen 0 0, key := 0x413, inp := some (zeros 18), out := some 1, ps := some (zeros 12), aad := 1 },
  { i := .aesCcmSeal 0 0, key := 0x412, inp := some [1], out := some 5, ps := some ([4, 13] ++ zeros 13) },
  { i := .aesCcmOpen 0 0, key := 0x412, inp := some (zeros 17), out := some 1, ps := some ([16, 7] ++ zeros 7) },
  { i := .chachaPolySeal 0 0, key := 0x414, out := some 16, ps := some (zeros 12) },
  { i := .chachaPolyOpen 0 0, key := 0x414, inp := some (zeros 16), out := some 0, ps := some (zeros 12) }]

theorem witness_CipherVerbsCompute : ∀ x ∈ cipherCases, Starts x.i := all_show (d := dev) (by decide +kernel)

def hashCases : List Case := [
  { i := .sha256 0 0, out := some 32 }, { i := .sha384 0 0, inp := some [1], out := some 48 },
  { i := .sha512 0 0, inp := some [1], out := some 64 }, { i := .sha3256 0 0, inp := some [1], out := some 32 },
  { i := .sha3512 0 0, inp := some [1], out := some 64 }, { i := .shake128 0 0, inp := some [1], out := some 1 },
  { i := .shake256 0 0, inp := some [1], out := some 8192 }, { i := .hmacSha256 0 0, key := 0x418, out := some 32 },
  { i := .hmacSha384 0 0, key := 0x419, inp := some [1], ps := some (zeros 48) },
  { i := .hkdfExtract 0 0, key := 0x41A, dst := 0x500, ps := some ([1, 0, 0, 0] ++ kab 0x1A) },
  { i := .hkdfExtract 0 0, dst := 0x500, ps := some ([2, 3, 4, 0x1B] ++ kab 0x1B) },
  { i := .hkdfExpand 0 0, key := 0x41A, out := some 8160, ps := some ([1, 1, 0x1F, 0xE0] ++ zeros 8) },
  { i := .hkdfExpand 0 0, key := 0x41B, dst := 0x500, inp := some [1], ps := some ([2, 0, 0, 16] ++ kab 0x10) },
  { i := .tls13ExpandLabel 0 0, key := 0x41A, dst := 0x500, ps := some ([1, 2, 0, 32] ++ kab 0x1A ++ [1, 0x6B]) },
  { i := .hashSave 0 0, inp := some [1], out := some 104, ps := some ([0x20, 1] ++ zeros 6) },
  { i := .hashResume 0 0, inp := some [1], out := some 8, ps := some ([0x26, 1] ++ zeros 206) }]

theorem witness_HashVerbsCompute : ∀ x ∈ hashCases, Starts x.i := all_show (d := dev) (by decide +kernel)

def keyCases : List Case := [
  { i := .random 0 0, out := some 8192, ps := some [0, 2] }, { i := .retireKey 0 0 [], key := 0x410 },
  { i := .keyGen 0 0, dst := 0x500, ps := some (kab 0x10) }, { i := .keyInfo 0 0, key := 0x01, out := some 24 },
  { i := .keyWrap 0 0, key := 0x415, dst := 0x410, out := some 32 },
  { i := .keyUnwrap 0 0, key := 0x415, dst := 0x500, inp := some (zeros 32) }]

theorem witness_KeyVerbsCompute : ∀ x ∈ keyCases, Starts x.i := all_show (d := dev) (by decide +kernel)

/-- An RSA modulus and exponent that pass the checks of a clause. -/
def rsaParams : Bytes := [1, 0, 2, 32] ++ natBE 4 3 ++ natBE 256 (2 ^ 2048 - 1) ++ zeros 256

def publicCases : List Case := [
  { i := .ecdsaSign 0 0, key := 0x420, out := some 64, ps := some [1, 0, 0, 0], flags := 1 },
  { i := .ecdsaVerify 0 0, ps := some ([2, 0, 0, 0] ++ zeros 193) },
  { i := .ecdh 0 0, key := 0x421, dst := 0x500, inp := some (zeros 65), ps := some (kab 0x1A) },
  { i := .x25519 0 0, key := 0x424, dst := 0x500, inp := some (zeros 32), ps := some (kab 0x1A) },
  { i := .ed25519Sign 0 0, key := 0x425, inp := some [1], out := some 64 },
  { i := .ed25519Verify 0 0, inp := some [1], ps := some (zeros 96) },
  { i := .rsaVerify 0 0, inp := some [1], ps := some rsaParams },
  { i := .rsaSign 0 0, key := 0xF0, inp := some [1], out := some 256, ps := some [1, 0, 2, 32] },
  { i := .mldsaVerify 0 0, inp := some [1], ps := some (zeros 5263) },
  { i := .mldsaSign 0 0, key := 0x434, inp := some [1], out := some 3309, ps := some [0, 0] },
  { i := .keypairGen 0 0, dst := 0x500, out := some 65, ps := some (kab 0x20) },
  { i := .keypairGen 0 0, key := 0x434, out := some 1952 },
  { i := .mlkemKeygen 0 0, dst := 0x500, out := some 1216, ps := some (kab 0x38) },
  { i := .mlkemEncaps 0 0, dst := 0x500, inp := some (zeros 1184), out := some 1088, ps := some (kab 0x1A) },
  { i := .mlkemDecaps 0 0, key := 0x431, dst := 0x500, inp := some (zeros 1568), ps := some (kab 0x1A) },
  { i := .presigFill 0 0, ps := some [32, 0, 0, 0] }]

theorem witness_PublicKeyVerbsCompute : ∀ x ∈ publicCases, Starts x.i := all_show (d := dev) (by decide +kernel)

/-- An operand parameter block: DST, SRCA, SRCB, MOD, FMT, FLAGS, RING, COUNT. -/
def opBytes (dst a b m fmt flags ring count : Nat) : Bytes :=
  natBE 2 dst ++ natBE 2 a ++ natBE 2 b ++ natBE 2 m ++ [fmt, flags, ring, count].map (BitVec.ofNat 8)

def primitiveCases : List Case := [
  { i := .bnModadd 0 0, ps := some (opBytes 8 8 9 0 0 0 0 1) }, { i := .bnModsub 0 0, ps := some (opBytes 12 8 9 0 0 0 0 1) },
  { i := .bnModmul 0 0, ps := some (opBytes 511 8 8 0 0 1 0 1) },
  { i := .bnModexp 0 0, ps := some (opBytes 9 8 10 0 0 0 0 1) }, { i := .bnModinv 0 0, ps := some (opBytes 9 8 0xFFFF 0 0 0 0 1) },
  { i := .bnModinv 0 0, ps := some (opBytes 9 11 0xFFFF 0 0 0 0 1) },
  { i := .bnSetmod 0 0, inp := some (List.replicate 32 0xFF), ps := some (opBytes 0 0xFFFF 0xFFFF 0xFFFF 0 0 0 1) },
  { i := .bnLoad 0 0, inp := some (zeros 64), ps := some (opBytes 12 0xFFFF 0xFFFF 0xFFFF 2 0 0 2) },
  { i := .bnLoad 0 0, inp := some (zeros 32), ps := some (opBytes 12 0xFFFF 0xFFFF 0 0 0 0 1) },
  { i := .bnLoad 0 0, inp := some (zeros 256), ps := some (opBytes 12 0xFFFF 0xFFFF 0 1 1 0 8) },
  { i := .bnStore 0 0, out := some 32, ps := some (opBytes 0xFFFF 8 0xFFFF 0 0 0 0 1) },
  { i := .bnClear 0 0, ps := some (opBytes 0xFFFF 8 0xFFFF 0xFFFF 0 0 0 1) },
  { i := .bnClear 0 0, ps := some (opBytes 0xFFFF 0 0xFFFF 0xFFFF 0 2 0 1) },
  { i := .latNtt 0 0, ps := some (opBytes 32 32 0xFFFF 0xFFFF 0 0 1 1) },
  { i := .latIntt 0 0, ps := some (opBytes 80 48 0xFFFF 0xFFFF 0 0 1 1) },
  { i := .latPmul 0 0, ps := some (opBytes 80 48 64 0xFFFF 0 0 1 1) },
  { i := .latPmul 0 0, ps := some (opBytes 48 48 64 0xFFFF 1 0 1 1) },
  { i := .latPmul 0 0, ps := some (opBytes 80 48 64 0xFFFF 2 0 1 1) },
  { i := .latPmul 0 0, ps := some (opBytes 80 48 64 0xFFFF 3 0 1 1) },
  { i := .latSample 0 0, inp := some (zeros 32), ps := some (opBytes 496 0xFFFF 0xFFFF 0xFFFF 0 0 1 1 ++ [0, 255, 0, 0]) },
  { i := .latSample 0 0, inp := some (zeros 32), ps := some (opBytes 80 0xFFFF 0xFFFF 0xFFFF 1 0 1 8 ++ [3, 0, 248, 0]) },
  { i := .latSample 0 0, inp := some (zeros 64), ps := some (opBytes 80 0xFFFF 0xFFFF 0xFFFF 2 0 2 1 ++ [4, 255, 255, 0]) }]

theorem witness_PrimitiveVerbsCompute : ∀ x ∈ primitiveCases, Starts x.i := all_show (d := dev) (by decide +kernel)

/-- A LIVE TLS 1.3 context of suite 0x1301. -/
def tlsCtx (protect : Bool) : RecCtx :=
  ⟨0, protect, 1, 0x1301, 3, [], block16, zeros 12, [], 5, 0, 0, 100, 0, .live⟩

/-- The core with a protect context 0 and an unprotect context 1. -/
def recDev : Dev := setRec 0 1 (some (tlsCtx false)) (setRec 0 0 (some (tlsCtx true)) dev)

def serviceCases : List Case := [
  { i := .recProtectInit 0 0, key := 0x41A, ps := some ([1, 7, 1, 0, 0x13, 0x01] ++ zeros 10) },
  { i := .recUnprotectInit 0 0, key := 0x41B, ps := some ([1, 7, 2, 1, 0x13, 0x02] ++ zeros 10 ++ [9]) },
  { i := .recProtectRecord 0 0, inp := some [1], out := some 23, ps := some [2, 0, 23, 0, 0, 0, 0, 0] },
  { i := .recProtectClose 0 0, ps := some [3, 0] }, { i := .recUnprotectClose 0 0, ps := some [3, 1] },
  { i := .recProtectInfo 0 0, out := some 32, ps := some [4, 0] },
  { i := .recUnprotectInfo 0 0, out := some 32, ps := some [4, 7] },
  { i := .recUnprotectRecord 0 0, inp := some ([0x17, 3, 3, 0, 17] ++ zeros 17), out := some 12, ps := some [2, 1] },
  { i := .telemetrySeal 0 0, key := 0x420, inp := some [1], out := some 123, ps := some ([1, 0, 0, 0] ++ zeros 4) },
  { i := .telemetrySeal 0 0, key := 0x412, inp := some [1], out := some 87, ps := some ([2, 0, 0, 0] ++ zeros 4) },
  { i := .attest 0 0, out := some 512, ps := some ([1, 8, 0, 0] ++ zeros 8) },
  { i := .attest 0 0, out := some 320, ps := some [2, 0, 0, 0] }, { i := .attest 0 0, out := some 97, ps := some [3, 0, 0, 0] },
  { i := .lastgaspArm 0 0, key := 0x420, ps := some (zeros 8) }]

theorem witness_ServiceVerbsCompute : ∀ x ∈ serviceCases, Starts x.i := all_show (d := recDev) (by decide +kernel)

/-- A key pair of class RSA-2048, made in rounds. -/
def rsaCase : Case := { i := .keypairGen 0 0, dst := 0xF1, out := some 256, ps := some (kab 0x28 ++ natBE 4 65537) }

def hybridEncaps : Case :=
  { i := .hybridKexEncaps 0 0, dst := 0x500, inp := some (zeros 1184 ++ [9] ++ zeros 31), out := some 1120
    ps := some ([1, 1] ++ zeros 6 ++ kab 0x1A) }

/-- The core with a generator whose key is empty, which the kernel evaluates quickly. -/
def hybridDev : Dev := { dev with drbg := ⟨true, [], zeros 16, 1⟩ }

theorem witness_hybrid_encaps : ∃ s w, State.starts s ⟨0, 0, 0x5F, some 1, hybridVerb⟩ (taken (hybridEncaps.clause 0x5F))
      (hybridEncaps.clause 0x5F) 12
    ∧ w = s.workOf ⟨0, 0, 0x5F, some 1, hybridVerb⟩ (taken (hybridEncaps.clause 0x5F)) (hybridEncaps.clause 0x5F)
    ∧ kemEkOk kem768 (w.inp.take 1184) = true ∧ x25519 (w.rnd.take 32) (w.inp.drop 1184) ≠ zeros 32 := by
  refine ⟨of (hybridEncaps.core 0x5F hybridDev), _, starts_of_startsB rfl (by decide +kernel), rfl, ?_, ?_⟩
  · rw [show (State.workOf _ _ _ _).inp.take 1184 = zeros 1184 by decide +kernel]
    decide +kernel
  · rw [show (State.workOf _ _ _ _).rnd.take 32
        = natLE 32 904625697166532776746648320380374280105000983196101822431166182122101669888 by decide +kernel,
      show (State.workOf _ _ _ _).inp.drop 1184 = [9] ++ zeros 31 by decide +kernel]
    decide +kernel

def hybridDecaps : Case :=
  { i := .hybridKexDecaps 0 0, key := 0x438, dst := 0x500, inp := some (zeros 1088 ++ [9] ++ zeros 31)
    ps := some ([2, 2, 1, 0, 4, 0x1A, 0, 0] ++ kab 0x1B) }

theorem witness_hybrid_decaps : ∃ s w, State.starts s ⟨0, 0, 0x5F, some 2, hybridVerb⟩ (taken (hybridDecaps.clause 0x5F))
      (hybridDecaps.clause 0x5F) 12
    ∧ w = s.workOf ⟨0, 0, 0x5F, some 2, hybridVerb⟩ (taken (hybridDecaps.clause 0x5F)) (hybridDecaps.clause 0x5F)
    ∧ x25519 (hybridParts w.key).1 (w.inp.drop 1088) ≠ zeros 32 := by
  refine ⟨of (hybridDecaps.core 0x5F dev), _, starts_of_startsB rfl (by decide +kernel), rfl, ?_⟩
  rw [show (State.workOf _ _ _ _).key = List.replicate 32 1 by decide +kernel,
    show (hybridParts (List.replicate 32 1)).1
      = natLE 32 43498600730302607097806335762004691045856679345631564601996601764930456079805 by decide +kernel,
    show (State.workOf _ _ _ _).inp.drop 1088 = [9] ++ zeros 31 by decide +kernel]
  decide +kernel

theorem witness_VerbDispatchStartsJob : Starts (.sha256 0 0) ∧ Starts (.keypairGen 0 0)
    ∧ ∀ r, r ∈ (verbRow rsaCase.i).toList →
      r.spec.rounds ((of (rsaCase.core r.verb dev)).dev.ask 0 (taken (rsaCase.clause r.verb)) (rsaCase.clause r.verb)) = true :=
  ⟨witness_HashVerbsCompute _ (List.Mem.head _), Case.shows (d := dev) (x := rsaCase) (by decide +kernel), by decide +kernel⟩

/-! ### Steps and resets -/

/-- The running machine. -/
def live : State := of dev

/-- The running machine with its core changed. -/
def with_ (f : Dev → Dev) : State := of (f dev)

/-- Channel 0 of the running machine changed. -/
def withChan (f : Chan → Chan) : State := with_ (modChan 0 f)

/-- The running machine with `l` captured on port `p`. -/
def slotState (p : Port) (l : List Slot) : State := live.modPort p (fun y => { y with slots := l })

theorem witness_EmptyQueueCommitsOldestFrame :
    ((with_ fun d => { d with power := { d.power with st := .stop } }).pending = []
      ∧ (with_ fun d => { d with power := { d.power with st := .stop } }).commits = false)
    ∧ (live.pending = [] ∧ live.shell.a.slots = [] ∧ live.shell.b.slots = [])
    ∧ ∀ p, ∀ c ∈ [Captured.ignored, .skip 0, .write 0x020 [5], .write 0x100000 [5], .write 0x020 [5, 6], .stream 0 [5],
        .outread 0 (some (0, 0, 2)), .outread 0 none], ∃ s, s = slotState p [⟨c, false⟩, ⟨.skip 0, false⟩] ∧ s.awake
      ∧ s.pending = [] ∧ s.commits = true ∧ (p = .B → s.shell.a.slots = [])
      ∧ (s.shell.port p).slots = ⟨c, false⟩ :: [⟨.skip 0, false⟩] := by
  unfold State.awake
  refine ⟨by decide +kernel, by decide +kernel, fun p c hc => ⟨_, rfl, ?_⟩⟩
  revert c
  cases p <;> decide +kernel

theorem witness_StepKeepsShellsLegal : ∃ s t, s = { live with pending := [.hlcfgWrite .A 0x00080F01] }
    ∧ s.legal = true ∧ step s = .next t ∧ t.hlcfg .A = 0x00080001 :=
  ⟨_, _, rfl, by decide +kernel, rfl, by decide +kernel⟩

theorem witness_ResetsKeepWhatTheSpecNames : live.dev.boot.mgmt = none ∧ live.awake ∧ live.takes .A ∧ live.dev.supply.fired = false
    ∧ ∃ s, s = (with_ fun d => { d with boot := { d.boot with boot := 1, confirmRun := true, confirmRemain := 5, confirmLeft := 5 } })
      ∧ s.dev.boot.mgmt = none ∧ s.dev.supply.fired = false ∧ s.awake ∧ s.dev.boot.confirmRun = true ∧ s.dev.power.st = .run
      ∧ s.dev.boot.confirmRemain ≤ s.dev.boot.confirmLeft := by
  unfold State.takes State.awake
  exact ⟨by decide +kernel, by decide +kernel, by decide +kernel, by decide +kernel, _, rfl, by decide +kernel⟩

theorem witness_BankSupplyDetection : live.dev.rst = .none ∧ live.dev.boot.mgmt = none ∧ Bank3.A ≠ .B ∧ Bank3.F ≠ .B
    ∧ ∃ s, s = (with_ fun d => { d with pins := { d.pins with vin := false } }) ∧ s.dev.rst = .none ∧ s.dev.pins.vin = false :=
  ⟨by decide +kernel, by decide +kernel, by decide +kernel, by decide +kernel, _, rfl, by decide +kernel⟩

/-! ### Frames -/

theorem witness_ControlReadDrivesSnapshot : ∀ p : Port, live.hears p
    ∧ ∀ f : ReadFrame, (f = ⟨0x01C, 0, 1, none, [], []⟩ ∨ f = ⟨0x10000, 255, 256, none, [], []⟩ ∧ p = .A) →
      f.addr.toNat % 4 = 0 ∧ winOf f.addr.toNat = none
      ∧ (∀ i, i ≤ f.cnt.toNat → f.addr.toNat + 4 * i < unitEnd f.addr.toNat
        ∧ (live.dev.otp.endFuse = true ∨ live.dev.ctlSeen (some p) (f.addr.toNat + 4 * i) = true))
      ∧ f.cnt.toNat + 1 ≤ f.clocked := by
  unfold State.hears
  intro p
  refine ⟨by cases p <;> decide +kernel, ?_⟩
  rintro f (rfl | ⟨rfl, rfl⟩)
  · cases p <;> decide +kernel
  · decide +kernel

theorem witness_StatusDrivesGstat : ∀ p : Port, live.hears p ∧ bit (live.hlcfg p) 2 = false
    ∧ ∃ s : State, s = live.modPort p (fun x => { x with hlcfg := 0xC }) ∧ s.hears p ∧ bit (s.hlcfg p) 2 = true := by
  unfold State.hears
  intro p
  cases p <;> exact ⟨by decide +kernel, by decide +kernel, _, rfl, by decide +kernel⟩

/-- Channel 0 with one sealed OUT record of three words at OUT_HEAD. -/
def recState : State := withChan fun c =>
  { c with
    rings := { c.rings with
      out := { c.rings.out with tail := .of 12 }, starts := [(0, false)]
      mem := Mem.setWord 0 [] c.rings.out.base 8 } }

theorem witness_WindowReadDrivesFillersThenWord : live.hears .A ∧ live.dev.otp.endFuse = false ∧ live.dev.gRun = true
    ∧ (∀ a, a = 0x100000 ∨ a = 0x103FFC → a % 4 = 0 ∧ live.dev.blocked (some .A) a = false
      ∧ ∃ off, winOf a = some (.ring 0 off) ∧ live.dev.bound 0 = .A ∧ (live.dev.chan 0).state.active = true
        ∧ live.dev.domOff 44 = false)
    ∧ (∀ a, a = 0x200000 ∨ a = 0x207FFC → a % 4 = 0 ∧ live.dev.blocked (some .A) a = false
      ∧ ∃ off, winOf a = some (.pool off) ∧ live.dev.poolHit .A off = .served 0 ∧ live.dev.domOff (60 + off / 65536) = false
        ∧ live.dev.pool.broken.contains off = false) := by
  unfold State.hears
  refine ⟨by decide +kernel, by decide +kernel, by decide +kernel, ?_, ?_⟩
  · rintro a (rfl | rfl)
    · exact ⟨rfl, by decide +kernel, 0, by decide +kernel⟩
    · exact ⟨rfl, by decide +kernel, 0x3FFC, by decide +kernel⟩
  · rintro a (rfl | rfl)
    · exact ⟨rfl, by decide +kernel, 0, by decide +kernel⟩
    · exact ⟨rfl, by decide +kernel, 0x7FFC, by decide +kernel⟩

/-- A STATUS frame of which `k` words are clocked. -/
def statusFrame (k : Nat) : ReadFrame := ⟨0xABCDEC, 3, k, none, [], []⟩

theorem witness_ReadFramesChangeNoHostState : ∃ t, exec (.status ⟨.A, statusFrame 1⟩) live = .next t
    ∧ live.dev.power.st = .run ∧ (live.shell.port .A).badHdr < 4 :=
  ⟨_, rfl, by decide, by decide⟩

/-- A WRITE of one word. -/
def oneWord : WriteFrame := ⟨0x020, 0, [5], none⟩

/-- Port A with CRC enabled. -/
def crcState : State := { live with shell := ⟨{ live.shell.a with hlcfg := 0xC }, live.shell.b⟩ }

theorem witness_WriteFrameWaitsInSlot : live.hears .A ∧ (live.shell.port .A).slots.length < 2 ∧ oneWord.addr.toNat % 4 = 0
    ∧ oneWord.cnt.toNat + 1 ≤ oneWord.data.length ∧ bit (live.hlcfg .A) 2 = false
    ∧ crcState.hears .A ∧ bit (crcState.hlcfg .A) 2 = true := by
  unfold State.hears
  decide +kernel

/-- Port A with both slots occupied, in STOP. -/
def fullState : State :=
  { (with_ fun d => { d with power := { d.power with st := .stop } }) with
    shell := ⟨{ live.shell.a with slots := [⟨.ignored, false⟩, ⟨.ignored, false⟩] }, live.shell.b⟩ }

theorem witness_ThirdFrameAndWrongTrailerRefused : fullState.hears .A ∧ (fullState.shell.port .A).slots.length = 2
    ∧ fullState.commits = false ∧ crcState.hears .A ∧ (crcState.shell.port .A).slots.length < 2
    ∧ oneWord.addr.toNat % 4 = 0 ∧ bit (crcState.hlcfg .A) 2 = true
    ∧ oneWord.trailer ≠ some (bytesWord (crcCheck (header 0xA2 oneWord.addr oneWord.cnt
      ++ wordsBytes (oneWord.data.take (oneWord.cnt.toNat + 1))))) := by
  unfold State.hears
  decide +kernel

theorem witness_StreamAppendsToFillBank : ∃ f : WriteFrame, f = ⟨0x140000, 255, List.replicate 256 1, none⟩
    ∧ live.hears .A ∧ live.takes .A ∧ (live.shell.port .A).slots = [] ∧ f.addr.toNat % 4 = 0 ∧ 0x140000 ≤ f.addr.toNat
    ∧ f.addr.toNat < 0x180000 ∧ f.cnt.toNat + 1 ≤ f.data.length ∧ bit (live.hlcfg .A) 2 = false
    ∧ live.dev.bound (addrChn f.addr.toNat) = .A ∧ (live.dev.chan (addrChn f.addr.toNat)).state.active = true
    ∧ (live.dev.chan (addrChn f.addr.toNat)).stream.fillBank = some 0
    ∧ live.dev.domOff (92 + 2 * (addrChn f.addr.toNat).val + 0) = false
    ∧ live.dev.power.st = .run ∧ ((live.dev.chan (addrChn f.addr.toNat)).stream.bank 0).count + 4 * (f.cnt.toNat + 1) ≤ 0x2000
    ∧ Mem.wf 0 (live.dev.chan (addrChn f.addr.toNat)).stream.mem = true := by
  unfold State.hears State.takes State.awake
  exact ⟨_, rfl, by decide +kernel⟩

theorem witness_SkipConsumesSealedRecord : ∃ (f : WriteFrame) (s : State) (st : Nat) (l : List (Nat × Bool)),
    s.hears .A ∧ s.takes .A ∧ (s.shell.port .A).slots = [] ∧ f.addr.toNat % 4 = 0 ∧ 0x100000 ≤ f.addr.toNat
    ∧ f.addr.toNat < 0x140000 ∧ bit (s.hlcfg .A) 2 = false ∧ s.dev.bound (addrChn f.addr.toNat) = .A
    ∧ (s.dev.chan (addrChn f.addr.toNat)).state.active = true ∧ (s.dev.chan (addrChn f.addr.toNat)).rings.out.good = true
    ∧ (s.dev.chan (addrChn f.addr.toNat)).rings.starts = (st, false) :: l := by
  unfold State.hears State.takes State.awake
  exact ⟨⟨0x100000, 0, [], none⟩, recState, 0, [], by decide +kernel⟩

theorem witness_OutreadDrivesRecordAndMovesCursor : (recState.hears .A ∧ recState.takes .A
      ∧ (recState.shell.port .A).slots.length < 2 ∧ recState.dev.bound (addrChn 0x100000) = .A
      ∧ (recState.dev.chan (addrChn 0x100000)).state.active = true
      ∧ recState.dev.domOff (44 + (addrChn 0x100000).val) = false
      ∧ (recState.dev.chan (addrChn 0x100000)).rings.headRec = some (0, 3)
      ∧ (recState.dev.chan (addrChn 0x100000)).rings.mem.word 0
        ((recState.dev.chan (addrChn 0x100000)).rings.out.base + 0) ≠ 0)
    ∧ (recState.takes .A ∧ (recState.dev.chan 0).rings.out.good = true ∧ (recState.dev.chan 0).rings.recNo = 0
      ∧ (recState.dev.chan 0).rings.recNo ≠ 1 ∧ max (recState.dev.chan 0).rings.cursor (0 + 2) < 3
      ∧ 3 ≤ max (recState.dev.chan 0).rings.cursor (0 + 3))
    ∧ ∃ s : State, s = { recState with shell := ⟨{ recState.shell.a with slots := [⟨.outread 0 (some (0, 0, 2)), false⟩] },
        recState.shell.b⟩ } ∧ s.takes .A ∧ (s.shell.port .A).slots = [⟨.outread 0 (some (0, 0, 2)), false⟩] := by
  unfold State.hears State.takes State.awake
  exact ⟨by decide +kernel, by decide +kernel, _, rfl, by decide +kernel⟩

theorem witness_BadHeadersLeadToFallback : live.dev.served .A = true ∧ live.dev.rst = .none ∧ live.hears .A
    ∧ ([0xA1, 0x5E, 0, 0, 0] : Bytes).length < 6 ∧ par8 [0xA1, 0xA1, 0, 0, 0, 0] 1 ≠ 255 - par8 [0xA1, 0xA1, 0, 0, 0, 0] 0
    ∧ par8 [0x00, 0xFF, 0, 0, 0, 0] 1 = 255 - par8 [0x00, 0xFF, 0, 0, 0, 0] 0
    ∧ linkCodes.contains (par8 [0x00, 0xFF, 0, 0, 0, 0] 0) = false
    ∧ ∃ s : State, s = { live with shell := ⟨{ live.shell.a with badHdr := 4 }, live.shell.b⟩ } ∧ s.dev.served .A = true
      ∧ 4 ≤ (s.shell.port .A).badHdr ∧ bit (s.hlcfg .A) 3 = true := by
  unfold State.hears
  exact ⟨by decide +kernel, by decide +kernel, by decide +kernel, by decide, by decide, by decide, by decide, _, rfl,
    by decide +kernel⟩

theorem witness_WindowWriteWritesOneWord : live.takes .A ∧ live.dev.blocked (some .A) 0x100000 = false
    ∧ winOf 0x100000 = some (.ring 0 0) ∧ live.dev.bound 0 = .A ∧ (live.dev.chan 0).state.active = true
    ∧ live.dev.domOff 44 = false ∧ Mem.wf 0 (live.dev.chan 0).rings.mem = true
    ∧ live.dev.blocked (some .A) 0x207FFC = false ∧ winOf 0x207FFC = some (.pool 0x7FFC)
    ∧ live.dev.poolHit .A 0x7FFC = .served 0 ∧ live.dev.domOff (60 + 0x7FFC / 65536) = false
    ∧ Mem.wf 0 live.dev.pool.mem = true
    ∧ ∃ s, s = (with_ fun d => { d with power := { d.power with doms := Vector.replicate 140 ⟨.off, false, false⟩ } })
      ∧ s.takes .A ∧ s.dev.blocked (some .A) 0x100000 = false ∧ s.dev.blocked (some .A) 0x143FFC = false ∧ s.dev.bound 0 = .A
      ∧ winOf 0x100000 = some (.ring 0 0) ∧ s.dev.domOff (44 + 0) = true ∧ winOf 0x143FFC = some (.stream 0 0x3FFC)
      ∧ s.dev.domOff (92 + 2 * 0 + 0x3FFC / 0x2000) = true := by
  unfold State.takes State.awake
  exact ⟨by decide +kernel, by decide +kernel, by decide +kernel, by decide +kernel, by decide +kernel, by decide +kernel,
    by decide +kernel, by decide +kernel, by decide +kernel, by decide +kernel, by decide +kernel, by decide +kernel, _, rfl,
    by decide +kernel⟩

theorem witness_RegisterWritesTakeEffect : live.takes .A ∧ live.takes .B ∧ fld 0x00080801 11 8 ≤ 8 ∧ fld 0x00080801 1 0 ≤ 1
    ∧ 8 < fld 0x00080900 11 8 ∧ 1 < fld 0x00080802 1 0 ∧ ∀ n, live.takes (live.dev.bound n) := by
  unfold State.takes State.awake
  decide +kernel

/-! ### Time and the journal -/

theorem witness_SecondsCountWithTheWatchdog : (live.awake ∧ live.dev.boot.confirmRun = false)
    ∧ ∃ s, s = (with_ fun d => { d with boot := { d.boot with confirmRun := true, confirmRemain := 6, confirmLeft := 5 } })
      ∧ s.awake ∧ s.dev.boot.confirmRun = true ∧ s.dev.boot.confirmLeft < s.dev.boot.confirmRemain := by
  unfold State.awake
  exact ⟨by decide +kernel, _, rfl, by decide +kernel⟩

/-- A journal that holds entry 1 and fetches entry `k`, with one entry queued. -/
def journalState (k : Word) : State := with_ fun d =>
  { d with
    journal := { d.journal with
      jsel := k, jstat := 1, index := [(1, 0)], place := 639, nextSeq := 2, queue := [⟨0, true, 0, 0, 0, 0⟩] } }

theorem witness_JournalIsFetchedAndWritten : live.takes .A
    ∧ (∀ k, k = 1 ∨ k = 2 → (journalState k).awake ∧ (journalState k).dev.flashFree = true
      ∧ bit (journalState k).dev.journal.jstat 0 = true)
    ∧ (journalState 2).dev.journal.index.lookup (journalState 2).dev.journal.jsel.toNat = none
    ∧ (journalState 1).dev.journal.index.lookup (journalState 1).dev.journal.jsel.toNat = some 0
    ∧ (journalState 1).dev.journal.restored = true ∧ (journalState 1).dev.flashUp = true
    ∧ (journalState 1).dev.journal.queue = ⟨0, true, 0, 0, 0, 0⟩ :: [] ∧ (journalState 1).dev.journal.place % 128 ≠ 0
    ∧ Mem.wf 0xFF (journalState 1).dev.flash.mem = true := by
  unfold State.takes State.awake
  refine ⟨by decide +kernel, ?_, by decide +kernel⟩
  rintro k (rfl | rfl) <;> decide +kernel

/-! ### Channels -/

/-- Channel 0 in a state and phase of opening, its configuration `w`. -/
def openState (w : Word) (st : ChanState) (ph : OpenPhase) : State := with_ fun d =>
  modChan 0 (fun _ => { Chan.fresh with state := st, phase := ph, nonceV := ph == .noncev, rings := .opened 0 0 })
    { d with cfg := { d.cfg with chcfgt := d.cfg.chcfgt.set 0 w } }

theorem witness_OpenWithoutPolicyInitialises :
    (∃ s, s = openState 0x800FF000 .closed .idle ∧ s.takes (s.dev.bound 0) ∧ s.dev.power.st = .run
      ∧ (s.dev.chan 0).state = .closed ∧ (s.dev.chan 0).phase = .idle ∧ bit s.dev.cfg.chcfgt[0] 31 = true
      ∧ fld s.dev.cfg.chcfgt[0] 29 28 = 0 ∧ s.dev.chanFailed 0 = false)
    ∧ ∀ st, st = .closed ∨ st = .opening → ∀ b, ∃ s, s = openState 0x800FF000 st (.init b) ∧ s.awake ∧ s.dev.stopped = false
      ∧ (s.dev.chan 0).phase = .init b ∧ (s.dev.chan 0).state = st ∧ s.dev.allOn (chanDoms 0) = true := by
  unfold State.takes State.awake
  refine ⟨⟨_, rfl, by decide +kernel⟩, ?_⟩
  rintro st (rfl | rfl) b <;> cases b <;> exact ⟨_, rfl, by decide +kernel⟩

/-- A machine whose DRBG serves another request first. -/
def busyDrbg (s : State) : State := of { s.dev with entropy := { s.dev.entropy with busy := true, queue := [(.lcNonce, .plain 16)] } }

theorem witness_ChallengeIsDrawnAndAnswered :
    (∀ f, f = id ∨ f = busyDrbg → ∃ s, s = f (openState 0x900FF001 .closed .idle) ∧ s.takes (s.dev.bound 0)
      ∧ s.dev.power.st = .run
      ∧ (s.dev.chan 0).state = .closed ∧ (s.dev.chan 0).phase = .idle ∧ bit s.dev.cfg.chcfgt[0] 31 = true
      ∧ fld s.dev.cfg.chcfgt[0] 29 28 = 1 ∧ s.dev.chanFailed 0 = false ∧ s.dev.openKeyErr 0 (fld s.dev.cfg.chcfgt[0] 7 0) = none
      ∧ s.dev.entropyOut = false ∧ (s.dev.chan 0).lockout = false)
    ∧ (openState 0x900FF001 .closed .idle).dev.servesNow (some (.plain 32)) = true
    ∧ (busyDrbg (openState 0x900FF001 .closed .idle)).dev.servesNow (some (.plain 32)) = false
    ∧ (∃ s, s = openState 0x900FF001 .opening (.drawn (zeros 32)) ∧ s.awake ∧ s.dev.stopped = false
      ∧ (s.dev.chan 0).state = .opening ∧ (s.dev.chan 0).phase = .drawn (zeros 32))
    ∧ (∃ s, s = openState 0x900FF001 .opening .noncev ∧ s.takes (s.dev.bound 0) ∧ (s.dev.chan 0).state = .opening
      ∧ (s.dev.chan 0).nonceV = true ∧ s.dev.openKeyErr 0 (fld s.dev.cfg.chcfgt[0] 7 0) = none
      ∧ s.dev.chargeNow (fld s.dev.cfg.chcfgt[0] 7 0) 1 = true)
    ∧ ∃ s, s = openState 0x900FF001 .opening (.checking [] [] [] (.of .hash 62)) ∧ s.awake ∧ s.dev.stopped = false
      ∧ s.dev.sent 0 0 = none ∧ (s.dev.chan 0).phase = .checking [] [] [] (.of .hash 62) ∧ s.dev.pick .hash = some (0, 0)
      ∧ s.dev.prefer (Cls.hash.engines.filter s.dev.engFree) = some 8 ∧ s.dev.domOn (12 + 8) = true := by
  unfold State.takes State.awake
  refine ⟨?_, by decide +kernel, by decide +kernel, ⟨_, rfl, by decide +kernel⟩, ⟨_, rfl, by decide +kernel⟩, _, rfl,
    by decide +kernel⟩
  rintro f (rfl | rfl) <;> exact ⟨_, rfl, by decide +kernel⟩

/-- The check of a response on hash lane 0. -/
def hashStep : Step := { Step.of .hash 62 with phase := .run, engine := engIdOf 8 }

theorem witness_ResponseDecidesOpen :
    (∀ nonce resp, ∃ s, s = openState 0x900FF001 .opening (.checking [] nonce resp hashStep) ∧ s.awake ∧ s.dev.stopped = false
      ∧ hashStep.phase = .run ∧ (s.dev.chan 0).state = .opening ∧ (s.dev.chan 0).phase = .checking [] nonce resp hashStep)
    ∧ (∃ m resp : Bytes, hmac .sha256 [] m = resp) ∧ (∃ m resp : Bytes, hmac .sha256 [] m ≠ resp)
    ∧ ∃ s, s = openState 0x900FF001 .opening .noncev ∧ s.awake ∧ (s.dev.chan 0).state = .opening
      ∧ (s.dev.chan 0).phase = .noncev := by
  unfold State.awake
  refine ⟨fun nonce resp => ⟨_, rfl, ⟨rfl, rfl⟩, rfl, rfl, rfl, rfl⟩,
    ⟨[], _, rfl⟩, ⟨[], hmac .sha256 [] [] ++ [0], ?_⟩, _, rfl, by decide +kernel⟩
  intro h
  have := congrArg List.length h
  simp at this

/-- A job on cipher lane 0 with the given result, phase, destination and abort mark. -/
def jobOf (r : Option JobResult) (ph : JobPhase) (dst : Dest) (abort : Bool) : Job :=
  { verb := 0x04, engine := 0, phase := ph, input := [1], params := [], key := [], key2 := [], rnd := [], slots := []
    ctr := 0, dst := dst, written := 0, dest := none, hold := none, weight := 16, tagBefore := 0, presig := none
    filling := 0, touched := [], raced := false, abort := abort, outGone := false, drawing := false, steps := []
    runOn := false, primes := none, phrase := none, result := r }

/-- A COPY clause of one byte from the buffer into it. -/
def copyClause : Clause := (Case.clause { i := .copy 0 0, inp := some [1], out := some 1 } 4)

/-- A sentence of clause `c` with a job. -/
def running (c : Clause) (j : Job) : Sentence := { taken c with job := some j }

/-- The running machine with one sentence on channel 0. -/
def withSent (x : Sentence) : State := withChan fun c =>
  { c with sents := [x], nextSid := 1, rings := { c.rings with reserved := 1 } }

theorem witness_CloseDrainsAndResetClears : (live.takes (live.dev.bound 0) ∧ (live.dev.chan 0).state = .opened
      ∧ (live.dev.chan 0).state.active = true ∧ (live.dev.chan 0).sents = [])
    ∧ (∃ s, s = openState 0x900FF001 .opening .noncev ∧ s.takes (s.dev.bound 0) ∧ (s.dev.chan 0).state = .opening)
    ∧ (∀ b, ∃ s, s = openState 0x800FF000 .closed (.init b) ∧ s.takes (s.dev.bound 0) ∧ (s.dev.chan 0).state = .closed
      ∧ (s.dev.chan 0).phase = .init b)
    ∧ (∀ ph, ∃ s x j, j = jobOf none ph .none false ∧ x = running copyClause j ∧ s = withSent x ∧ s.takes (s.dev.bound 0)
      ∧ (s.dev.chan 0).state.active = true ∧ (s.dev.chan 0).sents = [x] ∧ x.parent = none ∧ x.job = some j
      ∧ j.stopsAtOnce = (ph == .susp || ph == .starved))
    ∧ (∃ s, s = (withChan fun c => { c with state := .draining }) ∧ s.awake ∧ s.dev.drained 0 = true
      ∧ ∀ k ∈ [RingK.subp, .subb, .cpl, .out], ((s.dev.chan 0).rings.ring k).good = true)
    ∧ ∃ s, s = (withChan fun c => { c with state := .resetting }) ∧ s.awake ∧ (s.dev.chan 0).state = .resetting
      ∧ (s.dev.chan 0).sents = [] := by
  unfold State.takes State.awake
  refine ⟨by decide +kernel, ⟨_, rfl, by decide +kernel⟩, ?_, ?_, ⟨_, rfl, by decide +kernel⟩, _, rfl, by decide +kernel⟩
  · intro b
    cases b <;> exact ⟨_, rfl, by decide +kernel⟩
  · intro ph
    cases ph <;> exact ⟨_, _, _, rfl, rfl, rfl, by decide +kernel⟩

theorem witness_ConfigurationIsWrittenAndStored : (∀ root : Bytes, root = [] ∨ root = List.replicate 32 1 →
      ∃ s, s = (with_ fun d => { d with otp := { d.otp with root := root } }) ∧ s.takes .A ∧ s.dev.cfgLocked = false
      ∧ fld 0x900010EF 29 28 ≤ 1 ∧ fld 0x900010EF 7 0 < 0xF0 ∧ (s.dev.chan 1).state ≠ .opening
      ∧ s.dev.otp.rooted = (root != []) ∧ s.dev.cfg.busy = false
      ∧ quotaSum (s.dev.cfg.chcfgt.set 1 (0x900010EF &&& 0xFBFFF0FF)).toList ≤ 4096
      ∧ s.dev.cfg.chcfgt[1] ≠ 0x900010EF &&& 0xFBFFF0FF)
    ∧ ∃ s, s = (with_ fun d => { d with cfg := { d.cfg with busy := true, snap := d.cfg.words, dirty := 1 } }) ∧ s.awake
      ∧ s.dev.cfg.busy = true ∧ s.dev.cfg.again = false ∧ s.dev.supply.level < 3 ∧ s.dev.flashUp = true
      ∧ s.dev.cfg.snap = s.dev.cfg.words := by
  unfold State.takes State.awake
  refine ⟨?_, _, rfl, by decide +kernel⟩
  rintro root (rfl | rfl) <;> exact ⟨_, rfl, by decide +kernel⟩

/-! ### The buffer pool -/

/-- A host allocation in progress on channel 0. -/
def allocState (a : AllocReq) : State := withChan fun c => { c with alloc := some a }

theorem witness_AllocationPlacesZeroedBuffer : (live.takes (live.dev.bound 0) ∧ live.dev.power.st = .run
      ∧ (live.dev.chan 0).state = .opened ∧ (live.dev.chan 0).alloc = none)
    ∧ (live.dev.inQuota 0 64 = true ∧ live.dev.firstFit 64 = some 64)
    ∧ (withChan fun c => { c with quota := 64 }).dev.inQuota 0 1 = false
    ∧ (∃ s, s = (with_ fun d => { d with power := { d.power with deny := Vector.replicate 5 0xFFFFFFFF } })
      ∧ s.dev.inQuota 0 1 = true ∧ s.dev.firstFit 1 = none)
    ∧ (∃ s, s = allocState ⟨4, some 64, 0⟩ ∧ s.awake ∧ s.dev.stopped = false
      ∧ (s.dev.chan 0).alloc = some ⟨4, some 64, 0⟩ ∧ s.dev.domOn (60 + 64 / 128) = true)
    ∧ ∃ s, s = allocState ⟨4, none, 2⟩ ∧ s.awake ∧ s.dev.stopped = false ∧ (s.dev.chan 0).alloc = some ⟨4, none, 2⟩ := by
  unfold State.takes State.awake
  exact ⟨by decide +kernel, by decide +kernel, by decide +kernel, ⟨_, rfl, by decide +kernel⟩,
    ⟨_, rfl, by decide +kernel⟩, _, rfl, by decide +kernel⟩

theorem witness_FreeReturnsGranulesDirty : (live.takes (live.dev.bound 0) ∧ (live.dev.chan 0).state.active = true
      ∧ live.dev.pool.buf (0x1000 % 4096) = some ⟨0, 64, 0, .live⟩ ∧ 0x1000 / 4096 = live.dev.pool.gen (0x1000 % 4096)
      ∧ live.dev.bufUsed 0 (0x1000 % 4096) = false)
    ∧ (∃ s, s = withSent (running copyClause (jobOf none .run .none false)) ∧ s.takes (s.dev.bound 0)
      ∧ (s.dev.chan 0).state.active = true ∧ s.dev.pool.buf (0x1000 % 4096) = some ⟨0, 64, 0, .live⟩
      ∧ 0x1000 / 4096 = s.dev.pool.gen (0x1000 % 4096) ∧ s.dev.bufUsed 0 (0x1000 % 4096) = true)
    ∧ ∃ s, s = (with_ fun d => { d with
          pool := { d.pool with dirty := [4095, 4094, 127] }
          power := { d.power with doms := vmod d.power.doms 60 (fun _ => ⟨.off, false, false⟩) } }) ∧ s.awake
      ∧ s.dev.pool.dirty.contains 4094 = true ∧ s.dev.domOn (60 + 4094 / 128) = true
      ∧ ∀ h, h < 4094 → s.dev.pool.dirty.contains h = true → s.dev.domOn (60 + h / 128) = false := by
  unfold State.takes State.awake
  refine ⟨by decide +kernel, ⟨_, rfl, by decide +kernel⟩, _, rfl, by decide +kernel, by decide +kernel, by decide +kernel, ?_⟩
  intro h hl hd
  have e : h = 127 := by
    have := List.contains_iff_mem.mp hd
    simp only [with_, of, List.mem_cons, List.not_mem_nil, or_false] at this
    omega
  subst e
  decide +kernel

/-! ### Rings -/

/-- Channel 0 with one record posted and one record at OUT_HEAD. -/
def ringState : State := withChan fun c =>
  { c with
    rings := { c.rings with
      cpl := { c.rings.cpl with tail := .of 1 }, notify := [true], reserved := 1
      out := { c.rings.out with tail := .of 12 }, starts := [(0, false)] } }

theorem witness_HostPointerWritesMovePointers : ringState.takes (ringState.dev.bound 0)
    ∧ (ringState.dev.chan 0).state = .opened ∧ (ringState.dev.chan 0).state.active = true
    ∧ (∀ (prio : Bool), ∀ r, r = (ringState.dev.chan 0).rings.ring (if prio then .subp else .subb) → r.good = true
      ∧ fld 1 13 0 < r.size ∧ (fld 1 13 0 + r.size - r.tail.nat) % r.size ≤ r.free ∧ r.size ≤ fld 0x3FFF 13 0)
    ∧ (∃ s, s = (withChan fun c => { c with rings := { c.rings with subb := { c.rings.subb with head := .of 1 } } })
      ∧ s.takes (s.dev.bound 0) ∧ (s.dev.chan 0).state = .opened
      ∧ ∀ r, r = (s.dev.chan 0).rings.ring (if false then .subp else .subb) → r.good = true
      ∧ r.free < (fld 1 13 0 + r.size - r.tail.nat) % r.size)
    ∧ (∀ r, r = (ringState.dev.chan 0).rings.cpl → r.good = true ∧ fld 1 13 0 < r.size
      ∧ (fld 1 13 0 + r.size - r.head.nat) % r.size ≤ r.used ∧ r.used < (fld 2 13 0 + r.size - r.head.nat) % r.size
      ∧ r.size ≤ fld 0x3FFF 13 0)
    ∧ (∀ r, r = (ringState.dev.chan 0).rings.out → r.good = true ∧ fld 12 13 0 < r.size ∧ fld 12 13 0 = r.tail.nat
      ∧ (fld 0 13 0, false) ∈ (ringState.dev.chan 0).rings.starts ∧ r.size ≤ fld 0x3FFF 13 0
      ∧ fld 4 13 0 ≠ r.tail.nat ∧ ∀ b, (fld 4 13 0, b) ∉ (ringState.dev.chan 0).rings.starts) := by
  unfold State.takes State.awake
  refine ⟨by decide +kernel, by decide +kernel, by decide +kernel, ?_, ⟨_, rfl, by decide +kernel, by decide +kernel, ?_⟩,
    ?_, ?_⟩
  · rintro (_ | _) r rfl <;> decide +kernel
  · rintro r rfl
    decide +kernel
  · rintro r rfl
    decide +kernel
  · rintro r rfl
    decide +kernel

/-- Channel 0 with the pointer pair of CPL_HEAD upset. -/
def upsetState : State := withChan fun c =>
  { c with rings := { c.rings with cpl := { c.rings.cpl with head := ⟨0, 0⟩ } } }

theorem witness_ScrubResetsMismatchedRing : live.awake
    ∧ (∀ n, (live.dev.chan n).state.active = true → n = 0) ∧ (∀ k, ((live.dev.chan 0).rings.ring k).good = true)
    ∧ upsetState.awake ∧ (upsetState.dev.chan 0).state.active = true ∧ ((upsetState.dev.chan 0).rings.ring .cpl).good = false
    ∧ ∀ m j, (m, j) ≠ (0, RingK.cpl) → (upsetState.dev.chan m).state.active = true →
      ((upsetState.dev.chan m).rings.ring j).good = true := by
  unfold State.awake
  have h : ∀ n, (upsetState.dev.chan n).state.active = true → n = 0 := by decide +kernel
  refine ⟨by decide +kernel, by decide +kernel, ?_, by decide +kernel, by decide +kernel, by decide +kernel, ?_⟩
  · intro k
    cases k <;> decide +kernel
  · intro m j hne hm
    obtain rfl := h m hm
    cases j
    · decide +kernel
    · decide +kernel
    · exact absurd rfl hne
    · decide +kernel

/-- A NOP clause and a FENCE clause. -/
def nopClause : Clause := ⟨0x00000007, 0, 0xFFFC0000, 0, 0xFFFC0000, 0, 0xFFFC0000, 0⟩
def fenceClause : Clause := { nopClause with w0 := 0x01000007 }

/-- Channel 0 with the clause `c` in SUBB. -/
def queuedState (c : Clause) : State := withChan fun ch =>
  { ch with
    rings := { ch.rings with
      subb := { ch.rings.subb with tail := .of 1 }
      mem := (Mem.setWord 0 (Mem.setWord 0 (Mem.setWord 0 (Mem.setWord 0 [] ch.rings.subb.base c.w0)
        (ch.rings.subb.base + 8) 0xFFFC0000) (ch.rings.subb.base + 16) 0xFFFC0000) (ch.rings.subb.base + 24) 0xFFFC0000) } }

/-- A clause with an unassigned verb. -/
def badClause : Clause := { nopClause with w0 := 0xFF000007 }

theorem witness_SentenceTakenReservesCredits : (∀ c st, (c, st) ∈ [(nopClause, none), (badClause, some Status.badVerb)] →
      ∃ s, s = queuedState c ∧ s.awake ∧ s.dev.stopped = false
      ∧ s.dev.visits = [(0, .subp)] ++ (0, .subb) :: s.dev.visits.drop 2
      ∧ (∀ v ∈ [((0 : Chn), RingK.subp)], visitRing v.1 v.2 s.dev = none)
      ∧ (s.dev.chan 0).state.active = true ∧ ((s.dev.chan 0).rings.ring .subb).good = true
      ∧ (s.dev.chan 0).rings.cpl.good = true
      ∧ ((s.dev.chan 0).rings.ring .subb).used ≠ 0 ∧ (s.dev.chan 0).subWait .subb = 0
      ∧ (s.dev.chan 0).rings.nextSentence .subb = some (c :: []) ∧ (s.dev.chan 0).sents = []
      ∧ ∀ v, v = specOf c.verb (par8 (s.dev.params c) 0) → ∀ a, a = s.dev.ask 0 (taken c) c →
        v.awaitsStore a = false ∧ v.judge a = st)
    ∧ (∃ t y, exec .sentenceTake (queuedState nopClause) = .next t ∧ (t.dev.chan 0).sents = [y] ∧ y.overlong = false)
    ∧ ∀ c b, (c, b) ∈ [(nopClause, true), (fenceClause, false)] → ∃ s, s = of (modChan 0 (fun ch =>
        { ch with sents := [{ taken nopClause with fence := b }] }) (queuedState c).dev) ∧ s.awake
      ∧ (∀ m, m ≠ 0 → (s.dev.chan m).state.active = false)
      ∧ (∀ k ∈ [RingK.subp, .subb, .cpl, .out], ((s.dev.chan 0).rings.ring k).good = true)
      ∧ (∀ k ∈ [RingK.subp, .cpl, .out], ((s.dev.chan 0).rings.ring k).used = 0)
      ∧ (s.dev.chan 0).rings.nextSentence .subb = some [c]
      ∧ ∃ z ∈ (s.dev.chan 0).sents, z.fence = true ∨ [c].any (·.fence) = true := by
  unfold State.awake
  refine ⟨?_, ⟨_, { taken nopClause with judged := true }, rfl, by decide +kernel⟩, ?_⟩
  · intro c st h
    simp only [List.mem_cons, Prod.mk.injEq, List.not_mem_nil, or_false] at h
    rcases h with ⟨rfl, rfl⟩ | ⟨rfl, rfl⟩ <;>
    refine ⟨_, rfl, by decide +kernel, by decide +kernel, by decide +kernel, ?_, by decide +kernel, by decide +kernel,
      by decide +kernel, by decide +kernel, by decide +kernel, by decide +kernel, by decide +kernel, ?_⟩
    · intro v hv
      obtain rfl := List.mem_singleton.mp hv
      decide +kernel
    · rintro v rfl a rfl
      decide +kernel
    · intro v hv
      obtain rfl := List.mem_singleton.mp hv
      decide +kernel
    · rintro v rfl a rfl
      decide +kernel
  · intro c b h
    simp only [List.mem_cons, Prod.mk.injEq, List.not_mem_nil, or_false] at h
    rcases h with ⟨rfl, rfl⟩ | ⟨rfl, rfl⟩ <;>
    exact ⟨_, rfl, by decide +kernel, by decide +kernel, by decide +kernel, by decide +kernel, by decide +kernel, _,
      List.Mem.head _, by decide +kernel⟩

/-- Channel 0 with bytes in its FILL bank, and one without a FILL bank. -/
def fillState : State := withChan fun c => { c with stream := { c.stream with bank0 := ⟨.fill, 8, 0⟩ } }
def noFillState : State := withChan fun c =>
  { c with stream := { c.stream with bank0 := ⟨.submitted, 8, 0⟩, bank1 := ⟨.submitted, 8, 8⟩, submitted := 16 } }

theorem witness_StreamBanksSubmitAndFlush :
    (∀ s, s = fillState ∨ s = noFillState → s.takes (s.dev.bound 0) ∧ (s.dev.chan 0).state.active = true)
    ∧ (fillState.dev.chan 0).stream.fillBank = some 0 ∧ fld 0x80000008 13 0 ≤ ((fillState.dev.chan 0).stream.bank 0).count
    ∧ fld 0x80000000 13 0 = 0 ∧ bit 0x80000008 30 = false ∧ (noFillState.dev.chan 0).stream.fillBank = none := by
  unfold State.takes State.awake
  refine ⟨?_, by decide +kernel⟩
  rintro s (rfl | rfl) <;> decide +kernel

/-! ### Clauses that wait, run and end -/

theorem witness_AbortEndsWaitingMarksRunning :
    (∃ s x, x = taken copyClause ∧ s = withSent x ∧ s.takes (s.dev.bound 0) ∧ (s.dev.chan 0).state.active = true
      ∧ (s.dev.chan 0).sents = [x] ∧ x.parent = none ∧ (s.dev.chan 0).rings.cpl.good = true ∧ x.hasTag 7 = true
      ∧ x.hasTag 8 = false ∧ x.job = none ∧ x.clauses = [copyClause] ∧ x.idx = 0 ∧ Mem.wf 0 (s.dev.chan 0).rings.mem = true)
    ∧ ∀ ph, ∃ s x j, j = jobOf none ph .none false ∧ x = running copyClause j ∧ s = withSent x ∧ s.takes (s.dev.bound 0)
      ∧ (s.dev.chan 0).state.active = true ∧ (s.dev.chan 0).sents = [x] ∧ x.parent = none ∧ (s.dev.chan 0).rings.cpl.good = true
      ∧ x.hasTag 7 = true ∧ x.job = some j ∧ j.stopsAtOnce = (ph == .susp || ph == .starved)
      ∧ x.clauses[x.idx]? = some copyClause ∧ j.phrase = none ∧ j.outGone = false ∧ j.dst = .none ∧ j.touched = []
      ∧ (s.dev.chan 0).rings.out.good = true := by
  unfold State.takes State.awake
  refine ⟨⟨_, _, rfl, rfl, by decide +kernel⟩, fun ph => ?_⟩
  cases ph <;> exact ⟨_, _, _, rfl, rfl, rfl, by decide +kernel⟩

/-- The next clause of sentence 0 of channel 0 is `c`. -/
theorem atClause_of (s : State) (x : Sentence) (c : Clause) (h : s.awake ∧ s.dev.stopped = false
    ∧ (s.dev.chan 0).state.active = true ∧ s.dev.sent 0 x.sid = some x ∧ x.job = none ∧ x.clauses[x.idx]? = some c
    ∧ x.overlong = false)
    (g : ∀ k ∈ [RingK.subp, .subb, .cpl, .out], ((s.dev.chan 0).rings.ring k).good = true) : s.atClause 0 x c := by
  obtain ⟨h1, h2, h3, h4, h5, h6, h7⟩ := h
  refine ⟨h1, h2, h3, ?_, h4, h5, h6, h7⟩
  intro k
  cases k <;> exact g _ (by simp)

theorem witness_RingControllerCompletesItsVerbs :
    (∀ c v, (c, v) ∈ [(nopClause, 0), (fenceClause, 1)] → (withSent (taken c)).atClause 0 (taken c) c
      ∧ (taken c).parent = none ∧ (taken c).ringReset = false
      ∧ Mem.wf 0 ((withSent (taken c)).dev.chan 0).rings.mem = true ∧ c.verb = v
      ∧ (withSent (taken c)).dev.preChecks 0 c ((taken c).fits c) = none ∧ c.fieldsOk false false .no .no false false = true)
    ∧ ∃ c, c = badClause ∧ (withSent (taken c)).atClause 0 (taken c) c ∧ (taken c).parent = none
      ∧ unassigned c.verb = true ∧ fld c.w0 19 16 = 0 ∧ (taken c).clauses.length = (taken c).idx + 1
      ∧ Mem.wf 0 ((withSent (taken c)).dev.chan 0).rings.mem = true := by
  refine ⟨?_, _, rfl, atClause_of _ _ _ (by unfold State.awake; decide +kernel) (by decide +kernel), by decide +kernel⟩
  intro c v h
  simp only [List.mem_cons, Prod.mk.injEq, List.not_mem_nil, or_false] at h
  rcases h with ⟨rfl, rfl⟩ | ⟨rfl, rfl⟩
  · exact ⟨atClause_of _ _ _ (by unfold State.awake; decide +kernel) (by decide +kernel), by decide +kernel⟩
  · exact ⟨atClause_of _ _ _ (by unfold State.awake; decide +kernel) (by decide +kernel), by decide +kernel⟩

/-- The template COPY from the caller's input to its output; one that asks for a scratch buffer no template has made. -/
def copyTemplate : Bytes := wordBytes 0x04000000 ++ zeros 20 ++ wordBytes 0xFFFC0000 ++ zeros 4 ++ wordBytes 0x00BBBBB0
def lostTemplate : Bytes := wordBytes 0x04000000 ++ zeros 20 ++ wordBytes 0xFFFC0000 ++ zeros 4 ++ wordBytes 0x00BCBBB0

/-- A phrase table whose phrase 0 is the one template `t`. -/
def phraseTable (t : Bytes) : Bytes := zeros 6 ++ natBE 2 1 ++ zeros 8 ++ [0, 0, 1, 0] ++ zeros 508 ++ t

/-- A PHRASE clause of phrase 0 on one byte of the buffer, its output in a record. -/
def phraseClause : Clause :=
  { (Case.clause { i := .phrase 0 0, inp := some [1], ps := some (zeros 4) } 0x65) with w4 := 0xFFFE0000, w5 := 1 }

/-- Its sentence waiting on channel 0, the table of one template `t` loaded. -/
def phraseState (t : Bytes) : State :=
  of { (withSent (taken phraseClause)).dev with phrases := ⟨phraseTable t, 0, none⟩ }

/-- The run of templates `l` at index `k`. -/
def runOf (l : List Bytes) (k : Nat) : PhraseRun := ⟨l.flatten, k, 0, [], []⟩

/-- The PHRASE clause dispatched, the templates `l` at index 0, the first of them the COPY clause `u` with job `j`. -/
def phraseTop (l : List Bytes) : Sentence :=
  running phraseClause { jobOf none .run .ring false with verb := 0x65, engine := 0x30, phrase := some (runOf l 0) }
def phraseChild (u : Clause) (j : Job) : Sentence :=
  { running u j with sid := 1, prio := true, parent := some ⟨0, 0, none, 0, some 1, 0⟩ }
def templateState (l : List Bytes) (u : Clause) (j : Job) : State := withChan fun c =>
  { c with sents := [phraseTop l, phraseChild u j], nextSid := 2, rings := { c.rings with reserved := 1 } }

/-- COPY into a new buffer. -/
def copyAlloc : Clause := { copyClause with w4 := 0xFFFD0000 }

/-- The template's work is over. -/
theorem templateAtEnd_of (l : List Bytes) (u : Clause) (j : Job) (r : JobResult) (s : State) (hs : s = templateState l u j)
    (h : s.awake ∧ s.dev.working = true ∧ (s.dev.chan 0).state.active = true ∧ s.dev.sent 0 1 = some (phraseChild u j)
      ∧ s.dev.sent 0 0 = some (phraseTop l) ∧ j.phase = .run ∧ j.abort = false ∧ j.steps = [] ∧ j.phrase = none
      ∧ j.result = some r ∧ j.midFill r = false ∧ j.raced = false ∧ s.dev.replayed 0 (r.good ++ r.bad) = false
      ∧ s.dev.halts j.verb = false ∧ j.dst ≠ .ring)
    (g : ∀ k ∈ [RingK.subp, .subb, .cpl, .out], ((s.dev.chan 0).rings.ring k).good = true)
    (d : hi16 u.w4 = 0xFFFD ↔ ∃ f, j.dst = .alloc f) :
    s.templateAtEnd 0 (phraseTop l) (phraseChild u j) phraseClause u ⟨0, 0, none, 0, some 1, 0⟩ j
      { jobOf none .run .ring false with verb := 0x65, engine := 0x30, phrase := some (runOf l 0) } r (runOf l 0) := by
  obtain ⟨h1, h2, h3, h4, h5, h6, h7, h8, h9, h10, h11, h12, h13, h14, h15⟩ := h
  refine ⟨h1, h2, h3, ?_, h4, rfl, rfl, rfl, rfl, by simp [phraseChild, phraseTop, running, taken], ?_, h5, rfl, rfl, rfl, rfl, rfl, h6, h7, h8, h9, h10, h11, h12,
    h13, h14, d, h15⟩
  · intro k
    cases k <;> exact g _ (by simp)
  · subst hs
    have e : ((templateState l u j).dev.chan 0).sents = [phraseTop l, phraseChild u j] := rfl
    intro z hz hp
    rw [e] at hz
    simp only [List.mem_cons, List.not_mem_nil, or_false] at hz
    rcases hz with rfl | rfl
    · exact absurd hp (by simp [phraseTop, running, taken])
    · rfl

theorem witness_PhraseRunsTemplates :
    (∀ t ∈ [copyTemplate, lostTemplate], ∃ s x c a q, x = taken phraseClause ∧ c = phraseClause ∧ s = phraseState t
      ∧ s.atClause 0 x c ∧ x.parent = none ∧ c.verb = 0x65 ∧ x.holds = false ∧ x.sel = none ∧ a = s.dev.ask 0 x c
      ∧ phraseVerb.awaitsStore a = false ∧ phraseVerb.judge a = none ∧ s.dev.bodyWait 0 x c = none
      ∧ s.dev.pick .service = some (0, x.sid) ∧ s.dev.brokenIn (hi16 c.w6) (lo16 c.w6) c.parLen = false
      ∧ q = ⟨ptCopy s.dev.phrases.table (par8 a.ps 0), 0, 0, [], []⟩ ∧ 36 ≤ q.tmpl.length
      ∧ (substTemplate q c a.ps 0).isSome = (t == copyTemplate))
    ∧ (∀ l ∈ [[copyTemplate], [copyTemplate, copyTemplate], [copyTemplate, lostTemplate]], ∀ st ∈ [Status.ok, .authFail],
        ∀ u d, (u, d) ∈ [(copyClause, Dest.buf 0 0), (copyAlloc, .alloc 64)] → ∃ s j r, r = ⟨st, [5], 1, [], []⟩
      ∧ j = jobOf (some r) .run d false ∧ s = templateState l u j
      ∧ s.templateAtEnd 0 (phraseTop l) (phraseChild u j) phraseClause u ⟨0, 0, none, 0, some 1, 0⟩ j
        { jobOf none .run .ring false with verb := 0x65, engine := 0x30, phrase := some (runOf l 0) } r (runOf l 0)
      ∧ persistentKey r.good = none ∧ r.status.failure = (st == .authFail))
    ∧ (runOf [copyTemplate] 0).count ≤ (runOf [copyTemplate] 0).idx + 1
    ∧ ∀ p ∈ [(copyTemplate, true), (lostTemplate, false)], (runOf [copyTemplate, p.1] 0).idx + 1 < (runOf [copyTemplate, p.1] 0).count
      ∧ (substTemplate (runOf [copyTemplate, p.1] 1) phraseClause [] 1).isSome = p.2 := by
  refine ⟨?_, ?_, by decide +kernel, by decide +kernel⟩
  · intro t h
    simp only [List.mem_cons, List.not_mem_nil, or_false] at h
    rcases h with rfl | rfl <;>
    exact ⟨_, _, _, _, _, rfl, rfl, rfl, atClause_of _ _ _ (by unfold State.awake; decide +kernel) (by decide +kernel),
      by decide +kernel, by decide +kernel, by decide +kernel, by decide +kernel, rfl, by decide +kernel, by decide +kernel,
      by decide +kernel, by decide +kernel, by decide +kernel, rfl, by decide +kernel, by decide +kernel⟩
  · intro l hl st hst u d h
    simp only [List.mem_cons, Prod.mk.injEq, List.not_mem_nil, or_false] at hl hst h
    rcases h with ⟨rfl, rfl⟩ | ⟨rfl, rfl⟩ <;> rcases hst with rfl | rfl <;> rcases hl with rfl | rfl | rfl <;>
    exact ⟨_, _, _, rfl, rfl, rfl, templateAtEnd_of _ _ _ _ _ rfl (by unfold State.awake; decide +kernel) (by decide +kernel)
      (by simp [copyClause, copyAlloc, jobOf, Case.clause, hi16]), by decide +kernel⟩

theorem witness_AeadOpenUndoesSeal : (zeros 12).length = 12 ∧ block16.length = 16 ∧ 7 ≤ (zeros 13).length
    ∧ (zeros 13).length ≤ 13 ∧ (zeros 32).length = 32 ∧ ∃ tag, tag ≠ gcmAlg.tag block16 (zeros 12) 16 [] [] := by
  refine ⟨by decide, by decide, by decide, by decide, by decide, gcmAlg.tag block16 (zeros 12) 16 [] [] ++ [0], ?_⟩
  intro h
  have := congrArg List.length h
  simp at this

theorem witness_SavedHashStateContinues : ((0x20 : Byte), sha256) ∈ [((0x20 : Byte), sha256), (0x21, sha384), (0x22, sha512)]
    ∧ (([block16, [1]] : List Bytes).flatten ++ [2]).length < 2 ^ 48 := ⟨List.Mem.head _, by decide⟩

theorem witness_ProtectedRecordOpensAgain : ∃ p u, p = tlsCtx true ∧ u = tlsCtx false ∧ p.proto = 1 ∧ u.proto = 1
    ∧ p.suite = u.suite ∧ suiteOk p.suite = true ∧ p.key = u.key ∧ p.key.length = suiteKeyLen p.suite ∧ p.iv = u.iv
    ∧ p.iv.length = 12 ∧ p.seq = u.seq ∧ 1 ≤ 255 ∧ 255 < 256 ∧ (zeros 16384).length + 1 + 0 ≤ 16385 := by
  refine ⟨_, _, rfl, rfl, ?_⟩
  simp only [zeros, List.length_replicate]
  decide +kernel

/-- The work of sentence 0 of channel 0 is over. -/
theorem atEnd_of (s : State) (x : Sentence) (c : Clause) (j : Job) (r : JobResult) (h : s.awake ∧ s.dev.working = true
    ∧ (s.dev.chan 0).state.active = true ∧ s.dev.sent 0 x.sid = some x ∧ x.job = some j ∧ x.clauses[x.idx]? = some c
    ∧ x.parent = none ∧ x.ringReset = false)
    (g : ∀ k ∈ [RingK.subp, .subb, .cpl, .out], ((s.dev.chan 0).rings.ring k).good = true) (d : ∀ o, j.dst ≠ .append o)
    (e : j.steps = [] ∧ j.result = some r ∧ j.midFill r = false ∧ j.raced = false ∧ j.outGone = false
    ∧ s.dev.replayed 0 (r.good ++ r.bad) = false ∧ s.dev.halts j.verb = false) : s.atEnd 0 x c j r := by
  obtain ⟨h1, h2, h3, h4, h5, h6, h7, h8⟩ := h
  refine ⟨h1, h2, h3, ?_, h4, h5, h6, h7, h8, d, e⟩
  intro k
  cases k <;> exact g _ (by simp)

/-- The results of the cases below: one byte out, an effect; no key, a key, a retirement, a record context; a failure. -/
def endResults : List JobResult :=
  [⟨.ok, [5], 0, [], []⟩, ⟨.ok, [], 0, [.putKey ⟨0x400, 0x10, classUsage 0x10, 0⟩ (zeros 16)], []⟩,
    ⟨.ok, [], 0, [.retire 0x410 []], []⟩, ⟨.ok, [], 0, [.recCtx 0 none], []⟩, ⟨.authFail, [5], 0, [], []⟩,
    ⟨.engineFault, [5], 0, [], []⟩]

theorem witness_ClauseEndPostsRecordAndOutput :
    ∀ r ∈ endResults, ∀ d ∈ [Dest.none, .ring, .buf 0 0, .alloc 64], ∀ a ∈ [true, false], ∃ j x s,
      j = jobOf (some r) .run d a ∧ x = running copyClause j ∧ s = withSent x ∧ s.atEnd 0 x copyClause j r
      ∧ j.phase = .run ∧ j.abort = a ∧ j.dst = d ∧ j.touched = [] ∧ j.phrase = none ∧ persistentKey r.good = none
      ∧ r.bad = [] ∧ (r.status = .ok ∨ r.status.failure = true) := by
  have h : ∀ r ∈ endResults, ∀ d ∈ [Dest.none, .ring, .buf 0 0, .alloc 64], ∀ a ∈ [true, false],
      ∀ x, x = running copyClause (jobOf (some r) .run d a) → ∀ s, s = withSent x →
      ((s.dev.inPor = false ∧ s.dev.rst = .none) ∧ s.dev.working = true
      ∧ (s.dev.chan 0).state.active = true ∧ s.dev.sent 0 x.sid = some x ∧ x.clauses[x.idx]? = some copyClause
      ∧ s.dev.replayed 0 (r.good ++ r.bad) = false ∧ s.dev.halts 4 = false)
      ∧ (∀ k ∈ [RingK.subp, .subb, .cpl, .out], ((s.dev.chan 0).rings.ring k).good = true)
      ∧ (jobOf (some r) .run d a).midFill r = false
      ∧ persistentKey r.good = none ∧ r.bad = [] ∧ (r.status = .ok ∨ r.status.failure = true) := by
    intro r hr d hd a ha x hx s hs
    subst hs hx
    revert r d a
    decide +kernel
  intro r hr d hd a ha
  obtain ⟨⟨h1, h2, h3, h4, h5, h6, h6'⟩, h7, h7', h8, h9, h10⟩ := h r hr d hd a ha _ rfl _ rfl
  refine ⟨_, _, _, rfl, rfl, rfl, atEnd_of _ _ _ _ _ ⟨h1, h2, h3, h4, rfl, h5, rfl, rfl⟩ h7 ?_
    ⟨rfl, rfl, h7', rfl, rfl, h6, h6'⟩, rfl, rfl, rfl, rfl, rfl, h8, h9, h10⟩
  intro o ho
  simp only [List.mem_cons, List.not_mem_nil, or_false] at hd
  change d = .append o at ho
  rcases hd with rfl | rfl | rfl | rfl <;> cases ho

theorem witness_PersistentKeyIsWritten :
    (∀ ph ∈ [JobPhase.run, .persist], ∃ r j x s, r = ⟨.ok, [], 0, [.putKey ⟨0x02, 0x10, classUsage 0x10, 0⟩ (zeros 16)], []⟩
      ∧ j = jobOf (some r) ph .none false ∧ x = running copyClause j ∧ s = withSent x ∧ s.atEnd 0 x copyClause j r
      ∧ j.phase = ph ∧ j.abort = false ∧ r.status = .ok ∧ isPer 0x02 = true ∧ s.dev.supply.level < 3 ∧ s.dev.flashUp = true
      ∧ s.dev.ks.room 0x02 = true ∧ s.dev.ks.logPos + s.dev.ks.inNext.length < 127
      ∧ s.dev.otp.rowIdx < s.dev.otp.rows.length)
    ∧ ∃ s, s = (with_ fun d => { d with ks := { d.ks with ckpts := [(0x01, 64)] } }) ∧ s.awake ∧ s.dev.stopped = false
      ∧ s.dev.ks.ckpts.lookup 0x01 = some 64 ∧ s.dev.ckptWaiters 0x01 = []
      ∧ (∀ m nonce resp, (s.dev.chan m).phase ≠ .ckptWait 0x01 nonce resp) ∧ s.dev.flashUp = true
      ∧ s.dev.ks.logPos + s.dev.ks.inNext.length < 127 := by
  refine ⟨?_, _, rfl, ?_⟩
  · intro ph hp
    simp only [List.mem_cons, List.not_mem_nil, or_false] at hp
    rcases hp with rfl | rfl
    · exact ⟨_, _, _, _, rfl, rfl, rfl, rfl, atEnd_of _ _ _ _ _ (by unfold State.awake; decide +kernel) (by decide +kernel)
        (fun o h => by cases h) (by decide +kernel), by decide +kernel⟩
    · exact ⟨_, _, _, _, rfl, rfl, rfl, rfl, atEnd_of _ _ _ _ _ (by unfold State.awake; decide +kernel) (by decide +kernel)
        (fun o h => by cases h) (by decide +kernel), by decide +kernel⟩
  · unfold State.awake
    have h : ∀ m, (live.dev.chan m).phase = .idle := by decide +kernel
    refine ⟨by decide +kernel, by decide +kernel, by decide +kernel, by decide +kernel, ?_, by decide +kernel,
      by decide +kernel⟩
    intro m nonce resp hm
    have := (h m).symm.trans hm
    cases this

/-! ### Segments and engines -/

/-- A cipher clause of 8192 stream bytes. -/
def segClause : Clause := ⟨0x04000007, 0, 0xFFFF0000, 8192, 0xFFFC0000, 0, 0xFFFC0000, 0⟩

/-- Its job at a boundary, one byte read so far. -/
def segJob (ph : JobPhase) (hold : Option Nat) : Job := { jobOf none ph .none false with hold := hold }

/-- Sentence 0 of channel 0 with that clause and job, `sub` bytes submitted, the core changed by `f`. -/
def segState (x : Sentence) (sub : Nat) (f : Dev → Dev) : State := of (f (modChan 0 (fun c =>
  { c with
    sents := [x], nextSid := 1, rings := { c.rings with reserved := 1 }
    stream := { c.stream with submitted := sub, owned := 8192, ranges := [⟨0, 0, 0, 8192, 1, false⟩] } }) dev))

/-- Lane 0 out of service. -/
def laneOut (d : Dev) : Dev := { d with engines := d.engines.set 0 { d.eng 0 with svc := .out } }

/-- Every lane out of service. -/
def noLane (d : Dev) : Dev := { d with engines := Vector.replicate 16 ⟨.out, 0, 0, none⟩ }

/-- Supply level 3. -/
def level3 (d : Dev) : Dev := { d with supply := { d.supply with level := 3 } }

/-- A step of 5000 bytes on a cipher lane: queued, or its last segment running on lane 0. -/
def queuedStep : Step := Step.of .cipher 5000
def lastStep : Step := { queuedStep with phase := .run, pos := 5000 }

/-- A clause with that step to make. -/
def stepSent (t : Step) : Sentence := running segClause { segJob .run none with engine := 0x30, steps := [t] }

theorem witness_SegmentsSaveAndResume :
    let run := fun h => running segClause (segJob .run h)
    (∀ s ∈ [segState (run none) 8192 level3, segState (run none) 8192 laneOut, segState (run (some 16384)) 8192 id,
        segState (run none) 1 id, segState (run (some 16384)) 1 id, segState (running segClause (segJob .susp none)) 8192 id,
        segState (taken segClause) 8192 noLane, segState (stepSent queuedStep) 8192 id, segState (stepSent lastStep) 8192 id],
      s.awake ∧ (s.dev.chan 0).state.active = true
      ∧ (∀ k ∈ [RingK.subp, .subb, .cpl, .out], ((s.dev.chan 0).rings.ring k).good = true) ∧ s.dev.working = true)
    ∧ verbClass segClause.verb = some .cipher ∧ segmented segClause.verb = true ∧ hi16 segClause.w2 = 0xFFFF
    ∧ nextLen segClause 1 < segClause.inLen
    ∧ (∀ ph h, ∀ j, j = segJob ph h → j.verb = segClause.verb ∧ j.steps = [] ∧ j.primes = none ∧ j.runOn = false
      ∧ j.dst = .none ∧ j.result = none ∧ j.abort = false ∧ j.input ≠ [] ∧ j.phase = ph)
    ∧ (∃ s, s = segState (run none) 8192 level3 ∧ s.dev.moreReady 0 (run none) (segJob .run none) = true
      ∧ s.dev.canSave 0 = true ∧ s.dev.stopped = true)
    ∧ (∃ s, s = segState (run none) 8192 laneOut ∧ s.dev.moreReady 0 (run none) (segJob .run none) = true
      ∧ s.dev.canSave 0 = true ∧ s.dev.stopped = false ∧ s.dev.laneStays (segJob .run none).engine = false)
    ∧ (∃ s, s = segState (run (some 16384)) 8192 id
      ∧ s.dev.moreReady 0 (run (some 16384)) (segJob .run (some 16384)) = true ∧ s.dev.canSave 0 = false)
    ∧ (∃ s, s = segState (run none) 1 id ∧ s.dev.moreReady 0 (run none) (segJob .run none) = false ∧ s.dev.canSave 0 = true)
    ∧ (∃ s, s = segState (run (some 16384)) 1 id
      ∧ s.dev.moreReady 0 (run (some 16384)) (segJob .run (some 16384)) = false ∧ s.dev.canSave 0 = false)
    ∧ (∃ s, s = segState (running segClause (segJob .susp none)) 8192 id ∧ s.dev.stopped = false
      ∧ (running segClause (segJob .susp none)).sel = none
      ∧ s.dev.pick .cipher = some (0, 0) ∧ s.dev.prefer (Cls.cipher.engines.filter s.dev.engFree) = some 0
      ∧ s.dev.domOn (12 + 0) = true)
    ∧ (∃ s, s = segState (stepSent queuedStep) 8192 id ∧ s.dev.stopped = false ∧ queuedStep.own = false
      ∧ queuedStep.phase = .queued ∧ queuedStep.sel = none ∧ s.dev.pick .cipher = some (0, 0)
      ∧ s.dev.prefer (Cls.cipher.engines.filter s.dev.engFree) = some 0 ∧ s.dev.domOn (12 + 0) = true
      ∧ ((stepSent queuedStep).job.bind Job.step) = some queuedStep)
    ∧ (∃ s, s = segState (stepSent lastStep) 8192 id ∧ lastStep.own = false ∧ lastStep.phase = .run
      ∧ lastStep.len ≤ lastStep.pos ∧ s.dev.halts 0x04 = false ∧ coreOf lastStep.engine = none
      ∧ ((stepSent lastStep).job.bind Job.step) = some lastStep)
    ∧ ∃ s, s = segState (taken segClause) 8192 noLane ∧ s.dev.stopped = false ∧ (taken segClause).wait.holds = false
      ∧ (taken segClause).parent = none ∧ s.dev.workClass (taken segClause) segClause = some .cipher
      ∧ s.dev.streamReady 0 (taken segClause) segClause = true ∧ s.dev.outReady 0 (taken segClause) segClause = true
      ∧ s.dev.holdReady 0 (taken segClause) segClause = true ∧ s.dev.unserved 0 segClause .cipher = true := by
  unfold State.awake
  refine ⟨by decide +kernel, by decide +kernel, by decide +kernel, by decide +kernel, by decide +kernel, ?_,
    ⟨_, rfl, by decide +kernel⟩, ⟨_, rfl, by decide +kernel⟩, ⟨_, rfl, by decide +kernel⟩, ⟨_, rfl, by decide +kernel⟩,
    ⟨_, rfl, by decide +kernel⟩, ⟨_, rfl, by decide +kernel⟩, ⟨_, rfl, by decide +kernel⟩, ⟨_, rfl, by decide +kernel⟩, _, rfl,
    by decide +kernel⟩
  rintro ph h j rfl
  exact ⟨rfl, rfl, rfl, rfl, rfl, rfl, rfl, by simp [segJob, jobOf], rfl⟩

/-- Engine `e` in service state `v` with `k` failed tests burnt, its domain denied or not. -/
def engState (e : Eng) (v : Svc) (k : Nat) (deny : Bool) : State := with_ fun d =>
  { d with
    engines := d.engines.set e.val { d.eng e with svc := v }
    otp := { d.otp with quar := d.otp.quar.set e.val k }
    power := if deny then { d.power with deny := Vector.replicate 5 0xFFFFFFFF } else d.power
    sched := { d.sched with cfg := 0x00001000 } }

/-- A COPY that has selected lane 0 and waits for its switch-on. -/
def selSent : Sentence := { taken copyClause with sel := some ⟨0, 16, 0, []⟩ }

theorem witness_EnginesLeaveAndRejoinService :
    (∀ e ∈ [(0 : Eng), 12, 15], ∀ v ∈ [Svc.inn, .test, .out], ∃ s, s = engState e v 0 false ∧ s.takes .A
      ∧ (s.dev.eng e).svc = v ∧ s.dev.denied (12 + e.val) = false ∧ s.dev.engBusy (engId e.val) = false
      ∧ s.dev.engSel e.val = false)
    ∧ (∃ s x, x = selSent ∧ s = withSent x ∧ s.takes .A ∧ (s.dev.eng 0).svc = .inn ∧ s.dev.sent 0 x.sid = some x
      ∧ x.job = none ∧ x.clauses[x.idx]? = some copyClause ∧ (verbClass copyClause.verb).isSome = true
      ∧ x.sel = some ⟨0, 16, 0, []⟩)
    ∧ (∃ s, s = engState 12 .out 0 true ∧ s.takes .A ∧ s.dev.denied (12 + 12) = true)
    ∧ (∀ k, k ≤ 2 → ∃ s, s = engState 0 .test k false ∧ s.awake ∧ s.dev.working = true ∧ (s.dev.eng 0).svc = .test
      ∧ s.dev.domOn (12 + 0) = true ∧ s.dev.engBusy (engId 0) = false ∧ s.dev.katf 0 = k
      ∧ ∀ f, f ≠ 0 → (s.dev.eng f).due = none)
    ∧ (∃ s, s = of { (engState 0 .test 0 false).dev with supply := { dev.supply with level := 3 } } ∧ s.awake
      ∧ s.dev.supply.level = 3 ∧ s.dev.working = true ∧ (s.dev.eng 0).svc = .test ∧ s.dev.engBusy (engId 0) = false)
    ∧ (∃ s j x, j = jobOf none .run .none false ∧ x = running copyClause j ∧ s = withSent x ∧ s.awake
      ∧ s.dev.dispatchOn 0 = some (0, x, j) ∧ s.dev.sent 0 x.sid = some x ∧ x.clauses[x.idx]? = some copyClause
      ∧ x.parent = none ∧ (s.dev.eng 0).svc = .inn ∧ s.dev.engSel 0 = false ∧ (s.dev.chan 0).state.active = true
      ∧ (∀ k ∈ [RingK.subp, .subb, .cpl, .out], ((s.dev.chan 0).rings.ring k).good = true)
      ∧ j.phase = .run ∧ j.outGone = false ∧ j.phrase = none ∧ j.dst = .none ∧ j.result = none ∧ s.dev.working = true)
    ∧ ∃ s, s = engState 0 .inn 0 false ∧ s.awake ∧ s.dev.eidle ≠ 0 ∧ s.dev.supply.level < 3
      ∧ s.dev.engBusy (engId 0) = false ∧ (s.dev.eng 0).svc ≠ .test ∧ s.dev.domOn (12 + 0) = true := by
  unfold State.takes State.awake
  refine ⟨?_, ⟨_, _, rfl, rfl, by decide +kernel⟩, ⟨_, rfl, by decide +kernel⟩, ?_, ⟨_, rfl, by decide +kernel⟩,
    ⟨_, _, _, rfl, rfl, rfl, by decide +kernel⟩, _, rfl, by decide +kernel⟩
  · intro e he v hv
    simp only [List.mem_cons, List.not_mem_nil, or_false] at he hv
    rcases he with rfl | rfl | rfl <;> rcases hv with rfl | rfl | rfl <;> exact ⟨_, rfl, by decide +kernel⟩
  · intro k hk
    obtain rfl | rfl | rfl : k = 0 ∨ k = 1 ∨ k = 2 := by omega
    all_goals exact ⟨_, rfl, by decide +kernel⟩

/-! ### Tamper, life cycle, debug, the loader -/

/-- TAMPERCFG `cfg` for both inputs, TAMPERSTAT's bits and BLOCK. -/
def tamperState (cfg : Word) (opened : BitVec 2) (block : Bool) : State := with_ fun d =>
  { d with
    cfg := { d.cfg with tamperCfg := cfg }, lc := { d.lc with tamperOpen := opened, tamperBlock := block } }

theorem witness_TamperInputsActAndAreAcknowledged :
    (∀ i : Fin 2, ∀ c ∈ [(0x0101 : Word), 0x1111, 0x2121, 0x3131], ∃ s, s = tamperState c 0 false ∧ s.awake
      ∧ (s.dev.tamperByte i).testBit 0 = true ∧ s.dev.lc.tamperOpen.getLsbD i.val = false
      ∧ (s.dev.tamperByte i).testBit 4 = (c == 0x1111 || c == 0x3131)
      ∧ (∀ n, (s.dev.chan n).sents = []))
    ∧ (∀ o ∈ [(0 : BitVec 2), 1, 2], ∃ s, s = tamperState 0x2121 o true ∧ s.awake ∧ s.dev.gRun = true
      ∧ s.dev.otp.endFuse = false ∧ s.dev.blockHeld = (o != 0))
    ∧ ∃ s x j, j = { jobOf none .run .none false with verb := 0x5E, filling := 3 } ∧ x = running copyClause j
      ∧ s = of { (withSent x).dev with cfg := { dev.cfg with tamperCfg := 0x1111 } } ∧ s.awake
      ∧ (s.dev.tamperByte 0).testBit 0 = true ∧ s.dev.lc.tamperOpen.getLsbD 0 = false ∧ (s.dev.tamperByte 0).testBit 4 = true
      ∧ (s.dev.chan 0).sents = [x] ∧ (∀ m, m ≠ 0 → (s.dev.chan m).sents = []) ∧ x.parent = none ∧ x.job = some j
      ∧ j.filling ≠ 0 := by
  unfold State.awake
  refine ⟨?_, ?_, _, _, _, rfl, rfl, rfl, by decide +kernel⟩
  · intro i c hc
    simp only [List.mem_cons, List.not_mem_nil, or_false] at hc
    have h : ∀ i : Fin 2, i = 0 ∨ i = 1 := by decide
    rcases h i with rfl | rfl <;> rcases hc with rfl | rfl | rfl | rfl <;> exact ⟨_, rfl, by decide +kernel⟩
  · intro o ho
    simp only [List.mem_cons, List.not_mem_nil, or_false] at ho
    rcases ho with rfl | rfl | rfl <;> exact ⟨_, rfl, by decide +kernel⟩

/-- LCREQ `req`, the epoch state `code`, the nonce valid or not, the checks running or not. -/
def lcState (req : Word) (code : Nat) (nv chk : Bool) : State := with_ fun d =>
  { d with
    otp := { d.otp with rows := d.otp.rows.set 0 { EpochRow.blank with used := true, lc := code } }
    lc := { d.lc with lcstate := code, lcreq := req, nonceValid := nv, checking := chk } }

/-- Every row of the epoch journal used. -/
def lcFull : State := of { (lcState 0x80000002 1 false true).dev with
  otp := { dev.otp with rows := dev.otp.rows.map (fun r => { r with used := true, lc := 1 }) } }

/- Not shown: a token that is accepted. Its bytes 12–27 are `Config.uid`, which has no value, so its signature has no
numeral; every other hypothesis of those clauses is met below. -/
theorem witness_LifeCycleRequestsAreCheckedAndRun :
    (live.takes .A ∧ live.dev.lcBusy = false ∧ live.dev.entropyOut = false ∧ live.dev.entropy.queue = []
      ∧ live.dev.drbg.reqs < 2 ^ 20)
    ∧ (live.awake ∧ live.dev.gRun = true ∧ live.dev.otp.endFuse = false ∧ live.dev.boot.boot ≠ 3 ∧ live.dev.lcBusy = false)
    ∧ (∃ s, s = lcState 0x80000200 0 true true ∧ s.awake ∧ s.dev.lc.checking = true ∧ s.dev.lc.shown = true
      ∧ bit s.dev.lc.lcreq 9 = true ∧ s.dev.otp.lcCode ≠ 1)
    ∧ (∃ s, s = lcState 0x80000001 1 true true ∧ s.awake ∧ s.dev.lc.checking = true ∧ s.dev.lc.shown = true
      ∧ bit s.dev.lc.lcreq 9 = false ∧ permitted s.dev.otp.lcCode (fld s.dev.lc.lcreq 3 0) = false)
    ∧ (∃ s, s = lcFull ∧ s.awake ∧ s.dev.lc.checking = true ∧ s.dev.lc.shown = true ∧ bit s.dev.lc.lcreq 9 = false
      ∧ permitted s.dev.otp.lcCode (fld s.dev.lc.lcreq 3 0) = true ∧ fld s.dev.lc.lcreq 3 0 ≠ 0xF ∧ s.dev.otp.left = 0)
    ∧ (∀ nv r, (nv, r) ∈ [(false, 4), (true, 5)] → ∃ s, s = lcState 0x80000200 1 nv true ∧ s.awake
      ∧ s.dev.lc.checking = true ∧ s.dev.lc.shown = true ∧ bit s.dev.lc.lcreq 9 = true ∧ s.dev.otp.lcCode = 1
      ∧ s.dev.lc.dbgUnlocked = false ∧ (tokenChecks s.dev true (fld s.dev.lc.lcreq 3 0)).1 = r)
    ∧ (∃ s, s = lcState 0x80000001 2 true true ∧ s.awake ∧ s.dev.lc.checking = true ∧ s.dev.lc.shown = true
      ∧ bit s.dev.lc.lcreq 9 = false ∧ permitted s.dev.otp.lcCode (fld s.dev.lc.lcreq 3 0) = true
      ∧ s.dev.otp.left ≠ 0 ∧ needsToken s.dev.otp.lcCode (fld s.dev.lc.lcreq 3 0) = true
      ∧ (tokenChecks s.dev false (fld s.dev.lc.lcreq 3 0)).1 = 5)
    ∧ (∀ w ∈ [(0x80000002 : Word), 0x8000000F], ∃ s, s = lcState w 1 true true ∧ s.awake ∧ s.dev.lc.checking = true
      ∧ s.dev.lc.shown = true ∧ bit s.dev.lc.lcreq 9 = false ∧ permitted s.dev.otp.lcCode (fld s.dev.lc.lcreq 3 0) = true
      ∧ (fld s.dev.lc.lcreq 3 0 = 0xF ∨ s.dev.otp.left ≠ 0)
      ∧ needsToken s.dev.otp.lcCode (fld s.dev.lc.lcreq 3 0) = false)
    ∧ (∃ s, s = (with_ fun d => modChan 0 (fun _ => Chan.fresh) d) ∧ ∀ n, (s.dev.chan n).state = .closed ∧ (s.dev.chan n).phase = .idle)
    ∧ ((burnBit []).1 = true ∧ (burnBit [false, false, false]).1 = false)
    ∧ (∀ g ∈ [2, 0xF], ∀ b, ∃ s, s = (with_ fun d => { d with lc := { d.lc with accepted := some (g, []), transit := b } }) ∧ s.awake
      ∧ s.dev.lc.accepted = some (g, []) ∧ s.dev.flashFree = true ∧ s.dev.boot.mgmt = none ∧ s.dev.lc.transit = b) := by
  unfold State.takes State.awake
  refine ⟨by decide +kernel, by decide +kernel, ⟨_, rfl, by decide +kernel⟩, ⟨_, rfl, by decide +kernel⟩,
    ⟨_, rfl, by decide +kernel⟩, ?_, ⟨_, rfl, by decide +kernel⟩, ?_, ⟨_, rfl, by decide +kernel⟩, by decide +kernel, ?_⟩
  · intro nv r h
    simp only [List.mem_cons, Prod.mk.injEq, List.not_mem_nil, or_false] at h
    rcases h with ⟨rfl, rfl⟩ | ⟨rfl, rfl⟩ <;> exact ⟨_, rfl, by decide +kernel⟩
  · intro w h
    simp only [List.mem_cons, List.not_mem_nil, or_false] at h
    rcases h with rfl | rfl <;> exact ⟨_, rfl, by decide +kernel⟩
  · intro g h b
    simp only [List.mem_cons, List.not_mem_nil, or_false] at h
    rcases h with rfl | rfl <;> cases b <;> exact ⟨_, rfl, by decide +kernel⟩

theorem witness_JtagAndDebugAccesses : ∀ o ∈ [true, false], ∃ s, s = (with_ fun d => { d with lc := { d.lc with dbgOpen := o } })
    ∧ s.awake ∧ s.dev.domOn 4 = true ∧ s.dev.debugOpen = o
    ∧ (∀ a ∈ [0x001, 0x1000, 0xC40000, 0xFFFFFC], s.dev.dbgRefused a = true)
    ∧ (∀ a ∈ [0x000, 0xFFC, 0x10000, 0x1FFFC], s.dev.dbgRefused a = false ∧ inSram a = false ∧ winOf a = none)
    ∧ (∀ a ∈ [0xC00000, 0xC3FFFC], s.dev.dbgRefused a = false ∧ inSram a = true)
    ∧ ∃ a w, isLcRequest a w = true ∧ s.dev.dbgRefused a = false := by
  unfold State.awake
  intro o h
  simp only [List.mem_cons, List.not_mem_nil, or_false] at h
  rcases h with rfl | rfl <;>
    exact ⟨_, rfl, by decide +kernel, by decide +kernel, by decide +kernel, by decide +kernel, by decide +kernel, by decide +kernel,
      0x080, 3, by decide +kernel⟩

/-- The recovery loader with its rate taken or not, `img` in the SRAM, epoch state `code`. -/
def loaderState (rate : Option Nat) (img : Bytes) (code : Nat) : State := with_ fun d =>
  { d with
    boot := { d.boot with boot := 3, loaderBaud := rate, sram := Mem.write 0 [] 0 img }
    otp := { d.otp with rows := d.otp.rows.set 0 { EpochRow.blank with used := true, lc := code } } }

/-- A program image of four bytes of code, version 1. -/
def image : Bytes := ascii "AYSP" ++ [1, 0, 0, 0, 0, 0, 0, 1, 0, 0, 0, 4, 0, 0, 0, 0] ++ zeros 44 ++ [1, 2, 3, 4]

theorem witness_LoaderAnswersItsPackets :
    (∃ s, s = loaderState none [] 0 ∧ s.awake ∧ s.dev.loading = true ∧ s.dev.power.st = .run ∧ s.dev.boot.loaderBaud = none)
    ∧ (∃ s, s = loaderState (some 115200) [] 0 ∧ s.awake ∧ s.dev.loading = true ∧ s.dev.power.st = .run ∧ s.dev.boot.loaderBaud.isSome = true
      ∧ s.dev.boot.mgmt = none ∧ s.dev.supply.fired = false ∧ imgValid ((s.dev.boot.sram.read 0 0 (min 68 262144)).take 64) = false)
    ∧ ∀ code ∈ [0, 3], ∃ s, s = loaderState (some 3000000) image code ∧ s.awake ∧ s.dev.loading = true ∧ s.dev.power.st = .run
      ∧ s.dev.boot.loaderBaud.isSome = true ∧ s.dev.boot.sram.read 0 0 (min 68 262144) = image
      ∧ imgValid (image.take 64) = true ∧ 68 = 64 + imgLen image
      ∧ s.dev.accepts (sha384 image) (imgVer image) = (code == 0) ∧ s.dev.flashUp = true := by
  unfold State.awake
  refine ⟨⟨_, rfl, by decide +kernel⟩, ⟨_, rfl, by decide +kernel⟩, ?_⟩
  intro code h
  simp only [List.mem_cons, List.not_mem_nil, or_false] at h
  rcases h with rfl | rfl <;> exact ⟨_, rfl, by decide +kernel⟩

/-! ### Management commands, the gate, phrase tables, the ROM, clocks -/

/-- A management command that runs, the core changed. -/
def mgmtState (m : MgmtRun) (f : Dev → Dev) : State := with_ fun d =>
  f { d with boot := { d.boot with mgmt := some m, mgmtRes := 0x80000000 } }

/-- The digest of an erased page (FIPS 180-4 over 4096 bytes of FF, computed outside Lean). -/
def pageDigest : Bytes := natBE 32 0xf47a8ec3e9aff2318d896942282ad4fe37d6391c82914f54a5da8a37de1300c6

/-- A host image table of one erased page, version 7, the public key the base point of P-384. -/
def tableHead : Bytes := ascii "AYHI" ++ [1, 1, 0, 0] ++ natBE 4 7 ++ natBE 4 1 ++ natBE 4 1 ++ zeros 44 ++ [4]
  ++ natBE 48 p384.gx ++ natBE 48 p384.gy ++ zeros 95
def tableBody : Bytes := tableHead ++ pageDigest

/-- Its signature with private key 1 and nonce 1 (computed outside Lean). -/
def tableSig : Bytes := natBE 48 p384.gx ++ natBE 48
  0xdc71b44313a82a33e3c6c060b56404ead0ecb96711b8746b589886dd5a637fe221d7da95240efbb0ffed65570f4e3814

theorem test_table_signed : p384.decode (slice 64 97 tableHead) = some (p384.gx, p384.gy)
    ∧ p384.verify (p384.gx, p384.gy) (p384.digest (sha384 tableBody)) (beNat (tableSig.take 48))
      (beNat (slice 48 48 tableSig)) = true := by decide +kernel

/-- The table is valid wherever it is stored, in BLANK. -/
theorem hostTable_of (d : Dev) (k : Nat) (h0 : d.flashUp = true) (h1 : d.flashRead (d.hostBase k) 256 = tableHead)
    (h2 : hostHeadOk tableHead (d.hostSize / 4096) = true) (h3 : d.flashRead (d.hostBase k) 288 = tableBody)
    (h4 : d.flashRead (d.hostBase k + 256 + 32) 96 = tableSig) (h5 : d.otp.lcCode = 0) :
    d.hostTable k = some ⟨7, 1, 1, [pageDigest]⟩ := by
  have n : beNat (slice 12 4 tableHead) = 1 := by decide +kernel
  have v : beNat (slice 8 4 tableHead) = 7 := by decide +kernel
  have t : beNat (slice 16 4 tableHead) = 1 := by decide +kernel
  have g : (List.range 1).map (fun i => slice (256 + 32 * i) 32 tableBody) = [pageDigest] := by decide +kernel
  simp only [Dev.hostTable, h0, h1, h2, n, v, t, Nat.mul_one, h3, h4, test_table_signed.1, test_table_signed.2, h5, g]
  simp

/-- BLANK with the table in host image slot `k`. -/
def tableDev (k : Nat) (d : Dev) : Dev :=
  { d with
    otp := { d.otp with rows := d.otp.rows.set 0 EpochRow.blank }
    flash := { d.flash with mem := (d.flash.mem.write 0xFF (d.hostBase k) tableBody).write 0xFF (d.hostBase k + 288) tableSig } }

/-- Program slot B holds an image. -/
def withImage (d : Dev) : Dev := { d with flash := { d.flash with mem := d.flash.mem.write 0xFF (progBase 1) image } }

theorem witness_ManagementCommandsRunAndEnd :
    (live.takes .A ∧ live.dev.mgmtBusy = false ∧ live.dev.lcBusy = false ∧ live.dev.boot.boot ≠ 3)
    ∧ (∀ f ∈ [(id : Dev → Dev), withImage], ∀ c ∈ [1, 2, 4, 5, 6, 7, 9], ∀ sl ∈ [[], [0x01]],
      ∃ s m, m = ⟨c, #v[0, 0, 0, 0], [], sl⟩ ∧ s = mgmtState m f ∧ s.awake ∧ s.dev.flashFree = true
        ∧ s.dev.boot.mgmt = some m ∧ s.dev.flashUp = true)
    ∧ (∃ s m, m = ⟨1, #v[0, 0, 0, 0], [], []⟩ ∧ s = mgmtState m id ∧ endorseBad m s.dev = some 4)
    ∧ (∃ s m, m = ⟨1, #v[0, 0, 0, 0], [], []⟩ ∧ s = mgmtState m withImage ∧ endorseBad m s.dev = none)
    ∧ (∃ s m, m = ⟨6, #v[0, 0, 0, 0], [], []⟩ ∧ s = mgmtState m id ∧ stageBad m s.dev = some 6)
    ∧ (∀ a l, (a, l) ∈ [((0x10001000 : Word), (4096 : Word)), (0x20001000, 32768)] → ∃ s m, m = ⟨6, #v[a, 0, l, 0], [], []⟩
      ∧ s = mgmtState m id ∧ stageBad m s.dev = none ∧ Mem.wf 0xFF s.dev.flash.mem = true)
    ∧ (∀ r ∈ [0, 63, 64], ∃ s m, m = ⟨2, #v[0, 0, 0, 0], [], []⟩ ∧ s = mgmtState m (fun d => { d with
          boot := { d.boot with boot := 1 }
          otp := { d.otp with rows := d.otp.rows.set 0 { EpochRow.blank with used := true, lc := 1, ratchet := r } } })
      ∧ s.awake ∧ s.dev.flashFree = true ∧ s.dev.boot.boot = 1 ∧ s.dev.ks.ready = true ∧ s.dev.flashUp = true
      ∧ s.dev.otp.row.ratchet = r)
    ∧ (∃ s m, m = ⟨7, #v[0, 0, 0, 0], [], []⟩ ∧ s = mgmtState m id ∧ s.dev.otp.lcCode ≠ 0xF ∧ s.dev.otp.endFuse = false
      ∧ s.dev.hostTable (1 - s.dev.bootRec.hostAct) = none)
    ∧ (∃ s m, m = ⟨7, #v[0, 0, 0, 0], [], []⟩ ∧ s = mgmtState m (tableDev 1) ∧ s.awake ∧ s.dev.flashFree = true
      ∧ s.dev.boot.mgmt = some m ∧ s.dev.otp.lcCode ≠ 0xF ∧ s.dev.boot.boot ≠ 3 ∧ s.dev.otp.endFuse = false
      ∧ s.dev.flashUp = true ∧ s.dev.hostTable (1 - s.dev.bootRec.hostAct) = some ⟨7, 1, 1, [pageDigest]⟩
      ∧ s.dev.hostTable s.dev.bootRec.hostAct = none ∧ s.dev.badPage (1 - s.dev.bootRec.hostAct) ⟨7, 1, 1, [pageDigest]⟩ = none)
    ∧ ∀ sl ∈ [[], [0x01]], ∃ s m x, m = ⟨9, #v[0, 0, 0, 0], [], sl⟩ ∧ s = mgmtState m id ∧ s.dev.otp.lcCode ≠ 3
      ∧ s.dev.otp.lcCode ≠ 0xF ∧ s.dev.boot.boot ≠ 3 ∧ s.dev.ks.ready = true ∧ s.dev.journal.queue = []
      ∧ s.dev.ks.slot 0x01 = some x ∧ x.st = .live ∧ s.dev.ks.logPos + s.dev.ks.inNext.length < 127 := by
  unfold State.takes State.awake
  refine ⟨by decide +kernel, ?_, ⟨_, _, rfl, rfl, by decide +kernel⟩, ⟨_, _, rfl, rfl, by decide +kernel⟩,
    ⟨_, _, rfl, rfl, by decide +kernel⟩, ?_, ?_, ⟨_, _, rfl, rfl, by decide +kernel⟩, ?_, ?_⟩
  · intro f hf c hc sl hs
    have h : ∀ f ∈ [(id : Dev → Dev), withImage], ∀ c ∈ [1, 2, 4, 5, 6, 7, 9], ∀ sl ∈ [[], [0x01]],
        ∀ s, s = mgmtState ⟨c, #v[0, 0, 0, 0], [], sl⟩ f → (s.dev.inPor = false ∧ s.dev.rst = .none) ∧ s.dev.flashFree = true
          ∧ s.dev.flashUp = true ∧ s.dev.boot.mgmt = some ⟨c, #v[0, 0, 0, 0], [], sl⟩ := by
      intro f hf c hc sl hs s h
      subst h
      simp only [List.mem_cons, List.not_mem_nil, or_false] at hf
      rcases hf with rfl | rfl <;> revert c sl <;> decide +kernel
    obtain ⟨h1, h2, h3, h4⟩ := h f hf c hc sl hs _ rfl
    exact ⟨_, _, rfl, rfl, h1, h2, h4, h3⟩
  · intro a l h
    simp only [List.mem_cons, Prod.mk.injEq, List.not_mem_nil, or_false] at h
    rcases h with ⟨rfl, rfl⟩ | ⟨rfl, rfl⟩ <;> exact ⟨_, _, rfl, rfl, by decide +kernel⟩
  · intro r h
    simp only [List.mem_cons, List.not_mem_nil, or_false] at h
    rcases h with rfl | rfl | rfl <;> exact ⟨_, _, rfl, rfl, by decide +kernel⟩
  · have b : ∀ m, (mgmtState m (tableDev 1)).dev.bootRec.hostAct = 0 := fun m => (by decide +kernel :
      (mgmtState ⟨7, #v[0, 0, 0, 0], [], []⟩ (tableDev 1)).dev.bootRec.hostAct = 0)
    refine ⟨_, _, rfl, rfl, by decide +kernel, by decide +kernel, rfl, by decide +kernel, by decide +kernel, by decide +kernel,
      by decide +kernel, ?_, by decide +kernel, ?_⟩
    · rw [b]
      exact hostTable_of _ _ (by decide +kernel) (by decide +kernel) (by decide +kernel) (by decide +kernel)
        (by decide +kernel) (by decide +kernel)
    · rw [b]
      decide +kernel
  · intro sl h
    simp only [List.mem_cons, List.not_mem_nil, or_false] at h
    rcases h with rfl | rfl <;> exact ⟨_, _, perSlot 0x01 0x18, rfl, rfl, by decide +kernel⟩

/-- The gate's state, the flash up. -/
def gateState (g : Gate → Gate) (f : Dev → Dev) : State := with_ fun d => f { d with gate := g d.gate }

/-- The cells of an empty phrase table at the start of the pool, its CRC-16 computed outside Lean. -/
def emptyTable : Mem := [(0, 0x41), (1, 0x59), (2, 0x50), (3, 0x54), (4, 1), (14, 2), (15, 0x14), (528, 0x14), (529, 0x5E),
  (530, 0xEB), (531, 0xA1)]

/-- A load from handle `h` of channel 0 in epoch state `code`; the buffer has two granules, the pool holds `m`. -/
def ptState (h code : Nat) (m : Mem) : State := with_ fun d =>
  { d with
    phrases := { d.phrases with load := some (0, h, 0) }
    otp := { d.otp with rows := d.otp.rows.set 0 { EpochRow.blank with used := true, lc := code } }
    pool := { d.pool with bufs := [⟨0, 2, 0, .live⟩], mem := m } }

/-- CRC-16 with its state compared at every byte, so that the kernel evaluates it byte by byte. -/
def crcS : Bytes → BitVec 16 → BitVec 16
  | [], c => c
  | b :: bs, c => if c.toNat < 65536 then crcS bs (crcByte c b) else 0

theorem crc16_eq (bs : Bytes) : crc16 bs = crcS bs 0xFFFF := by
  have h : ∀ (l : Bytes) (c : BitVec 16), l.foldl crcByte c = crcS l c := by
    intro l
    induction l with
    | nil => intro c; rfl
    | cons b l ih => intro c; simp only [List.foldl_cons, crcS, ih, if_pos c.isLt]
  exact h bs _

theorem witness_GateAndPhraseTablesLoad :
    (∃ s, s = gateState (fun g => { g with starting := true }) (tableDev 0) ∧ s.awake ∧ s.dev.gate.starting = true
      ∧ s.dev.domOn 3 = true ∧ s.dev.flashFree = true
      ∧ s.dev.hostTable s.dev.bootRec.hostAct = some ⟨7, 1, 1, [pageDigest]⟩)
    ∧ (∃ s, s = gateState (fun g => { g with starting := true }) id ∧ s.awake ∧ s.dev.gate.starting = true
      ∧ s.dev.domOn 3 = true ∧ s.dev.flashFree = true ∧ s.dev.hostTable s.dev.bootRec.hostAct = none)
    ∧ (∀ fe ∈ [none, some 0], ∃ s, s = gateState (fun g => { g with digests := [[], []], fetch := fe }) id ∧ s.takes .A
      ∧ fld 1 11 0 < s.dev.npages ∧ s.dev.npages ≤ fld 2 11 0 ∧ s.dev.gate.fetch = fe)
    ∧ (∀ ok ∈ [true, false], ∃ s bs, s = gateState (fun g => { g with
          digests := [if ok then sha256 (live.dev.hostPage 0 1 0) else []], fetch := some 0 }) id
      ∧ s.awake ∧ s.dev.gate.fetch = some 0 ∧ s.dev.domOn 3 = true ∧ s.dev.flashFree = true
      ∧ bs = s.dev.hostPage (fld s.dev.gate.info 31 31) (ceilDiv (352 + 32 * s.dev.npages) 4096) 0
      ∧ (ok = true → sha256 bs = s.dev.gate.digests.getD 0 []) ∧ (ok = false → sha256 bs ≠ s.dev.gate.digests.getD 0 []))
    ∧ (live.takes .A ∧ live.dev.ptBusy = false)
    ∧ (∃ s, s = ptState 0x1000 2 [] ∧ s.awake ∧ s.dev.phrases.load = some (0, 0x1000, 0) ∧ s.dev.flashFree = true
      ∧ 2 ≤ s.dev.otp.lcCode)
    ∧ (∃ s, s = ptState 0xFFFC 1 [] ∧ s.awake ∧ s.dev.flashFree = true ∧ s.dev.otp.lcCode < 2 ∧ s.dev.ptSource 0 0xFFFC = none)
    ∧ ∀ v ∈ [true, false], ∃ s tb, s = ptState 0x1000 1 (if v then emptyTable else []) ∧ s.awake ∧ s.dev.flashFree = true
      ∧ s.dev.otp.lcCode < 2 ∧ s.dev.ptSource 0 0x1000 = some tb ∧ ptValid tb = v ∧ s.dev.flashUp = true := by
  unfold State.takes State.awake
  refine ⟨?_, ⟨_, rfl, by decide +kernel⟩, ?_, ?_, by decide +kernel, ⟨_, rfl, by decide +kernel⟩, ⟨_, rfl, by decide +kernel⟩, ?_⟩
  · have b : (gateState (fun g => { g with starting := true }) (tableDev 0)).dev.bootRec.hostAct = 0 := by decide +kernel
    refine ⟨_, rfl, by decide +kernel, by decide +kernel, by decide +kernel, by decide +kernel, ?_⟩
    rw [b]
    exact hostTable_of _ _ (by decide +kernel) (by decide +kernel) (by decide +kernel) (by decide +kernel)
      (by decide +kernel) (by decide +kernel)
  · intro fe h
    simp only [List.mem_cons, List.not_mem_nil, or_false] at h
    rcases h with rfl | rfl <;> exact ⟨_, rfl, by decide +kernel⟩
  · intro ok h
    simp only [List.mem_cons, List.not_mem_nil, or_false] at h
    rcases h with rfl | rfl
    · refine ⟨_, _, rfl, by decide +kernel, by decide +kernel, by decide +kernel, by decide +kernel, rfl, fun _ => ?_,
        fun h => (by cases h)⟩
      have e : fld live.dev.gate.info 31 31 = 0 ∧ ceilDiv (352 + 32 * 1) 4096 = 1 := by decide +kernel
      have g : ∀ l : List Bytes, l.length = 1 → ∀ q, q = (gateState (fun g => { g with digests := l, fetch := some 0 }) id).dev →
          q.hostPage (fld q.gate.info 31 31) (ceilDiv (352 + 32 * q.npages) 4096) 0 = live.dev.hostPage 0 1 0 := by
        rintro l hl q rfl
        show Dev.hostPage live.dev (fld live.dev.gate.info 31 31) (ceilDiv (352 + 32 * l.length) 4096) 0 = _
        rw [hl, e.1, e.2]
      rw [g _ rfl _ rfl]
      simp only [if_true]
      rfl
    · exact ⟨_, _, rfl, by decide +kernel, rfl, by decide +kernel, by decide +kernel, rfl, fun h => (by cases h),
        fun _ => by decide +kernel⟩
  · have h : ∀ v ∈ [true, false], ∀ s, s = ptState 0x1000 1 (if v then emptyTable else []) →
        (s.dev.inPor = false ∧ s.dev.rst = .none) ∧ s.dev.flashFree = true ∧ s.dev.otp.lcCode < 2
          ∧ (s.dev.ptSource 0 0x1000).map ptValid = some v ∧ s.dev.flashUp = true := by
      rintro v hv s rfl
      refine ⟨?_, ?_, ?_, ?_, ?_⟩
      · revert v
        decide +kernel
      · revert v
        decide +kernel
      · revert v
        decide +kernel
      · unfold ptValid crcGood crcCheck
        simp only [crc16_eq]
        revert v
        decide +kernel
      · revert v
        decide +kernel
    intro v hv
    obtain ⟨h1, h2, h3, h4, h5⟩ := h v hv _ rfl
    obtain ⟨tb, ht, hv⟩ := Option.map_eq_some_iff.mp h4
    exact ⟨_, tb, rfl, h1, h2, h3, ht, hv, h5⟩

/-- A core before the ROM has run. -/
def unbooted (f : Dev → Dev) : State := with_ fun d =>
  f { d with lc := { d.lc with shown := false }, boot := { d.boot with boot := 0 } }

/-- A clause that waits for its DRBG output. -/
def drawSent : Sentence := running copyClause { jobOf none .run .none false with drawing := true }

/-- An entropy occasion: `p` blocks passed, the requests `q`, `r` failures in a row; channel 0 waits with a clause or its
challenge. -/
def entState (p r : Nat) (q : List (DrawFor × DrawReq)) : State :=
  of { (withSent drawSent).dev with
    entropy := { dev.entropy with busy := true, passed := p, queue := q }
    trouble := { dev.trouble with entRun := r }
    chans := (withSent drawSent).dev.chans.set 1 { Chan.fresh with state := .opening, phase := .drawing } }

/-- A block with as many ones as zeros, and one of ones. -/
def goodBlock : List Bool := (List.replicate 512 [true, false]).flatten
def badBlock : List Bool := List.replicate 1024 true

theorem witness_RomClocksAndEntropy :
    (live.awake ∧ live.dev.lc.shown = true)
    ∧ (∀ f ∈ [(id : Dev → Dev), (fun d => { d with otp := { d.otp with endFuse := true } }),
        (fun d => { d with flash := { d.flash with size := 0 } })],
      ∃ s, s = unbooted f ∧ s.awake ∧ s.dev.lc.shown = false ∧ s.dev.boot.boot = 0 ∧ s.dev.boot.confirmRun = false)
    ∧ (live.takes .A ∧ fld 2 1 0 ≠ 3 ∧ fld 3 1 0 = 3 ∧ live.dev.power.st = .run)
    ∧ (∀ p ∈ [0, 1], ∀ w ∈ [DrawFor.clause 0 0, .nonce 1, .lcNonce], ∃ s, s = entState p 0 [(w, .plain 32)] ∧ s.awake
      ∧ s.dev.entropy.busy = true ∧ goodBlock.length = 1024
      ∧ s.dev.gRun = true ∧ rctRuns s.dev.rctc s.dev.drawn goodBlock = false ∧ aptFails s.dev.aptc goodBlock = false
      ∧ s.dev.entropy.passed = p ∧ s.dev.entropy.queue = [(w, .plain 32)] ∧ (s.dev.chan 1).phase = .drawing
      ∧ s.dev.sent 0 0 = some drawSent ∧ drawSent.clauses[drawSent.idx]? = some copyClause
      ∧ (drawSent.job.map (·.drawing)) = some true)
    ∧ ∀ r ∈ [0, 1, 2], ∀ q ∈ [[], [(DrawFor.lcNonce, DrawReq.plain 32)], [(.clause 0 0, .plain 32)]], ∃ s, s = entState 0 r q
      ∧ s.awake ∧ s.dev.entropy.busy = true ∧ badBlock.length = 1024
      ∧ s.dev.gRun = true ∧ rctRuns s.dev.rctc s.dev.drawn badBlock = true ∧ s.dev.trouble.entRun = r
      ∧ s.dev.entropy.queue = q ∧ s.dev.sent 0 0 = some drawSent ∧ drawSent.parent = none
      ∧ (∀ j, drawSent.job = some j → j.drawing = true ∧ j.phrase = none ∧ j.result = none ∧ j.outGone = false ∧ j.dst = .none)
      ∧ (s.dev.chan 0).state.active = true
      ∧ ∀ k ∈ [RingK.subp, .subb, .cpl, .out], ((s.dev.chan 0).rings.ring k).good = true := by
  unfold State.takes State.awake
  refine ⟨by decide +kernel, ?_, by decide +kernel, ?_, ?_⟩
  · intro f h
    simp only [List.mem_cons, List.not_mem_nil, or_false] at h
    rcases h with rfl | rfl | rfl <;> exact ⟨_, rfl, by decide +kernel⟩
  · intro p h w g
    simp only [List.mem_cons, List.not_mem_nil, or_false] at h g
    rcases h with rfl | rfl <;> rcases g with rfl | rfl | rfl <;> exact ⟨_, rfl, by decide +kernel⟩
  · intro r h q g
    simp only [List.mem_cons, List.not_mem_nil, or_false] at h g
    rcases h with rfl | rfl | rfl <;> rcases g with rfl | rfl | rfl <;>
    refine ⟨_, rfl, by decide +kernel, by decide +kernel, by decide +kernel, by decide +kernel, by decide +kernel,
      by decide +kernel, by decide +kernel, by decide +kernel, by decide +kernel, ?_, by decide +kernel, by decide +kernel⟩ <;>
    · rintro j h
      injection h with h
      subst h
      exact ⟨rfl, rfl, rfl, rfl, rfl⟩

/-! ### Power domains and STOP -/

/-- Domain `x` in a phase, demanded or not, the run state `st`. -/
def domState (x : Nat) (ph : DomPhase) (dem : Bool) (st : RunState) : State := with_ fun d =>
  { d with power := { d.power with doms := vmod d.power.doms x (fun _ => ⟨ph, false, dem⟩), st := st } }

theorem witness_DomainsAreSequenced :
    (live.takes .A ∧ 4 < 5 ∧ live.dev.sels = [])
    ∧ (∀ x ∈ [3, 14, 91, 139], ∀ p ∈ [(DomPhase.off, true), (.on, false)], ∃ s, s = domState x p.1 p.2 .run ∧ s.awake
      ∧ s.dev.gRun = true ∧ (s.dev.dom x).phase = p.1 ∧ (s.dev.target x = p.2 ∨ x = 3))
    ∧ (∀ x ∈ [1, 4, 6, 11, 60, 91, 139], ∀ p ∈ [DomPhase.up 0, .up 1, .up 2, .up 3, .down 3, .down 1, .down 0], ∃ s,
      s = domState x p true .run ∧ s.awake ∧ (s.dev.dom x).phase.stepping = true)
    ∧ (∃ s, s = domState 60 (.up 3) true .run ∧ nextPhase (s.dev.target 60) (s.dev.dom 60).phase = .on)
    ∧ (∃ s, s = domState 91 (.down 1) false .run ∧ nextPhase (s.dev.target 91) (s.dev.dom 91).phase = .down 0)
    ∧ (∀ x ∈ [1, 4, 6, 11], ∃ s, s = of { (domState x (.up 1) true .exit).dev with
          power := { (domState x (.up 1) true .exit).dev.power with req := Vector.replicate 5 0xFFFFFFFF } }
      ∧ nextPhase (s.dev.target x) (s.dev.dom x).phase = .up 2)
    ∧ (∀ x ∈ [5, 11], ∃ s, s = domState x (.up 0) true .exit ∧ s.awake ∧ (s.dev.dom x).phase = .up 0
      ∧ s.dev.power.st = .exit ∧ s.dev.boot.mgmt = none ∧ s.dev.supply.fired = false)
    ∧ (∀ x ∈ [1, 4, 28, 139], ∃ s, s = domState x (.up 0) true .run ∧ s.awake ∧ (s.dev.dom x).phase = .up 0)
    ∧ ∀ x ∈ [(0 : Eng), 15], ∃ s, s = domState (12 + x.val) (.up 0) true .run ∧ s.awake
      ∧ (s.dev.dom (12 + x.val)).phase = .up 0 ∧ s.dev.katf x < 3 := by
  unfold State.takes State.awake
  refine ⟨by decide +kernel, ?_, ?_, ⟨_, rfl, by decide +kernel⟩, ⟨_, rfl, by decide +kernel⟩, ?_, ?_, ?_, ?_⟩
  · intro x h p g
    simp only [List.mem_cons, List.not_mem_nil, or_false] at h g
    rcases h with rfl | rfl | rfl | rfl <;> rcases g with rfl | rfl <;> exact ⟨_, rfl, by decide +kernel⟩
  · intro x h p g
    simp only [List.mem_cons, List.not_mem_nil, or_false] at h g
    rcases h with rfl | rfl | rfl | rfl | rfl | rfl | rfl <;> rcases g with rfl | rfl | rfl | rfl | rfl | rfl | rfl <;>
    exact ⟨_, rfl, by decide +kernel⟩
  · intro x h
    simp only [List.mem_cons, List.not_mem_nil, or_false] at h
    rcases h with rfl | rfl | rfl | rfl <;> exact ⟨_, rfl, by decide +kernel⟩
  · intro x h
    simp only [List.mem_cons, List.not_mem_nil, or_false] at h
    rcases h with rfl | rfl <;> exact ⟨_, rfl, by decide +kernel⟩
  · intro x h
    simp only [List.mem_cons, List.not_mem_nil, or_false] at h
    rcases h with rfl | rfl | rfl | rfl <;> exact ⟨_, rfl, by decide +kernel⟩
  · intro x h
    simp only [List.mem_cons, List.not_mem_nil, or_false] at h
    rcases h with rfl | rfl <;> exact ⟨_, rfl, by decide +kernel⟩

/-- The core in run state `st`, every wake source armed, its STOP request latched. -/
def stopState (st : RunState) : State := with_ fun d =>
  { d with
    cfg := { d.cfg with tamperCfg := 0x0101 }
    supply := { d.supply with pfwCfg := 0x80000000 }
    pins := { d.pins with bank := d.pins.bank.set 1 (some .v33) }
    boot := { d.boot with confirmRun := true }
    power := { d.power with
      st := st, wakeCfg := 0xF, wakeTmr := 5, latchedWake := 0xF, latchedTmr := 5, latched := [1, 2]
      keep := d.power.keep.set 0 6 } }

/- Not shown: a key store that unlocks (`findKek` of the form `.inl`), 24 AES-256 blocks deep; the locked one is. -/
theorem witness_StopIsEnteredAndLeft :
    (∃ s, s = stopState .run ∧ s.takes .A ∧ s.dev.power.st = .run ∧ s.dev.stopRefused = 0 ∧ s.dev.wakePending [] = []
      ∧ s.dev.wakePending [4, 1] = 4 :: [1]
      ∧ ∀ b, b ≤ 7 → s.dev.armed s.dev.power.wakeCfg s.dev.power.wakeTmr s.dev.power.keepList b = true)
    ∧ (∃ s, s = (with_ fun d => { d with boot := { d.boot with mgmtRes := 0x80000000 } }) ∧ s.takes .A ∧ s.dev.power.st = .run
      ∧ s.dev.stopRefused = 1)
    ∧ (∀ w k, ∃ s, s = of { (stopState .entry).dev with power := { (stopState .entry).dev.power with woken := w, latchedKeys := k } }
      ∧ s.awake ∧ s.dev.power.st = .entry ∧ s.dev.entryBusy = false
      ∧ ∀ n, (s.dev.chan n).state ≠ .resetting)
    ∧ (∀ st ∈ [RunState.entry, .stop], ∃ s, s = stopState st ∧ s.awake ∧ s.dev.power.st = st
      ∧ [1, 4] = [1, 4].filter (s.dev.armed s.dev.power.latchedWake s.dev.power.latchedTmr s.dev.power.latched)
      ∧ [6] = [6].filter (s.dev.armed s.dev.power.latchedWake s.dev.power.latchedTmr s.dev.power.latched)
      ∧ [2] = [2].filter (s.dev.armed s.dev.power.latchedWake s.dev.power.latchedTmr s.dev.power.latched))
    ∧ (∀ k, ∃ s, s = of { (stopState .exit).dev with power := { (stopState .exit).dev.power with latchedKeys := k } }
      ∧ s.awake ∧ s.dev.power.st = .exit ∧ s.dev.power.held = [])
    ∧ ∃ s, s = (with_ fun d => { d with ks := { d.ks with unlocking := true } }) ∧ s.awake ∧ s.dev.ks.unlocking = true
      ∧ s.dev.otp.rooted = true ∧ (∀ n, (s.dev.chan n).sents = [])
      ∧ s.dev.findKek s.dev.boot.progMeas s.dev.boot.progVer.toNat s.dev.wantState = .inr 2 := by
  unfold State.takes State.awake
  refine ⟨⟨_, rfl, by decide +kernel⟩, ⟨_, rfl, by decide +kernel⟩, ?_, ?_, ?_, _, rfl, by decide +kernel⟩
  · intro w k
    cases w <;> cases k <;> exact ⟨_, rfl, by decide +kernel⟩
  · intro st h
    simp only [List.mem_cons, List.not_mem_nil, or_false] at h
    rcases h with rfl | rfl <;> exact ⟨_, rfl, by decide +kernel⟩
  · intro k
    cases k <;> exact ⟨_, rfl, by decide +kernel⟩

/-! ### Supply and last gasp -/

/-- Ride-through entries `l`, the others disabled. -/
def rideState (l : List (Fin 16 × Ride)) (arm : Option Arm) : State := with_ fun d =>
  { d with supply := { d.supply with
    ride := l.foldl (fun v p => v.set p.1.val p.2) d.supply.ride, pfwCfg := 0x80000000, arm := arm } }

/-- An arm: channel 0, P-256 key 1. -/
def armed : Arm := ⟨0, 0x420, natBE 32 1, 0, 0⟩

theorem witness_RideThroughTableActs :
    (∀ p ∈ [(RideState.idle, 0), (.below, 0), (.below, 3), (.fired, 0)], ∀ hold ∈ [(0 : BitVec 10), 0x3FF], ∃ s u,
      s = rideState [(0, ⟨0x90050100, p.1, p.2⟩)] none ∧ s.awake ∧ s.dev.power.st = .run
      ∧ u = takeSamples (s.dev.adc 2 (BitVec.toNat hold)) (s.dev.adc 3 hold.toNat) s.dev.supply
      ∧ (∀ i : Fin 16, (s.dev.supply.ride[i]).st = .fired ∨ (rideMove u 1 s.dev.supply.ride[i]).st ≠ .fired)
      ∧ (∀ e, (s.dev.eng e).due = none)
      ∧ bit (s.dev.supply.ride[(0 : Fin 16)]).reg 31 = true ∧ (s.dev.supply.ride[(0 : Fin 16)]).st = p.1
      ∧ bit (s.dev.supply.ride[(1 : Fin 16)]).reg 31 = false)
    ∧ (∀ w ∈ [(0x90050100 : Word), 0xB0050100, 0xC0050100, 0xD0050100], ∀ a ∈ [none, some armed], ∃ s r,
      r = ⟨w, .below, 2⟩ ∧ s = rideState [(15, r)] a ∧ s.awake ∧ s.dev.power.st = .run
      ∧ r = s.dev.supply.ride[(15 : Fin 16)] ∧ bit r.reg 31 = true ∧ s.dev.supply.rideBack r.reg = false
      ∧ (∀ e, (s.dev.eng e).due = none)
      ∧ (∀ j : Fin 16, j ≠ 15 → (s.dev.supply.ride[j]).st = .fired
        ∨ (rideMove s.dev.supply (max 1 (rideDue r.reg - r.timer)) s.dev.supply.ride[j]).st ≠ .fired)
      ∧ rideAction w = fld w 30 28 ∧ bit s.dev.supply.lgStat 30 = false ∧ s.dev.supply.arm = a ∧ s.dev.presig.avail ≠ [])
    ∧ (stopState .run).dev.wakePending [4] ≠ []
    ∧ (∃ s r, r = ⟨0xA0050100, .below, 2⟩ ∧ s = rideState [(15, r), (3, ⟨0xC0050100, .below, 2⟩)] none ∧ s.awake
      ∧ s.dev.power.st = .run ∧ r = s.dev.supply.ride[(15 : Fin 16)] ∧ bit r.reg 31 = true
      ∧ s.dev.supply.rideBack r.reg = false ∧ (∀ e, (s.dev.eng e).due = none) ∧ rideAction r.reg = 2
      ∧ (s.dev.supply.ride[(3 : Fin 16)]).st ≠ .fired
      ∧ (rideMove s.dev.supply (max 1 (rideDue r.reg - r.timer)) s.dev.supply.ride[(3 : Fin 16)]).st = .fired
      ∧ rideAction (s.dev.supply.ride[(3 : Fin 16)]).reg = 4 ∧ s.dev.supply.arm = none
      ∧ ∀ k : Fin 16, k ≠ 15 → k ≠ 3 → (s.dev.supply.ride[k]).st = .fired
        ∨ (rideMove s.dev.supply (max 1 (rideDue r.reg - r.timer)) s.dev.supply.ride[k]).st ≠ .fired)
    ∧ (live.takes .A ∧ rideAction 0xD6AFFFFF < 6 ∧ fld 0xD6AFFFFF 27 26 ≠ 3 ∧ fld 0xD6AFFFFF 25 24 ≠ 3)
    ∧ ∃ s, s = rideState [] none ∧ s.awake ∧ bit s.dev.supply.pfwCfg 31 = true ∧ s.dev.supply.pfw = false := by
  unfold State.takes State.awake
  refine ⟨?_, ?_, by decide +kernel, ⟨_, _, rfl, rfl, by decide +kernel⟩, by decide +kernel, _, rfl, by decide +kernel⟩
  · intro p h hold g
    simp only [List.mem_cons, List.not_mem_nil, or_false] at h g
    rcases h with rfl | rfl | rfl | rfl <;> rcases g with rfl | rfl <;>
    exact ⟨_, _, rfl, by decide +kernel, by decide +kernel, rfl, by decide +kernel, by decide +kernel, by decide +kernel,
      by decide +kernel, by decide +kernel⟩
  · intro w h a g
    simp only [List.mem_cons, List.not_mem_nil, or_false] at h g
    rcases h with rfl | rfl | rfl | rfl <;> rcases g with rfl | rfl <;> exact ⟨_, _, rfl, rfl, by decide +kernel⟩

/-- A path that runs: the presignature of nonce 1, or the full path on core 0. -/
def gasp (full : Option (Fin 4 × Bytes)) (key : Nat) : Gasp :=
  ⟨{ armed with key := natBE 32 key }, 0, 0, 0, 0, 0, 0, full, (1, p256.gx, 1)⟩
def gaspState (g : Gasp) : State := with_ fun d => { d with supply := { d.supply with gasp := some g } }

/-- The digest rests on the device's UID, which has no value: key 1 or key 2 signs it. -/
theorem gasp_signs : ∃ k, (gasp none k).sign.isSome = true := by
  have d : ∀ k, (gasp none k).digest = (gasp none 0).digest := fun _ => rfl
  have b : ∀ k, k = 1 ∨ k = 2 → beNat (natBE 32 k) = k := by
    rintro k (rfl | rfl) <;> decide +kernel
  have g : ∀ k, k = 1 ∨ k = 2 → ((gasp none 0).digest + p256.gx * k) % p256.n ≠ 0 → (gasp none k).sign.isSome = true := by
    intro k hk h
    have e : (gasp none k).sign = if p256.signWith (beNat (natBE 32 k)) (gasp none k).digest p256.gx 1 = 0
        || !p256.signHolds (beNat (natBE 32 k)) (gasp none k).digest p256.gx 1
          (p256.signWith (beNat (natBE 32 k)) (gasp none k).digest p256.gx 1) then none
        else some (p256.gx, p256.signWith (beNat (natBE 32 k)) (gasp none k).digest p256.gx 1) := rfl
    rw [e, d k, b k hk]
    generalize (gasp none 0).digest = x at h
    simp [Curve.signWith, Curve.signHolds, h]
  by_cases h : ((gasp none 0).digest + p256.gx * 1) % p256.n = 0
  · refine ⟨2, g 2 (.inr rfl) fun h2 => ?_⟩
    have h3 := (Nat.dvd_add_right (Nat.dvd_of_mod_eq_zero h)).mp
      (show p256.n ∣ (gasp none 0).digest + p256.gx * 1 + p256.gx from
        (by rw [Nat.add_assoc, Nat.mul_one, ← Nat.mul_two]; exact Nat.dvd_of_mod_eq_zero h2))
    exact absurd (Nat.mod_eq_zero_of_dvd h3) (by decide +kernel)
  · exact ⟨1, g 1 (.inl rfl) h⟩

theorem witness_LastGaspSealsAndMarks :
    (∃ s p k, s = gaspState (gasp none k) ∧ s.awake ∧ s.dev.supply.gasp = some (gasp none k) ∧ (gasp none k).sign = some p)
    ∧ (∀ f ∈ [none, some ((0 : Fin 4), zeros 32)], ∃ s p ps, s = gaspState (gasp f 1) ∧ s.awake
      ∧ s.dev.supply.gasp = some (gasp f 1) ∧ (gasp f 1).full = f ∧ s.dev.presig.avail = p :: ps)
    ∧ ∀ r ∈ [true, false], ∀ l ∈ [0, 2, 4, 5], ∃ s, s = (with_ fun d => { d with
          supply := { d.supply with marks := [(0, 5), (2, 6)], level := l }, ks := { d.ks with ready := r } })
      ∧ s.awake ∧ s.dev.supply.marks = (0, 5) :: [(2, 6)] ∧ s.dev.gRun = true
      ∧ (s.dev.supply.level < 3 ∨ 4 ≤ s.dev.supply.level ∧ Nat.testBit 0 1 = false) ∧ s.dev.ks.ready = r ∧ s.dev.flashUp = true
      ∧ s.dev.ks.logPos + s.dev.ks.inNext.length < 127 := by
  unfold State.awake
  refine ⟨?_, ?_, ?_⟩
  · obtain ⟨k, h⟩ := gasp_signs
    obtain ⟨p, hp⟩ := Option.isSome_iff_exists.mp h
    exact ⟨_, p, k, rfl, ⟨rfl, rfl⟩, rfl, hp⟩
  · intro f h
    simp only [List.mem_cons, List.not_mem_nil, or_false] at h
    rcases h with rfl | rfl <;> exact ⟨_, _, _, rfl, by decide +kernel, rfl, rfl, rfl⟩
  · intro r h l g
    simp only [List.mem_cons, List.not_mem_nil, or_false] at h g
    rcases h with rfl | rfl <;> rcases g with rfl | rfl | rfl | rfl <;> exact ⟨_, rfl, by decide +kernel⟩

end Sys2Proof.Tests
end

section
/-!
Every step keeps both port shells legal (O4): what a commit, a frame and an effect on the core do to a legal machine,
then every command.
-/

namespace Sys2Proof.Machine

/-! ### Legal shells -/

/-- Both port shells are legal, whatever the core is doing. -/
def Shell.Legal (x : Shell) : Prop := ∀ p, (x.port p).legal = true

theorem State.legal_iff (s : State) : s.legal = true ↔ s.shell.Legal ∧ s.dev.rst = .none := by
  simp only [State.legal, Bool.and_eq_true, beq_iff_eq]
  refine and_congr_left' ⟨fun ⟨ha, hb⟩ p => ?_, fun h => ⟨h .A, h .B⟩⟩
  cases p
  · exact ha
  · exact hb

theorem State.shell_legal {s : State} (h : s.legal = true) : s.shell.Legal := ((State.legal_iff s).1 h).1

theorem PortShell.legal_iff (x : PortShell) : x.legal = true ↔ hlcfgLegal x.hlcfg = true ∧ x.slots.length ≤ 2 := by
  simp [PortShell.legal]

/-- A port shell with the HLCFG and the captured frames of a legal one is legal. -/
theorem PortShell.legal_congr {x y : PortShell} (hh : y.hlcfg = x.hlcfg) (hs : y.slots = x.slots) :
    y.legal = x.legal := by
  simp [PortShell.legal, hh, hs]

theorem PortShell.fresh_legal : PortShell.fresh.legal = true := by decide

/-- A reset leaves no captured frame and HLCFG as it was or at its reset value (00 R15, R17). -/
theorem PortShell.reset_legal {x : PortShell} (h : x.legal = true) (r : Rst) : (x.reset r).legal = true := by
  have kept : PortShell.legal { PortShell.fresh with hlcfg := x.hlcfg } = true :=
    (PortShell.legal_iff _).2 ⟨((PortShell.legal_iff x).1 h).1, Nat.zero_le 2⟩
  cases r with
  | none => exact h
  | shellB => exact kept
  | soft => exact kept
  | pin => exact PortShell.fresh_legal
  | por => exact PortShell.fresh_legal

/-- One shell changed to a legal one. -/
theorem Shell.Legal.modPort {s : State} (h : s.shell.Legal) {p : Port} {f : PortShell → PortShell}
    (hf : (f (s.shell.port p)).legal = true) : (s.modPort p f).shell.Legal := by
  intro q
  cases p <;> cases q
  · exact hf
  · exact h .B
  · exact h .A
  · exact hf

/-- After an effect on the core the shells have followed the reset it made, if any. -/
theorem Shell.Legal.through {s : State} (h : s.shell.Legal) (f : Dev → Dev) : (s.through f).legal = true := by
  rw [State.legal_iff]
  refine ⟨fun p => ?_, through_rst f s⟩
  cases p
  · exact PortShell.reset_legal (h .A) _
  · exact PortShell.reset_legal (h .B) _

theorem through_legal {s : State} (h : s.legal = true) (f : Dev → Dev) : (s.through f).legal = true :=
  (State.shell_legal h).through f

/-! ### Commits -/

theorem Shell.Legal.writeHl {s : State} (h : s.shell.Legal) (p : Port) (w : Word) : (s.writeHl p w).shell.Legal := by
  obtain ⟨hw, hl⟩ := (PortShell.legal_iff _).1 (h p)
  exact h.modPort ((PortShell.legal_iff _).2 ⟨hlcfgMerge_legal hw, hl⟩)

theorem Shell.Legal.writeCtl {s : State} (h : s.shell.Legal) (v : Via) (a : Nat) (w : Word) :
    (s.writeCtl v a w).shell.Legal := by
  unfold State.writeCtl
  split
  · exact h.writeHl v.face w
  · split
    · exact h
    · split <;> exact h

theorem Shell.Legal.commitWord {s : State} (h : s.shell.Legal) (v : Via) (stop : Bool) (a : Nat) (w : Word) :
    (s.commitWord v stop a w).shell.Legal := by
  simp only [State.commitWord]
  split
  · exact h
  · split
    · split <;> exact h
    · split
      · exact h.writeCtl v a w
      · split <;> exact h

theorem Shell.Legal.commitWords {p : Port} {stop : Bool} {lim : Nat} {ws : List Word} :
    ∀ {a : Nat} {s : State}, s.shell.Legal → (commitWords p stop lim a ws s).shell.Legal := by
  induction ws with
  | nil => exact id
  | cons w ws ih =>
    intro a s h
    refine ih ?_
    split
    · exact h
    · exact h.commitWord (some p) stop a w

/-- The oldest captured frame leaves its slot; no other is captured. -/
theorem Shell.Legal.dropSlot {s : State} (h : s.shell.Legal) (p : Port) :
    (s.modPort p (fun y => { y with slots := y.slots.drop 1 })).shell.Legal := by
  obtain ⟨hw, hl⟩ := (PortShell.legal_iff _).1 (h p)
  refine h.modPort ((PortShell.legal_iff _).2 ⟨hw, ?_⟩)
  simp only [List.length_drop]
  omega

theorem commitOne_legal {s : State} (h : s.legal = true) (p : Port) : (s.commitOne p).legal = true := by
  have hd := (State.shell_legal h).dropSlot p
  unfold State.commitOne
  split
  · exact h
  · refine Shell.Legal.through ?_ id
    split
    · exact hd.commitWords
    all_goals exact hd

theorem commitAll_legal {s : State} (h : s.legal = true) (p : Port) : (s.commitAll p).legal = true := by
  unfold State.commitAll
  split
  · exact commitOne_legal (commitOne_legal h p) p
  · exact h

theorem commitNext_legal {s : State} (h : s.legal = true) : s.commitNext.legal = true := by
  unfold State.commitNext
  split
  · exact h
  · split <;> exact commitOne_legal h _

/-! ### Frames make no reset -/

@[simp] theorem noteVia_rst (v : Via) (b : Nat) (d : Dev) : (noteVia v b d).rst = d.rst := by
  cases v with
  | none => rfl
  | some p => exact noteLink_rst p b d

@[simp] theorem noteWake_rst (srcs : List Nat) (d : Dev) : (noteWake srcs d).rst = d.rst := by
  obtain ⟨w, hw⟩ := noteWake_power srcs d
  rw [hw, modPow_rst]

@[simp] theorem exitBegins_rst (d : Dev) : (exitBegins d).rst = d.rst := rfl

@[simp] theorem wakes_rst (srcs : List Nat) (d : Dev) : (wakes srcs d).rst = d.rst := by
  simp only [wakes]
  split
  · rfl
  · split
    · simp
    · split
      · simp
      · rfl

@[simp] theorem markBroken_rst (off : Nat) (d : Dev) : (markBroken off d).rst = d.rst := by
  unfold markBroken
  split <;> rfl

/-- A word of the boot window changes the gate alone (14 R342). -/
@[simp] theorem readBoot_rst (off : Nat) (d : Dev) : (readBoot off d).2.2.rst = d.rst := by
  simp only [readBoot]
  split
  · rfl
  · split <;> rfl

@[simp] theorem takeWord_rst (v : Via) (stop : Bool) (dom : Nat) (n : Chn) (u : WordLuck) (w : Word) (d : Dev) :
    (takeWord v stop dom n u w d).2.rst = d.rst := by
  unfold takeWord
  split
  · simp
  · split
    · simp
    · split
      · simp
      · simp only
        split <;> simp

theorem readWin_rst (v : Via) (stop : Bool) (u : WordLuck) (x : Win) (d : Dev) :
    (readWin v stop u x d).2.1.rst = d.rst := by
  cases x with
  | ring n off =>
    simp only [readWin]
    split_ifs <;> simp
  | stream n off =>
    simp only [readWin]
    split_ifs <;> simp
  | pool off =>
    simp only [readWin]
    split
    · simp
    · split
      · simp
      · rfl
      · simp only
        split <;> simp
  | boot off =>
    simp only [readWin]
    split_ifs <;> simp

theorem readWords_rst (p : Port) (f : ReadFrame) (stop : Bool) (lim k : Nat) :
    ∀ (i : Nat) (dead : Bool) (d : Dev), (readWords p f stop lim k i dead d).2.rst = d.rst := by
  induction k with
  | zero => exact fun _ _ _ => rfl
  | succ k ih =>
    intro i dead d
    simp only [readWords]
    rw [ih]
    split
    · exact noteLink_rst p 5 d
    · split
      · rfl
      · split
        · exact noteLink_rst p 6 d
        · split
          · rfl
          · split
            · exact readWin_rst _ _ _ _ _
            · rfl

theorem noteCtl_rst (p : Port) (lim a : Nat) (d : Dev) : (noteCtl p lim a d).rst = d.rst := by
  unfold noteCtl
  split_ifs <;> simp

theorem ctlWords_rst (s : State) (p : Port) (f : ReadFrame) (lim n : Nat) :
    (ctlWords s p f lim n).2.rst = s.dev.rst := by
  refine List.foldlRecOn (motive := fun d : Dev => d.rst = s.dev.rst) _ _ rfl (fun d hd a _ => ?_)
  rw [noteCtl_rst, hd]

@[simp] theorem noteShort_rst (s : State) (p : Port) (f : ReadFrame) (d : Dev) : (noteShort s p f d).rst = d.rst := by
  unfold noteShort
  split <;> simp

/-! ### Frames -/

/-- The machine with the shells of a legal one over a core that makes no reset. -/
theorem setDev_legal {s : State} (h : s.legal = true) {d : Dev} (hd : d.rst = s.dev.rst) :
    (s.setDev d).legal = true := by
  obtain ⟨hs, hr⟩ := (State.legal_iff s).1 h
  exact (State.legal_iff _).2 ⟨hs, hd.trans hr⟩

/-- One shell of a legal machine changed to a legal one. -/
theorem modPort_legal {s : State} (h : s.legal = true) {p : Port} {f : PortShell → PortShell}
    (hf : (s.shell.port p).legal = true → (f (s.shell.port p)).legal = true) : (s.modPort p f).legal = true := by
  obtain ⟨hs, hr⟩ := (State.legal_iff s).1 h
  exact (State.legal_iff _).2 ⟨hs.modPort (hf (hs p)), hr⟩

theorem answer_legal {s : State} (h : s.legal = true) (p : Port) (ws : List Word) {d : Dev} (hd : d.rst = s.dev.rst) :
    (s.answer p ws d).legal = true :=
  setDev_legal (modPort_legal h (fun hp => (PortShell.legal_congr rfl rfl).trans hp)) hd

theorem answer_full (s : State) (p : Port) (ws : List Word) (d : Dev) : (s.answer p ws d).full p = s.full p := by
  cases p <;> rfl

theorem woken_legal {s : State} (h : s.legal = true) (p : Port) : (s.woken p).legal = true :=
  setDev_legal h (wakes_rst _ _)

/-- A fallback returns HLCFG to 1S-1S-1S with CRC off (03 R84). -/
theorem fallback_legal {s : State} (h : s.legal = true) (p : Port) : (s.fallback p).legal = true := by
  simp only [State.fallback]
  split
  · refine setDev_legal (modPort_legal h (fun hp => ?_)) (noteLink_rst _ _ _)
    obtain ⟨hw, hl⟩ := (PortShell.legal_iff _).1 hp
    exact (PortShell.legal_iff _).2 ⟨fallback_hlcfg_legal hw, hl⟩
  · exact h

/-- A frame captured while a commit slot is free leaves at most two occupied (03 R66, R67). -/
theorem capture_legal {s : State} (h : s.legal = true) {p : Port} (hf : s.full p = false) (c : Captured) :
    (s.capture p c).legal = true := by
  refine modPort_legal h (fun hp => ?_)
  have room : (s.shell.port p).slots.length < 2 := by simpa [State.full] using hf
  refine (PortShell.legal_iff _).2 ⟨((PortShell.legal_iff _).1 hp).1, ?_⟩
  simp only [List.length_append, List.length_cons, List.length_nil]
  omega

theorem readFrame_legal (p : Port) (f : ReadFrame) {s : State} (h : s.legal = true) :
    (readFrame p f s).legal = true := by
  simp only [readFrame]
  split
  · exact answer_legal h p _ (noteLink_rst _ _ _)
  · refine answer_legal h p _ ((noteShort_rst _ _ _ _).trans ?_)
    split
    · exact readWords_rst _ _ _ _ _ _ _ _
    · exact ctlWords_rst _ _ _ _ _

theorem statusFrame_legal (p : Port) (f : ReadFrame) {s : State} (h : s.legal = true) :
    (statusFrame p f s).legal = true := by
  refine answer_legal h p _ ?_
  split <;> simp

theorem outreadFrame_legal (p : Port) (f : ReadFrame) {s : State} (h : s.legal = true) :
    (outreadFrame p f s).legal = true := by
  simp only [outreadFrame]
  split
  · exact answer_legal h p _ (noteLink_rst _ _ _)
  · next hf =>
    refine capture_legal (answer_legal h p _ ?_) ?_ _
    · split <;> split <;> simp
    · rw [answer_full]
      exact Bool.eq_false_iff.2 hf

theorem writeFrame_legal (p : Port) (cmd : Nat) (ok : Bool) (n : Nat) (mk : List Word → Captured) (f : WriteFrame)
    {s : State} (h : s.legal = true) : (writeFrame p cmd ok n mk f s).legal = true := by
  unfold writeFrame
  split
  · exact setDev_legal h (noteLink_rst _ _ _)
  · next hf =>
    have free : ∀ d, (s.setDev d).full p = false := fun _ => Bool.eq_false_iff.2 hf
    split
    · exact capture_legal (setDev_legal h (noteLink_rst _ _ _)) (free _) _
    · refine capture_legal (setDev_legal h ?_) (free _) _
      split <;> simp

theorem malformed_legal (p : Port) (bytes : Bytes) {s : State} (h : s.legal = true) :
    (malformed p bytes s).legal = true := by
  have note (k : PortShell → Nat) (b : Nat) :
      ((s.modPort p (fun x => { x with badHdr := k x, out := [] })).setDev (noteLink p b s.dev)).legal = true :=
    setDev_legal (modPort_legal h (fun hp => (PortShell.legal_congr rfl rfl).trans hp)) (noteLink_rst _ _ _)
  simp only [malformed]
  split
  · exact note (fun x => x.badHdr + 1) 0
  · split
    · exact h
    · exact note (fun _ => 0) 2

theorem Shell.Legal.dbgWrite {s : State} (h : s.shell.Legal) (a : Nat) (w : Word) :
    (dbgWrite a w s).shell.Legal := by
  simp only [Machine.dbgWrite]
  split
  · exact h
  · split
    · exact h
    · have hu (d : Dev) : (s.setDev d).shell.Legal := h
      exact (hu _).commitWord none false a w

/-! ### Every command -/

theorem onDev_legal {s t : State} (h : s.legal = true) {f : Dev → Dev} (e : onDev f s = .next t) : t.legal = true := by
  cases e
  split
  · exact h
  · exact through_legal h f

theorem onFrame_legal {s t : State} (h : s.legal = true) {p : Port} {f : State → State}
    (hf : ∀ {u : State}, u.legal = true → (f u).legal = true) (e : onFrame p f s = .next t) : t.legal = true := by
  cases e
  split
  · exact woken_legal (hf (modPort_legal (fallback_legal h p)
      (fun hp => (PortShell.legal_congr rfl rfl).trans hp))) p
  · exact h

theorem onCommit_legal {s t : State} (h : s.legal = true) {f : State → State}
    (hf : s.shell.Legal → (f s).shell.Legal) (e : onCommit f s = .next t) : t.legal = true := by
  cases e
  split
  · exact (hf (State.shell_legal h)).through id
  · exact h

theorem exec_legal {i : Instr} {s t : State} (h : s.legal = true) (e : exec i s = .next t) : t.legal = true := by
  have hs := State.shell_legal h
  cases i
  case por => exact (Host.Outcome.next.inj e) ▸ through_legal h vinMoves
  case vddioDetection b mv => exact (Host.Outcome.next.inj e) ▸ through_legal h (bankMoves b mv)
  case read p f => exact onFrame_legal h (readFrame_legal p f) e
  case write p f => exact onFrame_legal h (writeFrame_legal p _ _ _ _ f) e
  case status f => exact onFrame_legal h (statusFrame_legal f.port f.frame) e
  case stream p f => exact onFrame_legal h (fun hu => commitAll_legal (writeFrame_legal p _ _ _ _ f hu) p) e
  case outread p f => exact onFrame_legal h (outreadFrame_legal p f) e
  case skip p f => exact onFrame_legal h (fun hu => commitAll_legal (writeFrame_legal p _ _ _ _ f hu) p) e
  case outreadCommit p =>
    cases e
    split
    · exact h
    · split
      · split
        · exact commitOne_legal h p
        · split
          · exact commitAll_legal h p
          · exact h
      · exact h
  case malformedFrame p bytes =>
    cases e
    split
    · exact woken_legal (malformed_legal p bytes (fallback_legal h p)) p
    · exact h
  case linkFallback p =>
    cases e
    split
    · exact fallback_legal h p
    · exact h
  case windowWrite p a w =>
    refine onCommit_legal h (fun hs => ?_) e
    split
    · exact hs.commitWord _ _ _ _
    · exact hs
  case registerWrite p a w =>
    refine onCommit_legal h (fun hs => ?_) e
    split
    · exact hs.commitWord _ _ _ _
    · exact hs
  case hlcfgWrite p w =>
    exact onCommit_legal (f := fun u => u.commitWord (some p) false 0x01C w) h
      (fun hs => hs.commitWord _ _ _ _) e
  case dbgaccWrite a w =>
    cases e
    split
    · exact h
    · exact (hs.dbgWrite a w).through id
  all_goals exact onDev_legal h e

/-- Settles O4: a command on the core ends in `State.through`, where the shells follow the reset it made; a frame and
a commit change HLCFG by `hlcfgMerge` or the fallback and capture only into a free slot. -/
theorem stepKeepsShellsLegal : Obligations.StepKeepsShellsLegal := by
  intro s t h e
  unfold step at e
  split at e
  · cases e
    exact commitNext_legal h
  · exact exec_legal (s := { s with pending := _ }) (by exact h) e

end Sys2Proof.Machine
end

section
/-!
What POR, PIN and SOFT resets keep and empty (O7): the shells after each kind, the core after each kind, the commands
that make one.
-/

namespace Sys2Proof.Machine

/-! ### What a reset of the core does to the shells -/

/-- A PIN or POR reset returns both shells to their reset values (00 R15). -/
theorem through_shell_fresh {f : Dev → Dev} {s : State} (h : (f s.dev).rst = .pin ∨ (f s.dev).rst = .por) :
    (s.through f).shell = ⟨.fresh, .fresh⟩ := by
  simp only [State.through, State.withDev, settle_rst]
  rcases h with h | h <;> rw [h] <;> rfl

/-- A SOFT reset keeps HLCFG of both ports and nothing else of the shells (00 R15, R17). -/
theorem through_shell_soft {f : Dev → Dev} {s : State} (h : (f s.dev).rst = .soft) :
    (s.through f).shell
      = ⟨{ PortShell.fresh with hlcfg := s.shell.a.hlcfg }, { PortShell.fresh with hlcfg := s.shell.b.hlcfg }⟩ := by
  simp only [State.through, State.withDev, settle_rst, h]
  rfl

/-- No captured frame outlives a PIN or SOFT reset (00 R17). -/
theorem afterReset_slots (s : State) (soft : Bool) (d : Dev) (p : Port) :
    ((s.through (fun _ => d.afterReset soft)).shell.port p).slots = [] := by
  cases soft
  · rw [through_shell_fresh (.inl rfl)]
    cases p <;> rfl
  · rw [through_shell_soft rfl]
    cases p <;> rfl

theorem afterReset_soft_hlcfg (s : State) (d : Dev) (p : Port) :
    (s.through (fun _ => d.afterReset true)).hlcfg p = s.hlcfg p := by
  unfold State.hlcfg
  rw [through_shell_soft rfl]
  cases p <;> rfl

/-! ### What a PIN or SOFT reset keeps (00 Table 00.3) -/

theorem afterReset_g (soft : Bool) (t : Trouble) (k : Nat) : (t.afterReset soft).g k = t.g k := by
  unfold Trouble.g
  split <;> rfl

theorem afterReset_chan (soft : Bool) (d : Dev) (n : Chn) : (d.afterReset soft).chan n = (d.chan n).afterReset :=
  Vector.getElem_map ..

/-- A PIN or SOFT reset of the core `d` leaves what both kinds keep, and drops the captured frames. -/
theorem resetKept_afterReset (s : State) (soft : Bool) (d : Dev) :
    ResetKept { s with dev := d } (s.through (fun _ => d.afterReset soft)) := by
  have chan (n : Chn) : (s.through (fun _ => d.afterReset soft)).dev.chan n = (d.chan n).afterReset := by
    rw [through_chan, afterReset_chan]
  refine ⟨rfl, afterReset_slots s soft d .A, afterReset_slots s soft d .B, fun k => ?_, fun n => ?_, fun n => ?_,
    rfl, rfl, rfl, rfl, rfl, rfl, rfl, rfl, rfl, rfl, rfl⟩
  · rw [through_trouble]
    exact afterReset_g soft d.trouble k
  · rw [chan]
    rfl
  · rw [chan]
    exact ⟨rfl, rfl⟩

/-! ### The three kinds of reset -/

theorem mgmtLeft_idle {d : Dev} (h : d.boot.mgmt = none) : mgmtLeft d = d := by
  simp only [mgmtLeft, h]

theorem noteGaspEnd_unfired {d : Dev} (h : d.supply.fired = false) : noteGaspEnd d = d := by
  simp [noteGaspEnd, h]

/-- With no management command to abandon and no gasp to record, a PIN reset is what Table 00.3 keeps of the core. -/
theorem pinReset_idle {d : Dev} (hm : d.boot.mgmt = none) (hf : d.supply.fired = false) :
    pinReset d = d.afterReset false := by
  rw [pinReset, mgmtLeft_idle hm, noteGaspEnd_unfired hf]

theorem softReset_idle {d : Dev} (hm : d.boot.mgmt = none) (hf : d.supply.fired = false) :
    softReset d = d.afterReset true := by
  rw [softReset, mgmtLeft_idle hm, noteGaspEnd_unfired hf]

/-- A confirm watchdog that expires in RUN makes a SOFT reset and no wake (14 R336). -/
theorem confirmExpiry_run {d : Dev} (hc : d.boot.confirmRun = true) (hr : d.power.st = .run) :
    confirmExpiry d = softReset d := by
  simp [confirmExpiry, hc, hr]

theorem vinMoves_idle {d : Dev} (h : d.boot.mgmt = none) :
    vinMoves d = { Dev.fresh d.otp d.flash with
      pins := { d.pins with vin := !d.pins.vin }, rst := .por, ctr := d.ctr } := by
  simp only [vinMoves, powerOn, mgmtLeft_idle h]

theorem exec_por_idle {s : State} (h : s.dev.boot.mgmt = none) :
    exec .por s = .next (s.through (fun _ => { Dev.fresh s.dev.otp s.dev.flash with
      pins := { s.dev.pins with vin := !s.dev.pins.vin }, rst := .por, ctr := s.dev.ctr })) :=
  congrArg _ (through_congr (vinMoves_idle h))

/-! ### RESET# (02 R38, 19 Table 19.3) -/

theorem pinReset_glitch {s : State} (h : s.awake) {lowNs : Nat} (hn : lowNs ≤ 100) :
    exec (.pinReset lowNs) s = .next (s.through (fun d => d)) :=
  (onDev_awake h).trans (congrArg _ (through_congr (if_pos hn)))

theorem pinReset_long {s : State} (h : s.awake) {lowNs : Nat} (hn : 1000 ≤ lowNs) :
    exec (.pinReset lowNs) s = .next (s.through pinReset) :=
  (onDev_awake h).trans (congrArg _ (through_congr ((if_neg (by omega)).trans (if_pos hn))))

/-- A pulse between the glitch filter and tRST makes a whole reset or none (log entry 59). -/
theorem pinReset_between {s : State} (h : s.awake) {lowNs : Nat} (hlo : 100 < lowNs) (hhi : lowNs < 1000) :
    exec (.pinReset lowNs) s = .next (s.through bump)
      ∨ exec (.pinReset lowNs) s = .next (s.through (fun d => pinReset (bump d))) := by
  cases hp : Config.midPulse s.dev.ctr
  · refine .inl ((onDev_awake h).trans (congrArg _ (through_congr ?_)))
    simp [hp, Nat.not_le.2 hlo, Nat.not_le.2 hhi]
  · refine .inr ((onDev_awake h).trans (congrArg _ (through_congr ?_)))
    simp [hp, Nat.not_le.2 hlo, Nat.not_le.2 hhi]

/-! ### SOFT resets: the command and the confirm watchdog (14 R336) -/

theorem exec_softReset_idle {s : State} (h : s.takes .A) (hm : s.dev.boot.mgmt = none)
    (hf : s.dev.supply.fired = false) :
    exec .softReset s = .next (s.through (fun _ => s.dev.afterReset true)) :=
  onWrite_to h (softReset_idle hm hf)

/-- The core with the seconds count at a value. -/
def Dev.withSeconds (d : Dev) (sec : Word) : Dev := { d with journal := { d.journal with seconds := sec } }

theorem confirmExpiry_withSeconds {d : Dev} (hm : d.boot.mgmt = none) (hf : d.supply.fired = false)
    (hc : d.boot.confirmRun = true) (hr : d.power.st = .run) (sec : Word) :
    confirmExpiry (d.withSeconds sec) = (d.withSeconds sec).afterReset true :=
  (confirmExpiry_run (d := d.withSeconds sec) hc hr).trans (softReset_idle hm hf)

theorem exec_confirmWatchdogExpiry_run {s : State} (h : s.awake) (hm : s.dev.boot.mgmt = none)
    (hf : s.dev.supply.fired = false) (hc : s.dev.boot.confirmRun = true) (hr : s.dev.power.st = .run) :
    exec .confirmWatchdogExpiry s = .next (s.through (fun _ =>
      (s.dev.withSeconds (s.dev.journal.seconds + BitVec.ofNat 32 s.dev.boot.ticksLeft)).afterReset true)) := by
  refine onDev_to h ?_
  have elapsed : confirmElapses s.dev
      = s.dev.withSeconds (s.dev.journal.seconds + BitVec.ofNat 32 s.dev.boot.ticksLeft) := by
    rw [confirmElapses, if_pos hc]
    rfl
  rw [elapsed, confirmExpiry_withSeconds hm hf hc hr]

theorem exec_secondsTick_expires {s : State} (h : s.awake) (hm : s.dev.boot.mgmt = none)
    (hf : s.dev.supply.fired = false) (hc : s.dev.boot.confirmRun = true) (hr : s.dev.power.st = .run)
    (hl : s.dev.boot.confirmRemain ≤ s.dev.boot.confirmLeft) :
    exec .secondsTick s = .next (s.through (fun _ =>
      (s.dev.withSeconds (s.dev.journal.seconds + 1)).afterReset true)) := by
  refine onDev_to h ?_
  have tick : secondsTick s.dev = confirmExpiry (s.dev.withSeconds (s.dev.journal.seconds + 1)) := by
    simp only [secondsTick, modJ_boot, hc, hl, if_true, Bool.not_true, Bool.false_eq_true, if_false]
    rfl
  rw [tick, confirmExpiry_withSeconds hm hf hc hr]

/-! ### What each kind leaves -/

/-- POR (19 R434): the fresh core over OTP and flash, the other pins as they were. -/
theorem por_keeps {s : State} (h : s.dev.boot.mgmt = none) :
    ∃ t, exec .por s = .next t ∧ t.pending = s.pending ∧ t.shell = ⟨.fresh, .fresh⟩
      ∧ Keeps [] { Dev.fresh s.dev.otp s.dev.flash with pins := { s.dev.pins with vin := !s.dev.pins.vin } } t.dev := by
  refine ⟨_, exec_por_idle h, rfl, through_shell_fresh (.inr rfl), fun q _ _ => ?_⟩
  cases q
  case tags => contradiction
  case sched => exact ⟨rfl, rfl, rfl⟩
  all_goals rfl

/-- What a PIN reset adds to the common part: HLCFG, the masks, LCREQ and TAMPERSTAT at their reset values. -/
theorem pinReset_keeps {s : State} (h : s.awake) {lowNs : Nat} (hn : 1000 ≤ lowNs) (hm : s.dev.boot.mgmt = none)
    (hf : s.dev.supply.fired = false) :
    ∃ t, exec (.pinReset lowNs) s = .next t ∧ ResetKept s t ∧ t.shell = ⟨.fresh, .fresh⟩
      ∧ t.dev.trouble.maskA = 0 ∧ t.dev.trouble.maskB = 0xE0000000 ∧ t.dev.lc.lcreq = 0
      ∧ t.dev.lc.tamperBlock = false := by
  have built : exec (.pinReset lowNs) s = .next (s.through (fun _ => s.dev.afterReset false)) :=
    (pinReset_long h hn).trans (congrArg _ (through_congr (pinReset_idle hm hf)))
  exact ⟨_, built, resetKept_afterReset s false s.dev, through_shell_fresh (.inl rfl), rfl, rfl, rfl, rfl⟩

/-- Whatever a running management command leaves, the core of each kind of reset is built anew (00 R17). -/
theorem reset_empties {c : Instr} {s : State}
    (h : c = .por ∨ (∃ lowNs, c = .pinReset lowNs ∧ 1000 ≤ lowNs ∧ s.awake) ∨ c = .softReset ∧ s.takes .A) :
    ∃ t, exec c s = .next t ∧ t.dev.ks.vol = [] ∧ t.dev.presig.avail = [] ∧ t.dev.presig.filling = 0
      ∧ ∀ p, (t.shell.port p).slots = [] := by
  rcases h with rfl | ⟨lowNs, rfl, hn, ha⟩ | ⟨rfl, ht⟩
  · refine ⟨_, rfl, rfl, rfl, rfl, fun p => ?_⟩
    rw [through_shell_fresh (.inr rfl)]
    cases p <;> rfl
  · exact ⟨_, pinReset_long ha hn, rfl, rfl, rfl, afterReset_slots s false _⟩
  · exact ⟨_, onWrite_takes ht, rfl, rfl, rfl, afterReset_slots s true _⟩

/-- The commands that end in a SOFT reset, with the seconds count each of them leaves (14 R336, log entry 14). -/
theorem exec_makes_softReset {c : Instr} {s : State} {sec : Word} (hm : s.dev.boot.mgmt = none)
    (hf : s.dev.supply.fired = false)
    (h : c = .softReset ∧ s.takes .A ∧ sec = s.dev.journal.seconds
      ∨ s.awake ∧ s.dev.boot.confirmRun = true ∧ s.dev.power.st = .run
        ∧ (c = .confirmWatchdogExpiry ∧ sec = s.dev.journal.seconds + BitVec.ofNat 32 s.dev.boot.ticksLeft
          ∨ c = .secondsTick ∧ s.dev.boot.confirmRemain ≤ s.dev.boot.confirmLeft
            ∧ sec = s.dev.journal.seconds + 1)) :
    exec c s = .next (s.through (fun _ => (s.dev.withSeconds sec).afterReset true)) := by
  rcases h with ⟨rfl, ht, rfl⟩ | ⟨ha, hc, hr, ⟨rfl, rfl⟩ | ⟨rfl, hl, rfl⟩⟩
  · exact exec_softReset_idle ht hm hf
  · exact exec_confirmWatchdogExpiry_run ha hm hf hc hr
  · exact exec_secondsTick_expires ha hm hf hc hr hl

/-- Settles O7: each command answers the core that its kind of reset builds anew, with the parts Table 00.3 keeps, and
both shells follow it. -/
theorem resetsKeepWhatTheSpecNames : Obligations.ResetsKeepWhatTheSpecNames := by
  refine ⟨fun s => por_keeps, fun s lowNs ha => ⟨fun hn => ?_, fun hn hm hf => pinReset_keeps ha hn hm hf,
    fun hn => pinReset_long ha hn, fun hlo hhi => pinReset_between ha hlo hhi⟩, fun c s => reset_empties,
    fun c s sec hm hf h => ?_⟩
  · exact ⟨_, pinReset_glitch ha hn, through_same ha.2, (Keeps.refl [] s.dev).through⟩
  · exact ⟨_, exec_makes_softReset hm hf h, resetKept_afterReset s true _, afterReset_soft_hlcfg s _,
      rfl, rfl, rfl, rfl, rfl⟩

end Sys2Proof.Machine
end

section
/-!
The host link said once (03): what a frame with a good header is judged on, what it drives, what its CS# edge wakes;
how a frame is captured and how the oldest captured frame commits.
-/

namespace Sys2Proof.Machine

/-! ### The shells -/

@[simp] theorem Shell.port_mod_same (x : Shell) (p : Port) (f : PortShell → PortShell) :
    (x.mod p f).port p = f (x.port p) := by
  cases p <;> rfl

theorem Shell.port_mod_other {p q : Port} (h : q ≠ p) (x : Shell) (f : PortShell → PortShell) :
    (x.mod p f).port q = x.port q := by
  cases p <;> cases q
  · exact absurd rfl h
  · rfl
  · rfl
  · exact absurd rfl h

@[simp] theorem Shell.mod_mod (x : Shell) (p : Port) (f g : PortShell → PortShell) :
    (x.mod p f).mod p g = x.mod p (fun y => g (f y)) := by
  cases p <;> rfl

/-- A port shell written as it stands changes nothing. -/
theorem Shell.mod_eq_self {x : Shell} {p : Port} {f : PortShell → PortShell} (h : f (x.port p) = x.port p) :
    x.mod p f = x := by
  cases p
  · exact congrArg (fun y => { x with a := y }) h
  · exact congrArg (fun y => { x with b := y }) h

/-- What a change of one shell leaves of a field, it leaves of that field at both ports. -/
theorem Shell.mod_field {α : Type} (g : PortShell → α) {x : Shell} {p : Port} {f : PortShell → PortShell}
    (h : g (f (x.port p)) = g (x.port p)) (q : Port) : g ((x.mod p f).port q) = g (x.port q) := by
  by_cases e : q = p
  · rw [e, Shell.port_mod_same, h]
  · rw [Shell.port_mod_other e]

@[simp] theorem modPort_dev (s : State) (p : Port) (f : PortShell → PortShell) : (s.modPort p f).dev = s.dev := rfl
@[simp] theorem modPort_shell (s : State) (p : Port) (f : PortShell → PortShell) :
    (s.modPort p f).shell = s.shell.mod p f := rfl
@[simp] theorem modPort_pending (s : State) (p : Port) (f : PortShell → PortShell) :
    (s.modPort p f).pending = s.pending := rfl
@[simp] theorem setDev_dev (s : State) (d : Dev) : (s.setDev d).dev = d := rfl
@[simp] theorem setDev_shell (s : State) (d : Dev) : (s.setDev d).shell = s.shell := rfl
@[simp] theorem setDev_pending (s : State) (d : Dev) : (s.setDev d).pending = s.pending := rfl

theorem modPort_modPort (s : State) (p : Port) (f g : PortShell → PortShell) :
    (s.modPort p f).modPort p g = s.modPort p (fun x => g (f x)) := by
  simp [State.modPort]

/-! ### The edge of CS# (R69) -/

/-- What a CS# edge wakes is of the power controller alone (16 R385, R386). -/
theorem keeps_wakes (srcs : List Nat) (d : Dev) : Keeps [.power] d (wakes srcs d) := by
  have note : ∀ fs, Keeps [.power] d (noteWake fs d) := fun fs => by
    obtain ⟨w, hw⟩ := noteWake_power fs d
    rw [hw]
    intro q hq _
    cases q <;> simp [Part.same] at hq ⊢
  have mod : ∀ f e, Keeps [.power] e (modPow f e) := fun f e q hq _ => by
    cases q <;> simp [Part.same] at hq ⊢
  simp only [wakes]
  split
  · exact Keeps.refl _ d
  · split
    · exact (note _).trans (mod _ _)
    · split
      · exact (note _).trans ((mod _ _).trans (mod _ _))
      · exact Keeps.refl _ d

@[simp] theorem wakes_trouble (srcs : List Nat) (d : Dev) : (wakes srcs d).trouble = d.trouble :=
  keeps_wakes srcs d .trouble (by decide) (by decide)

@[simp] theorem wakes_chan (srcs : List Nat) (d : Dev) (n : Chn) : (wakes srcs d).chan n = d.chan n :=
  chan_of (keeps_wakes srcs d .chans (by decide) (by decide)) n

/-- Of the power controller a wake changes the run state, WAKESTAT, its mark and the domains (16 R385–R387). -/
theorem wakes_power (srcs : List Nat) (d : Dev) :
    ∃ st w k ds, (wakes srcs d).power = { d.power with st := st, wakeStat := w, woken := k, doms := ds } := by
  have same : ∃ st w k ds, d.power = { d.power with st := st, wakeStat := w, woken := k, doms := ds } :=
    ⟨_, _, _, _, rfl⟩
  simp only [wakes]
  split
  · exact same
  · obtain ⟨w, hw⟩ := noteWake_power (srcs.filter (d.armed d.power.latchedWake d.power.latchedTmr d.power.latched)) d
    split
    · exact ⟨_, w, true, _, by rw [hw]; rfl⟩
    · split
      · exact ⟨.exit, w, false, _, by rw [hw]; rfl⟩
      · exact same

@[simp] theorem woken_shell (s : State) (p : Port) : (s.woken p).shell = s.shell := rfl
@[simp] theorem woken_pending (s : State) (p : Port) : (s.woken p).pending = s.pending := rfl
@[simp] theorem woken_trouble (s : State) (p : Port) : (s.woken p).dev.trouble = s.dev.trouble := wakes_trouble _ _
@[simp] theorem woken_chan (s : State) (p : Port) (n : Chn) : (s.woken p).dev.chan n = s.dev.chan n := wakes_chan _ _ _

theorem keeps_woken (s : State) (p : Port) : Keeps [.power] s.dev (s.woken p).dev := keeps_wakes _ _

/-- In RUN the edge wakes nothing. -/
theorem woken_run {s : State} (h : s.dev.power.st = .run) (p : Port) : (s.woken p).dev = s.dev := wakes_run h _

/-! ### A frame with a good header -/

/-- The machine on which a frame with a good header is judged: the count of bad headers back at 0 (03 R84). -/
def State.heard (s : State) (p : Port) : State := s.modPort p (fun x => { x with badHdr := 0 })

@[simp] theorem heard_dev (s : State) (p : Port) : (s.heard p).dev = s.dev := rfl
@[simp] theorem heard_hlcfg (s : State) (p q : Port) : (s.heard p).hlcfg q = s.hlcfg q := by
  cases p <;> cases q <;> rfl
@[simp] theorem heard_slots (s : State) (p q : Port) :
    ((s.heard p).shell.port q).slots = (s.shell.port q).slots := by
  cases p <;> cases q <;> rfl
@[simp] theorem heard_gstat (s : State) (p q : Port) : (s.heard p).gstat q = s.gstat q := by
  simp [State.gstat]
@[simp] theorem heard_full (s : State) (p : Port) : (s.heard p).full p = s.full p := by simp [State.full]
@[simp] theorem heard_driven (s : State) (p : Port) (hdr : Bytes) (body : List Word) :
    driven (s.heard p) p hdr body = driven s p hdr body := by
  simp [driven]
@[simp] theorem heard_ctlWord (s : State) (p : Port) (v : Via) (a : Nat) :
    (s.heard p).ctlWord v a = s.ctlWord v a := by
  simp [State.ctlWord]

theorem fallback_not_due {s : State} {p : Port} (h : (s.shell.port p).badHdr < 4) : s.fallback p = s := by
  simp [State.fallback, Nat.not_le.2 h]

/-- A frame that a port hears is judged with the count of bad headers at 0; then its CS# edge wakes. -/
theorem onFrame_hears {s u : State} {p : Port} (h : s.hears p) {f : State → State} (e : f (s.heard p) = u) :
    onFrame p f s = .next (u.woken p) := by
  simp only [onFrame, h.1, if_true, fallback_not_due h.2.2]
  exact congrArg (fun v : State => Host.Outcome.next (v.woken p)) e

/-- The words a frame drives of which the host clocks as many as are owed (03 R55, R58). -/
theorem drives_of_owed {s : State} {p : Port} {hdr : Bytes} {fill owed : Nat} {ws : List Word}
    (h : owed ≤ ws.length) :
    drives s p hdr fill owed ws = driven s p hdr (s.gstat p :: List.replicate fill 0 ++ ws) := by
  simp [drives, driven, h]

/-- A read-class frame that records nothing changes the words driven and the count of bad headers alone. -/
theorem answer_heard (s : State) (p : Port) (ws : List Word) :
    (s.heard p).answer p ws s.dev = s.modPort p (fun x => { x with badHdr := 0, out := ws }) := by
  simp only [State.answer, State.heard, modPort_modPort]
  rfl

/-! ### Capturing (R66, R67) -/

theorem full_eq_true {s : State} {p : Port} (h : (s.shell.port p).slots.length = 2) : s.full p = true := by
  simp [State.full, h]

theorem full_eq_false {s : State} {p : Port} (h : (s.shell.port p).slots.length < 2) : s.full p = false := by
  simp [State.full, h]

/-- A whole, aligned frame at an address that suits its command has no fault (03 R83). -/
theorem writeFault_whole {s : State} {p : Port} {cmd n : Nat} {f : WriteFrame} (ha : f.addr.toNat % 4 = 0)
    (hn : n ≤ f.data.length)
    (hc : bit (s.hlcfg p) 2 = true →
      f.trailer = some (bytesWord (crcCheck (header cmd f.addr f.cnt ++ wordsBytes (f.data.take n))))) :
    writeFault s p cmd true n f = .inr (f.data.take n) := by
  cases hb : bit (s.hlcfg p) 2
  · simp [writeFault, ha, hb]
  · simp [writeFault, ha, hb, hc hb, hn]

/-- With CRC enabled a missing or wrong trailer is the fault LINKCRC (03 R58). -/
theorem writeFault_trailer {s : State} {p : Port} {cmd n : Nat} {f : WriteFrame} (ha : f.addr.toNat % 4 = 0)
    (hb : bit (s.hlcfg p) 2 = true)
    (hc : f.trailer ≠ some (bytesWord (crcCheck (header cmd f.addr f.cnt ++ wordsBytes (f.data.take n))))) :
    writeFault s p cmd true n f = .inl 1 := by
  simp [writeFault, ha, hb, hc]

/-- With both slots occupied a frame records WBUSY and nothing else (03 R67). -/
theorem writeFrame_full {s : State} {p : Port} (h : s.full p = true) (cmd : Nat) (ok : Bool) (n : Nat)
    (mk : List Word → Captured) (f : WriteFrame) :
    writeFrame p cmd ok n mk f s = s.setDev (noteLink p 7 s.dev) := by
  simp [writeFrame, h]

/-- A frame without a fault and without a missing word is captured (03 R66). -/
theorem writeFrame_captured {s : State} {p : Port} {cmd n : Nat} {ok : Bool} {mk : List Word → Captured}
    {f : WriteFrame} {ws : List Word} (h : s.full p = false) (hw : writeFault s p cmd ok n f = .inr ws)
    (hn : n ≤ ws.length) : writeFrame p cmd ok n mk f s = s.capture p (mk ws) := by
  simp only [writeFrame, h, hw, Nat.not_lt.2 hn, if_false, Bool.false_eq_true]
  rfl

/-- A frame with a fault is recorded and keeps its slot without an effect. -/
theorem writeFrame_ignored {s : State} {p : Port} {cmd n b : Nat} {ok : Bool} {mk : List Word → Captured}
    {f : WriteFrame} (h : s.full p = false) (hw : writeFault s p cmd ok n f = .inl b) :
    writeFrame p cmd ok n mk f s = (s.setDev (noteLink p b s.dev)).capture p .ignored := by
  simp [writeFrame, h, hw]

/-- A frame captured on hearing it: its slot is the last. -/
theorem capture_heard (s : State) (p : Port) (c : Captured) :
    (s.heard p).capture p c
      = s.modPort p (fun x => { x with badHdr := 0, slots := x.slots ++ [⟨c, !s.dev.gRun⟩] }) := by
  simp only [State.capture, State.heard, modPort_modPort]
  rfl

/-! ### Committing (R66, R68) -/

/-- What a captured frame of port `p` does to the machine whose slot it has left. -/
def State.commitCap (u : State) (p : Port) (x : Slot) : State :=
  match x.cap with
  | .write a ws => commitWords p x.inStop (unitEnd a) a ws u
  | .stream n ws => u.setDev (commitStream p x.inStop n ws u.dev)
  | .skip n => u.setDev (commitSkip p n u.dev)
  | .outread n adv => u.setDev (commitOutread n adv u.dev)
  | .ignored => u

theorem commitOne_nil {s : State} {p : Port} (h : (s.shell.port p).slots = []) : s.commitOne p = s := by
  simp [State.commitOne, h]

/-- The oldest captured frame leaves its slot and has its effect; the core settles. -/
theorem commitOne_cons {s : State} {p : Port} {x : Slot} {l : List Slot} (h : (s.shell.port p).slots = x :: l) :
    s.commitOne p = ((s.modPort p (fun y => { y with slots := l })).commitCap p x).through id := by
  have drop : s.modPort p (fun y => { y with slots := y.slots.drop 1 }) = s.modPort p (fun y => { y with slots := l }) := by
    cases p <;> simp only [Shell.port] at h <;> simp [State.modPort, Shell.mod, h]
  simp only [State.commitOne, h, drop]
  rfl

/-- An effect on the core of a captured frame, seen from the command. -/
theorem through_setDev (u : State) (f : Dev → Dev) : (u.setDev (f u.dev)).through id = u.through f := rfl

/-- With one frame captured and no reset made, committing every frame is committing that one. -/
theorem commitAll_single {s : State} {p : Port} (hc : s.commits = true)
    (h : ((s.commitOne p).shell.port p).slots = []) : s.commitAll p = s.commitOne p := by
  rw [State.commitAll, if_pos hc, commitOne_nil h]

end Sys2Proof.Machine
end

section
/-!
What read-class frames drive (O9, O10): control words and STATUS from one snapshot, a window word after its fillers.
-/

namespace Sys2Proof.Machine

/-! ### Control words and STATUS (03 R56, R63, R64) -/

/-- A word in view before the end of its unit records nothing, and none does in END (03 R82). -/
theorem noteCtl_seen {p : Port} {lim a : Nat} {d : Dev} (hl : a < lim)
    (hv : d.otp.endFuse = true ∨ d.ctlSeen (some p) a = true) : noteCtl p lim a d = d := by
  rcases hv with hv | hv <;> simp [noteCtl, Nat.not_le.2 hl, hv]

/-- Control words in view come from the machine as it stands, and record nothing (03 R64). -/
theorem ctlWords_seen {s : State} {p : Port} {f : ReadFrame} {lim n : Nat}
    (h : ∀ i, i < n → f.addr.toNat + 4 * i < lim
      ∧ (s.dev.otp.endFuse = true ∨ s.dev.ctlSeen (some p) (f.addr.toNat + 4 * i) = true)) :
    ctlWords s p f lim n = ((List.range n).map (fun i => s.ctlWord (some p) (f.addr.toNat + 4 * i)), s.dev) := by
  have words : ∀ i ∈ List.range n, (if lim ≤ f.addr.toNat + 4 * i then (0 : Word)
      else s.ctlWord (some p) (f.addr.toNat + 4 * i)) = s.ctlWord (some p) (f.addr.toNat + 4 * i) := fun i hi =>
    if_neg (Nat.not_le.2 (h i (List.mem_range.1 hi)).1)
  refine Prod.ext ?_ ?_
  · simp only [ctlWords, List.map_map]
    exact List.map_congr_left words
  · refine List.foldlRecOn (motive := fun d : Dev => d = s.dev) _ _ rfl (fun d hd a ha => ?_)
    obtain ⟨i, hi, rfl⟩ := List.mem_map.1 ha
    obtain ⟨hl, hv⟩ := h i (List.mem_range.1 hi)
    rw [hd]
    exact noteCtl_seen hl hv

/-- Every data word clocked: SHORT is not recorded. -/
theorem noteShort_clocked {s : State} {p : Port} {f : ReadFrame} (h : f.cnt.toNat + 1 ≤ f.clocked) (d : Dev) :
    noteShort s p f d = d := by
  simp [noteShort, Nat.not_lt.2 h]

/-- A READ of control words in view drives them from the machine as it stands. -/
theorem readFrame_control {s : State} {p : Port} {f : ReadFrame} (ha : f.addr.toNat % 4 = 0)
    (hw : winOf f.addr.toNat = none)
    (hv : ∀ i, i < f.cnt.toNat + 1 → f.addr.toNat + 4 * i < unitEnd f.addr.toNat
      ∧ (s.dev.otp.endFuse = true ∨ s.dev.ctlSeen (some p) (f.addr.toNat + 4 * i) = true))
    (hk : f.cnt.toNat + 1 ≤ f.clocked) :
    readFrame p f s = s.answer p (driven s p (header 0xA1 f.addr f.cnt)
      (s.gstat p :: (List.range (f.cnt.toNat + 1)).map (fun i => s.ctlWord (some p) (f.addr.toNat + 4 * i)))) s.dev := by
  have fill : fillers (s.hlcfg p) f.addr.toNat = 0 := by simp [fillers, hw]
  simp only [readFrame, ha, hw, fill, Nat.min_eq_right hk, ctlWords_seen hv, noteShort_clocked hk]
  exact congrArg (fun ws => s.answer p ws s.dev) (drives_of_owed (by simp))

/-- A STATUS frame that is not cut within GSTAT, or whose cut CRC shows, records nothing (03 R56, R58, R83). -/
theorem statusFrame_whole {s : State} {p : Port} {f : ReadFrame} (h : bit (s.hlcfg p) 2 = true ∨ 1 ≤ f.clocked) :
    statusFrame p f s
      = s.answer p ((driven s p (header 0xA5 f.addr f.cnt) [s.gstat p]).take f.clocked) s.dev := by
  have uncut : (!bit (s.hlcfg p) 2 && f.clocked == 0) = false := by
    rcases h with h | h
    · simp [h]
    · simp [Nat.ne_of_gt h]
  simp only [statusFrame, uncut, drives_of_owed (Nat.zero_le _)]
  rfl

/-- A STATUS frame cut within GSTAT with CRC off drives no word and records SHORT (03 R83). -/
theorem statusFrame_cut {s : State} {p : Port} {f : ReadFrame} (hb : bit (s.hlcfg p) 2 = false) (hk : f.clocked = 0) :
    statusFrame p f s = s.answer p [] (noteLink p 4 s.dev) := by
  simp [statusFrame, hb, hk]

/-- A record and the wake of its frame. -/
theorem keeps_note_woken (s : State) {u : State} (p q : Port) (b : Nat) (h : u.dev = noteLink p b s.dev) :
    Keeps [.trouble, .journal, .power] s.dev (u.woken q).dev := by
  have rec_ : Keeps [.trouble, .journal, .power] s.dev u.dev := h ▸ keeps_up (keeps_noteLink p b s.dev)
  exact rec_.trans (keeps_up (keeps_woken u q))

/-- Settles O9: the words are those of the machine as it stands, and a frame that drives what it owes records nothing. -/
theorem controlReadDrivesSnapshot : Obligations.ControlReadDrivesSnapshot := by
  refine ⟨fun p f s hh ha hw hv hk => ?_, fun p f s hh => ⟨fun hu => ?_, fun hb hk => ?_⟩⟩
  · have read := readFrame_control (s := s.heard p) ha hw (fun i hi => hv i (Nat.le_of_lt_succ hi)) hk
    simp only [heard_driven, heard_gstat, heard_ctlWord, heard_dev, answer_heard] at read
    exact onFrame_hears hh read
  · have status := statusFrame_whole (s := s.heard p) (p := p) (f := f) (by simpa using hu)
    simp only [heard_driven, heard_gstat, heard_dev, answer_heard] at status
    exact onFrame_hears hh status
  · have cut := statusFrame_cut (s := s.heard p) (p := p) (f := f) (by simpa using hb) hk
    refine ⟨_, onFrame_hears hh cut, ?_, ?_, ?_⟩
    · simpa [State.answer] using noteLink_bit p (b := 4) (by decide) s.dev
    · simp [State.answer]
    · exact keeps_note_woken s p p 4 rfl

/-! ### A window word (03 R71, 07 R167) -/

/-- A window address lies before the end of its unit, and its frames fill with LAT words but in the boot window. -/
theorem winOf_lt_unitEnd {a : Nat} {w : Win} (h : winOf a = some w) : a < unitEnd a := by
  unfold winOf at h
  unfold unitEnd
  split_ifs at h ⊢ <;> omega

/-- A READ of one word records nothing but what the word's window does. -/
theorem readFrame_one {s : State} {p : Port} {a : BitVec 24} {w : Win} {x : Word} (ha : a.toNat % 4 = 0)
    (hw : winOf a.toNat = some w) (hf : fillers (s.hlcfg p) a.toNat = fld (s.hlcfg p) 11 8)
    (he : s.dev.otp.endFuse = false) (hb : s.dev.blocked (some p) a.toNat = false)
    (hr : readWin (some p) (!s.dev.gRun) ⟨false, false, false⟩ w s.dev = (x, s.dev, false)) :
    readFrame p ⟨a, 0, 1, none, [], []⟩ s = s.answer p (driven s p (header 0xA1 a 0)
      (s.gstat p :: List.replicate (fld (s.hlcfg p) 11 8) 0 ++ [x])) s.dev := by
  have lim := Nat.not_le.2 (winOf_lt_unitEnd hw)
  have words : readWords p ⟨a, 0, 1, none, [], []⟩ (!s.dev.gRun) (unitEnd a.toNat) 1 0 false s.dev = ([x], s.dev) := by
    simp [readWords, lim, he, hb, hw, hr]
  have clocked := noteShort_clocked (s := s) (p := p) (f := ⟨a, 0, 1, none, [], []⟩) (Nat.le_refl 1) s.dev
  simp only [readFrame, ha, hw, hf]
  refine Eq.trans ?_ (congrArg (fun ws => s.answer p ws s.dev) (drives_of_owed (owed := 1) (Nat.le_refl 1)))
  rw [show min 1 ((0 : BitVec 8).toNat + 1) = 1 from rfl, words]
  exact congrArg (s.answer p _) clocked

/-- A word in time of a memory that is on, free of errors. -/
theorem takeWord_on {v : Via} {dom : Nat} {n : Chn} {w : Word} {d : Dev} (h : d.domOff dom = false) :
    takeWord v false dom n ⟨false, false, false⟩ w d = (w, d) := by
  simp [takeWord, h]

/-- A word of ring memory in view of a channel that is OPEN or DRAINING. -/
theorem readWin_ring {p : Port} {n : Chn} {off : Nat} {d : Dev} (hv : d.bound n = p)
    (ha : (d.chan n).state.active = true) (hd : d.domOff (44 + n.val) = false) :
    readWin (some p) false ⟨false, false, false⟩ (.ring n off) d = ((d.chan n).rings.mem.word 0 off, d, false) := by
  simp [readWin, Dev.sees, hv, ha, hd, takeWord_on hd]

/-- A word of the pool in a LIVE buffer of a channel bound to the port, not known broken. -/
theorem readWin_pool {p : Port} {n : Chn} {off : Nat} {d : Dev} (hh : d.poolHit p off = .served n)
    (hd : d.domOff (60 + off / 65536) = false) (hb : d.pool.broken.contains off = false) :
    readWin (some p) false ⟨false, false, false⟩ (.pool off) d = (d.pool.mem.word 0 off, d, false) := by
  simp only [readWin, Dev.poolMeets, hh, hb, Bool.or_false, takeWord_on hd]
  simp

/-- Settles O10: the word's window gives it as memory holds it and records nothing. -/
theorem windowReadDrivesFillersThenWord : Obligations.WindowReadDrivesFillersThenWord := by
  intro p a s x hh ha he hb hr hx
  have word : ∃ w, winOf a.toNat = some w ∧ fillers (s.hlcfg p) a.toNat = fld (s.hlcfg p) 11 8
      ∧ readWin (some p) (!s.dev.gRun) ⟨false, false, false⟩ w s.dev = (x, s.dev, false) := by
    rw [hr]
    rcases hx with ⟨n, off, hw, hv, hc, hd, rfl⟩ | ⟨n, off, hw, hp, hd, hk, rfl⟩
    · exact ⟨_, hw, by simp [fillers, hw], readWin_ring hv hc hd⟩
    · exact ⟨_, hw, by simp [fillers, hw], readWin_pool hp hd hk⟩
  obtain ⟨w, hw, hf, hx⟩ := word
  have read := readFrame_one (s := s.heard p) ha hw (by simpa using hf) he hb hx
  simp only [heard_driven, heard_gstat, heard_hlcfg, heard_dev, answer_heard] at read
  exact onFrame_hears hh read

end Sys2Proof.Machine
end

section
/-!
Write-class frames (O12, O13) and malformed ones (O17): what is captured, what is refused, what leads to the fallback.
-/

namespace Sys2Proof.Machine

/-! ### A captured WRITE (03 R66) -/

/-- Settles O12: a frame without a fault takes the last slot with its words. -/
theorem writeFrameWaitsInSlot : Obligations.WriteFrameWaitsInSlot := by
  intro p f s hh hs ha hn hc
  have whole := writeFault_whole (s := s.heard p) (p := p) (cmd := 0xA2) ha hn (by simpa using hc)
  have free : (s.heard p).full p = false := (heard_full s p).trans (full_eq_false hs)
  have captured := writeFrame_captured (mk := fun ws => .write f.addr.toNat ws) free whole (by simpa using hn)
  exact onFrame_hears hh (captured.trans (capture_heard s p _))

/-! ### Refused frames (03 R58, R67) -/

/-- A third OUTREAD frame drives nothing. -/
theorem outreadFrame_full {s : State} {p : Port} (h : s.full p = true) (f : ReadFrame) :
    outreadFrame p f s = s.answer p [] (noteLink p 7 s.dev) := by
  simp [outreadFrame, h, State.refuse]

/-- A refused frame: WBUSY recorded, no word driven but by an earlier frame, the shells as they were. -/
structure Refused (p : Port) (s t : State) : Prop where
  busy : bit t.dev.trouble.g0 7 = true
  keeps : Keeps [.trouble, .journal, .power] s.dev t.dev
  shell : ∀ q, (t.shell.port q).slots = (s.shell.port q).slots ∧ t.hlcfg q = s.hlcfg q

theorem refused_of {p : Port} {s u : State} (hd : u.dev = noteLink p 7 s.dev)
    (hs : ∀ q, (u.shell.port q).slots = (s.shell.port q).slots ∧ u.hlcfg q = s.hlcfg q) : Refused p s (u.woken p) :=
  ⟨by rw [woken_trouble, hd]; exact noteLink_bit p (by decide) s.dev, keeps_note_woken s p p 7 hd, hs⟩

theorem heard_kept (s : State) (p q : Port) :
    ((s.heard p).shell.port q).slots = (s.shell.port q).slots ∧ (s.heard p).hlcfg q = s.hlcfg q :=
  ⟨heard_slots s p q, heard_hlcfg s p q⟩

/-- A third write-class frame is refused. -/
theorem refused_writeFrame {s : State} {p : Port} (h : (s.shell.port p).slots.length = 2) (cmd : Nat) (ok : Bool)
    (n : Nat) (mk : List Word → Captured) (f : WriteFrame) :
    Refused p s ((writeFrame p cmd ok n mk f (s.heard p)).woken p) := by
  rw [writeFrame_full ((heard_full s p).trans (full_eq_true h))]
  exact refused_of rfl (heard_kept s p)

/-- While nothing commits, a third STREAM or SKIP is refused like any write-class frame. -/
theorem refused_commitAll {s : State} {p : Port} (h : (s.shell.port p).slots.length = 2) (hc : s.commits = false)
    (cmd : Nat) (ok : Bool) (n : Nat) (mk : List Word → Captured) (f : WriteFrame) :
    Refused p s (((writeFrame p cmd ok n mk f (s.heard p)).commitAll p).woken p) := by
  have idle : (writeFrame p cmd ok n mk f (s.heard p)).commits = false := by
    rw [writeFrame_full ((heard_full s p).trans (full_eq_true h))]
    simpa [State.commits, Dev.gRun, Dev.inPor] using hc
  rw [State.commitAll, idle]
  exact refused_writeFrame h cmd ok n mk f

/-- A STREAM frame that is heard is captured and commits within its command. -/
theorem exec_stream {s : State} {p : Port} (h : s.hears p) (f : WriteFrame) :
    exec (.stream p f) s = .next (((writeFrame p 0xB2 (0x140000 ≤ f.addr.toNat && f.addr.toNat < 0x180000)
      (f.cnt.toNat + 1) (fun ws => .stream (addrChn f.addr.toNat) ws) f (s.heard p)).commitAll p).woken p) :=
  onFrame_hears (f := fun u => (writeFrame p 0xB2 _ _ _ f u).commitAll p) h rfl

/-- A SKIP frame that is heard is captured and commits within its command. -/
theorem exec_skip {s : State} {p : Port} (h : s.hears p) (f : WriteFrame) :
    exec (.skip p f) s = .next (((writeFrame p 0xB8 (0x100000 ≤ f.addr.toNat && f.addr.toNat < 0x140000) 0
      (fun _ => .skip (addrChn f.addr.toNat)) f (s.heard p)).commitAll p).woken p) :=
  onFrame_hears (f := fun u => (writeFrame p 0xB8 _ _ _ f u).commitAll p) h rfl

/-- Settles O13: with two slots occupied a frame only records WBUSY; a wrong trailer leaves a slot without an effect. -/
theorem thirdFrameAndWrongTrailerRefused : Obligations.ThirdFrameAndWrongTrailerRefused := by
  refine ⟨fun c p s hh hs hc => ?_, fun p f s hh hs ha hb hc => ?_⟩
  · have refused : ∃ t, exec c s = .next t ∧ Refused p s t ∧ ((∃ f, c = .outread p f) → (t.shell.port p).out = []) := by
      rcases hc with ⟨f, rfl⟩ | ⟨f, rfl⟩ | ⟨hi, f, rfl | rfl⟩
      · exact ⟨_, onFrame_hears hh rfl, refused_writeFrame hs _ _ _ _ f, fun ⟨_, h⟩ => nomatch h⟩
      · have out := outreadFrame_full ((heard_full s p).trans (full_eq_true hs)) f
        refine ⟨_, onFrame_hears hh out, refused_of rfl fun q => ?_, fun _ => ?_⟩
        · exact ⟨(Shell.mod_field PortShell.slots rfl q).trans (heard_slots s p q),
            (Shell.mod_field PortShell.hlcfg rfl q).trans (heard_hlcfg s p q)⟩
        · simp [State.answer]
      · exact ⟨_, exec_stream hh f, refused_commitAll hs hi _ _ _ _ f, fun ⟨_, h⟩ => nomatch h⟩
      · exact ⟨_, exec_skip hh f, refused_commitAll hs hi _ _ _ _ f, fun ⟨_, h⟩ => nomatch h⟩
    obtain ⟨t, ht, ⟨busy, keeps, shell⟩, out⟩ := refused
    exact ⟨t, ht, busy, keeps, shell, out⟩
  · have fault := writeFault_trailer (s := s.heard p) (p := p) (cmd := 0xA2) ha (by simpa using hb) hc
    have free : (s.heard p).full p = false := (heard_full s p).trans (full_eq_false hs)
    have ignored := writeFrame_ignored (mk := fun ws => .write f.addr.toNat ws) free fault
    refine ⟨_, onFrame_hears hh ignored, ?_, keeps_note_woken s p p 1 rfl, ?_⟩
    · simpa [State.capture] using noteLink_bit p (b := 1) (by decide) s.dev
    · simp [State.capture, Dev.gRun]

/-! ### Malformed frames and the fallback (03 R83, R84) -/

/-- A frame that is heard and whose header is bad is judged on the machine as it stands. -/
theorem exec_malformedFrame {s : State} {p : Port} (h : s.hears p) (bytes : Bytes) :
    exec (.malformedFrame p bytes) s = .next ((malformed p bytes s).woken p) := by
  simp [exec, execMalformedFrame, h.1, fallback_not_due h.2.2]

/-- An incomplete header, or a wrong complement (03 R83). -/
theorem malformed_badHeader {p : Port} {bytes : Bytes} {s : State}
    (h : bytes.length < 6 ∨ par8 bytes 1 ≠ 255 - par8 bytes 0) : malformed p bytes s = badHeader p s := by
  rcases h with h | h <;> simp [malformed, h]

/-- A good header with a code that Table 03.2 does not have. -/
theorem malformed_unknown {p : Port} {bytes : Bytes} {s : State} (hl : 6 ≤ bytes.length)
    (hc : par8 bytes 1 = 255 - par8 bytes 0) (hu : linkCodes.contains (par8 bytes 0) = false) :
    malformed p bytes s = (s.modPort p (fun x => { x with badHdr := 0, out := [] })).setDev (noteLink p 2 s.dev) := by
  simp only [malformed, Nat.not_lt.2 hl, hc, hu]
  simp

/-- A fallback that is due (03 R84). -/
theorem fallback_due {s : State} {p : Port} (h : 4 ≤ (s.shell.port p).badHdr) (hb : bit (s.hlcfg p) 3 = true) :
    s.fallback p = (s.modPort p (fun x => { x with hlcfg := putFld x.hlcfg 0 2 0, badHdr := 0 })).setDev
      (noteLink p 10 s.dev) := by
  have hb : bit (s.shell.port p).hlcfg 3 = true := hb
  simp [State.fallback, h, hb]

/-- What a fallback leaves of HLCFG: MODE and CRC 0, every other bit as it was. -/
theorem fallback_bit (w : Word) (i : Nat) : (putFld w 0 2 0).getLsbD i = (decide (3 ≤ i) && w.getLsbD i) := by
  by_cases h : i < 32
  · rw [putFld_bit _ _ (by omega) i h]
    by_cases h3 : 3 ≤ i
    · simp [h3, Nat.not_le.2 h3]
    · simp [h3, Nat.le_of_lt_succ (Nat.not_le.1 h3)]
  · rw [BitVec.getLsbD_of_ge _ _ (Nat.not_lt.1 h), BitVec.getLsbD_of_ge _ _ (Nat.not_lt.1 h), Bool.and_false]

/-- Settles O17: a bad header is recorded and counted, an unknown code recorded; a due fallback clears MODE and CRC. -/
theorem badHeadersLeadToFallback : Obligations.BadHeadersLeadToFallback := by
  refine fun p s hs hr => ⟨fun bytes hh hb => ?_, fun bytes hh hl hc hu => ?_, fun h4 hb => ?_⟩
  · refine ⟨_, (exec_malformedFrame hh bytes).trans (by rw [malformed_badHeader hb]), ?_, rfl, ?_⟩
    · simpa [badHeader] using noteLink_bit p (b := 0) (by decide) s.dev
    · exact keeps_note_woken s p p 0 rfl
  · refine ⟨_, (exec_malformedFrame hh bytes).trans (by rw [malformed_unknown hl hc hu]), ?_, rfl, ?_⟩
    · simpa using noteLink_bit p (b := 2) (by decide) s.dev
    · exact keeps_note_woken s p p 2 rfl
  · have hl : (s.fallback p).hlcfg p = putFld (s.hlcfg p) 0 2 0 := by simp [fallback_due h4 hb, State.hlcfg]
    have done : exec (.linkFallback p) s = .next (s.fallback p) := by simp [exec, execLinkFallback, hs]
    refine ⟨_, done, ?_, ?_, fun i => ?_, ?_⟩
    · rw [fallback_due h4 hb]
      exact noteLink_bit p (by decide) s.dev
    · rw [hl, fallback_due h4 hb]
      cases p <;> rfl
    · rw [hl, fallback_bit]
    · rw [fallback_due h4 hb]
      exact keeps_noteLink p 10 s.dev

end Sys2Proof.Machine
end

section
/-!
The OUT record on the link (O15, O16): SKIP consumes it, OUTREAD drives it from the cursor on, its commit moves the
cursor or consumes it.
-/

namespace Sys2Proof.Machine

/-- No address is blocked for a port whose writes reach their registers (12 R301). -/
theorem takes_blocked {s : State} {p : Port} (h : s.takes p) (a : Nat) : s.dev.blocked (some p) a = false := by
  obtain ⟨-, -, -, ht⟩ := h
  cases p
  · simp [Dev.blocked, ht rfl]
  · simp [Dev.blocked]

theorem keeps_modRings (n : Chn) (f : Rings → Rings) (d : Dev) : Keeps [.chans] d (modRings n f d) :=
  keeps_modChan n _ d

/-- The rings of one channel changed, the rest of it and the other channels kept. -/
theorem ChanIs.modRings (n : Chn) (f : Rings → Rings) (d : Dev) :
    ChanIs n (fun c => { c with rings := f c.rings }) d (modRings n f d) := ChanIs.modChan n _ d

/-! ### The record at OUT_HEAD -/

/-- A sealed record at OUT_HEAD, no pad before it, is one that a frame can read or skip. -/
theorem headRec_isSome {r : Rings} {st : Nat} {l : List (Nat × Bool)} (h : r.starts = (st, false) :: l) :
    r.headRec.isSome = true := by
  simp [Rings.headRec, h, dropPads]

/-- A sealed record consumed: HEAD at the next start, or at TAIL (03 R75). -/
theorem consume_sealed {r : Rings} {st : Nat} {l : List (Nat × Bool)} : r.starts = (st, false) :: l →
    r.consume = { r with
      out := { r.out with head := (match l with | (x, _) :: _ => .of x | [] => r.out.tail) }
      starts := l, cursor := 0, recNo := r.recNo + 1 } := by
  intro h
  cases l <;> simp [Rings.consume, h, dropPads]

/-- A consumed record leaves the cursor at 0 and ring memory as it was. -/
theorem consume_cursor {r : Rings} (h : r.headRec.isSome = true) : r.consume.cursor = 0 ∧ r.consume.mem = r.mem := by
  unfold Rings.headRec at h
  unfold Rings.consume
  split at h
  · next e => rw [e]; exact ⟨rfl, rfl⟩
  · exact absurd h (by simp)

/-! ### SKIP (03 R77) -/

/-- The commit of a SKIP of a sealed record. -/
theorem commitSkip_sealed {s : State} {p : Port} {n : Chn} (ht : s.takes p) (hv : s.dev.bound n = p)
    (ha : (s.dev.chan n).state.active = true) (hg : (s.dev.chan n).rings.out.good = true)
    (hr : (s.dev.chan n).rings.headRec.isSome = true) : commitSkip p n s.dev = modRings n Rings.consume s.dev := by
  have good : ((s.dev.chan n).rings.ring .out).good = true := hg
  simp [commitSkip, skipOut, ht.2.2.1, takes_blocked ht, Dev.sees, hv, ha, good, hr]

/-- With no other frame captured, a frame whose effect makes no reset commits within its command and leaves no slot. -/
theorem commitAll_captured {s : State} {p : Port} (hs : (s.shell.port p).slots = []) (hc : s.commits = true)
    {c : Captured} {f : Dev → Dev}
    (hf : ∀ u : State, u.commitCap p ⟨c, !s.dev.gRun⟩ = u.setDev (f u.dev)) (hr : (f s.dev).rst = .none) :
    ∃ t, ((s.heard p).capture p c).commitAll p = t ∧ (t.shell.port p).slots = [] ∧ t.dev = (s.through f).dev := by
  have slots : (((s.heard p).capture p c).shell.port p).slots = [⟨c, !s.dev.gRun⟩] := by
    simp [State.capture, hs]
  have one := commitOne_cons slots
  rw [hf] at one
  have shell := through_shell (s := ((s.heard p).capture p c).modPort p (fun y => { y with slots := [] })) (f := f) hr
  have emptied : ((((s.heard p).capture p c).commitOne p).shell.port p).slots = [] := by
    rw [one, through_setDev, shell]
    simp
  exact ⟨_, commitAll_single hc emptied, emptied, by rw [one]; rfl⟩

/-- Settles O15: the frame is captured alone, so its commit follows at once and consumes the sealed record. -/
theorem skipConsumesSealedRecord : Obligations.SkipConsumesSealedRecord := by
  intro p f s st l hh ht hs ha hlo hhi hb hv hact hg hst
  have rec_ := headRec_isSome hst
  have eff : commitSkip p (addrChn f.addr.toNat) s.dev = modRings (addrChn f.addr.toNat) Rings.consume s.dev :=
    commitSkip_sealed ht hv hact hg rec_
  have ok : (decide (0x100000 ≤ f.addr.toNat) && decide (f.addr.toNat < 0x140000)) = true := by simp [hlo, hhi]
  have free : (s.heard p).full p = false := (heard_full s p).trans (full_eq_false (by simp [hs]))
  have whole := writeFault_whole (s := s.heard p) (p := p) (cmd := 0xB8) (n := 0) ha (Nat.zero_le _) (by simp [hb])
  have captured := writeFrame_captured (mk := fun _ => .skip (addrChn f.addr.toNat)) free whole (Nat.zero_le _)
  obtain ⟨t, ht', slots, dev⟩ := commitAll_captured (c := .skip (addrChn f.addr.toNat)) hs (commits_takes ht)
    (fun _ => rfl) (by rw [eff]; exact hh.2.1)
  have keeps : Keeps [.chans] s.dev t.dev := dev ▸ keeps_const (eff ▸ keeps_modRings _ _ _)
  refine ⟨t.woken p, ?_, slots, (keeps_up keeps).trans (keeps_up (keeps_woken t p)), fun hrun => ?_, ?_, fun m hm => ?_⟩
  · rw [exec_skip hh, ok, captured, ht']
  · have power : t.dev.power = s.dev.power := keeps .power (by decide) (by decide)
    rw [woken_run (power ▸ hrun), power]
  · rw [woken_chan, dev, through_chan, eff, (ChanIs.modRings _ _ _).1]
    exact congrArg (fun r => { s.dev.chan (addrChn f.addr.toNat) with rings := r }) (consume_sealed hst)
  · rw [woken_chan, dev, through_chan, eff, (ChanIs.modRings _ _ _).2 m hm]

/-! ### OUTREAD (03 R75) -/

/-- A word of the sealed record at OUT_HEAD; beyond its last, 0. -/
theorem outWord_sealed {r : Rings} {st k : Nat} (h : r.headRec = some (st, k)) (pos : Nat) :
    r.outWord pos = if pos < k then r.mem.word 0 (r.out.base + st + 4 * pos) else 0 := by
  simp [Rings.outWord, h]

/-- The words of a sealed record from the cursor on, and what the frame captures for its commit. -/
theorem outWords_sealed {n : Chn} {d : Dev} {st k : Nat} (h : (d.chan n).rings.headRec = some (st, k)) (hk : 0 < k)
    (hw : (d.chan n).rings.mem.word 0 ((d.chan n).rings.out.base + st) ≠ 0) (m : Nat) :
    outWords n m d = ((List.range m).map (fun i =>
      if (d.chan n).rings.cursor + i < k then
        (d.chan n).rings.mem.word 0 ((d.chan n).rings.out.base + st + 4 * ((d.chan n).rings.cursor + i))
      else 0), some ((d.chan n).rings.recNo, (d.chan n).rings.cursor, m)) := by
  simpa [outWords, outWord_sealed h, h, hk] using fun _ => hw

/-- In the OUT space of a channel in view, OPEN or DRAINING and its memory on, an OUTREAD reads the record (03 R75). -/
theorem outreadData_open {s : State} {p : Port} {f : ReadFrame} (ht : s.takes p) (hl : f.late = none)
    (ha : f.addr.toNat % 4 = 0) (hlo : 0x100000 ≤ f.addr.toNat) (hhi : f.addr.toNat < 0x140000)
    (hv : s.dev.bound (addrChn f.addr.toNat) = p) (hact : (s.dev.chan (addrChn f.addr.toNat)).state.active = true)
    (hd : s.dev.domOff (44 + (addrChn f.addr.toNat).val) = false) {k : Nat} {ws : List Word}
    {adv : Option (Nat × Nat × Nat)} (hw : outWords (addrChn f.addr.toNat) k s.dev = (ws, adv)) :
    outreadData p f k s = (ws, adv, none) := by
  have inside : (decide (f.addr.toNat < 0x100000) || decide (0x140000 ≤ f.addr.toNat)) = false := by
    simp [Nat.not_lt.2 hlo, Nat.not_le.2 hhi]
  simp only [outreadData, ha, inside, ht.2.2.1, takes_blocked ht, Dev.sees, hv, ht.2.1, hact, hd, hl, hw]
  simp

/-- An OUTREAD that drives every word asked for and records nothing is captured with what it read. -/
theorem outreadFrame_captured {s : State} {p : Port} {a : BitVec 24} {cnt : BitVec 8} {ws : List Word}
    {adv : Option (Nat × Nat × Nat)} (hf : s.full p = false) (hl : cnt.toNat + 1 ≤ ws.length)
    (h : outreadData p ⟨a, cnt, cnt.toNat + 1, none, [], []⟩ (cnt.toNat + 1) s = (ws, adv, none)) :
    outreadFrame p ⟨a, cnt, cnt.toNat + 1, none, [], []⟩ s
      = (s.answer p (driven s p (header 0xB4 a cnt)
          (s.gstat p :: List.replicate (fld (s.hlcfg p) 11 8) 0 ++ ws)) s.dev).capture p (.outread (addrChn a.toNat) adv) := by
  have short := noteShort_clocked (s := s) (p := p) (f := ⟨a, cnt, cnt.toNat + 1, none, [], []⟩) (Nat.le_refl _) s.dev
  simp only [outreadFrame, hf, Nat.min_self, h, short, drives_of_owed hl]
  rfl

/-- The commit of an OUTREAD on a channel that is OPEN or DRAINING, its OUT pointers good. -/
theorem commitOutread_open {s : State} {p : Port} {n : Chn} {no start k : Nat} (ht : s.takes p)
    (ha : (s.dev.chan n).state.active = true) (hg : (s.dev.chan n).rings.out.good = true) :
    commitOutread n (some (no, start, k)) s.dev = match (s.dev.chan n).rings.headRec with
      | none => s.dev
      | some (_, words) =>
        if (s.dev.chan n).rings.recNo != no then s.dev
        else if words ≤ max (s.dev.chan n).rings.cursor (start + k) then modRings n Rings.consume s.dev
        else modRings n (fun r => { r with cursor := max (s.dev.chan n).rings.cursor (start + k) }) s.dev := by
  have good : ((s.dev.chan n).rings.ring .out).good = true := hg
  simp only [commitOutread, ht.2.2.1, ha, good]
  cases (s.dev.chan n).rings.headRec <;> rfl

/-- An effect on the rings of one channel. -/
structure RingsFrame (n : Chn) (d e : Dev) : Prop where
  keeps : Keeps [.chans] d e
  others : OthersKept n d e
  rst : e.rst = d.rst

theorem RingsFrame.refl (n : Chn) (d : Dev) : RingsFrame n d d := ⟨Keeps.refl _ d, fun _ _ => rfl, rfl⟩

theorem RingsFrame.modRings (n : Chn) (f : Rings → Rings) (d : Dev) : RingsFrame n d (modRings n f d) :=
  ⟨keeps_modRings n f d, (ChanIs.modRings n f d).2, rfl⟩

/-- The commit of an OUTREAD changes the rings of its channel alone. -/
theorem commitOutread_frame {s : State} {p : Port} {n : Chn} {no start k : Nat} (ht : s.takes p)
    (ha : (s.dev.chan n).state.active = true) (hg : (s.dev.chan n).rings.out.good = true) :
    RingsFrame n s.dev (commitOutread n (some (no, start, k)) s.dev) := by
  rw [commitOutread_open ht ha hg]
  split
  · exact .refl n s.dev
  · split
    · exact .refl n s.dev
    · split <;> exact .modRings n _ s.dev

/-- OUTREAD_COMMIT of the only captured frame. -/
theorem exec_outreadCommit_single {s : State} {p : Port} {n : Chn} {adv : Option (Nat × Nat × Nat)} {b : Bool}
    (hc : s.commits = true) (hs : (s.shell.port p).slots = [⟨.outread n adv, b⟩]) :
    exec (.outreadCommit p) s
      = .next ((s.modPort p (fun y => { y with slots := [] })).through (commitOutread n adv)) := by
  have one : exec (.outreadCommit p) s = .next (s.commitOne p) := by
    simp [exec, execOutreadCommit, hc, hs, Slot.isOutread]
  rw [one, commitOne_cons hs]
  rfl

/-- Settles O16: the frame reads the sealed record and is captured with what it read; its commit moves the cursor of
that record or consumes it. -/
theorem outreadDrivesRecordAndMovesCursor : Obligations.OutreadDrivesRecordAndMovesCursor := by
  refine ⟨fun p a cnt s st k hh ht hs ha hlo hhi hv hact hd hr hw hk => ?_,
    fun p s n no start k b ht hs hact hg => ?_⟩
  · have data := outreadData_open (s := s.heard p) (f := ⟨a, cnt, cnt.toNat + 1, none, [], []⟩) ht rfl ha hlo hhi hv hact hd
      (outWords_sealed hr hk hw (cnt.toNat + 1))
    have read := outreadFrame_captured ((heard_full s p).trans (full_eq_false hs)) (by simp) data
    simp only [heard_driven, heard_gstat, heard_hlcfg, heard_dev, answer_heard] at read
    refine onFrame_hears hh (read.trans ?_)
    simp only [State.capture, modPort_modPort]
    rfl
  · have frame := commitOutread_frame (no := no) (start := start) (k := k) ht hact hg
    have commit := commitOutread_open (no := no) (start := start) (k := k) ht hact hg
    refine ⟨_, exec_outreadCommit_single (commits_takes ht) hs, ?_, keeps_const (D := _) frame.keeps, frame.others,
      fun st w hr => ?_⟩
    · rw [through_shell (by exact frame.rst.trans ht.1.2)]
      simp
    · rw [hr] at commit
      refine ⟨fun hne => ?_, fun he hlt => ?_, fun he hle => ?_⟩
      · rw [through_chan]
        simp [commit, hne]
      · rw [through_chan]
        simp [commit, he, Nat.not_le.2 hlt, modRings]
      · have consumed : commitOutread n (some (no, start, k)) s.dev = modRings n Rings.consume s.dev := by
          simp [commit, he, hle]
        obtain ⟨cursor, mem⟩ := consume_cursor (r := (s.dev.chan n).rings) (by simp [hr])
        rw [through_chan, modPort_dev, consumed, (ChanIs.modRings n _ s.dev).1]
        exact ⟨rfl, cursor, mem⟩

end Sys2Proof.Machine
end

section
/-!
Committed words (O18, O19): a window word changes one word of its memory, a register write what its table says.
-/

namespace Sys2Proof.Machine

/-! ### The command of a committed word -/

/-- A committed word at a window address that is not blocked. -/
theorem commitWord_window {s : State} {p : Port} {a : Nat} {x : Win} (ht : s.takes p) (hx : winOf a = some x)
    (hb : s.dev.blocked (some p) a = false) (w : Word) :
    s.commitWord (some p) false a w = s.setDev (writeWin (some p) false x w s.dev) := by
  simp [State.commitWord, ht.1.2, ht.2.2.1, hx, hb]

theorem exec_windowWrite {s : State} {p : Port} {a : Nat} {x : Win} (ht : s.takes p) (ha : a % 4 = 0)
    (hx : winOf a = some x) (hb : s.dev.blocked (some p) a = false) (w : Word) :
    exec (.windowWrite p a w) s = .next (s.through (writeWin (some p) false x w)) := by
  have word : exec (.windowWrite p a w) s = .next ((s.commitWord (some p) false a w).through id) := by
    simp [exec, execWindowWrite, onCommit, commits_takes ht, ha, hx]
  rw [word, commitWord_window ht hx hb w]
  rfl

/-- A committed word at a control address in view. -/
theorem commitWord_control {s : State} {p : Port} {a : Nat} (ht : s.takes p) (hx : winOf a = none)
    (hv : s.dev.ctlSeen (some p) a = true) (w : Word) :
    s.commitWord (some p) false a w = s.writeCtl (some p) a w := by
  simp [State.commitWord, ht.1.2, ht.2.2.1, hx, hv]

theorem exec_registerWrite {s : State} {p : Port} {a : Nat} (ht : s.takes p) (ha : a % 4 = 0) (hx : winOf a = none)
    (hv : s.dev.ctlSeen (some p) a = true) (w : Word) :
    exec (.registerWrite p a w) s = .next ((s.writeCtl (some p) a w).through id) := by
  have word : exec (.registerWrite p a w) s = .next ((s.commitWord (some p) false a w).through id) := by
    simp [exec, execRegisterWrite, onCommit, commits_takes ht, ha, hx]
  rw [word, commitWord_control ht hx hv w]

/-- Two effects on one channel. -/
theorem ChanIs.trans {n : Chn} {f g : Chan → Chan} {d e h : Dev} (hf : ChanIs n f d e) (hg : ChanIs n g e h) :
    ChanIs n (fun c => g (f c)) d h :=
  ⟨hg.1.trans (congrArg g hf.1), fun m hm => (hg.2 m hm).trans (hf.2 m hm)⟩

theorem ChanIs.of_chans {n : Chn} {f : Chan → Chan} {d e h : Dev} (is : ChanIs n f e h) (hc : e.chans = d.chans) :
    ChanIs n f d h :=
  ⟨is.1.trans (congrArg f (chan_of hc n)), fun m hm => (is.2 m hm).trans (chan_of hc m)⟩

/-! ### Window words (03 R81; 06 R454; 07 R167) -/

/-- A job that runs, raced where `b` says so (06 R454). -/
def Sentence.race (b : Sentence → Bool) (x : Sentence) : Sentence :=
  { x with job := x.job.map (fun j => { j with raced := j.raced || b x }) }

theorem race_true {b : Sentence → Bool} {x : Sentence} (h : b x = true) :
    x.race b = { x with job := x.job.map (fun j => { j with raced := true }) } := by
  simp [Sentence.race, h]

theorem race_false {b : Sentence → Bool} {x : Sentence} (h : b x = false) : x.race b = x := by
  cases x
  simp [Sentence.race, h]

/-- A word written in ring memory is raced by the clause whose open OUT record it lies in. -/
def Rings.wordInOpen (r : Rings) (off : Nat) (x : Sentence) : Bool :=
  r.openRec.any (fun o => decide (r.out.base + o.start + 4 < off + 4)
    && decide (off < r.out.base + o.start + 4 + o.reserve) && (x.sid == o.sid || x.parent.any (fun q => q.sid == o.sid)))

/-- A host write to a ring word races the clause of the open record there and changes nothing else (06 R454). -/
theorem raceOut_is (n : Chn) (off : Nat) (d : Dev) :
    ChanIs n (fun c => { c with sents := c.sents.map (Sentence.race (c.rings.wordInOpen off)) }) d (raceOut n off d) := by
  have same (h : ∀ x, (d.chan n).rings.wordInOpen off x = false) :
      ChanIs n (fun c => { c with sents := c.sents.map (Sentence.race (c.rings.wordInOpen off)) }) d d := by
    refine ⟨?_, fun _ _ => rfl⟩
    have kept : (d.chan n).sents.map (Sentence.race ((d.chan n).rings.wordInOpen off)) = (d.chan n).sents :=
      (List.map_congr_left fun x _ => race_false (h x)).trans (List.map_id _)
    simp only [kept]
  simp only [raceOut]
  split
  · next hn => exact same fun x => by simp [Rings.wordInOpen, hn]
  · next o ho =>
    split
    · next hin =>
      refine ⟨?_, fun m hm => chan_modChan_other hm _ d⟩
      rw [chan_modChan_same]
      refine congrArg (fun l => { d.chan n with sents := l }) (List.map_congr_left fun x _ => ?_)
      have inside : (d.chan n).rings.wordInOpen off x = (x.sid == o.sid || x.parent.any (fun q => q.sid == o.sid)) := by
        simp only [Rings.wordInOpen, ho, Option.any_some]
        rw [hin, Bool.true_and]
      split
      · next hx => exact (race_true (inside.trans hx)).symm
      · next hx => exact (race_false (inside.trans (Bool.eq_false_iff.2 hx))).symm
    · next hout =>
      refine same fun x => ?_
      simp only [Rings.wordInOpen, ho, Option.any_some]
      rw [Bool.eq_false_iff.2 hout, Bool.false_and]

theorem raceOut_keeps (n : Chn) (off : Nat) (d : Dev) :
    Keeps [.chans] d (raceOut n off d) ∧ (raceOut n off d).rst = d.rst := by
  simp only [raceOut]
  split
  · exact ⟨Keeps.refl _ d, rfl⟩
  · split
    · exact ⟨keeps_modChan n _ d, rfl⟩
    · exact ⟨Keeps.refl _ d, rfl⟩

/-- A host write to a pool word races the clauses that name a range over it, of the buffer's channel (06 R454). -/
theorem raceWord_is (n : Chn) (off : Nat) (d : Dev) :
    ChanIs n (fun c => { c with sents := (c.sents.map
      (Sentence.race (fun x => (x.clauses[x.idx]?).any (fun k => k.covers off)))) }) d (raceWord n off d) := by
  refine ⟨?_, fun m hm => chan_modChan_other hm _ d⟩
  rw [raceWord, chan_modChan_same]
  refine congrArg (fun l => { d.chan n with sents := l }) (List.map_congr_left fun x _ => ?_)
  split
  · next k hk =>
    split
    · next hc => exact (race_true (by simp [hk, hc])).symm
    · next hc => exact (race_false (by simp [hk, hc])).symm
  · next hk => exact (race_false (by simp [hk])).symm

theorem keeps_writePool (off : Nat) (bs : Bytes) (d : Dev) : Keeps [.pool] d (writePool off bs d) := by
  intro q hq _
  cases q <;> simp [Part.same] at hq ⊢

/-- A word written reads back, and no other byte changes. -/
theorem wrote_write {m : Mem} (h : Mem.wf 0 m = true) (a : Nat) (bs : Bytes) : Wrote m (m.write 0 a bs) a bs :=
  ⟨fun _ _ hb => Mem.get_write_same h hb, fun _ hx => Mem.get_write_other h hx⟩

/-- A word of ring memory of a channel in view, OPEN or DRAINING, its memory on. -/
theorem writeWin_ring {p : Port} {n : Chn} {off : Nat} {d : Dev} (hv : d.bound n = p)
    (ha : (d.chan n).state.active = true) (hd : d.domOff (44 + n.val) = false) (w : Word) :
    writeWin (some p) false (.ring n off) w d
      = raceOut n off (modRings n (fun r => { r with mem := r.mem.setWord 0 off w }) d) := by
  simp [writeWin, Dev.sees, hv, ha, hd]

/-- A word of the pool in a LIVE buffer of a channel bound to the port, its bank on. -/
theorem writeWin_pool {p : Port} {n : Chn} {off : Nat} {d : Dev} (hh : d.poolHit p off = .served n)
    (hd : d.domOff (60 + off / 65536) = false) (w : Word) :
    writeWin (some p) false (.pool off) w d = raceWord n off (writePool off (wordBytes w) d) := by
  simp [writeWin, Dev.poolMeets, hh, hd]

/-- A word of ring or stream memory in view whose domain is off (03 R81). -/
theorem writeWin_off {p : Port} {n : Chn} {off : Nat} {x : Win} {d : Dev} (hv : d.bound n = p)
    (h : x = .ring n off ∧ d.domOff (44 + n.val) = true
      ∨ x = .stream n off ∧ d.domOff (92 + 2 * n.val + off / 0x2000) = true) (w : Word) :
    writeWin (some p) false x w d = noteLink p 9 d := by
  rcases h with ⟨rfl, hd⟩ | ⟨rfl, hd⟩ <;> simp [writeWin, Dev.sees, hv, hd, noteVia]

/-- Settles O18: the window's memory takes the word, the clause it meets is raced, and nothing else changes. -/
theorem windowWriteWritesOneWord : Obligations.WindowWriteWritesOneWord := by
  refine fun p a w s ht ha hb => ⟨fun n off hx hv hact hd hwf => ?_, fun n off hx hh hd hwf => ?_, fun n off hv hx => ?_⟩
  · have eff := writeWin_ring hv hact hd w (off := off)
    have is := (ChanIs.modRings n (fun r => { r with mem := r.mem.setWord 0 off w }) s.dev).trans (raceOut_is n off _)
    have kept := raceOut_keeps n off (modRings n (fun r => { r with mem := r.mem.setWord 0 off w }) s.dev)
    rw [← eff] at is kept
    have is := ChanIs.through (f := writeWin (some p) false (.ring n off) w) is
    refine ⟨_, exec_windowWrite ht ha hx hb w, through_same (by rw [kept.2, modRings_rst, ht.1.2]),
      keeps_const ((keeps_modRings n _ s.dev).trans kept.1), is.2, ⟨_, _, is.1⟩, ?_, ?_⟩
    · rw [is.1]
      rfl
    · rw [is.1]
      exact wrote_write hwf off (wordBytes w)
  · have eff := writeWin_pool hh hd w
    have is := (raceWord_is n off (writePool off (wordBytes w) s.dev)).of_chans (writePool_chans off (wordBytes w) s.dev)
    have kept : Keeps [.chans, .pool] s.dev (raceWord n off (writePool off (wordBytes w) s.dev)) :=
      (keeps_up (keeps_writePool off (wordBytes w) s.dev)).trans (keeps_up (keeps_modChan n _ _))
    rw [← eff] at is kept
    have is := ChanIs.through (f := writeWin (some p) false (.pool off) w) is
    refine ⟨_, exec_windowWrite ht ha hx hb w, through_same (by rw [eff, raceWord, modChan_rst, writePool_rst, ht.1.2]),
      keeps_const kept, is.2,
      ⟨_, is.1⟩, ?_, ?_⟩
    · rw [is.1]
      rfl
    · rw [through_pool, eff]
      exact ⟨rfl, rfl, rfl, wrote_write hwf off (wordBytes w)⟩
  · obtain ⟨x, hw, eff⟩ : ∃ x, winOf a = some x ∧ writeWin (some p) false x w s.dev = noteLink p 9 s.dev := by
      rcases hx with ⟨hx, hd⟩ | ⟨hx, hd⟩
      · exact ⟨_, hx, writeWin_off hv (.inl ⟨rfl, hd⟩) w⟩
      · exact ⟨_, hx, writeWin_off hv (.inr ⟨rfl, hd⟩) w⟩
    refine ⟨_, exec_windowWrite ht ha hw hb w, through_same ?_, ?_, keeps_const ?_⟩
    · rw [eff, noteLink_rst, ht.1.2]
    · rw [through_trouble, eff]
      exact noteLink_bit p (by decide) s.dev
    · rw [eff]
      exact keeps_noteLink p 9 s.dev

/-! ### HLCFG (03 R59) -/

/-- The bits of HLCFG that a port's write reaches (03 Table 03.7). -/
def hlcfgMask : Port → Word
  | .A => 0x00FF0F0F
  | .B => 0x00000F0F

/-- LAT and MODE in bounds: the write is taken as it comes. -/
theorem hlcfgMerge_inBounds {w : Word} (hl : fld w 11 8 ≤ 8) (hm : fld w 1 0 ≤ 1) (p : Port) (old : Word) :
    hlcfgMerge p old w = (w &&& hlcfgMask p, false) := by
  cases p <;> simp [hlcfgMerge, keepIf, hlcfgMask, Nat.not_lt.2 hl, Nat.not_lt.2 hm]

/-- LAT or MODE reserved: the write is noted. -/
theorem hlcfgMerge_reserved {w : Word} (h : 8 < fld w 11 8 ∨ 1 < fld w 1 0) (p : Port) (old : Word) :
    (hlcfgMerge p old w).2 = true := by
  by_cases hl : 8 < fld w 11 8
  · simp [hlcfgMerge, keepIf, hl]
  · simp [hlcfgMerge, keepIf, hl, h.resolve_left hl]

theorem keepIf_bit (bad : Bool) {hi lo i : Nat} (h : lo ≤ hi) (hi32 : i < 32) (old : Word) (r : Word × Bool) :
    (keepIf bad hi lo old r).1.getLsbD i = if bad = true ∧ lo ≤ i ∧ i ≤ hi then old.getLsbD i else r.1.getLsbD i := by
  cases bad
  · simp [keepIf]
  · simp [keepIf, putFld_bit _ _ h i hi32]

/-- A reserved field keeps its old bits, every other bit is the write's. -/
theorem hlcfgMerge_bit (p : Port) (old w : Word) {i : Nat} (hi : i < 32) :
    (hlcfgMerge p old w).1.getLsbD i =
      if (8 ≤ i ∧ i ≤ 11 ∧ 8 < fld w 11 8) ∨ (i ≤ 1 ∧ 1 < fld w 1 0) then old.getLsbD i
      else (w &&& hlcfgMask p).getLsbD i := by
  have merge : hlcfgMerge p old w
      = keepIf (8 < fld w 11 8) 11 8 old (keepIf (1 < fld w 1 0) 1 0 old (w &&& hlcfgMask p, false)) := by
    cases p <;> rfl
  rw [merge, keepIf_bit _ (by decide) hi, keepIf_bit _ (by decide) hi]
  simp only [decide_eq_true_eq]
  grind

/-- HLCFG is in the view of both ports. -/
theorem ctlSeen_hlcfg {s : State} {p : Port} (ht : s.takes p) : s.dev.ctlSeen (some p) 0x01C = true := by
  cases p <;> simp [Dev.ctlSeen, takes_blocked ht, portBSees]

theorem exec_hlcfgWrite {s : State} {p : Port} (ht : s.takes p) (w : Word) :
    exec (.hlcfgWrite p w) s = .next ((s.writeHl p w).through id) := by
  have word : exec (.hlcfgWrite p w) s = .next ((s.commitWord (some p) false 0x01C w).through id) := by
    simp [exec, execHlcfgWrite, onCommit, commits_takes ht]
  rw [word, commitWord_control ht (by decide) (ctlSeen_hlcfg ht) w]
  rfl

/-! ### Registers (04 R91–R93; 03 R62) -/

/-- No window lies below the ring memory. -/
theorem winOf_low {a : Nat} (h : a < 0x100000) : winOf a = none := by
  unfold winOf
  rw [if_neg, if_neg, if_neg, if_neg] <;> omega

/-- A port A register below 0x1000 other than HLCFG takes its page's write. -/
theorem exec_registerWrite_page {s : State} {a : Nat} (ht : s.takes .A) (ha : a % 4 = 0) (hl : a < 0x1000)
    (hh : a ≠ 0x01C) (w : Word) : exec (.registerWrite .A a w) s = .next (s.through (writePage a w)) := by
  have outside : winOf a = none := winOf_low (by omega)
  have seen : s.dev.ctlSeen (some .A) a = true := by
    have low : ¬ (0x10000 ≤ a ∧ a < 0x20000) := by omega
    simp [Dev.ctlSeen, takes_blocked ht, low]
  rw [exec_registerWrite ht ha outside seen w]
  simp [State.writeCtl, hh, hl]
  rfl

/-- A register of the page of a channel takes a write of the port the channel is bound to. -/
theorem exec_registerWrite_chan {s : State} {n : Chn} {off : Nat} (ht : s.takes (s.dev.bound n)) (ha : off % 4 = 0)
    (ho : off < 0x1000) (w : Word) : exec (.registerWrite (s.dev.bound n) (0x10000 + 0x1000 * n.val + off) w) s
      = .next (s.through (writeChan (s.dev.bound n) n off w)) := by
  have hn := n.isLt
  have outside : winOf (0x10000 + 0x1000 * n.val + off) = none := winOf_low (by omega)
  have page : chn ((0x10000 + 0x1000 * n.val + off) / 0x1000) = n := Fin.ext (by simp only [chn]; omega)
  have place : (0x10000 + 0x1000 * n.val + off) % 0x1000 = off := by omega
  have region : 0x10000 ≤ 0x10000 + 0x1000 * n.val + off ∧ 0x10000 + 0x1000 * n.val + off < 0x20000 := by omega
  have seen : s.dev.ctlSeen (some (s.dev.bound n)) (0x10000 + 0x1000 * n.val + off) = true := by
    simp only [Dev.ctlSeen, takes_blocked ht, if_pos region, page, Dev.sees]
    simp
  rw [exec_registerWrite ht (by omega) outside seen w]
  simp only [State.writeCtl, if_pos region, page, place]
  rw [if_neg (by omega), if_neg (by omega)]
  rfl

/-- A sticky register taken by its number. -/
theorem writeGlobal_sticky {k : Nat} (hk : k < 4) (w : Word) (d : Dev) :
    writePage (0x030 + 4 * k) w d = writeSticky k w d := by
  have ix : setIx (0x030 + 4 * k) 0x030 = k := by simp only [setIx]; omega
  have member : inWords (0x030 + 4 * k) 0x030 4 = true := by simp [inWords]; omega
  simp only [writePage, writeGlobal, member, ix]
  rw [if_pos (by omega), if_neg (by omega), if_neg (by omega)]
  rfl

theorem keeps_trouble (t : Trouble) (d : Dev) : Keeps [.trouble] d { d with trouble := t } := by
  intro q hq _
  cases q <;> simp [Part.same] at hq ⊢

/-- Settles O19: HLCFG takes the fields that are not reserved; the masks, the sticky registers and CH_STICKY take their
word; a hole takes none. -/
theorem registerWritesTakeEffect : Obligations.RegisterWritesTakeEffect := by
  refine ⟨fun p w s ht => ⟨fun hl hm => ?_, fun hres => ?_⟩, fun w s ht => ⟨?_, ?_, fun k hk => ?_, ?_⟩,
    fun n w s ht => ?_⟩
  · have taken : s.writeHl p w = s.modPort p (fun x => { x with hlcfg := w &&& hlcfgMask p }) := by
      simp only [State.writeHl, hlcfgMerge_inBounds hl hm]
      rfl
    refine ⟨_, exec_hlcfgWrite ht w, ?_, ?_, ?_⟩
    · rw [taken]
      rfl
    · rw [taken]
      exact Keeps.through (Keeps.refl _ s.dev)
    · rw [taken, through_shell (by exact ht.1.2)]
      cases p <;> rfl
  · have dev : (s.writeHl p w).dev = noteLink p 12 s.dev := by
      simp [State.writeHl, hlcfgMerge_reserved hres, noteIf]
    have shell : ((s.writeHl p w).through id).shell
        = s.shell.mod p (fun x => { x with hlcfg := (hlcfgMerge p (s.hlcfg p) w).1 }) :=
      through_shell (by rw [id, dev, noteLink_rst, ht.1.2])
    have hl : ((s.writeHl p w).through id).hlcfg p = (hlcfgMerge p (s.hlcfg p) w).1 := by
      rw [State.hlcfg, shell, Shell.port_mod_same]
    refine ⟨_, exec_hlcfgWrite ht w, ?_, ?_, by rw [shell, hl], fun i hi => ?_⟩
    · rw [through_trouble, id, dev]
      exact noteLink_bit p (by decide) s.dev
    · exact (dev ▸ keeps_noteLink p 12 s.dev : Keeps _ s.dev (s.writeHl p w).dev).trans
        (Keeps.through (Keeps.refl _ (s.writeHl p w).dev))
    · rw [hl, hlcfgMerge_bit p _ w hi]
      cases p <;> rfl
  · exact ⟨_, exec_registerWrite_page ht (by decide) (by decide) (by decide) w, through_same ht.1.2,
      keeps_const (D := _) (keeps_trouble _ s.dev), rfl⟩
  · exact ⟨_, exec_registerWrite_page ht (by decide) (by decide) (by decide) w, through_same ht.1.2,
      keeps_const (D := _) (keeps_trouble _ s.dev), rfl⟩
  · have eff := writeGlobal_sticky hk w s.dev
    refine ⟨_, exec_registerWrite_page ht (by omega) (by omega) (by omega) w, through_same (by rw [eff]; exact ht.1.2),
      keeps_const (by rw [eff]; exact keeps_trouble _ s.dev), ?_⟩
    rw [through_trouble, eff]
    simp [writeSticky]
  · exact ⟨_, exec_registerWrite_page ht (by decide) (by decide) (by decide) w, through_same ht.1.2,
      keeps_const (D := _) (Keeps.refl _ s.dev)⟩
  · have is := ChanIs.modChan n (fun c => { c with sticky := c.sticky &&& ~~~w }) s.dev
    have done := exec_registerWrite_chan (off := 8) ht (by decide) (by decide) w
    rw [show 0x10000 + 0x1000 * n.val + 8 = 0x10008 + 0x1000 * n.val by omega] at done
    have keeps : Keeps [.chans] s.dev (writeChan (s.dev.bound n) n 8 w s.dev) :=
      keeps_modChan n (fun c => { c with sticky := c.sticky &&& ~~~w }) s.dev
    exact ⟨_, done, through_same ht.1.2, keeps_const keeps, ChanIs.through is⟩

/-! ### The state after reset (O5, O6) and a step of a command (O1) -/

/-- Settles O1: a step takes the front command. -/
theorem stepRunsFrontCommand : Obligations.StepRunsFrontCommand := fun _ _ _ => rfl

/-- Settles O5: both shells are fresh and no reset waits. -/
theorem resetStateIsLegal : Obligations.ResetStateIsLegal :=
  (State.legal_iff _).2 ⟨fun p => by cases p <;> exact PortShell.fresh_legal, rfl⟩

theorem trouble_fresh_g (k : Nat) : Trouble.fresh.g k = 0 := by
  unfold Trouble.g
  split <;> rfl

theorem reset_chan (n : Chn) : State.reset.dev.chan n = Chan.fresh := Vector.getElem_replicate ..

/-- Settles O6: each part of the state after reset is its fresh value. -/
theorem resetStateHoldsSpecValues : Obligations.ResetStateHoldsSpecValues := by
  refine ⟨rfl, fun p => ?_, rfl, rfl, trouble_fresh_g, rfl, fun n => ?_, rfl, rfl, rfl, rfl⟩
  · cases p <;> exact ⟨rfl, rfl⟩
  · rw [reset_chan]
    exact ⟨rfl, rfl⟩

end Sys2Proof.Machine
end

section
/-!
READ and STATUS leave what a host can write (O11): one relation for what a read may do to the core, kept by each record
and each window word, and by a whole frame.
-/

namespace Sys2Proof.Machine

/-! ### What a read may change (03 R57) -/

/-- What a read leaves of the core: it may add to the sticky bits, the journal queue and the FAULT24 stamps, to
CH_STICKY, to the pool words known broken, and ask the gate for a page. -/
structure ReadFrameOf (d e : Dev) : Prop where
  keeps : Keeps [.trouble, .journal, .chans, .pool, .gate] d e
  masks : e.trouble.maskA = d.trouble.maskA ∧ e.trouble.maskB = d.trouble.maskB
  journal : e.journal.jsel = d.journal.jsel ∧ e.journal.jstat = d.journal.jstat ∧ e.journal.jent = d.journal.jent
    ∧ e.journal.jnewest = d.journal.jnewest ∧ e.journal.seconds = d.journal.seconds
  chan : ∀ n, ∃ w, e.chan n = { d.chan n with sticky := w }
  pool : e.pool.mem = d.pool.mem ∧ e.pool.bufs = d.pool.bufs ∧ e.pool.gens = d.pool.gens ∧ e.pool.dirty = d.pool.dirty
  gate : e.gate.digests = d.gate.digests ∧ e.gate.ver = d.gate.ver ∧ e.gate.page = d.gate.page

theorem ReadFrameOf.refl (d : Dev) : ReadFrameOf d d :=
  ⟨Keeps.refl _ d, ⟨rfl, rfl⟩, ⟨rfl, rfl, rfl, rfl, rfl⟩, fun _ => ⟨_, rfl⟩, ⟨rfl, rfl, rfl, rfl⟩, ⟨rfl, rfl, rfl⟩⟩

theorem ReadFrameOf.trans {d e f : Dev} (h : ReadFrameOf d e) (g : ReadFrameOf e f) : ReadFrameOf d f := by
  obtain ⟨hk, ⟨ha, hb⟩, ⟨j1, j2, j3, j4, j5⟩, hc, ⟨p1, p2, p3, p4⟩, ⟨g1, g2, g3⟩⟩ := h
  obtain ⟨hk', ⟨ha', hb'⟩, ⟨j1', j2', j3', j4', j5'⟩, hc', ⟨p1', p2', p3', p4'⟩, ⟨g1', g2', g3'⟩⟩ := g
  refine ⟨hk.trans hk', ⟨ha'.trans ha, hb'.trans hb⟩,
    ⟨j1'.trans j1, j2'.trans j2, j3'.trans j3, j4'.trans j4, j5'.trans j5⟩, fun n => ?_,
    ⟨p1'.trans p1, p2'.trans p2, p3'.trans p3, p4'.trans p4⟩, ⟨g1'.trans g1, g2'.trans g2, g3'.trans g3⟩⟩
  obtain ⟨w, hw⟩ := hc n
  obtain ⟨w', hw'⟩ := hc' n
  exact ⟨w', by rw [hw', hw]⟩

/-! ### The records -/

/-- A change of the sticky registers, HEALTH's counts and the stamps. -/
theorem ReadFrameOf.trouble {t : Trouble} {d : Dev} (ha : t.maskA = d.trouble.maskA) (hb : t.maskB = d.trouble.maskB) :
    ReadFrameOf d { d with trouble := t } :=
  { ReadFrameOf.refl d with keeps := keeps_up (keeps_trouble t d), masks := ⟨ha, hb⟩ }

theorem setG_masks (t : Trouble) (k : Nat) (w : Word) : (t.setG k w).maskA = t.maskA ∧ (t.setG k w).maskB = t.maskB := by
  unfold Trouble.setG
  split <;> exact ⟨rfl, rfl⟩

theorem ReadFrameOf.queueEntry (e : JEntry) (d : Dev) : ReadFrameOf d (queueEntry e d) := by
  refine ⟨keeps_up (keeps_queueEntry e d), ?_, ?_, fun n => ⟨(d.chan n).sticky, ?_⟩, ?_, ?_⟩
  · rcases queueEntry_g e d with h | h <;> rw [h] <;> exact ⟨rfl, rfl⟩
  · unfold Machine.queueEntry
    split <;> exact ⟨rfl, rfl, rfl, rfl, rfl⟩
  · rw [chan_of (queueEntry_chans e d)]
  · rw [queueEntry_pool]
    exact ⟨rfl, rfl, rfl, rfl⟩
  · rw [queueEntry_gate]
    exact ⟨rfl, rfl, rfl⟩

theorem ReadFrameOf.entered {d d' : Dev} (h : ReadFrameOf d d') (e : JEntry) :
    ReadFrameOf d (Machine.queueEntry e d') := h.trans (.queueEntry e d')

theorem ReadFrameOf.noteGx (k b e : Nat) (w : Word) (d : Dev) : ReadFrameOf d (noteGx k b e w d) := by
  unfold Machine.noteGx
  split
  · exact .refl d
  · obtain ⟨ha, hb⟩ := setG_masks d.trouble k (setBit (d.trouble.g k) b)
    exact .entered (.trouble ha hb) _

theorem ReadFrameOf.noteLink (p : Port) (b : Nat) (d : Dev) : ReadFrameOf d (noteLink p b d) :=
  (ReadFrameOf.noteGx 0 b 0 0 d).trans (.noteGx 0 _ 0 0 _)

theorem ReadFrameOf.noteVia (v : Via) (b : Nat) (d : Dev) : ReadFrameOf d (noteVia v b d) := by
  cases v with
  | none => exact .refl d
  | some p => exact .noteLink p b d

theorem ReadFrameOf.noteCh (n : Chn) (b e : Nat) (w : Word) (d : Dev) : ReadFrameOf d (noteCh n b e w d) := by
  unfold Machine.noteCh
  split
  · exact .refl d
  · refine .entered ?_ _
    refine { ReadFrameOf.refl d with keeps := keeps_up (keeps_modChan n _ d), chan := fun m => ?_ }
    by_cases h : m = n
    · exact ⟨_, by rw [h, chan_modChan_same]⟩
    · exact ⟨(d.chan m).sticky, by rw [chan_modChan_other h]⟩

theorem ReadFrameOf.raiseWhy (b e : Nat) (d : Dev) : ReadFrameOf d (raiseWhy b e d) := by
  unfold Machine.raiseWhy
  split
  · exact .refl d
  · refine .entered ?_ _
    exact .trouble rfl rfl

theorem ReadFrameOf.judgeFault24 (b : Nat) (d : Dev) : ReadFrameOf d (judgeFault24 b d) := by
  unfold Machine.judgeFault24
  split
  · exact .raiseWhy 4 0 d
  · exact .refl d

theorem ReadFrameOf.stampFault (d : Dev) : ReadFrameOf d (stampFault d) := by
  refine ReadFrameOf.trans ?_ (.judgeFault24 _ _)
  exact .trouble rfl rfl

theorem ReadFrameOf.noteUncorrectable (o : Option Chn) (e : Nat) (w : Word) (d : Dev) :
    ReadFrameOf d (noteUncorrectable o e w d) := by
  refine (ReadFrameOf.noteGx 2 8 e w d).trans ?_
  cases o with
  | none => exact .stampFault _
  | some n => exact (ReadFrameOf.noteCh n 7 e _ _).trans (.stampFault _)

theorem ReadFrameOf.noteCorrected (d : Dev) : ReadFrameOf d (noteCorrected d) := by
  refine ReadFrameOf.trans ?_ (.noteGx 2 7 0 0 _)
  exact .trouble rfl rfl

/-! ### Window words -/

theorem ReadFrameOf.markBroken (off : Nat) (d : Dev) : ReadFrameOf d (markBroken off d) := by
  unfold Machine.markBroken
  split
  · exact .refl d
  · refine { ReadFrameOf.refl d with keeps := fun q hq _ => ?_, pool := ⟨rfl, rfl, rfl, rfl⟩ }
    cases q <;> simp [Part.same] at hq ⊢

/-- The gate's state but for its table, its version and the page a host asked for. -/
theorem ReadFrameOf.modGate {f : Gate → Gate} {d : Dev} (h : (f d.gate).digests = d.gate.digests
    ∧ (f d.gate).ver = d.gate.ver ∧ (f d.gate).page = d.gate.page) : ReadFrameOf d (modGate f d) := by
  refine { ReadFrameOf.refl d with keeps := fun q hq _ => ?_, gate := h }
  cases q <;> simp [Part.same] at hq ⊢

theorem ReadFrameOf.requestPage (k : Nat) (d : Dev) : ReadFrameOf d (requestPage k d) := by
  refine ReadFrameOf.modGate ?_
  split <;> exact ⟨rfl, rfl, rfl⟩

theorem ReadFrameOf.readBoot (off : Nat) (d : Dev) : ReadFrameOf d (readBoot off d).2.2 := by
  simp only [Machine.readBoot]
  split
  · exact .refl d
  · split
    · dsimp only
      refine ReadFrameOf.modGate ?_
      exact ⟨rfl, rfl, rfl⟩
    · refine ReadFrameOf.trans ?_ (.requestPage _ _)
      exact .modGate ⟨rfl, rfl, rfl⟩

theorem ReadFrameOf.takeWord (v : Via) (stop : Bool) (dom : Nat) (n : Chn) (u : WordLuck) (w : Word) (d : Dev) :
    ReadFrameOf d (takeWord v stop dom n u w d).2 := by
  unfold Machine.takeWord
  split
  · exact .noteVia v 9 d
  · split
    · exact .noteVia v 8 d
    · split
      · exact .noteUncorrectable (some n) 0 0 d
      · simp only
        split
        · exact .noteCorrected d
        · exact .refl d

/-- A word of ring or stream memory: beyond the view, of a memory that is off, of a channel that is not open, or read. -/
theorem ReadFrameOf.channelWord (v : Via) (unseen off_ dead : Bool) (r : Word × Dev) {d : Dev} (h : ReadFrameOf d r.2) :
    ReadFrameOf d (if unseen then ((0 : Word), Machine.noteVia v 6 d, false)
      else if off_ then (0, Machine.noteVia v 9 d, false)
      else if dead then (0, d, false)
      else (r.1, r.2, false)).2.1 := by
  split
  · exact .noteVia v 6 d
  · split
    · exact .noteVia v 9 d
    · split
      · exact .refl d
      · exact h

theorem ReadFrameOf.readWin (v : Via) (stop : Bool) (u : WordLuck) (x : Win) (d : Dev) :
    ReadFrameOf d (readWin v stop u x d).2.1 := by
  cases x with
  | ring n off => exact .channelWord v _ _ _ _ (.takeWord ..)
  | stream n off => exact .channelWord v _ _ _ _ (.takeWord ..)
  | pool off =>
    simp only [Machine.readWin]
    split
    · exact .noteVia v 9 d
    · split
      · exact .noteVia v 6 d
      · exact .refl d
      · simp only
        split
        · exact (ReadFrameOf.takeWord ..).trans (.markBroken off _)
        · exact .takeWord ..
  | boot off =>
    simp only [Machine.readWin]
    split
    · exact .noteVia v 6 d
    · split
      · exact .noteVia v 9 d
      · split
        · exact .noteVia v 8 d
        · exact .readBoot off d

/-! ### Frames -/

theorem ReadFrameOf.readWords (p : Port) (f : ReadFrame) (stop : Bool) (lim k : Nat) :
    ∀ (i : Nat) (dead : Bool) (d : Dev), ReadFrameOf d (readWords p f stop lim k i dead d).2 := by
  induction k with
  | zero => exact fun _ _ d => .refl d
  | succ k ih =>
    intro i dead d
    simp only [Machine.readWords]
    refine ReadFrameOf.trans ?_ (ih _ _ _)
    split
    · exact .noteLink p 5 d
    · split
      · exact .refl d
      · split
        · exact .noteLink p 6 d
        · split
          · exact .refl d
          · split
            · exact .readWin _ _ _ _ d
            · exact .refl d

theorem ReadFrameOf.noteCtl (p : Port) (lim a : Nat) (d : Dev) : ReadFrameOf d (noteCtl p lim a d) := by
  unfold Machine.noteCtl
  split_ifs
  · exact .noteLink p 5 d
  · exact .refl d
  · exact .refl d
  · exact .noteLink p 6 d

theorem ReadFrameOf.ctlWords (s : State) (p : Port) (f : ReadFrame) (lim n : Nat) :
    ReadFrameOf s.dev (ctlWords s p f lim n).2 :=
  List.foldlRecOn (motive := fun d : Dev => ReadFrameOf s.dev d) _ _ (.refl s.dev)
    (fun d hd a _ => hd.trans (.noteCtl p lim a d))

theorem ReadFrameOf.noteShort (s : State) (p : Port) (f : ReadFrame) (d : Dev) : ReadFrameOf d (noteShort s p f d) := by
  unfold Machine.noteShort
  split
  · exact .noteLink p 4 d
  · exact .refl d

/-- What a read-class frame of port `p` leaves of the machine. -/
structure ReadLeaves (p : Port) (s t : State) : Prop where
  dev : ReadFrameOf s.dev t.dev
  slots : ∀ q, (t.shell.port q).slots = (s.shell.port q).slots
  hlcfg : (s.shell.port p).badHdr < 4 → ∀ q, t.hlcfg q = s.hlcfg q

theorem ReadLeaves.trans {p : Port} {s t u : State} (h : ReadLeaves p s t) (g : ReadLeaves p t u)
    (hb : (s.shell.port p).badHdr < 4 → (t.shell.port p).badHdr < 4) : ReadLeaves p s u :=
  ⟨h.dev.trans g.dev, fun q => (g.slots q).trans (h.slots q), fun h4 q => (g.hlcfg (hb h4) q).trans (h.hlcfg h4 q)⟩

theorem ReadLeaves.answer {p : Port} {s : State} {d : Dev} (h : ReadFrameOf s.dev d) (ws : List Word) :
    ReadLeaves p s (s.answer p ws d) :=
  ⟨h, Shell.mod_field PortShell.slots rfl, fun _ => Shell.mod_field PortShell.hlcfg rfl⟩

theorem ReadLeaves.readFrame (p : Port) (f : ReadFrame) (s : State) : ReadLeaves p s (readFrame p f s) := by
  simp only [Machine.readFrame]
  split
  · exact .answer (.noteLink p 3 s.dev) _
  · refine .answer (ReadFrameOf.trans ?_ (.noteShort s p f _)) _
    split
    · exact .readWords ..
    · exact .ctlWords ..

theorem ReadLeaves.statusFrame (p : Port) (f : ReadFrame) (s : State) : ReadLeaves p s (statusFrame p f s) := by
  refine .answer ?_ _
  split
  · exact .noteLink p 4 s.dev
  · exact .refl s.dev

/-- A due fallback changes HLCFG of its port and its count of bad headers, and records MODEFB. -/
theorem ReadLeaves.fallback (p : Port) (s : State) : ReadLeaves p s (s.fallback p) := by
  simp only [State.fallback]
  split
  · next h =>
    refine ⟨.noteLink p 10 s.dev, Shell.mod_field PortShell.slots rfl, fun h4 => ?_⟩
    simp [Nat.not_le.2 h4] at h
  · exact ⟨.refl s.dev, fun _ => rfl, fun _ _ => rfl⟩

theorem ReadLeaves.heard (p : Port) (s : State) : ReadLeaves p s (s.heard p) :=
  ⟨.refl s.dev, heard_slots s p, fun _ => heard_hlcfg s p⟩

/-- The frame itself, before its CS# edge wakes. -/
theorem ReadLeaves.frame {p : Port} {s : State} {f : State → State} (h : ∀ u, ReadLeaves p u (f u)) :
    ReadLeaves p s (f ((s.fallback p).heard p)) := by
  have count : (((s.fallback p).heard p).shell.port p).badHdr < 4 := by simp [State.heard]
  refine ((ReadLeaves.fallback p s).trans (.heard p _) fun h4 => ?_).trans (h _) fun _ => count
  rwa [fallback_not_due h4]

/-- What the edge of CS# may add to a frame: of the power controller alone, and nothing in RUN (R69, 16 R386). -/
structure EdgeWakes (u t : State) : Prop where
  keeps : Keeps [.power] u.dev t.dev
  shell : t.shell = u.shell
  power : ∃ st w k ds, t.dev.power = { u.dev.power with st := st, wakeStat := w, woken := k, doms := ds }
  run : u.dev.power.st = .run → t.dev.power = u.dev.power

theorem EdgeWakes.woken (u : State) (p : Port) : EdgeWakes u (u.woken p) :=
  ⟨keeps_woken u p, rfl, wakes_power _ _, fun h => congrArg Dev.power (woken_run h p)⟩

theorem EdgeWakes.refl (u : State) : EdgeWakes u u := ⟨Keeps.refl _ _, rfl, ⟨_, _, _, _, rfl⟩, fun _ => rfl⟩

/-- A frame that a port is served has its effect and wakes; another does nothing. -/
theorem onFrame_wakes {p : Port} {f : State → State} {s t : State} (h : ∀ u, ReadLeaves p u (f u))
    (e : onFrame p f s = .next t) : ∃ u, ReadLeaves p s u ∧ EdgeWakes u t := by
  cases e
  split
  · exact ⟨_, .frame h, .woken _ p⟩
  · exact ⟨s, ⟨.refl _, fun _ => rfl, fun _ _ => rfl⟩, .refl s⟩

/-- Settles O11: whatever the frame finds, it only records; the edge of CS# adds what it wakes. -/
theorem readFramesChangeNoHostState : Obligations.ReadFramesChangeNoHostState := by
  intro c p f s t hc ht
  obtain ⟨u, ⟨⟨keeps, masks, journal, chan, pool, gate⟩, slots, hlcfg⟩, edge⟩ : ∃ u, ReadLeaves p s u ∧ EdgeWakes u t := by
    rcases hc with rfl | rfl
    · exact onFrame_wakes (.statusFrame p f) ht
    · exact onFrame_wakes (.readFrame p f) ht
  have same {q : Part} (hq : q ≠ .power) (hs : q ≠ .tags) : q.same u.dev t.dev :=
    edge.keeps q (by simpa using hq) hs
  have trouble : t.dev.trouble = u.dev.trouble := same (q := .trouble) (by decide) (by decide)
  have jrnl : t.dev.journal = u.dev.journal := same (q := .journal) (by decide) (by decide)
  have chans : t.dev.chans = u.dev.chans := same (q := .chans) (by decide) (by decide)
  have pl : t.dev.pool = u.dev.pool := same (q := .pool) (by decide) (by decide)
  have gt : t.dev.gate = u.dev.gate := same (q := .gate) (by decide) (by decide)
  have power : u.dev.power = s.dev.power := keeps .power (by decide) (by decide)
  refine ⟨(keeps_up keeps).trans (keeps_up edge.keeps), trouble ▸ masks, jrnl ▸ journal, fun n => ?_, pl ▸ pool,
    gt ▸ gate, power ▸ edge.power, fun h => (edge.run (power ▸ h)).trans power, fun q => ?_, fun h4 q => ?_⟩
  · rw [chan_of chans]
    exact chan n
  · rw [edge.shell]
    exact slots q
  · rw [State.hlcfg, edge.shell]
    exact hlcfg h4 q

end Sys2Proof.Machine
end

section
/-!
No committed word but a SOFT_RESET makes a reset (00 R17): the mark of a reset under every effect that a commit has.
-/

namespace Sys2Proof.Machine

theorem foldl_rst {α : Type} {f : Dev → α → Dev} (h : ∀ d a, (f d a).rst = d.rst) (l : List α) (d : Dev) :
    (l.foldl f d).rst = d.rst :=
  List.foldlRecOn (motive := fun e : Dev => e.rst = d.rst) _ _ rfl (fun e he a _ => (h e a).trans he)

theorem ite_rst {c : Prop} [Decidable c] {a b d : Dev} (ha : a.rst = d.rst) (hb : b.rst = d.rst) :
    (if c then a else b).rst = d.rst := by
  split
  · exact ha
  · exact hb

/-! ### Records, tags, selections -/

@[simp] theorem noteIf_rst (p : Port) (b : Bool) (d : Dev) : (noteIf p b d).rst = d.rst := by
  cases b
  · rfl
  · exact noteLink_rst p 12 d

@[simp] theorem demandOn_rst (x : Nat) (d : Dev) : (demandOn x d).rst = d.rst := rfl
@[simp] theorem holdWrite_rst (w : HeldWrite) (d : Dev) : (holdWrite w d).rst = d.rst := rfl
@[simp] theorem dropSel_rst (k : Cls) (n : Chn) (x : Sel) (d : Dev) : (dropSel k n x d).rst = d.rst := rfl
@[simp] theorem setStep_rst (n : Chn) (sid : Nat) (t : Option Step) (d : Dev) : (setStep n sid t d).rst = d.rst := rfl
@[simp] theorem removeSent_rst (n : Chn) (sid : Nat) (d : Dev) : (removeSent n sid d).rst = d.rst := rfl
@[simp] theorem markAbort_rst (n : Chn) (sid : Nat) (d : Dev) : (markAbort n sid d).rst = d.rst := rfl
@[simp] theorem setBuf_rst (k : Nat) (st : BufState) (d : Dev) : (setBuf k st d).rst = d.rst := rfl
@[simp] theorem setRec_rst (n : Chn) (i : Nat) (r : Option RecCtx) (d : Dev) : (setRec n i r d).rst = d.rst := rfl
@[simp] theorem unreserve_rst (s : Nat) (d : Dev) : (unreserve s d).rst = d.rst := rfl
@[simp] theorem loadRide_rst (i : Nat) (w : Word) (d : Dev) : (loadRide i w d).rst = d.rst := rfl
@[simp] theorem gateStop_rst (d : Dev) : (gateStop d).rst = d.rst := rfl

@[simp] theorem dropCheckSel_rst (e : Nat) (n : Chn) (d : Dev) : (dropCheckSel e n d).rst = d.rst := by
  unfold dropCheckSel
  split
  · split
    · split <;> rfl
    · rfl
  · rfl

@[simp] theorem dropSentSels_rst (e : Nat) (n : Chn) (d : Dev) (s : Sentence) :
    (dropSentSels e n d s).rst = d.rst := by
  have sel : (match s.sel, (s.clauses[s.idx]?).bind (fun c => verbClass c.verb) with
      | some x, some k => if x.eng = e then dropSel k n x (modSent n s.sid (fun s => { s with sel := none }) d) else d
      | _, _ => d).rst = d.rst := by
    split
    · split <;> rfl
    · rfl
  simp only [dropSentSels]
  split
  · split
    · split
      · exact sel
      · exact sel
    · exact sel
  · exact sel

@[simp] theorem dropSelsOn_rst (e : Nat) (d : Dev) : (dropSelsOn e d).rst = d.rst :=
  foldl_rst (fun d n => (dropCheckSel_rst e n _).trans (foldl_rst (dropSentSels_rst e n) _ d)) _ d

/-! ### Engines, management commands, life-cycle requests -/

@[simp] theorem engOut_rst (e : Eng) (d : Dev) : (engOut e d).rst = d.rst := by
  unfold engOut
  split <;> simp

@[simp] theorem startTest_rst (e : Eng) (c : Nat) (d : Dev) : (startTest e c d).rst = d.rst := by
  simp only [startTest, demandOn_rst]
  split
  · rfl
  · unfold zeroCore
    split <;> rfl

@[simp] theorem engIn_rst (e : Eng) (d : Dev) : (engIn e d).rst = d.rst := by
  unfold engIn
  split_ifs <;> simp

@[simp] theorem writeEngCmd_rst (w : Word) (d : Dev) : (writeEngCmd w d).rst = d.rst := by
  unfold writeEngCmd
  split <;> simp

@[simp] theorem mgmtCommit_rst (cmd : Nat) {take : Dev → MgmtRun → Dev × MgmtRun}
    (h : ∀ d m, (take d m).1.rst = d.rst) (d : Dev) : (mgmtCommit cmd take d).rst = d.rst := by
  simp only [mgmtCommit]
  split_ifs
  · rfl
  · rfl
  · exact h _ _

@[simp] theorem confirm_rst (d : Dev) : (confirm d).rst = d.rst :=
  mgmtCommit_rst 2 (fun e m => by dsimp only; split <;> rfl) d

@[simp] theorem lcRequest_rst (d : Dev) : (lcRequest d).rst = d.rst := by
  unfold lcRequest
  split <;> rfl

@[simp] theorem mgmtLcRequest_rst (d : Dev) : (mgmtLcRequest d).rst = d.rst := by
  unfold mgmtLcRequest
  split
  · rfl
  · exact lcRequest_rst d

/-! ### Work that leaves its engine, sentences dropped -/

@[simp] theorem leaveEngine_rst (n : Chn) (s : Sentence) (j : Job) (d : Dev) : (leaveEngine n s j d).rst = d.rst :=
  (LeaveFrame.engine n s j d).r

@[simp] theorem endProg_rst (n : Chn) (e : Nat) (ok st : Bool) (d : Dev) : (endProg n e ok st d).rst = d.rst :=
  (LeaveFrame.endProg n e ok st d).r

@[simp] theorem progEnds_rst (n : Chn) (e : Nat) (ok st : Bool) (d : Dev) : (progEnds n e ok st d).rst = d.rst :=
  (LeaveFrame.progEnds n e ok st d).r

@[simp] theorem openFails_rst (n : Chn) (err : Nat) (d : Dev) : (openFails n err d).rst = d.rst :=
  (openFails_frame n err d).2.2.2

@[simp] theorem abandonOpen_rst (n : Chn) (d : Dev) : (abandonOpen n d).rst = d.rst := openFails_rst n (d.chan n).openErr d

@[simp] theorem zeroTouched_rst (ts : List (Nat × Nat × Nat)) (d : Dev) : (zeroTouched ts d).rst = d.rst :=
  (DropFrame.zero 0 ts d).r

@[simp] theorem freeBuf_rst (f : Nat) (d : Dev) : (freeBuf f d).rst = d.rst := (freeBuf_frame f d (n := 0)).1.r

@[simp] theorem dropBuf_rst (f : Nat) (d : Dev) : (dropBuf f d).rst = d.rst := (freeBuf_frame f d (n := 0)).2.r

@[simp] theorem freeScratch_rst (hs : List Nat) (d : Dev) : (freeScratch hs d).rst = d.rst :=
  (DropFrame.scratch 0 hs d).r

@[simp] theorem dropSent_rst (n : Chn) (s : Sentence) (d : Dev) : (dropSent n s d).rst = d.rst := by
  simp only [dropSent]
  split
  · exact (DropFrame.dropOne n _ _).r.trans (DropFrame.dropOne n s d).r
  · exact (DropFrame.dropOne n s d).r

@[simp] theorem resetSent_rst (n : Chn) (s : Sentence) (d : Dev) : (resetSent n s d).rst = d.rst := by
  unfold resetSent
  split
  · exact dropSent_rst n s d
  · split
    · exact dropSent_rst n _ d
    · split <;> simp
  · split <;> simp

@[simp] theorem beginReset_rst (n : Chn) (d : Dev) : (beginReset n d).rst = d.rst :=
  foldl_rst (fun e s => resetSent_rst n s e) _ d

/-! ### The power and supply page -/

@[simp] theorem stopChan_rst (ks : List Nat) (d : Dev) (n : Chn) : (stopChan ks d n).rst = d.rst := by
  unfold stopChan
  split
  · rfl
  · split
    · split <;> simp
    · simp
    · rfl
    · simp

@[simp] theorem recalcLevel_rst (d : Dev) : (recalcLevel d).rst = d.rst := by
  simp only [recalcLevel]
  split_ifs <;> simp

@[simp] theorem stopBegins_rst (b : Bool) (d : Dev) : (stopBegins b d).rst = d.rst := by
  simp only [stopBegins]
  rw [foldl_rst (stopChan_rst _), ridesIdle, recalcLevel_rst]
  rfl

@[simp] theorem writePwrctl_rst (ws : List Nat) (w : Word) (d : Dev) : (writePwrctl ws w d).rst = d.rst := by
  simp only [writePwrctl, stopRequest, stopOrAbandon]
  split_ifs <;> simp

@[simp] theorem writeFsel_rst (w : Word) (d : Dev) : (writeFsel w d).rst = d.rst := by
  simp [writeFsel, apply_ite Dev.rst]

@[simp] theorem domainControl_rst (a : Nat) (w : Word) (d : Dev) : (domainControl a w d).rst = d.rst := by
  unfold domainControl
  split_ifs
  · rfl
  · exact foldl_rst (fun e x => dropSelsOn_rst x e) _ _
  · rfl
  · rfl

@[simp] theorem writeSeq_rst (k : Nat) (w : Word) (d : Dev) : (writeSeq_ k w d).rst = d.rst := by
  simp only [writeSeq_]
  split <;> simp

@[simp] theorem writeSupCfg_rst (w : Word) (d : Dev) : (writeSupCfg w d).rst = d.rst := by
  simp [writeSupCfg, lowClr, apply_ite Dev.rst]

@[simp] theorem wantConfigWrite_rst (d : Dev) : (wantConfigWrite d).rst = d.rst := by
  simp only [wantConfigWrite]
  split_ifs <;> rfl

@[simp] theorem writeLgCfg_rst (w : Word) (d : Dev) : (writeLgCfg w d).rst = d.rst := by
  simp only [writeLgCfg]
  split_ifs <;> simp

@[simp] theorem writePfwCfg_rst (w : Word) (d : Dev) : (writePfwCfg w d).rst = d.rst := noteIf_rst .A _ _

@[simp] theorem writeRide_rst (i : Fin 16) (w : Word) (d : Dev) : (writeRide i w d).rst = d.rst := by
  simp [writeRide]

@[simp] theorem writeCalib_rst (i : Nat) (w : Word) (d : Dev) : (writeCalib i w d).rst = d.rst := noteIf_rst .A _ _

theorem writePower_rst (a : Nat) (w : Word) (d : Dev) : (writePower a w d).rst = d.rst := by
  unfold writePower
  refine ite_rst (writePwrctl_rst [] w d) (ite_rst rfl (ite_rst rfl (ite_rst rfl (ite_rst (writeFsel_rst w d)
    (ite_rst (domainControl_rst a w d) (ite_rst (writeSeq_rst _ w d) (ite_rst (writeSupCfg_rst w d)
    (ite_rst (writePfwCfg_rst w d) (ite_rst (writeLgCfg_rst w d) (ite_rst (writeRide_rst _ w d)
    (ite_rst (writeCalib_rst _ w d) rfl)))))))))))

/-! ### The key store and life-cycle page, the diagnostic page -/

@[simp] theorem enterDraw_rst (who : DrawFor) (r : DrawReq) (d : Dev) : (enterDraw who r d).2.rst = d.rst := by
  unfold enterDraw
  split
  · rfl
  · unfold startOccasion
    split <;> rfl

@[simp] theorem askNonce_rst (d : Dev) : (askNonce d).rst = d.rst := by
  have drawn := enterDraw_rst .lcNonce (.plain 32) (dropNonce d)
  simp only [askNonce]
  split
  · rfl
  · split
    · next e => rw [e] at drawn; exact drawn
    · next e => rw [e] at drawn; exact drawn

@[simp] theorem writeLcreq_rst (w : Word) (d : Dev) : (writeLcreq w d).rst = d.rst := by
  simp only [writeLcreq]
  split_ifs <;> simp

@[simp] theorem writeTamperCfg_rst (w : Word) (d : Dev) : (writeTamperCfg w d).rst = d.rst := by
  simp only [writeTamperCfg]
  split_ifs <;> simp

@[simp] theorem tamperAck_rst (d : Dev) : (tamperAck d).rst = d.rst := by
  unfold tamperAck
  split <;> rfl

@[simp] theorem writeChcfgt_rst (p : Port) (n : Chn) (w : Word) (d : Dev) : (writeChcfgt p n w d).rst = d.rst := by
  simp only [writeChcfgt]
  split_ifs <;> simp

@[simp] theorem writeToken_rst (i : Nat) (w : Word) (d : Dev) : (writeToken i w d).rst = d.rst := by
  unfold writeToken
  split <;> simp

theorem writeLife_rst (a : Nat) (w : Word) (d : Dev) : (writeLife a w d).rst = d.rst := by
  unfold writeLife
  refine ite_rst (writeLcreq_rst w d) (ite_rst (writeTamperCfg_rst w d) (ite_rst (ite_rst (tamperAck_rst d) rfl)
    (ite_rst (writeChcfgt_rst .A _ w d) (ite_rst (writeToken_rst _ w d) rfl))))

theorem writeDiag_rst (a : Nat) (w : Word) (d : Dev) : (writeDiag a w d).rst = d.rst := by
  unfold writeDiag
  exact ite_rst rfl (ite_rst (ite_rst rfl rfl) rfl)

/-! ### The global page: SOFT_RESET is the one reset (14 Table 14.7) -/

theorem softReset_rst (d : Dev) : (softReset d).rst = .soft := rfl

theorem writeMgmtCmd_rst (w : Word) (d : Dev) : (writeMgmtCmd w d).rst = d.rst ∨ (writeMgmtCmd w d).rst = .soft := by
  unfold writeMgmtCmd
  split
  case h_8 => exact .inr (softReset_rst d)
  case h_2 => exact .inl (confirm_rst d)
  case h_3 => exact .inl (mgmtLcRequest_rst d)
  case h_10 => exact .inl (noteLink_rst .A 12 d)
  all_goals exact .inl (mgmtCommit_rst _ (fun _ _ => rfl) d)

theorem writeGlobal_rst (a : Nat) (w : Word) (d : Dev) :
    (writeGlobal a w d).rst = d.rst ∨ (writeGlobal a w d).rst = .soft := by
  by_cases h : a = 0x080
  · subst h
    exact writeMgmtCmd_rst w d
  · refine .inl ?_
    simp only [writeGlobal, if_neg h]
    exact ite_rst rfl (ite_rst rfl (ite_rst rfl (ite_rst (writeEngCmd_rst w d) (ite_rst (noteIf_rst .A _ _)
      (ite_rst (noteIf_rst .A _ _) (ite_rst rfl (ite_rst (ite_rst rfl rfl) (ite_rst (ite_rst (noteLink_rst .A 12 d) rfl)
      rfl))))))))

theorem writePage_rst (a : Nat) (w : Word) (d : Dev) :
    (writePage a w d).rst = d.rst ∨ (writePage a w d).rst = .soft := by
  unfold writePage
  split_ifs
  · exact writeGlobal_rst a w d
  · exact .inl (writePower_rst a w d)
  · exact .inl (writeLife_rst a w d)
  · exact .inl (writeDiag_rst a w d)

end Sys2Proof.Machine
end

section
/-!
The channel page, the aborts and the stream side leave the mark of a reset alone (00 R17).
-/

namespace Sys2Proof.Machine

/-! ### Opening, closing, configuring a channel -/

@[simp] theorem dropRecord_rst (d : Dev) (s : Nat) : (dropRecord d s).rst = d.rst := by
  unfold dropRecord
  split
  · rfl
  · exact noteG_rst 3 4 _

@[simp] theorem chOpen_rst (n : Chn) (d : Dev) : (chOpen n d).rst = d.rst := by
  unfold chOpen
  refine ite_rst rfl (ite_rst rfl (ite_rst (openFails_rst n 1 d) (ite_rst (startInit_rst n d) ?_)))
  split
  · rw [openFails_rst]
    exact ite_rst (dropRecord_rst d _) rfl
  · exact ite_rst (openFails_rst n 5 d) (ite_rst (openFails_rst n 6 d) (enterDraw_rst (.nonce n) (.plain 32) d))

@[simp] theorem touchCache_rst (s : Nat) (d : Dev) : (touchCache s d).rst = d.rst := ite_rst rfl rfl

@[simp] theorem startCkpt_rst (s : Nat) (d : Dev) : (startCkpt s d).rst = d.rst := ite_rst rfl rfl

@[simp] theorem respFails_rst (n : Chn) (err : Nat) (d : Dev) : (respFails n err d).rst = d.rst := openFails_rst n err d

@[simp] theorem chargeResp_rst (n : Chn) (s : Nat) (nonce resp : Bytes) (d : Dev) :
    (chargeResp n s nonce resp d).rst = d.rst :=
  ite_rst (touchCache_rst s d) (startCkpt_rst s d)

@[simp] theorem chResp_rst (n : Chn) (d : Dev) : (chResp n d).rst = d.rst := by
  unfold chResp
  refine ite_rst rfl ?_
  split
  · rw [respFails_rst]
    exact ite_rst (dropRecord_rst d _) rfl
  · exact chargeResp_rst ..

@[simp] theorem chClose_rst (n : Chn) (d : Dev) : (chClose n d).rst = d.rst := by
  unfold chClose
  split
  · rfl
  · exact abandonOpen_rst n d
  · rfl
  · rfl

@[simp] theorem chReset_rst (n : Chn) (d : Dev) : (chReset n d).rst = d.rst := by
  unfold chReset
  split
  · exact beginReset_rst n d
  · exact beginReset_rst n d
  · exact abandonOpen_rst n d
  · exact ite_rst (beginReset_rst n _) rfl
  · rfl

theorem writeChCtl_rst (n : Chn) (w : Word) (d : Dev) : (writeChCtl n w d).rst = d.rst := by
  have opened := ite_rst (c := bit w 0) (chOpen_rst n d) rfl
  have responded := (ite_rst (c := bit w 1) (chResp_rst n _) rfl).trans opened
  have closed := (ite_rst (c := bit w 2) (chClose_rst n _) rfl).trans responded
  exact (ite_rst (c := bit w 3) (chReset_rst n _) rfl).trans closed

theorem writeResp_rst (n : Chn) (k : Nat) (w : Word) (d : Dev) : (writeResp n k w d).rst = d.rst := ite_rst rfl rfl

/-! ### Pool and rings -/

theorem chAlloc_rst (n : Chn) (count : Nat) (p : Port) (d : Dev) : (chAlloc n count p d).rst = d.rst :=
  ite_rst rfl (ite_rst rfl (ite_rst (noteLink_rst p 12 d) (ite_rst rfl rfl)))

theorem judgeFree_rst (n : Chn) (h : Nat) (d : Dev) : (judgeFree n h d).rst = d.rst := by
  unfold judgeFree
  have refused (b : Nat) : (noteCh n b 0 0 d).rst = d.rst := noteCh_rst n b 0 0 d
  dsimp only
  split
  · exact refused 4
  · exact ite_rst (refused 4) (ite_rst (refused 5) (ite_rst (refused 4) (ite_rst rfl (freeBuf_rst _ d))))

theorem chFree_rst (n : Chn) (h : Nat) (d : Dev) : (chFree n h d).rst = d.rst := ite_rst (judgeFree_rst n h d) rfl

@[simp] theorem resetOnMismatch_rst (n : Chn) (k : RingK) (d : Dev) : (resetOnMismatch n k d).rst = d.rst := by
  simp [resetOnMismatch]

theorem ptrWrite_rst (n : Chn) (k : RingK) (v : Nat) (ok : RingRegs → Bool) {put : Dev → Dev}
    (h : ∀ d, (put d).rst = d.rst) (d : Dev) : (ptrWrite n k v ok put d).rst = d.rst :=
  ite_rst (resetOnMismatch_rst n k d) (ite_rst (h d) (noteLink_rst _ 12 d))

theorem subTail_rst (n : Chn) (prio : Bool) (v : Nat) (d : Dev) : (subTail n prio v d).rst = d.rst :=
  ite_rst rfl (ptrWrite_rst n _ v _ (modRings_rst n _) d)

theorem cplHead_rst (n : Chn) (v : Nat) (d : Dev) : (cplHead n v d).rst = d.rst :=
  ite_rst rfl (ptrWrite_rst n .cpl v _ (modRings_rst n _) d)

theorem outHead_rst (n : Chn) (v : Nat) (d : Dev) : (outHead n v d).rst = d.rst :=
  ite_rst rfl (ptrWrite_rst n .out v _ (modRings_rst n _) d)

@[simp] theorem scrubRing_rst (n : Chn) (d : Dev) (k : RingK) : (scrubRing n d k).rst = d.rst :=
  ite_rst rfl (resetOnMismatch_rst n k d)

/-! ### The stream banks -/

theorem bankFlush_rst (n : Chn) (d : Dev) : (bankFlush n d).rst = d.rst := ite_rst rfl rfl

theorem bankSubmit_rst (n : Chn) (count : Nat) (d : Dev) : (bankSubmit n count d).rst = d.rst := by
  unfold bankSubmit
  refine ite_rst rfl ?_
  split
  · exact noteCh_rst n 6 0 0 d
  · exact ite_rst (noteLink_rst _ 12 d) rfl

theorem bankCtl_rst (n : Chn) (w : Word) (d : Dev) : (bankCtl n w d).rst = d.rst :=
  (ite_rst (c := bit w 31) (bankSubmit_rst n _ _) rfl).trans (ite_rst (c := bit w 30) (bankFlush_rst n d) rfl)

/-! ### A clause that ends -/

@[simp] theorem noteStatus_rst (n : Chn) (st : Status) (eng : Nat) (c : Clause) (d : Dev) :
    (noteStatus n st eng c d).rst = d.rst := by
  cases st <;> simp [noteStatus]

@[simp] theorem postRecord_rst (n : Chn) (c : Clause) (idx : Nat) (st : Status) (eng w1 w2 h : Nat) (d : Dev) :
    (postRecord n c idx st eng w1 w2 h d).rst = d.rst := by
  simp [postRecord]

@[simp] theorem postSkipped_rst (n : Chn) (cs : List Clause) (i : Nat) (d : Dev) :
    (postSkipped n cs i d).rst = d.rst := by
  induction cs generalizing i d with
  | nil => rfl
  | cons c cs ih => exact (ih (i + 1) _).trans (postRecord_rst ..)

@[simp] theorem discardStream_rst (n : Chn) (sid idx : Nat) (d : Dev) : (discardStream n sid idx d).rst = d.rst := rfl

@[simp] theorem skipRest_rst (n : Chn) (sid i : Nat) (rest : List Clause) (d : Dev) :
    (skipRest n sid i rest d).rst = d.rst :=
  (postSkipped_rst n rest i _).trans (foldl_rst (fun d k => discardStream_rst n sid (i + k) d) _ d)

@[simp] theorem advanceSent_rst (n : Chn) (sid idx : Nat) (failed : Bool) (cs : List Clause) (d : Dev) :
    (advanceSent n sid idx failed cs d).rst = d.rst := by
  unfold advanceSent
  exact ite_rst (skipRest_rst ..) (ite_rst rfl rfl)

@[simp] theorem checkOut_rst (n : Chn) (s : Sentence) (j : Job) (d : Dev) : (checkOut n s j d).2.rst = d.rst := by
  unfold checkOut
  split
  · exact scrubRing_rst n d .out
  · exact scrubRing_rst n d .out
  · rfl

@[simp] theorem finishOut_rst (n : Chn) (sid : Nat) (j : Job) (c : Clause) (st : Status) (out : Bytes) (w1 : Nat)
    (d : Dev) : (finishOut n sid j c st out w1 d).1.rst = d.rst := by
  unfold finishOut
  dsimp only
  split
  · rfl
  · split <;> rfl
  · rfl
  · rfl
  · split
    · exact freeBuf_rst _ d
    · rfl

@[simp] theorem retirePersistent_rst (s : Nat) (burns : List Bool) (d : Dev) :
    (retirePersistent s burns d).rst = d.rst := by
  unfold retirePersistent
  exact ite_rst rfl (noteOtpErr_rst _)

@[simp] theorem retireSlot_rst (s : Nat) (burns : List Bool) (d : Dev) : (retireSlot s burns d).rst = d.rst :=
  ite_rst rfl (retirePersistent_rst s burns d)

@[simp] theorem applyEffect_rst (n : Chn) (d : Dev) (e : Effect) : (applyEffect n d e).rst = d.rst := by
  cases e
  case recDone i gen seq auth =>
    simp only [applyEffect]
    split
    · exact ite_rst rfl rfl
    · rfl
  case retire s burns =>
    simp only [applyEffect]
    split
    · split
      · exact retireSlot_rst s burns d
      · exact retireSlot_rst s burns d
    · exact retireSlot_rst s burns d
  all_goals rfl

@[simp] theorem endWork_rst (n : Chn) (s : Sentence) (j : Job) (c : Clause) (st : Status) (out : Bytes) (w1 : Nat)
    (es : List Effect) (d : Dev) : (endWork n s j c st out w1 es d).1.rst = d.rst := by
  have effects (e : Dev) : (es.foldl (applyEffect n) e).rst = e.rst := foldl_rst (applyEffect_rst n) es e
  have ended (e : Dev) : (if j.phase != .persist then endProg n j.engine (!st.failure) j.primes.isSome e
      else if (e.chan n).engs.contains j.engine then e
      else progEnds n j.engine (!st.failure) j.primes.isSome e).rst = e.rst :=
    ite_rst (endProg_rst ..) (ite_rst rfl (progEnds_rst ..))
  unfold endWork
  dsimp only
  rw [freeScratch_rst, ended, unfill_rst]
  split
  · simp [apply_ite Dev.rst, effects]
  · simp [effects]

@[simp] theorem releaseDying_rst (n : Chn) (d : Dev) : (releaseDying n d).rst = d.rst :=
  foldl_rst (fun d (b : Buf) => dropBuf_rst b.first d) _ d

@[simp] theorem phraseFails_rst (n : Chn) (s : Sentence) (r : PhraseRun) (st : Status) (d : Dev) :
    (phraseFails n s r st d).rst = d.rst := rfl

@[simp] theorem phraseNext_rst (n : Chn) (s : Sentence) (u : Clause) (j : Job) (r : PhraseRun) (k : Nat) (d : Dev) :
    (phraseNext n s u j r k d).rst = d.rst := by
  unfold phraseNext
  refine ite_rst rfl ?_
  dsimp only
  split <;> rfl

@[simp] theorem finishRoot_rst (n : Chn) (s : Sentence) (j : Job) (st : Status) (out : Bytes) (w2 : Nat)
    (es : List Effect) (d : Dev) : (finishRoot n s j st out w2 es d).rst = d.rst := by
  unfold finishRoot
  split
  · rfl
  · simp

@[simp] theorem templateEnds_rst (n : Chn) (s : Sentence) (p : Parent) (st : Status) (out : Bytes) (used : Nat)
    (buf : Option Nat) (d : Dev) : (templateEnds n s p st out used buf d).rst = d.rst := by
  unfold templateEnds
  dsimp only
  split
  · rfl
  · split
    · split
      · rfl
      · exact ite_rst (finishRoot_rst ..) (ite_rst rfl (phraseNext_rst ..))
    · rfl

@[simp] theorem failClause_rst (n : Chn) (s : Sentence) (st : Status) (eng : Nat) (d : Dev) :
    (failClause n s st eng d).rst = d.rst := by
  unfold failClause
  split
  · rfl
  · split <;> split <;> simp

@[simp] theorem finishTemplate_rst (n : Chn) (s : Sentence) (p : Parent) (j : Job) (st : Status) (out : Bytes)
    (es : List Effect) (d : Dev) : (finishTemplate n s p j st out es d).rst = d.rst := by
  unfold finishTemplate
  split
  · rfl
  · simp

/-! ### Aborts -/

@[simp] theorem earlyZero_rst (j : Job) (st : Status) (d : Dev) : (earlyZero j st d).rst = d.rst :=
  ite_rst (zeroTouched_rst _ d) rfl

@[simp] theorem endTemplate_rst (n : Chn) (sid : Nat) (st : Status) (d : Dev) : (endTemplate n sid st d).rst = d.rst := by
  unfold endTemplate
  split
  · rfl
  · split
    · exact (finishTemplate_rst ..).trans (earlyZero_rst ..)
    · exact failClause_rst ..
    · rfl

@[simp] theorem finishClause_rst (n : Chn) (s : Sentence) (j : Job) (st : Status) (out : Bytes) (w2 : Nat)
    (es : List Effect) (d : Dev) : (finishClause n s j st out w2 es d).rst = d.rst := by
  unfold finishClause
  split
  · exact finishRoot_rst ..
  · exact finishTemplate_rst ..

@[simp] theorem endEarly_rst (n : Chn) (s : Sentence) (j : Job) (st : Status) (d : Dev) :
    (endEarly n s j st d).rst = d.rst := by
  unfold endEarly
  refine ite_rst (dropSent_rst n s d) ?_
  split
  · exact (finishRoot_rst ..).trans (endTemplate_rst ..)
  · exact (finishClause_rst ..).trans (earlyZero_rst ..)

@[simp] theorem abortSent_rst (n : Chn) (sid : Nat) (d : Dev) : (abortSent n sid d).rst = d.rst := by
  unfold abortSent
  split
  · rfl
  · split
    · exact failClause_rst ..
    · split
      · split
        · exact endEarly_rst ..
        · exact ite_rst (endEarly_rst ..) rfl
      · exact ite_rst (endEarly_rst ..) rfl

@[simp] theorem abortWhere_rst (n : Chn) (p : Sentence → Bool) (d : Dev) : (abortWhere n p d).rst = d.rst :=
  foldl_rst (fun d sid => abortSent_rst n sid d) _ d

theorem writeAbort_rst (n : Chn) (w : Word) (d : Dev) : (writeAbort n w d).rst = d.rst :=
  ite_rst (ite_rst (abortWhere_rst ..) rfl) (ite_rst (abortWhere_rst ..) rfl)

/-! ### Words and stream-side frames -/

theorem writeChan_rst (p : Port) (n : Chn) (off : Nat) (w : Word) (d : Dev) : (writeChan p n off w d).rst = d.rst := by
  unfold writeChan
  exact ite_rst (writeChCtl_rst n w d) (ite_rst rfl (ite_rst (writeResp_rst n _ w d) (ite_rst (chAlloc_rst n _ p d)
    (ite_rst (chFree_rst n _ d) (ite_rst (subTail_rst n true _ d) (ite_rst (subTail_rst n false _ d)
    (ite_rst (cplHead_rst n _ d) (ite_rst (outHead_rst n _ d) (ite_rst (bankCtl_rst n w d)
    (ite_rst (writeAbort_rst n w d) rfl))))))))))

theorem writeWin_rst (v : Via) (stop : Bool) (x : Win) (w : Word) (d : Dev) : (writeWin v stop x w d).rst = d.rst := by
  have refused (b : Nat) : (noteVia v b d).rst = d.rst := noteVia_rst v b d
  unfold writeWin
  split
  · exact ite_rst (refused 6) (ite_rst (refused 9) (ite_rst rfl (raceOut_keeps _ _ _).2))
  · exact ite_rst (refused 6) (ite_rst (refused 9) rfl)
  · refine ite_rst (refused 9) ?_
    split
    · exact refused 6
    · rfl
    · exact ite_rst (refused 9) rfl
  · exact ite_rst (refused 6) (ite_rst (refused 9) rfl)

theorem commitStream_rst (p : Port) (stop : Bool) (n : Chn) (ws : List Word) (d : Dev) :
    (commitStream p stop n ws d).rst = d.rst := by
  unfold commitStream
  refine ite_rst rfl (ite_rst (noteLink_rst p 6 d) (ite_rst (noteLink_rst p 9 d) (ite_rst rfl ?_)))
  split
  · exact noteCh_rst n 6 0 0 d
  · exact ite_rst (noteLink_rst p 9 d) (ite_rst (noteLink_rst p 5 _) rfl)

theorem skipOut_rst (n : Chn) (d : Dev) : (skipOut n d).rst = d.rst := by
  unfold skipOut
  refine ite_rst (resetOnMismatch_rst n .out d) (ite_rst rfl ?_)
  split <;> rfl

theorem commitSkip_rst (p : Port) (n : Chn) (d : Dev) : (commitSkip p n d).rst = d.rst :=
  ite_rst rfl (ite_rst (noteLink_rst p 6 d) (ite_rst (skipOut_rst n d) rfl))

theorem commitOutread_rst (n : Chn) (adv : Option (Nat × Nat × Nat)) (d : Dev) : (commitOutread n adv d).rst = d.rst := by
  unfold commitOutread
  split
  · rfl
  · refine ite_rst rfl (ite_rst (resetOnMismatch_rst n .out d) ?_)
    split
    · exact ite_rst rfl (ite_rst rfl rfl)
    · rfl

end Sys2Proof.Machine
end

section
/-!
The oldest captured frame commits on an empty queue (O2).
-/

namespace Sys2Proof.Machine

/-- What a committed frame leaves of the machine whose slot it has left: the queue, the captured frames, and the mark
of a reset unless the frame made a SOFT reset. -/
structure CommitFrame (u v : State) : Prop where
  pending : v.pending = u.pending
  slots : ∀ q, (v.shell.port q).slots = (u.shell.port q).slots
  rst : v.dev.rst = u.dev.rst ∨ v.dev.rst = .soft

theorem CommitFrame.refl (u : State) : CommitFrame u u := ⟨rfl, fun _ => rfl, .inl rfl⟩

theorem CommitFrame.trans {u v w : State} (h : CommitFrame u v) (h' : CommitFrame v w) : CommitFrame u w := by
  refine ⟨h'.pending.trans h.pending, fun q => (h'.slots q).trans (h.slots q), ?_⟩
  rcases h'.rst with kept | soft
  · rw [kept]
    exact h.rst
  · exact .inr soft

/-- An effect on the core alone. -/
theorem CommitFrame.setDev (u : State) {d : Dev} (h : d.rst = u.dev.rst ∨ d.rst = .soft) : CommitFrame u (u.setDev d) :=
  ⟨rfl, fun _ => rfl, h⟩

theorem CommitFrame.writeHl (u : State) (p : Port) (w : Word) : CommitFrame u (u.writeHl p w) :=
  ⟨rfl, Shell.mod_field PortShell.slots rfl, .inl (noteIf_rst p _ u.dev)⟩

theorem CommitFrame.writeCtl (u : State) (v : Via) (a : Nat) (w : Word) : CommitFrame u (u.writeCtl v a w) := by
  unfold State.writeCtl
  dsimp only
  split
  · exact .writeHl u v.face w
  · split
    · exact .setDev u (writePage_rst a w u.dev)
    · split
      · exact .setDev u (.inl (writeChan_rst ..))
      · exact .refl u

theorem CommitFrame.commitWord (u : State) (v : Via) (stop : Bool) (a : Nat) (w : Word) :
    CommitFrame u (u.commitWord v stop a w) := by
  have refused : CommitFrame u (u.setDev (noteVia v 6 u.dev)) := .setDev u (.inl (noteVia_rst v 6 u.dev))
  unfold State.commitWord
  dsimp only
  split
  · exact .refl u
  · split
    · split
      · exact refused
      · exact .setDev u (.inl (writeWin_rst ..))
    · split
      · exact .writeCtl u v a w
      · split
        · exact .setDev u (.inl (mgmtLcRequest_rst u.dev))
        · exact refused

theorem CommitFrame.commitWords (p : Port) (stop : Bool) (lim a : Nat) (ws : List Word) (u : State) :
    CommitFrame u (commitWords p stop lim a ws u) := by
  induction ws generalizing a u with
  | nil => exact .refl u
  | cons w ws ih =>
    refine CommitFrame.trans ?_ (ih (a + 4) _)
    split
    · exact .setDev u (.inl (noteLink_rst p 5 u.dev))
    · exact .commitWord u (some p) stop a w

theorem CommitFrame.commitCap (u : State) (p : Port) (x : Slot) : CommitFrame u (u.commitCap p x) := by
  unfold State.commitCap
  split
  · exact .commitWords ..
  · exact .setDev u (.inl (commitStream_rst ..))
  · exact .setDev u (.inl (commitSkip_rst ..))
  · exact .setDev u (.inl (commitOutread_rst ..))
  · exact .refl u

/-- After a commit the other frames of both ports stay, or all are dropped where it made a reset (00 R17). -/
theorem CommitFrame.through_slots {u v : State} (h : CommitFrame u v) (hr : u.dev.rst = .none) :
    (∀ q, ((v.through id).shell.port q).slots = (u.shell.port q).slots)
      ∨ ∀ q, ((v.through id).shell.port q).slots = [] := by
  rcases h.rst with kept | soft
  · rw [through_shell (by exact kept.trans hr)]
    exact .inl h.slots
  · rw [through_shell_soft (by exact soft)]
    exact .inr fun q => by cases q <;> rfl

/-- The port whose oldest frame commits: A where it has one, else B (log entry 3). -/
theorem commitNext_eq {s : State} {p : Port} {x : Slot} {l : List Slot} (hc : s.commits = true)
    (hp : p = .B → s.shell.a.slots = []) (hs : (s.shell.port p).slots = x :: l) : s.commitNext = s.commitOne p := by
  cases p
  · have ha : s.shell.a.slots = x :: l := hs
    simp [State.commitNext, hc, Shell.port, ha]
  · simp [State.commitNext, hc, Shell.port, hp rfl]

theorem lt_unitEnd {a : Nat} (h : a < 0x1000000) : a < unitEnd a := by
  unfold unitEnd
  split_ifs <;> omega

/-- A WRITE of one word commits as the word's own command does. -/
theorem commitWords_single {u : State} {p : Port} {a : Nat} (hc : u.commits = true) (ha : a % 4 = 0)
    (hlt : a < 0x1000000) (w : Word) :
    Host.Outcome.next ((commitWords p false (unitEnd a) a [w] u).through id)
      = (if (winOf a).isNone then exec (.registerWrite p a w) u else exec (.windowWrite p a w) u) := by
  have word : commitWords p false (unitEnd a) a [w] u = u.commitWord (some p) false a w := by
    simp [commitWords, Nat.not_le.2 (lt_unitEnd hlt)]
  rw [word]
  cases hx : winOf a
  · simp [exec, execRegisterWrite, onCommit, hc, ha, hx]
  · simp [exec, execWindowWrite, onCommit, hc, ha, hx]

/-- Settles O2: the frame leaves its slot and has its effect, and no effect of a frame but a SOFT_RESET touches the
frames captured after it. -/
theorem emptyQueueCommitsOldestFrame : Obligations.EmptyQueueCommitsOldestFrame := by
  have stepNext {s : State} (hq : s.pending = []) : step s = .next s.commitNext := by simp [step, hq]
  refine ⟨fun s hq hc => ?_, fun s hq ha hb => ?_, fun s u p x l haw hq hc hp hs hu => ?_⟩
  · rw [stepNext hq]
    simp [State.commitNext, hc]
  · rw [stepNext hq, State.commitNext, commitOne_nil (p := .A) ha, commitOne_nil (p := .B) hb]
    simp
  · have frame := CommitFrame.commitCap u p x
    have left : step s = .next ((u.commitCap p x).through id) := by
      rw [stepNext hq, commitNext_eq hc hp hs, commitOne_cons hs, hu]
    have rst : u.dev.rst = .none := hu ▸ haw.2
    have commits : u.commits = true := hu ▸ hc
    have dev : u.dev = s.dev := hu ▸ rfl
    refine ⟨_, left, frame.pending.trans (hu ▸ hq), frame.through_slots rst, fun a ws h => ?_,
      fun a w h ha hlt hst => ?_, fun n ws h => ?_, fun n h => ?_, fun n adv h => ?_, fun h => ?_⟩
    · simp only [State.commitCap, h]
    · rw [left, State.commitCap, h]
      exact hst ▸ commitWords_single commits ha hlt w
    all_goals simp only [State.commitCap, h]
    · exact through_setDev u _
    · exact through_setDev u _
    · exact through_setDev u _
    · exact ⟨through_shell (by exact rst), dev ▸ Keeps.through (Keeps.refl [] u.dev)⟩

end Sys2Proof.Machine
end

section
/-!
Time and the trouble journal (O20, O21).
-/

namespace Sys2Proof.Machine

theorem keeps_modJ (f : Journal → Journal) (d : Dev) : Keeps [.journal] d (modJ f d) := by
  intro q hq _
  cases q <;> simp [Part.same] at hq ⊢

theorem keeps_modBoot (f : Boot → Boot) (d : Dev) : Keeps [.boot] d (modBoot f d) := by
  intro q hq _
  cases q <;> simp [Part.same] at hq ⊢

/-! ### A second (04 R100, R103, 14 R336) -/

/-- A second passes a running confirm watchdog by what it had left to this step. -/
def Boot.secondPassed (b : Boot) : Boot :=
  if b.confirmRun then { b with confirmRemain := b.confirmRemain - b.confirmLeft, confirmLeft := 1000 } else b

/-- A second in which no confirm watchdog expires steps the count and the watchdog. -/
theorem secondsTick_unexpired {d : Dev}
    (h : d.boot.confirmRun = false ∨ d.boot.confirmLeft < d.boot.confirmRemain) :
    secondsTick d = modBoot Boot.secondPassed (modJ (fun j => { j with seconds := j.seconds + 1 }) d) := by
  cases hc : d.boot.confirmRun
  case false => simp [secondsTick, modBoot, modJ, Boot.secondPassed, hc]
  case true =>
    have left : ¬ d.boot.confirmRemain ≤ d.boot.confirmLeft := by simpa [hc] using h
    simp [secondsTick, modBoot, modJ, Boot.secondPassed, hc, left]

/-- Settles O20: the watchdog has more left, so the second makes no reset, and FAULT24 reads the new count. -/
theorem secondsCountWithTheWatchdog : Obligations.SecondsCountWithTheWatchdog := by
  intro s ha h
  have second := secondsTick_unexpired h
  have keeps : Keeps [.journal, .boot] s.dev
      (modBoot Boot.secondPassed (modJ (fun j => { j with seconds := j.seconds + 1 }) s.dev)) :=
    (keeps_up (keeps_modJ _ s.dev)).trans (keeps_up (keeps_modBoot _ _))
  exact ⟨_, onDev_to ha second, same_const ha rfl, keeps_const keeps, rfl, rfl, rfl⟩

/-! ### Fetching an entry (04 R101) -/

/-- JSTAT after a fetch that found its entry: VALID, and ERR unless the CRC is right (Table 04.10). -/
theorem jstat_fetched (good : Bool) : jstat (!good) false true false = if good then 2 else 10 := by
  cases good <;> rfl

theorem fetchEnds_absent {d : Dev} (hf : d.flashFree = true) (hb : bit d.journal.jstat 0 = true)
    (hl : d.journal.index.lookup d.journal.jsel.toNat = none) :
    fetchEnds d = modJ (fun j => { j with jstat := 4 }) d := by
  simp only [fetchEnds, hf, hb, hl, Bool.not_true, Bool.or_self, Bool.false_eq_true, if_false]
  rfl

theorem fetchEnds_found {d : Dev} (hf : d.flashFree = true) (hb : bit d.journal.jstat 0 = true) {place : Nat}
    (hl : d.journal.index.lookup d.journal.jsel.toNat = some place) :
    fetchEnds d = modJ (fun j => { j with
      jstat := if entryGood (d.placeBytes place) then 2 else 10
      jent := Vector.ofFn (fun i => bytesWord (slice (4 * i.val) 4 (d.placeBytes place))) }) d := by
  simp only [fetchEnds, hf, hb, hl, Bool.not_true, Bool.or_self, Bool.false_eq_true, if_false, jstat_fetched]
  rfl

/-! ### Writing an entry (04 R99, Table 04.8) -/

@[simp] theorem length_natLE (n v : Nat) : (natLE n v).length = n := by
  induction n generalizing v with
  | zero => rfl
  | succ n ih => simp [natLE, ih]

@[simp] theorem length_natBE (n v : Nat) : (natBE n v).length = n := by simp [natBE]

@[simp] theorem length_wordsBytes (ws : List Word) : (wordsBytes ws).length = 4 * ws.length := by
  induction ws with
  | nil => rfl
  | cons w ws ih =>
    rw [wordsBytes] at ih
    simp [wordsBytes, wordBytes, ih]
    omega

@[simp] theorem length_crcCheck (bs : Bytes) : (crcCheck bs).length = 4 := by simp [crcCheck]

theorem JEntry.length_bytes (e : JEntry) (seq : Nat) : (e.bytes seq).length = 32 := by
  simp [JEntry.bytes]

/-- A flash operation with no failure foretold succeeds on a flash that can be operated. -/
theorem outcome_nil {d : Dev} (hu : d.flashUp = true) : d.outcome [] = (true, []) := by
  simp [Dev.outcome, popOk, hu]

/-- A place inside a sector needs no room made (04 R96). -/
theorem prepPlace_inside {d : Dev} (hp : d.journal.place % 128 ≠ 0) (f : Nat) (vs : List Bool) :
    prepPlace (f + 1) vs d = (true, d, vs) := by
  simp [prepPlace, hp]

/-- The journal once the next entry stands at the next place. -/
def Journal.written (j : Journal) : Journal :=
  ({ j with
    place := (j.place + 1) % 640, index := j.index ++ [(j.nextSeq, j.place)]
    jnewest := j.nextSeq, nextSeq := nextSeqNo j.nextSeq }).bounds

theorem programEntry_inside {d : Dev} (hu : d.flashUp = true) (hp : d.journal.place % 128 ≠ 0) (e : JEntry) (t : Nat) :
    programEntry e (t + 1) [] d
      = (true, modJ Journal.written (flashProgram (jAddr d.journal.place) (e.bytes d.journal.nextSeq) true d), []) := by
  simp only [programEntry, prepPlace_inside hp, outcome_nil hu, flashProgram_ok hu, Bool.not_true, Bool.false_eq_true,
    if_false, if_true]
  rfl

/-- The oldest queued entry leaves the queue and is programmed at the next place. -/
theorem writeEntry_inside {d : Dev} {e : JEntry} {q : List JEntry} (hr : d.journal.restored = true)
    (hu : d.flashUp = true) (hq : d.journal.queue = e :: q) (hp : d.journal.place % 128 ≠ 0) :
    (writeEntry [] d).1 = modJ (fun j => ({ j with queue := q }).written)
      (flashProgram (jAddr d.journal.place) (e.bytes d.journal.nextSeq) true d) := by
  have up : (modJ (fun j => { j with queue := q }) d).flashUp = true := hu
  have inside : (modJ (fun j => { j with queue := q }) d).journal.place % 128 ≠ 0 := hp
  simp only [writeEntry, hq, hr, programEntry_inside up inside, flashProgram_ok up, flashProgram_ok hu, Bool.not_true,
    Bool.false_eq_true, if_false, if_true]
  rfl

theorem exec_journalWrite_inside {s : State} {e : JEntry} {q : List JEntry} (ha : s.awake)
    (hf : s.dev.flashFree = true) (hr : s.dev.journal.restored = true) (hu : s.dev.flashUp = true)
    (hq : s.dev.journal.queue = e :: q) (hp : s.dev.journal.place % 128 ≠ 0) :
    exec (.journalWrite []) s = .next (s.through (fun _ => modJ (fun j => ({ j with queue := q }).written)
      (flashProgram (jAddr s.dev.journal.place) (e.bytes s.dev.journal.nextSeq) true s.dev))) := by
  refine onDev_to ha ?_
  rw [if_pos hf, writeEntry_inside hr hu hq hp]

/-- Settles O21: each command changes the journal as its equation above says; a written entry is 32 bytes of flash. -/
theorem journalIsFetchedAndWritten : Obligations.JournalIsFetchedAndWritten := by
  refine ⟨⟨fun w s ht => ?_, fun s ha hf hb => ⟨fun hl => ?_, fun place hl => ?_⟩⟩,
    fun s e q ha hf hr hu hq hp hwf => ?_⟩
  · exact ⟨_, onA_takes ht, through_same ht.1.2, Keeps.through (keeps_modJ _ s.dev), rfl⟩
  · exact ⟨_, onDev_to ha (fetchEnds_absent hf hb hl), same_const ha rfl, keeps_const (keeps_modJ _ s.dev), rfl⟩
  · refine ⟨_, onDev_to ha (fetchEnds_found hf hb hl), same_const ha rfl, keeps_const (keeps_modJ _ s.dev), rfl, rfl, rfl,
      fun i => ?_⟩
    simp [Dev.placeBytes, jAddr]
  · have wrote := exec_journalWrite_inside ha hf hr hu hq hp
    have keeps := (flashProgram_frame (jAddr s.dev.journal.place) (e.bytes s.dev.journal.nextSeq) s.dev).2
    rw [flashProgram_ok hu] at wrote keeps
    refine ⟨_, wrote, same_const ha rfl, keeps_const ((keeps_up keeps).trans (keeps_up (keeps_modJ _ _))),
      rfl, rfl, rfl, rfl, rfl, rfl, fun i b hi => Mem.get_write_same hwf hi, fun x hx => Mem.get_write_other hwf ?_⟩
    rwa [JEntry.length_bytes]

end Sys2Proof.Machine
end

section
/-!
Channels: opening (O22, O23, O24).
-/

namespace Sys2Proof.Machine

theorem others_const {n : Chn} {s : State} {D : Dev} (h : OthersKept n s.dev D) :
    OthersKept n s.dev (s.through (fun _ => D)).dev := fun m hm => (through_chan _ s m).trans (h m hm)

theorem chanIs_const {n : Chn} {g : Chan → Chan} {s : State} {D : Dev} (h : ChanIs n g s.dev D) :
    ChanIs n g s.dev (s.through (fun _ => D)).dev := ⟨(through_chan _ s n).trans h.1, others_const h.2⟩

/-! ### The memory domains of a session (05 R109, 16 R371) -/

theorem chanDoms_range {n : Chn} {x : Nat} (h : x ∈ chanDoms n.val) : (44 ≤ x ∧ x < 60) ∨ 92 ≤ x := by
  simp only [chanDoms, List.mem_cons, List.not_mem_nil, or_false] at h
  omega

/-- A session's memory domain belongs to its channel alone. -/
theorem domChan_of_mem : ∀ {n : Chn} {x : Nat}, x ∈ chanDoms n.val → domChan x = some n := by decide

theorem inUse_of_chanUsed {d : Dev} {n : Chn} {x : Nat} (hx : x ∈ chanDoms n.val) (h : d.chanUsed n = true) :
    d.inUse x = true := by
  have range := chanDoms_range hx
  have memory : ¬ x < 12 ∧ ¬ x < 28 ∧ ¬ x < 44 ∧ ¬ (60 ≤ x ∧ x < 92) := by omega
  simp [Dev.inUse, memory, domChan_of_mem hx, h]

/-- In RUN a domain in use that is not marked failed has the target on. -/
theorem target_of_inUse {d : Dev} {x : Nat} (hr : d.power.st = .run) (hf : (d.dom x).failed = false)
    (h : d.inUse x = true) : d.target x = true := by
  simp [Dev.target, Dev.wound, hr, hf, h]

theorem failed_of_chanFailed {d : Dev} {n : Chn} (h : d.chanFailed n = false) {x : Nat} (hx : x ∈ chanDoms n.val) :
    (d.dom x).failed = false :=
  Bool.eq_false_iff.2 (List.any_eq_false.1 h x hx)

/-! ### CH_CTL.OPEN (05 R107, R109, R119) -/

section
variable {n : Chn} {d : Dev} (hr : d.power.st = .run) (hs : (d.chan n).state = .closed)
  (hp : (d.chan n).phase = .idle) (he : bit d.cfg.chcfgt[n.val] 31 = true) (hf : d.chanFailed n = false)
include hr hs hp he hf

theorem chOpen_unprotected (hpol : fld d.cfg.chcfgt[n.val] 29 28 = 0) : chOpen n d = startInit n d := by
  simp [chOpen, cfgEn, cfgPolicy, Dev.chcfgt, hr, hs, hp, he, hf, hpol]

/-- Under policy HMAC an open whose checks all pass enters OPENING with its request for the nonce (05 R119, R120). -/
theorem chOpen_challenge (hpol : fld d.cfg.chcfgt[n.val] 29 28 = 1)
    (hk : d.openKeyErr n (fld d.cfg.chcfgt[n.val] 7 0) = none) (hent : d.entropyOut = false)
    (hl : (d.chan n).lockout = false) :
    chOpen n d = modChan n (fun c => { c with
        state := .opening, phase := ((enterDraw (.nonce n) (.plain 32) d).1.map OpenPhase.drawn).getD .drawing })
      (enterDraw (.nonce n) (.plain 32) d).2 := by
  simp [chOpen, cfgEn, cfgPolicy, Dev.chcfgt, Dev.openKey, hr, hs, hp, he, hf, hpol, hk, hent, hl]

end

/-- While an initialization runs the session's domains are in use, so that their target is on. -/
theorem target_of_initRuns {d : Dev} {n : Chn} (hr : d.power.st = .run) (hf : d.chanFailed n = false)
    (hi : (d.chan n).initRuns = true) {x : Nat} (hx : x ∈ chanDoms n.val) : d.target x = true :=
  target_of_inUse hr (failed_of_chanFailed hf hx) (inUse_of_chanUsed hx (by simp [Dev.chanUsed, hi]))

theorem opened_ring (split recNo : Nat) (k : RingK) :
    (Rings.opened split recNo).ring k = .fresh (splitPlace split k).1 (splitPlace split k).2 := by
  cases k <;> rfl

theorem openInitDone_ends {n : Chn} {d : Dev} {b : Bool} (hs : d.stopped = false) (hp : (d.chan n).phase = .init b)
    (hst : (d.chan n).state = .closed ∨ (d.chan n).state = .opening) (hon : d.allOn (chanDoms n.val) = true) :
    openInitDone n d
      = modChan n (fun c => { c with state := if b then .draining else .opened, phase := .idle, openErr := 0 }) d := by
  have runs : (d.chan n).initRuns = true := by
    rcases hst with h | h <;> simp [Chan.initRuns, hp, h]
  have closing : (OpenPhase.init b == .init true) = b := by cases b <;> rfl
  simp [openInitDone, modChan, runs, hs, hon, hp, closing]

/-- Settles O22: the open starts the initialization, whose running puts the four domains in use; with them on it ends. -/
theorem openWithoutPolicyInitialises : Obligations.OpenWithoutPolicyInitialises := by
  refine ⟨fun n s ht hr hs hp he hpol hf => ?_, fun n s b ha hs hp hst hon => ?_⟩
  · have chan := startInit_chan n s.dev
    have runs : ((startInit n s.dev).chan n).initRuns = true := by simp [chan, Chan.initRuns, hs]
    refine ⟨_, onPage_to ht (chOpen_unprotected hr hs hp he hf hpol), same_const ht.1 rfl,
      keeps_const (startInit_keeps n s.dev), others_const (startInit_other n s.dev), ?_⟩
    rw [through_chan, chan]
    exact ⟨rfl, hs, rfl, rfl, opened_ring _ _, rfl, rfl, rfl,
      fun x hx => target_of_initRuns (d := (s.through fun _ => startInit n s.dev).dev) hr hf runs hx⟩
  · exact ⟨_, onDev_to ha (openInitDone_ends hs hp hst hon), same_const ha rfl, keeps_const (keeps_modChan n _ s.dev),
      chanIs_const (ChanIs.modChan n _ s.dev)⟩

/-! ### The nonce (05 R120) -/

theorem openNonceReady_placed {n : Chn} {d : Dev} {nonce : Bytes} (hs : d.stopped = false)
    (hst : (d.chan n).state = .opening) (hp : (d.chan n).phase = .drawn nonce) :
    openNonceReady n d = modChan n (fun c => { c with nonce := nonce, nonceV := true, phase := .noncev }) d := by
  simp [openNonceReady, hst, hp, hs]

theorem drbg_changed_keeps (g : Drbg) (d : Dev) : Keeps [.drbg] d { d with drbg := g } := by
  intro q hq _
  cases q <;> simp [Part.same] at hq ⊢

/-! ### The response and its charge (05 R121, 12 R285) -/

/-- A slot of a list of entries after a change of that slot which leaves its number. -/
theorem find?_slot_changed {f : KeySlot → KeySlot} (hf : ∀ x, (f x).slot = x.slot) (s : Nat) (l : List KeySlot) :
    (l.map (fun x => if x.slot = s then f x else x)).find? (fun x => x.slot = s)
      = (l.find? (fun x => x.slot = s)).map f := by
  induction l with
  | nil => rfl
  | cons x l ih =>
    by_cases h : x.slot = s
    · simp [h, hf]
    · simp [h, ih]

theorem slot_mod_same {f : KeySlot → KeySlot} (hf : ∀ x, (f x).slot = x.slot) (s : Nat) (k : KeyStore) :
    (k.mod s f).slot s = (k.slot s).map f := by
  unfold KeyStore.slot
  split <;> exact find?_slot_changed hf s _

/-- A use of a key moves the cache alone. -/
theorem touchCache_eq (s : Nat) (d : Dev) : ∃ c, touchCache s d = modKs (fun k => { k with cache := c }) d := by
  unfold touchCache
  split
  · exact ⟨_, rfl⟩
  · exact ⟨d.ks.cache, rfl⟩

/-- A use of a key that is charged: the slot's counter rises by the units charged, nothing outside the key store
changes. -/
theorem charge_used {s : Nat} {d : Dev} {x : KeySlot} (hx : d.ks.slot s = some x) (u : Nat) :
    ((charge (touchCache s d) (s, u)).ks.budget s).1 = (d.ks.budget s).1 + u
      ∧ Keeps [.ks] d (charge (touchCache s d) (s, u)) := by
  obtain ⟨c, hc⟩ := touchCache_eq s d
  have slot : (charge (touchCache s d) (s, u)).ks.slot s = some { x with ctr := x.ctr + u } := by
    have kept : (touchCache s d).ks.slot s = some x := by rw [hc]; exact hx
    have charged := slot_mod_same (f := fun y => { y with ctr := y.ctr + u }) (fun _ => rfl) s (touchCache s d).ks
    rw [kept] at charged
    exact charged
  refine ⟨by simp only [KeyStore.budget, slot, hx], ?_⟩
  rw [hc]
  intro q hq _
  cases q <;> simp [Part.same] at hq ⊢ <;> trivial

/-- A key that passes the checks of R119 is in a slot. -/
theorem slot_of_openKeyErr {d : Dev} {n : Chn} {s : Nat} (h : d.openKeyErr n s = none) : ∃ x, d.ks.slot s = some x := by
  unfold Dev.openKeyErr at h
  split at h
  · cases h
  · split at h
    · exact ⟨_, ‹_›⟩
    · cases h

/-- NONCEV of channel `n` taken and the key in slot `s` used, charged one unit (05 R121). -/
def takeResp (n : Chn) (s : Nat) (d : Dev) : Dev :=
  charge (touchCache s (modChan n (fun c => { c with nonceV := false }) d)) (s, 1)

theorem takeResp_rst (n : Chn) (s : Nat) (d : Dev) : (takeResp n s d).rst = d.rst := touchCache_rst s _

theorem takeResp_spec {n : Chn} {s : Nat} {d : Dev} {x : KeySlot} (hx : d.ks.slot s = some x) :
    ((takeResp n s d).ks.budget s).1 = (d.ks.budget s).1 + 1 ∧ Keeps [.chans, .ks] d (takeResp n s d)
      ∧ ChanIs n (fun c => { c with nonceV := false }) d (takeResp n s d) := by
  have is := ChanIs.modChan n (fun c => { c with nonceV := false }) d
  obtain ⟨units, keeps⟩ := charge_used (d := modChan n (fun c => { c with nonceV := false }) d) hx 1
  have chans := keeps .chans (by decide) (by decide)
  exact ⟨units, (keeps_up (keeps_modChan n _ d)).trans (keeps_up keeps),
    (chan_of chans n).trans is.1, fun m hm => (chan_of chans m).trans (is.2 m hm)⟩

/-- RESP with a nonce outstanding, the key checks passed and the charge possible at once. -/
theorem chResp_charged {n : Chn} {d : Dev} (hst : (d.chan n).state = .opening) (hv : (d.chan n).nonceV = true)
    (hk : d.openKeyErr n (d.openKey n) = none) (hc : d.chargeNow (d.openKey n) 1 = true) :
    chResp n d = modChan n (fun c => { c with
        phase := .checking (d.keyValue (d.openKey n)) (d.chan n).nonce (wordsBytes (d.chan n).resp.toList) (.of .hash 62) })
      (takeResp n (d.openKey n) d) := by
  have now : (modChan n (fun c => { c with nonceV := false }) d).chargeNow (d.openKey n) 1 = true := hc
  simp only [chResp, chargeResp, hst, hv, hk, now, if_true]
  rfl

/-! ### The check on a lane (05 R121, 08 R176) -/

theorem selectFor_keeps (k : Cls) (n : Chn) (prio : Bool) (e : Nat) (doms : List Nat) (d : Dev) :
    Keeps [] d (selectFor k n prio e doms d).2 := by
  intro q _ ht
  cases q
  case tags => exact absurd rfl ht
  case sched => cases k <;> exact ⟨rfl, rfl, rfl⟩
  all_goals rfl

/-- A queued open check that is the scheduler's pick starts on the lane it prefers, where that lane's domain is on. -/
theorem resumeCheck_starts {n : Chn} {d : Dev} {key nonce resp : Bytes} {e : Nat}
    (hp : (d.chan n).phase = .checking key nonce resp (.of .hash 62)) (hpick : d.pick .hash = some (n, 0))
    (hpref : d.prefer (Cls.hash.engines.filter d.engFree) = some e) (hon : d.domOn (12 + e) = true) :
    resumeCheck n d = modChan n (fun c => { c with
        phase := .checking key nonce resp
          { (Step.of .hash 62).go (selectFor .hash n true e [12 + e] d).1 false with engine := engIdOf e } })
      (selectFor .hash n true e [12 + e] d).2 := by
  have on : (selectFor .hash n true e [12 + e] d).2.allOn [12 + e] = true := by
    rw [Dev.allOn, List.all_cons, List.all_nil, Bool.and_true]
    exact hon
  have queued : ((Step.of .hash 62).phase == .queued) = true := rfl
  have given : giveEngine .hash n 0 true none (fun e => [12 + e]) d
      = (some (selectFor .hash n true e [12 + e] d).1, (selectFor .hash n true e [12 + e] d).2) := by
    simp only [giveEngine, hpick, hpref, if_true]
  have held : (Step.of .hash 62).sel = none := rfl
  simp only [resumeCheck, hp, queued, held, given, startOrHold, if_true]
  rw [show (selectFor .hash n true e [12 + e] d).1.doms = [12 + e] from rfl, on, if_pos rfl]
  rfl

theorem contextResume_check {n : Chn} {sid : Nat} {d : Dev} (hs : d.stopped = false) (hn : d.sent n sid = none) :
    contextResume n sid d = resumeCheck n d := by
  simp [contextResume, hs, hn]

/-- Settles O23: the open asks for the nonce, the drawn nonce is placed, RESP charges the key and queues its check, and
the scheduler starts the check (log entry 10: by CONTEXT_RESUME, the model's choice). -/
theorem challengeIsDrawnAndAnswered : Obligations.ChallengeIsDrawnAndAnswered := by
  refine fun n s => ⟨fun ht hr hs hp he hpol hf hk hent hl => ?_, fun nonce ha hs hst hp => ?_,
    fun ht hst hv hk hc => ?_, fun sid key nonce resp e ha hs hn hp hpick hpref hon => ?_⟩
  · have opens := chOpen_challenge hr hs hp he hf hpol hk hent hl
    refine ⟨fun now => ?_, fun later => ?_⟩
    · rw [enterDraw_now now] at opens
      exact ⟨_, onPage_to ht opens, same_const ht.1 rfl,
        keeps_const ((keeps_up (drbg_changed_keeps _ s.dev)).trans (keeps_up (keeps_modChan n _ _))), rfl,
        chanIs_const ((ChanIs.modChan n _ _).of_chans rfl)⟩
    · obtain ⟨none, queue, busy, rst, keeps⟩ := enterDraw_later (who := .nonce n) later
      rw [none] at opens
      exact ⟨_, onPage_to ht opens, same_const ht.1 rst, keeps_const ((keeps_up keeps).trans (keeps_up (keeps_modChan n _ _))),
        queue, busy, chanIs_const ((ChanIs.modChan n _ _).of_chans (keeps .chans (by decide) (by decide)))⟩
  · exact ⟨_, onDev_to ha (openNonceReady_placed hs hst hp), same_const ha rfl, keeps_const (keeps_modChan n _ s.dev),
      chanIs_const (ChanIs.modChan n _ s.dev)⟩
  · obtain ⟨x, hx⟩ := slot_of_openKeyErr hk
    obtain ⟨units, keeps, taken⟩ := takeResp_spec (n := n) hx
    exact ⟨_, onPage_to ht (chResp_charged hst hv hk hc), same_const ht.1 (takeResp_rst n _ s.dev),
      keeps_const (keeps.trans (keeps_up (keeps_modChan n _ _))), units,
      chanIs_const (taken.trans (ChanIs.modChan n _ _))⟩
  · have kept := selectFor_keeps .hash n true e [12 + e] s.dev
    exact ⟨_, _, onDev_to ha ((contextResume_check hs hn).trans (resumeCheck_starts hp hpick hpref hon)),
      same_const ha rfl,
      keeps_const ((keeps_up kept).trans (keeps_modChan n _ _)),
      chanIs_const ((ChanIs.modChan n _ _).of_chans (kept .chans (by decide) (by decide))), rfl, rfl, rfl⟩

/-! ### The outcome of the check (05 R121, Tables 05.2, 05.6) -/

theorem openMessage_eq (d : Dev) (n : Chn) (nonce : Bytes) : d.openMessage n nonce
    = ascii "AY-OPEN" ++ [0] ++ wordBytes devid ++ uidBytes ++ [BitVec.ofNat 8 n.val]
      ++ [if d.bound n = .A then 0x41 else 0x42] ++ nonce := by
  simp only [Dev.openMessage, beq_iff_eq]

section
variable {n : Chn} {d : Dev} {key nonce resp : Bytes} {x : Step} (hs : d.stopped = false) (hx : x.phase = .run)
  (hst : (d.chan n).state = .opening) (hp : (d.chan n).phase = .checking key nonce resp x)
include hs hx hst hp

theorem openRespResult_right (h : hmac .sha256 key (d.openMessage n nonce) = resp) :
    openRespResult n d = clearResp n (startInit n (leaveStep n true x d)) := by
  simp [openRespResult, hst, hp, hs, hx, (sameBytes_iff _ _).2 h]

theorem openRespResult_wrong (h : hmac .sha256 key (d.openMessage n nonce) ≠ resp) :
    openRespResult n d = modChan n (fun c => { c with lockout := true }) (noteCh n 8 0 0 (respFails n 7 d)) := by
  have wrong : sameBytes (hmac .sha256 key (d.openMessage n nonce)) resp = false :=
    Bool.eq_false_iff.2 (mt (sameBytes_iff _ _).1 h)
  simp [openRespResult, hst, hp, hs, hx, wrong]

end

/-- The check leaves its lane and the channel is initialized from CHCFGTn, response and nonce cleared (05 R109, R121). -/
theorem respAccepted_frame (n : Chn) (x : Step) (d : Dev) {e : Dev}
    (he : e = clearResp n (startInit n (leaveStep n true x d))) :
    (∃ p, e.chan n = { d.chan n with
        prog := p, phase := .init false, cfg := d.chcfgt n
        rings := .opened (fld (d.chcfgt n) 25 24) (d.chan n).rings.recNo, stream := .fresh
        quota := 16 * fld (d.chcfgt n) 19 12, nonceV := false, nonce := [], resp := Vector.replicate 8 0 })
      ∧ OthersKept n d e ∧ Keeps [.chans, .cores] d e ∧ e.rst = d.rst := by
  subst he
  have left := LeaveFrame.step n true x d
  obtain ⟨p, hprog⟩ := left.c
  have cfg : (leaveStep n true x d).chcfgt n = d.chcfgt n := by
    rw [Dev.chcfgt, Dev.chcfgt, left.k .cfg (by decide) (by decide)]
  refine ⟨⟨p, ?_⟩, fun m hm => ?_, ?_, ?_⟩
  · rw [clearResp, chan_modChan_same, startInit_chan, hprog, cfg]
  · rw [clearResp, chan_modChan_other hm, startInit_other n _ m hm, left.o m hm]
  · exact left.k.trans ((keeps_up (startInit_keeps n _)).trans (keeps_up (keeps_modChan n _ _)))
  · rw [clearResp, modChan_rst, startInit_rst, left.r]

/-- An open that its response fails: CLOSED with its code, nonce and response cleared (05 R121). -/
theorem respFails_frame (n : Chn) (err : Nat) (d : Dev) :
    (∃ p, (respFails n err d).chan n = { d.chan n with
        prog := p, state := .closed, openErr := err, nonceV := false, nonce := [], phase := .idle
        resp := Vector.replicate 8 0 })
      ∧ OthersKept n d (respFails n err d) ∧ Keeps [.chans, .cores] d (respFails n err d) := by
  obtain ⟨⟨p, hchan⟩, others, keeps, -⟩ := openFails_frame n err d
  refine ⟨⟨p, ?_⟩, fun m hm => ?_, keeps.trans (keeps_up (keeps_modChan n _ _))⟩
  · rw [respFails, clearResp, chan_modChan_same, hchan]
  · rw [respFails, clearResp, chan_modChan_other hm, others m hm]

/-- The open check refused: what the failure leaves, OPENFAIL recorded, the lockout on (05 R121). -/
theorem respRefused_frame (n : Chn) (d : Dev) {e : Dev}
    (he : e = modChan n (fun c => { c with lockout := true }) (noteCh n 8 0 0 (respFails n 7 d))) :
    (∃ p k, e.chan n = { d.chan n with
        prog := p, state := .closed, openErr := 7, nonceV := false, nonce := [], phase := .idle
        resp := Vector.replicate 8 0, sticky := k, lockout := true } ∧ bit k 8 = true)
      ∧ OthersKept n d e ∧ Keeps [.chans, .cores, .trouble, .journal] d e ∧ e.rst = d.rst := by
  subst he
  obtain ⟨⟨p, hchan⟩, others, keeps⟩ := respFails_frame n 7 d
  obtain ⟨k, hnote⟩ := chan_noteCh n n 8 0 0 (respFails n 7 d)
  have noted := noteCh_bit n 0 (b := 8) (by decide) 0 (respFails n 7 d)
  rw [hnote] at noted
  refine ⟨⟨p, k, ?_, noted⟩, fun m hm => ?_, ?_, ?_⟩
  · rw [chan_modChan_same, hnote, hchan]
  · rw [chan_modChan_other hm, chan_noteCh_other hm, others m hm]
  · exact (keeps_up keeps).trans ((keeps_up (keeps_noteCh n 8 0 0 _)).trans (keeps_up (keeps_modChan n _ _)))
  · simp

/-- With no check under way a failed open changes its channel alone. -/
theorem openFails_idle {n : Chn} {d : Dev} (h : (d.chan n).check = none) (err : Nat) : openFails n err d
    = modChan n (fun c => { c with state := .closed, openErr := err, nonceV := false, nonce := [], phase := .idle }) d := by
  simp only [openFails, leaveCheck, h]

/-- Settles O24: the compared HMAC chooses between the initialization and the failure with its lockout; the time-out
fails an open of which nothing runs. -/
theorem responseDecidesOpen : Obligations.ResponseDecidesOpen := by
  refine fun n s ha => ⟨fun key nonce resp x hs hx hst hp => ?_, fun hst hp => ?_,
    _, onDev_to ha rfl, same_const ha rfl, keeps_const (keeps_modChan n _ s.dev), chanIs_const (ChanIs.modChan n _ s.dev)⟩
  · rw [← openMessage_eq]
    refine ⟨fun right => ?_, fun wrong => ?_⟩
    · obtain ⟨⟨p, chan⟩, others, keeps, rst⟩ := respAccepted_frame n x s.dev rfl
      refine ⟨_, onDev_to ha (openRespResult_right hs hx hst hp right), same_const ha rst, keeps_const keeps,
        others_const others, ?_⟩
      rw [through_chan, chan]
      exact ⟨rfl, hst, rfl, rfl, rfl⟩
    · obtain ⟨⟨p, k, chan, noted⟩, others, keeps, rst⟩ := respRefused_frame n s.dev rfl
      refine ⟨_, onDev_to ha (openRespResult_wrong hs hx hst hp wrong), same_const ha rst, keeps_const keeps,
        others_const others, ?_⟩
      rw [through_chan, chan]
      exact ⟨rfl, rfl, rfl, noted, rfl, rfl⟩
  · have check : (s.dev.chan n).check = none := by rw [Chan.check, hp]
    have ends : (if (s.dev.chan n).state == .opening && (s.dev.chan n).phase == .noncev then openFails n 8 s.dev
        else s.dev) = _ := (if_pos (by rw [hst, hp]; rfl)).trans (openFails_idle check 8)
    exact ⟨_, onDev_to ha ends, same_const ha rfl, keeps_const (keeps_modChan n _ s.dev),
      chanIs_const (ChanIs.modChan n _ s.dev)⟩

end Sys2Proof.Machine
end

section
/-!
Channels: close, reset and drain (O25).
-/

namespace Sys2Proof.Machine

/-! ### CH_CTL.CLOSE (05 Table 05.2) -/

section
variable {n : Chn} {d : Dev}

theorem chClose_opened (h : (d.chan n).state = .opened) :
    chClose n d = modChan n (fun c => { c with state := .draining }) d := by simp [chClose, h]

theorem chClose_opening (h : (d.chan n).state = .opening) : chClose n d = abandonOpen n d := by simp [chClose, h]

theorem chClose_init {b : Bool} (h : (d.chan n).state = .closed) (hp : (d.chan n).phase = .init b) :
    chClose n d = modChan n (fun c => { c with phase := .init true }) d := by simp [chClose, h, hp]

end

/-- An open abandoned: CLOSED, the nonce gone, OPENERR and the response registers as they are. -/
theorem abandonOpen_frame (n : Chn) (d : Dev) :
    (∃ p, (abandonOpen n d).chan n = { d.chan n with
        prog := p, state := .closed, nonceV := false, nonce := [], phase := .idle, rings := (d.chan n).rings.ended
        quota := 0 })
      ∧ OthersKept n d (abandonOpen n d) ∧ Keeps [.chans, .cores] d (abandonOpen n d) := by
  obtain ⟨⟨p, chan⟩, others, keeps, -⟩ := openFails_frame n (d.chan n).openErr d
  refine ⟨⟨p, ?_⟩, fun m hm => ?_, keeps.trans (keeps_up (keeps_modChan n _ _))⟩
  · rw [abandonOpen, chan_modChan_same, chan]
  · rw [abandonOpen, chan_modChan_other hm, others m hm]

/-! ### The sentences of a channel under its reset (05 R111) -/

theorem LeaveFrame.sents {n : Chn} {d e : Dev} (h : LeaveFrame n d e) : (e.chan n).sents = (d.chan n).sents := by
  obtain ⟨p, hp⟩ := h.c
  rw [hp]

theorem foldl_chans {α : Type} {f : Dev → α → Dev} (h : ∀ d a, (f d a).chans = d.chans) (l : List α) (d : Dev) :
    (l.foldl f d).chans = d.chans :=
  List.foldlRecOn (motive := fun e : Dev => e.chans = d.chans) _ _ rfl (fun e he a _ => (h e a).trans he)

theorem zeroTouched_chans (ts : List (Nat × Nat × Nat)) (d : Dev) : (zeroTouched ts d).chans = d.chans :=
  foldl_chans (fun e (t : Nat × Nat × Nat) => setArea_chans t.1 _ e) ts d

theorem freeScratch_chans (hs : List Nat) (d : Dev) : (freeScratch hs d).chans = d.chans := by
  refine foldl_chans (fun e h => ?_) hs d
  split
  · exact (freeBuf_chan _ e).1
  · rfl

theorem unreserve_chans (s : Nat) (d : Dev) : (unreserve s d).chans = d.chans := rfl

/-- The end of a sentence's job leaves the list of sentences. -/
theorem dropJob_sents (n : Chn) (s : Sentence) (j : Job) (d : Dev) :
    ((dropJob n s j d).chan n).sents = (d.chan n).sents := by
  have left := (LeaveFrame.engine n s j d).sents
  have ended : ((if j.phase == .persist then leaveEngine n s j d
      else endProg n j.engine false j.primes.isSome (leaveEngine n s j d)).chan n).sents = (d.chan n).sents := by
    split
    · exact left
    · exact (LeaveFrame.endProg n _ _ _ _).sents.trans left
  rw [dropJob, chan_of (freeScratch_chans _ _)]
  split <;> simpa only [Dev.chan, unreserve_chans, zeroTouched_chans, unfill_chans] using ended

/-- Of the sentences, one dropped is gone and every other stays. -/
theorem dropOne_sents (n : Chn) (s : Sentence) (d : Dev) :
    ((dropOne n s d).chan n).sents = (d.chan n).sents.filter (fun y => y.sid != s.sid) := by
  rw [dropOne, removeSent, chan_modChan_same]
  refine congrArg (List.filter _) ?_
  split
  · exact dropJob_sents n s _ d
  · split
    · exact (LeaveFrame.refund n n _ _ _ _ d).sents
    · rfl

theorem DropFrame.dropSent (n : Chn) (s : Sentence) (d : Dev) : DropFrame n d (dropSent n s d) := by
  simp only [Sys2Proof.Machine.dropSent]
  split
  · exact (DropFrame.dropOne n s d).trans (DropFrame.dropOne n _ _)
  · exact DropFrame.dropOne n s d

theorem DropFrame.markAbort (n : Chn) (sid : Nat) (d : Dev) : DropFrame n d (markAbort n sid d) := by
  unfold Sys2Proof.Machine.markAbort modJob modSent
  exact DropFrame.mod _ rfl rfl

theorem DropFrame.resetSent (n : Chn) (s : Sentence) (d : Dev) : DropFrame n d (resetSent n s d) := by
  unfold Sys2Proof.Machine.resetSent
  split
  · exact DropFrame.dropSent n s d
  · split
    · exact DropFrame.dropSent n _ d
    · split
      · exact DropFrame.dropSent n _ d
      · exact (DropFrame.markAbort n _ d).trans (DropFrame.markAbort n _ _)
  · split
    · exact DropFrame.dropSent n s d
    · exact DropFrame.markAbort n _ d

theorem DropFrame.beginReset (n : Chn) (d : Dev) : DropFrame n d (beginReset n d) := by
  unfold Sys2Proof.Machine.beginReset
  refine DropFrame.trans ?_ (DropFrame.mod _ rfl rfl)
  exact List.foldlRecOn (motive := DropFrame n d) _ _ (DropFrame.refl n d)
    (fun e he s _ => he.trans (DropFrame.resetSent n s e))

/-- Whether a reset of its channel ends a sentence at once: no template, and what it has dispatched can stop. -/
def Sentence.stops (x : Sentence) : Prop := x.parent = none ∧ ∀ j, x.job = some j → j.stopsAtOnce = true

theorem childOf_none {n : Chn} {d : Dev} (h : ∀ y ∈ (d.chan n).sents, y.parent = none) (sid : Nat) :
    d.childOf n sid = none := by
  rw [Dev.childOf, List.find?_eq_none]
  intro y hy
  simp [h y hy]

/-- A sentence that stops at once, in a channel without templates, is dropped alone. -/
theorem resetSent_stops {n : Chn} {x : Sentence} {d : Dev} (hc : d.childOf n x.sid = none) (hx : x.stops) :
    resetSent n x d = dropOne n x d := by
  have alone : dropSent n x d = dropOne n x d := by simp [dropSent, hx.1]
  unfold resetSent
  split
  · exact alone
  · next hchild => rw [hc] at hchild; cases hchild
  · next j hj _ => rw [if_pos (hx.2 j hj), alone]

/-- A sentence that cannot stop at once is marked. -/
theorem resetSent_marks {n : Chn} {x : Sentence} {j : Job} {d : Dev} (hc : d.childOf n x.sid = none)
    (hj : x.job = some j) (hs : j.stopsAtOnce = false) : resetSent n x d = markAbort n x.sid d := by
  simp [resetSent, hj, hc, hs]

/-- After the reset of sentences that stop at once none of them is left, and no other has come. -/
theorem resetSents_left {n : Chn} {l : List Sentence} {d : Dev} (hroots : ∀ y ∈ (d.chan n).sents, y.parent = none)
    (hl : ∀ x ∈ l, x.stops) : ∀ y ∈ ((l.foldl (fun d s => resetSent n s d) d).chan n).sents,
      y ∈ (d.chan n).sents ∧ ∀ x ∈ l, y.sid ≠ x.sid := by
  induction l generalizing d with
  | nil => exact fun y hy => ⟨hy, List.forall_mem_nil _⟩
  | cons x l ih =>
    intro y hy
    rw [List.foldl_cons, resetSent_stops (childOf_none hroots x.sid) (hl x List.mem_cons_self)] at hy
    have dropped : ∀ z ∈ ((dropOne n x d).chan n).sents, z ∈ (d.chan n).sents ∧ z.sid ≠ x.sid := fun z hz => by
      rw [dropOne_sents, List.mem_filter] at hz
      exact ⟨hz.1, by simpa using hz.2⟩
    obtain ⟨hmem, hne⟩ := ih (fun z hz => hroots z (dropped z hz).1) (fun z hz => hl z (List.mem_cons_of_mem x hz)) y hy
    exact ⟨(dropped y hmem).1, List.forall_mem_cons.2 ⟨(dropped y hmem).2, hne⟩⟩

/-! ### CH_CTL.RESET (05 Table 05.2) -/

theorem chReset_active {n : Chn} {d : Dev} (h : (d.chan n).state.active = true) : chReset n d = beginReset n d := by
  unfold chReset
  split
  · rfl
  · rfl
  all_goals next hs => rw [hs] at h; cases h

/-- A reset that begins: RESETTING, the host allocation given up, the sentences as their own resets leave them. -/
theorem beginReset_chan (n : Chn) (d : Dev) :
    ((beginReset n d).chan n).state = .resetting ∧ ((beginReset n d).chan n).alloc = none
      ∧ ((beginReset n d).chan n).sents = (((((d.chan n).sents.filter (·.parent.isNone)).foldl
        (fun d s => resetSent n s d) d)).chan n).sents := by
  rw [beginReset, chan_modChan_same]
  exact ⟨rfl, rfl, rfl⟩

theorem filter_roots {l : List Sentence} (h : ∀ x ∈ l, x.parent = none) : l.filter (·.parent.isNone) = l :=
  List.filter_eq_self.2 fun x hx => by rw [h x hx]; rfl

theorem beginReset_drops {n : Chn} {d : Dev} (h : ∀ x ∈ (d.chan n).sents, x.stops) :
    ((beginReset n d).chan n).sents = [] := by
  have roots : ∀ x ∈ (d.chan n).sents, x.parent = none := fun x hx => (h x hx).1
  rw [(beginReset_chan n d).2.2, filter_roots roots, List.eq_nil_iff_forall_not_mem]
  intro y hy
  obtain ⟨hmem, hne⟩ := resetSents_left roots h y hy
  exact hne y hmem rfl

theorem beginReset_marks {n : Chn} {d : Dev} {x : Sentence} {j : Job} (h : (d.chan n).sents = [x]) (hp : x.parent = none)
    (hj : x.job = some j) (hs : j.stopsAtOnce = false) :
    ((beginReset n d).chan n).sents = [{ x with job := some { j with abort := true } }] := by
  have roots : ∀ y ∈ (d.chan n).sents, y.parent = none := by simp [h, hp]
  rw [(beginReset_chan n d).2.2, filter_roots roots, h, List.foldl_cons, List.foldl_nil,
    resetSent_marks (childOf_none roots x.sid) hj hs, markAbort, modJob, modSent, chan_modChan_same]
  simp [h, hj]

/-! ### The end of a drain and of a reset (05 R110, R111) -/

theorem scrubChan_good {n : Chn} {d : Dev} (h : ∀ k, ((d.chan n).rings.ring k).good = true) : scrubChan d n = d := by
  simp [scrubChan, RingK.all, scrubRing, h]

theorem drainEnds_drained {n : Chn} {d : Dev} (hd : d.drained n = true) (h : ∀ k, ((d.chan n).rings.ring k).good = true) :
    drainEnds n d = freeHeld n d := by
  simp [drainEnds, scrubChan_good h, hd, releaseChan]

theorem dropBuf_power (f : Nat) (d : Dev) : (dropBuf f d).power = d.power := by
  unfold dropBuf
  split <;> rfl

theorem freeAll_power (n : Chn) (d : Dev) : (freeAll n d).power = d.power := by
  refine List.foldlRecOn (motive := fun e : Dev => e.power = d.power) _ _ rfl (fun e he b _ => ?_)
  split
  · exact (dropBuf_power _ e).trans he
  · exact (dropBuf_power _ _).trans he

theorem emptyVolOf_power (n : Chn) (d : Dev) : (emptyVolOf n d).power = d.power := by
  simp only [emptyVolOf, dropArm]
  split
  · split <;> rfl
  · rfl

/-- What a channel gives back concerns no power domain. -/
theorem freeHeld_keeps (n : Chn) (d : Dev) : Keeps [.chans, .pool, .ks, .cores, .supply] d (freeHeld n d) := by
  intro q hq ht
  by_cases hp : q = .power
  · subst hp
    exact (emptyVolOf_power n _).trans (freeAll_power n d)
  · refine (freeHeld_all n d).1.k q ?_ ht
    simp only [List.mem_cons, List.not_mem_nil, or_false, not_or] at hq ⊢
    obtain ⟨h1, h2, h3, h4, h5⟩ := hq
    exact ⟨h1, h2, h3, h4, hp, h5⟩

/-- What the end of a drain and that of a reset have in common: nothing that channel `n` held is left (R110, R111). -/
structure HoldsNothing (n : Chn) (d e : Dev) : Prop where
  areas : ∀ k (h : k < 4), e.cores[k].owner ≠ some n
  keeps : Keeps [.chans, .pool, .ks, .cores, .supply] d e
  others : OthersKept n d e
  rst : e.rst = d.rst
  bufs : ∀ b ∈ e.pool.bufs, b.owner ≠ n
  vol : ∀ k ∈ e.ks.vol, k.owner ≠ n.val

theorem HoldsNothing.freeHeld (n : Chn) (d : Dev) : HoldsNothing n d (freeHeld n d) := by
  obtain ⟨frame, bufs, vol, areas, -⟩ := freeHeld_all n d
  exact ⟨areas, freeHeld_keeps n d, frame.o, frame.r, bufs, vol⟩

theorem HoldsNothing.clearChan (n : Chn) (d : Dev) : HoldsNothing n d (clearChan n d) := by
  obtain ⟨areas, keeps, others, rst, bufs, vol⟩ := HoldsNothing.freeHeld n d
  exact ⟨areas, keeps.trans (keeps_up (keeps_modChan n _ _)),
    fun m hm => (chan_modChan_other hm _ _).trans (others m hm), rst, bufs, vol⟩

theorem vget_replicate {α : Type} (n i : Nat) (x : α) : vget (Vector.replicate n x) i x = x := by
  simp [vget, List.getD_eq_getElem?_getD, List.getElem?_replicate]
  split <;> rfl

/-- Settles O25: CLOSE by its three equations; RESET drops or marks every sentence; both ends give back what the channel
held. -/
theorem closeDrainsAndResetClears : Obligations.CloseDrainsAndResetClears := by
  refine fun n s => ⟨fun ht => ⟨fun hst => ?_, fun hst => ?_, fun b hst hp => ?_⟩, fun ht hact => ?_, ?_⟩
  · exact ⟨_, onPage_to ht (chClose_opened hst), same_const ht.1 rfl, keeps_const (keeps_modChan n _ s.dev),
      chanIs_const (ChanIs.modChan n _ s.dev)⟩
  · obtain ⟨⟨p, chan⟩, others, keeps⟩ := abandonOpen_frame n s.dev
    refine ⟨_, onPage_to ht (chClose_opening hst), same_const ht.1 (abandonOpen_rst n s.dev), keeps_const keeps,
      others_const others, ?_⟩
    rw [through_chan, chan]
    exact ⟨rfl, rfl, rfl, rfl, rfl⟩
  · exact ⟨_, onPage_to ht (chClose_init hst hp), same_const ht.1 rfl, keeps_const (keeps_modChan n _ s.dev),
      chanIs_const (ChanIs.modChan n _ s.dev)⟩
  · have frame := DropFrame.beginReset n s.dev
    obtain ⟨state, alloc, -⟩ := beginReset_chan n s.dev
    refine ⟨_, onPage_to ht (chReset_active hact), ?_⟩
    rw [through_chan, through_flash]
    exact ⟨state, alloc, frame.c.1, frame.c.2, others_const frame.o, frame.k .flash (by decide) (by decide),
      beginReset_drops, fun x j => beginReset_marks⟩
  · rintro c (⟨rfl, hd, hg⟩ | ⟨rfl, hst, hn⟩) ha
    · have gone := HoldsNothing.freeHeld n s.dev
      have chan := (freeHeld_all n s.dev).2.2.2.2
      refine ⟨_, onDev_to ha (drainEnds_drained hd hg), same_const ha gone.rst, keeps_const gone.keeps,
        others_const gone.others, ?_⟩
      rw [through_chan, chan]
      refine ⟨rfl, rfl, rfl, rfl, rfl, rfl, rfl, fun i _ => ?_, (if_pos rfl).symm, (if_pos rfl).symm, (if_pos rfl).symm,
        gone.bufs, gone.vol, gone.areas⟩
      rw [Dev.rec_, through_chan, chan]
      exact vget_replicate 8 i none
    · have gone := HoldsNothing.clearChan n s.dev
      have chan := (clearChan_eq n s.dev).1
      rw [(freeHeld_all n s.dev).2.2.2.2] at chan
      have ends : (if (s.dev.chan n).state == .resetting && (s.dev.chan n).sents.isEmpty then clearChan n s.dev
          else s.dev) = clearChan n s.dev := if_pos (by rw [hst, hn]; rfl)
      refine ⟨_, onDev_to ha ends, same_const ha gone.rst, keeps_const gone.keeps,
        others_const gone.others, ?_⟩
      rw [through_chan, chan]
      refine ⟨rfl, rfl, rfl, rfl, rfl, rfl, rfl, fun i _ => ?_, (if_neg nofun).symm, (if_neg nofun).symm,
        (if_neg nofun).symm, gone.bufs, gone.vol, gone.areas⟩
      rw [Dev.rec_, through_chan, chan]
      exact vget_replicate 8 i none

end Sys2Proof.Machine
end

section
/-!
The channel configuration record (O26).
-/

namespace Sys2Proof.Machine

theorem cfg_changed_keeps (c : ConfigRec) (d : Dev) : Keeps [.cfg] d { d with cfg := c } := by
  intro q hq _
  cases q <;> simp [Part.same] at hq ⊢

/-! ### A write of CHCFGTn (05 R116, R118) -/

/-- A word of no reserved value is taken less its reserved bits. -/
theorem chcfgMerge_legal {w : Word} (hpol : fld w 29 28 ≤ 1) (hkey : fld w 7 0 < 0xF0) (old : Word) :
    chcfgMerge old w = (w &&& 0xFBFFF0FF, false) := by
  simp [chcfgMerge, chcfgMask, cfgPolicy, Nat.not_le.2 (Nat.lt_succ_of_le hpol), Nat.not_le.2 hkey]

/-- CHCFGTn changed to `v`, its bit of DIRTY set. -/
def ConfigRec.change (c : ConfigRec) (n : Chn) (v : Word) : ConfigRec :=
  { c with chcfgt := c.chcfgt.set n.val v, dirty := c.dirty ||| BitVec.ofNat 16 (2 ^ n.val) }

theorem writeChcfgt_changed {n : Chn} {w v : Word} {d : Dev} (hl : d.cfgLocked = false)
    (hm : chcfgMerge d.cfg.chcfgt[n.val] w = (v, false)) (hst : (d.chan n).state ≠ .opening)
    (hq : quotaSum (d.cfg.chcfgt.set n.val v).toList ≤ 4096) (hne : d.cfg.chcfgt[n.val] ≠ v) :
    writeChcfgt .A n w d = wantConfigWrite { d with cfg := d.cfg.change n v } := by
  have quotas := Nat.not_lt.2 hq
  simp [writeChcfgt, Dev.chcfgt, hl, hm, hst, quotas, Dev.wantsRecord, hne, ConfigRec.change]

/-- A record write asked for while none runs starts now. -/
theorem wantConfigWrite_starts {d : Dev} (hr : d.otp.rooted = true) (hb : d.cfg.busy = false) :
    wantConfigWrite d = { d with cfg := { d.cfg with busy := true, snap := d.cfg.words } } := by
  simp [wantConfigWrite, hr, hb]

theorem wantConfigWrite_unrooted {d : Dev} (hr : d.otp.rooted = false) :
    wantConfigWrite d = { d with cfg := { d.cfg with err := true } } := by
  simp [wantConfigWrite, hr]

/-! ### The written record (05 R118, Table 05.10) -/

theorem vget_of_lt {α : Type} {n i : Nat} (v : Vector α n) (h : i < n) (x : α) : vget v i x = v[i] := by
  simp [vget, h]

/-- Against a record of the registers as they stand no bit of DIRTY is set. -/
theorem dirtyAgainst_words (c : ConfigRec) : c.dirtyAgainst c.words = 0 := by
  have clean : ∀ i ∈ List.range 16, (if vget c.chcfgt i 0 = vget c.words i 0 then 0 else 2 ^ i) = 0 := by
    intro i hi
    have hi := List.mem_range.1 hi
    rw [vget_of_lt c.words (by omega)]
    simp [ConfigRec.words, hi]
  rw [ConfigRec.dirtyAgainst, List.map_congr_left clean]
  rfl

theorem writeCopy_cfg (r : TwoCopies) (mk : Nat → Nat → Bytes) (d : Dev) : (writeCopy r mk true d).cfg = d.cfg :=
  (writeCopy_frame r mk d).2 .cfg (by decide) (by decide)

/-- A record written and verified, no further write asked for. -/
theorem configWriteEnds_verified {d : Dev} (hb : d.cfg.busy = true) (hg : d.cfg.again = false)
    (hl : d.supply.level < 3) (hu : d.flashUp = true) :
    configWriteEnds [] d
      = { writeCopy d.configCopies (configRecord d.otp.cfgKey d.cfg.snap.toList) true d with
          cfg := { d.cfg with dirty := d.cfg.dirtyAgainst d.cfg.snap, err := false, busy := false } } := by
  simp [configWriteEnds, hb, Nat.not_le.2 hl, outcome_nil hu, writeCopy_cfg, hg]

/-- Settles O26: a legal write changes the word and its DIRTY bit and asks for a record write, which ROOT makes possible;
the record verified, the registers are compared with what was written. -/
theorem configurationIsWrittenAndStored : Obligations.ConfigurationIsWrittenAndStored := by
  refine ⟨fun n w s ht hl hpol hkey hst hb hq hne => ?_, fun s ha hb hg hl hu hsnap => ?_⟩
  · have changed := writeChcfgt_changed hl (chcfgMerge_legal hpol hkey _) hst hq hne
    have keeps : ∀ c, Keeps [.cfg] s.dev (s.through (fun _ => { s.dev with cfg := c })).dev :=
      fun c => keeps_const (cfg_changed_keeps c s.dev)
    cases hr : s.dev.otp.rooted with
    | true =>
      have starts := changed.trans (wantConfigWrite_starts hr hb)
      exact ⟨_, onWrite_to ht starts, same_const ht.1 rfl, keeps _, rfl, rfl, fun _ => ⟨rfl, rfl⟩, nofun, rfl, rfl⟩
    | false =>
      have fails := changed.trans (wantConfigWrite_unrooted hr)
      exact ⟨_, onWrite_to ht fails, same_const ht.1 rfl, keeps _, rfl, rfl, nofun, fun _ => ⟨hb, rfl⟩, rfl, rfl⟩
  · have ends := configWriteEnds_verified hb hg hl hu
    have frame := writeCopy_frame s.dev.configCopies (configRecord s.dev.otp.cfgKey s.dev.cfg.snap.toList) s.dev
    rw [hsnap, dirtyAgainst_words, ← hsnap] at ends
    generalize writeCopy _ _ true s.dev = stored at ends frame
    exact ⟨_, onDev_to ha ends, same_const ha frame.1,
      keeps_const ((keeps_up frame.2).trans (keeps_up (cfg_changed_keeps _ stored))), rfl, rfl, rfl, rfl⟩

end Sys2Proof.Machine
end

section
/-!
Host writes of the ring pointers (O29).
-/

namespace Sys2Proof.Machine

/-- A pointer write of a value inside the ring that its rule allows is carried out. -/
theorem ptrWrite_allowed {n : Chn} {k : RingK} {v : Nat} {ok : RingRegs → Bool} {d : Dev} (put : Dev → Dev)
    (hgood : ((d.chan n).rings.ring k).good = true) (hv : v < ((d.chan n).rings.ring k).size)
    (hok : ok ((d.chan n).rings.ring k) = true) : ptrWrite n k v ok put d = put d := by
  simp [ptrWrite, hgood, hv, hok]

/-- A pointer write of a value outside the ring, or one its rule forbids, records RSVDVAL and moves nothing. -/
theorem ptrWrite_refused {n : Chn} {k : RingK} {v : Nat} {ok : RingRegs → Bool} {d : Dev} (put : Dev → Dev)
    (hgood : ((d.chan n).rings.ring k).good = true)
    (bad : ((d.chan n).rings.ring k).size ≤ v ∨ ok ((d.chan n).rings.ring k) = false) :
    ptrWrite n k v ok put d = noteLink (d.bound n) 12 d := by
  rcases bad with hv | hok
  · simp [ptrWrite, hgood, Nat.not_lt.2 hv]
  · simp [ptrWrite, hgood, hok]

/-- A page write that changes one ring's registers and bookkeeping changes nothing else. -/
theorem onPage_modRings {n : Chn} {f : Dev → Dev} {s : State} (ht : s.takes (s.dev.bound n)) {g : Rings → Rings}
    (e : f s.dev = modRings n g s.dev) :
    ∃ t, onPage n f s = .next t ∧ SameShell s t ∧ Keeps [.chans] s.dev t.dev
      ∧ ChanIs n (fun c => { c with rings := g c.rings }) s.dev t.dev :=
  ⟨_, onPage_to ht e, same_const ht.1 rfl, keeps_const (keeps_modRings n g s.dev), chanIs_const (.modRings n g s.dev)⟩

/-- A page write refused with RSVDVAL changes the sticky registers and the journal alone. -/
theorem onPage_refused {n : Chn} {f : Dev → Dev} {s : State} (ht : s.takes (s.dev.bound n))
    (e : f s.dev = noteLink (s.dev.bound n) 12 s.dev) :
    ∃ t, onPage n f s = .next t ∧ SameShell s t ∧ Keeps [.trouble, .journal] s.dev t.dev
      ∧ bit t.dev.trouble.g0 12 = true :=
  ⟨_, onPage_to ht e, same_const ht.1 (noteLink_rst ..), keeps_const (keeps_noteLink _ _ _), by
    simpa using noteLink_bit (s.dev.bound n) (by decide : 12 < 32) s.dev⟩

/-- A start is a listed record or pad at that offset. -/
theorem any_start_iff (v : Nat) (starts : List (Nat × Bool)) :
    starts.any (fun x => x.1 == v) = true ↔ ∃ b, (v, b) ∈ starts := by
  simp [List.any_eq_true]

/-- The rule for a SUB TAIL: at most the free entries are added. -/
def tailRule (v : Nat) (r : RingRegs) : Bool := (v + r.size - r.tail.nat) % r.size ≤ r.free

/-- The rule for the CPL HEAD: at most the posted records return. -/
def headRule (v : Nat) (r : RingRegs) : Bool := (v + r.size - r.head.nat) % r.size ≤ r.used

theorem subTail_opened {n : Chn} {d : Dev} (h : (d.chan n).state = .opened) (prio : Bool) (v : Nat) :
    subTail n prio v d = ptrWrite n (if prio then .subp else .subb) v (tailRule v)
      (modRings n (fun r => r.setRing (if prio then .subp else .subb)
        { r.ring (if prio then .subp else .subb) with tail := .of v })) d :=
  if_neg (by simp [h])

theorem cplHead_active {n : Chn} {d : Dev} (h : (d.chan n).state.active = true) (v : Nat) :
    cplHead n v d = ptrWrite n .cpl v (headRule v)
      (modRings n (fun r => { r with
        cpl := { r.cpl with head := .of v }
        notify := r.notify.drop ((v + r.cpl.size - r.cpl.head.nat) % r.cpl.size) })) d :=
  if_neg (by simp [h])

theorem outHead_active {n : Chn} {d : Dev} (h : (d.chan n).state.active = true) (v : Nat) :
    outHead n v d = ptrWrite n .out v (fun r => v == r.tail.nat || (d.chan n).rings.starts.any (fun x => x.1 == v))
      (modRings n (fun r => r.headTo v)) d :=
  if_neg (by simp [h])

/-- Settles O29: each of the three writes is a pointer write with its own rule, allowed or refused as the rule says. -/
theorem hostPointerWritesMovePointers : Obligations.HostPointerWritesMovePointers := by
  intro n w s ht
  refine ⟨fun prio hopen r hr hgood => ?_, fun hact r hr hgood => ?_, fun hact r hr hgood => ?_⟩
  · subst hr
    have opened := subTail_opened hopen prio (fld w 13 0)
    refine ⟨fun hv hroom => ?_, fun bad => ?_⟩
    · exact onPage_modRings ht (opened.trans (ptrWrite_allowed _ hgood hv (decide_eq_true hroom)))
    · exact onPage_refused ht (opened.trans (ptrWrite_refused _ hgood
        (bad.imp_right fun h => decide_eq_false (Nat.not_le.2 h))))
  · subst hr
    have active := cplHead_active hact (fld w 13 0)
    refine ⟨fun hv hposted => ?_, fun bad => ?_⟩
    · exact onPage_modRings ht (active.trans (ptrWrite_allowed _ hgood hv (decide_eq_true hposted)))
    · exact onPage_refused ht (active.trans (ptrWrite_refused _ hgood
        (bad.imp_right fun h => decide_eq_false (Nat.not_le.2 h))))
  · subst hr
    have active := outHead_active hact (fld w 13 0)
    refine ⟨fun hv hstart => ?_, fun bad => ?_⟩
    · have moved := active.trans (ptrWrite_allowed _ hgood hv (by
        rw [Bool.or_eq_true, any_start_iff, beq_iff_eq]; exact hstart))
      obtain ⟨t, ex, same, keeps, is, others⟩ := onPage_modRings ht moved
      exact ⟨t, ex, same, keeps, others, by rw [is]; rfl, by rw [is]; rfl, by rw [is]; rfl, by rw [is]; rfl⟩
    · refine onPage_refused ht (active.trans (ptrWrite_refused _ hgood (bad.imp_right fun ⟨hne, hno⟩ => ?_)))
      rw [Bool.eq_false_iff]
      intro h
      rw [Bool.or_eq_true, any_start_iff, beq_iff_eq] at h
      exact h.elim hne fun ⟨b, hb⟩ => hno b hb

end Sys2Proof.Machine
end

section
/-!
Submits and flushes of the stream banks (O32).
-/

namespace Sys2Proof.Machine

/-! What the steps of a stream leave as it is. -/

@[simp] theorem setBank_mem (s : Stream) (b : Nat) (x : Bank) : (s.setBank b x).mem = s.mem := by
  unfold Stream.setBank; split <;> rfl
@[simp] theorem setBank_submitted (s : Stream) (b : Nat) (x : Bank) : (s.setBank b x).submitted = s.submitted := by
  unfold Stream.setBank; split <;> rfl
@[simp] theorem setBank_owned (s : Stream) (b : Nat) (x : Bank) : (s.setBank b x).owned = s.owned := by
  unfold Stream.setBank; split <;> rfl

/-- The stream's bytes and its two bounds, which banks and ranges do not bear on. -/
def Stream.Bounds (s t : Stream) : Prop := t.mem = s.mem ∧ t.submitted = s.submitted ∧ t.owned = s.owned

theorem setBank_bounds (s : Stream) (b : Nat) (x : Bank) : s.Bounds (s.setBank b x) := by simp [Stream.Bounds]

theorem Stream.Bounds.trans {s t u : Stream} (h : s.Bounds t) (h' : t.Bounds u) : s.Bounds u := by
  obtain ⟨m, b, o⟩ := h
  obtain ⟨m', b', o'⟩ := h'
  exact ⟨m'.trans m, b'.trans b, o'.trans o⟩

theorem release_bounds (s : Stream) (b : Nat) : s.Bounds (s.release b) := by
  rw [Stream.release]
  split
  · exact setBank_bounds s b _
  · exact ⟨rfl, rfl, rfl⟩

theorem refill_bounds (s : Stream) : s.Bounds s.refill := by
  rw [Stream.refill]
  split
  · exact ⟨rfl, rfl, rfl⟩
  · split
    · exact setBank_bounds s 0 _
    · split
      · exact setBank_bounds s 1 _
      · exact ⟨rfl, rfl, rfl⟩

theorem settle_bounds (s : Stream) : s.Bounds s.settle := by
  have ranges (rs : List StreamRange) : s.Bounds { s with ranges := rs } := ⟨rfl, rfl, rfl⟩
  exact (ranges _).trans ((release_bounds _ 0).trans ((release_bounds _ 1).trans (refill_bounds _)))

theorem cut_bounds (s : Stream) (b : Nat) : s.Bounds (s.cut b) := by
  rw [Stream.cut]
  split
  · split <;> exact setBank_bounds s b _
  · split
    · exact setBank_bounds s b _
    · exact ⟨rfl, rfl, rfl⟩

/-- A submit moves the submitted bound by its count and changes no byte. -/
theorem submit_bounds (s : Stream) (b count : Nat) :
    (s.submit b count).mem = s.mem ∧ (s.submit b count).submitted = s.submitted + count := by
  obtain ⟨m, u, _⟩ := (refill_bounds { s.setBank b ⟨.submitted, count, s.submitted⟩ with
    submitted := s.submitted + count }).trans (settle_bounds _)
  exact ⟨m.trans (setBank_mem ..), u⟩

/-- A flush lowers the submitted bound to the owned one and changes no byte. -/
theorem flush_bounds (s : Stream) :
    s.flush.mem = s.mem ∧ s.flush.submitted = min s.submitted s.owned ∧ s.flush.owned = s.owned := by
  obtain ⟨cm, cs, co⟩ := (cut_bounds s 0).trans (cut_bounds (s.cut 0) 1)
  obtain ⟨m, u, o⟩ := settle_bounds
    { (s.cut 0).cut 1 with submitted := min ((s.cut 0).cut 1).submitted ((s.cut 0).cut 1).owned }
  exact ⟨m.trans cm, u.trans (by rw [cs, co]), o.trans co⟩

/-- The lowest-numbered FREE bank is taken first, so a FREE bank 0 after a refill means that bank 1 is FILL. -/
theorem refill_free (s : Stream) (h : s.refill.bank0.st = .free) : s.refill.bank1.st = .fill := by
  rcases s with ⟨m, ⟨s0, c0, t0⟩, ⟨s1, c1, t1⟩, u, o, r⟩
  cases s0 <;> cases s1 <;> simp_all [Stream.refill, Stream.fillBank, Stream.setBank]

theorem flush_free (s : Stream) : s.flush.bank0.st = .free → s.flush.bank1.st = .fill := by
  have refills : ∃ t : Stream, s.flush = t.refill := ⟨_, rfl⟩
  obtain ⟨t, ht⟩ := refills
  rw [ht]
  exact refill_free t

/-! CH_BANKCTL with SUBMIT. -/

theorem bankSubmit_fills {n : Chn} {d : Dev} (ha : (d.chan n).state.active = true) {b count : Nat}
    (hb : (d.chan n).stream.fillBank = some b) (h1 : 1 ≤ count) (hle : count ≤ ((d.chan n).stream.bank b).count) :
    bankSubmit n count d = modChan n (fun c => { c with stream := c.stream.submit b count }) d := by
  simp [bankSubmit, ha, hb, Nat.ne_of_gt h1, Nat.not_lt.2 hle]

theorem bankSubmit_none {n : Chn} {d : Dev} (ha : (d.chan n).state.active = true)
    (hb : (d.chan n).stream.fillBank = none) (count : Nat) : bankSubmit n count d = noteCh n 6 0 0 d := by
  simp [bankSubmit, ha, hb]

theorem bankSubmit_zero {n : Chn} {d : Dev} (ha : (d.chan n).state.active = true) {b : Nat}
    (hb : (d.chan n).stream.fillBank = some b) : bankSubmit n 0 d = noteLink (d.bound n) 12 d := by
  simp [bankSubmit, ha, hb]

/-- SUBMIT put into the word touches no lower bit. -/
theorem bankCtl_submit {n : Chn} {w : Word} (hw : bit w 30 = false) (d : Dev) :
    bankCtl n (setBit w 31) d = bankSubmit n (fld w 13 0) d := by
  have flush : bit (setBit w 31) 30 = false := by simpa [bit, setBit] using hw
  have count : fld (setBit w 31) 13 0 = fld w 13 0 := by
    have h : ((setBit w 31).toNat) % 2 ^ 14 = w.toNat % 2 ^ 14 := by
      have : (setBit w 31).setWidth 14 = w.setWidth 14 := by
        ext i hi
        simp [setBit]
      simpa using congrArg BitVec.toNat this
    simpa [fld] using h
  rw [bankCtl, flush, bit_setBit (by decide), count]
  rfl

/-- Settles O32: the submit and the flush as the model carries them out, with what each does to the two bounds. -/
theorem streamBanksSubmitAndFlush : Obligations.StreamBanksSubmitAndFlush := by
  intro n s ht ha
  refine ⟨fun w b hw hb h1 hle => ?_, fun w hw hb => ?_, fun w b hw hb h0 => ?_, ?_⟩
  · have submits := (bankCtl_submit hw s.dev).trans (bankSubmit_fills ha hb h1 hle)
    obtain ⟨hm, hs⟩ := submit_bounds (s.dev.chan n).stream b (fld w 13 0)
    exact ⟨_, onPage_to ht submits, same_const ht.1 rfl, keeps_const (keeps_modChan _ _ _), chanIs_const (.modChan ..),
      by simp [hs], by simp [hm]⟩
  · have records := (bankCtl_submit hw s.dev).trans (bankSubmit_none ha hb _)
    obtain ⟨st, hc⟩ := chan_noteCh n n 6 0 0 s.dev
    exact ⟨_, onPage_to ht records, same_const ht.1 (noteCh_rst ..), by
        rw [through_chan]
        exact noteCh_bit n 0 (by decide) 0 s.dev,
      keeps_const (keeps_up (keeps_noteCh _ _ _ _ _)), by
        rw [through_chan, hc]⟩
  · have records := (bankCtl_submit hw s.dev).trans (h0 ▸ bankSubmit_zero ha hb)
    obtain ⟨t, ex, same, keeps, noted⟩ := onPage_refused ht records
    exact ⟨t, ex, same, noted, keeps⟩
  · have flushes : bankFlush n s.dev = modChan n (fun c => { c with stream := c.stream.flush }) s.dev := by
      simp [bankFlush, ha]
    obtain ⟨hm, hs, ho⟩ := flush_bounds (s.dev.chan n).stream
    have after : ((modChan n (fun c => { c with stream := c.stream.flush }) s.dev).chan n).stream
        = (s.dev.chan n).stream.flush := by rw [chan_modChan_same]
    exact ⟨_, onPage_to ht flushes, same_const ht.1 rfl, keeps_const (keeps_modChan _ _ _), chanIs_const (.modChan ..),
      by rw [through_chan, after, hs], by rw [through_chan, after, ho], by
        rw [through_chan, after]
        exact flush_free _, by rw [through_chan, after, hm]⟩

end Sys2Proof.Machine
end

section
/-!
The scrub of the pointer pairs (O30).
-/

namespace Sys2Proof.Machine

/-- A fold that acts at one member only, and not again once it has acted, acts once. -/
theorem foldl_once {α β : Type} {f : β → α → β} {d e : β} {a : α} (others : ∀ b, b ≠ a → f d b = d) (acts : f d a = e)
    (after : ∀ b, f e b = e) : ∀ {l : List α}, a ∈ l → l.foldl f d = e
  | b :: l, h => by
    rw [List.foldl_cons]
    by_cases hb : b = a
    · subst hb
      rw [acts]
      exact List.foldl_fixed' after l
    · rw [others b hb]
      exact foldl_once others acts after ((List.mem_cons.1 h).resolve_left (Ne.symm hb))

/-! What a ring reset does to the rings. -/

theorem resetRing_ring_same (r : Rings) (k : RingK) :
    (r.resetRing k).ring k = .fresh (r.ring k).base (r.ring k).size := by
  cases k <;> rfl

theorem resetRing_ring_other (r : Rings) {j k : RingK} (h : j ≠ k) : (r.resetRing k).ring j = r.ring j := by
  cases k <;> cases j <;> simp [Rings.resetRing, Rings.setRing, Rings.ring] at h ⊢

theorem resetRing_mem (r : Rings) (k : RingK) :
    (r.resetRing k).mem = r.mem.wipe (r.ring k).base ((r.ring k).bytes k) := by
  cases k <;> rfl

theorem fresh_good (base size : Nat) : (RingRegs.fresh base size).good = true := by
  simp [RingRegs.good, RingRegs.fresh, PtrPair.good, PtrPair.of]

/-! FAULT24 depends on the stamps and the seconds counter, which the sticky records leave as they are. -/

theorem fault24_of {d e : Dev} (hs : e.trouble.stamps = d.trouble.stamps) (ht : e.journal.seconds = d.journal.seconds) :
    e.fault24 = d.fault24 := by
  unfold Dev.fault24 Dev.age
  rw [hs, ht]

theorem queueEntry_fault24 (e : JEntry) (d : Dev) : (queueEntry e d).fault24 = d.fault24 := by
  unfold queueEntry
  split <;> exact fault24_of rfl rfl

theorem setG_stamps (t : Trouble) (k : Nat) (w : Word) : (t.setG k w).stamps = t.stamps := by
  unfold Trouble.setG
  split <;> rfl

theorem noteGx_fault24 (k b e : Nat) (w : Word) (d : Dev) : (noteGx k b e w d).fault24 = d.fault24 := by
  unfold noteGx
  split
  · rfl
  · exact (queueEntry_fault24 _ _).trans (fault24_of (setG_stamps ..) rfl)

theorem noteCh_fault24 (n : Chn) (b e : Nat) (w : Word) (d : Dev) : (noteCh n b e w d).fault24 = d.fault24 := by
  unfold noteCh
  split
  · rfl
  · exact (queueEntry_fault24 _ _).trans (fault24_of rfl rfl)

/-- A stamp that brings FAULT24 to 17 raises FAULTRATE. -/
theorem stampFault_raises {d : Dev} (before : d.fault24 < 17) (after : 17 ≤ (stampFault d).fault24) :
    bit (stampFault d).trouble.why 4 = true := by
  rw [stampFault, judgeFault24_fault24] at after
  simp only [stampFault, judgeFault24, before, after, decide_true, Bool.and_self, if_true]
  exact raiseWhy_bit 0 (by decide) _

theorem stampFault_g (k b : Nat) {d : Dev} (h : bit (d.trouble.g k) b = true) :
    bit ((stampFault d).trouble.g k) b = true := by
  have stamped : ∀ l, bit (({ d.trouble with stamps := l } : Trouble).g k) b = true := fun l => by
    unfold Trouble.g at *
    split at h <;> exact h
  unfold stampFault judgeFault24 raiseWhy
  dsimp only
  split
  · split
    · exact stamped _
    · refine queueEntry_bit _ ?_
      have := stamped (List.drop ((d.trouble.stamps ++ [d.journal.seconds]).length - 63)
        (d.trouble.stamps ++ [d.journal.seconds]))
      unfold Trouble.g at *
      split at this <;> exact this
  · exact stamped _

/-! The reset of one ring on a mismatch. -/

theorem resetOnMismatch_other {n m : Chn} (h : m ≠ n) (k : RingK) (d : Dev) :
    (resetOnMismatch n k d).chan m = d.chan m := by
  simp only [resetOnMismatch, chan_of (stampFault_chans _), chan_of (noteG_chans ..)]
  rw [chan_noteCh_other h, chan_modChan_other h]

/-- Of its channel a ring reset changes the rings, the marks of its sentences and CH_STICKY. -/
theorem resetOnMismatch_chan (n : Chn) (k : RingK) (d : Dev) :
    ∃ x, bit x k.num = true ∧ (resetOnMismatch n k d).chan n =
      { d.chan n with
        rings := (d.chan n).rings.resetRing k
        sents := markSents k (((d.chan n).rings.openRec).map (·.sid)) (d.chan n).sents
        sticky := x } := by
  simp only [resetOnMismatch, chan_of (stampFault_chans _), chan_of (noteG_chans ..)]
  have recorded := fun d => noteCh_bit n 0 (show k.num < 32 by cases k <;> decide) 0 d
  refine (chan_noteCh n n k.num 0 0 _).elim fun x hx => ⟨x, ?_, hx.trans (by rw [chan_modChan_same])⟩
  rw [← show _ = x from congrArg Chan.sticky hx]
  exact recorded _

theorem resetOnMismatch_g2 (n : Chn) (k : RingK) (d : Dev) : bit (resetOnMismatch n k d).trouble.g2 9 = true :=
  stampFault_g 2 9 (noteG_bit 2 (by decide) _)

theorem resetOnMismatch_why {n : Chn} {k : RingK} {d : Dev} (before : d.fault24 < 17)
    (after : 17 ≤ (resetOnMismatch n k d).fault24) : bit (resetOnMismatch n k d).trouble.why 4 = true := by
  refine stampFault_raises ?_ after
  rwa [noteG, noteGx_fault24, noteCh_fault24, fault24_of rfl rfl]

theorem keeps_resetOnMismatch (n : Chn) (k : RingK) (d : Dev) :
    Keeps [.chans, .trouble, .journal] d (resetOnMismatch n k d) := by
  intro q hq _
  cases q <;> simp [Part.same, resetOnMismatch] at hq ⊢

/-! The scrub. -/

theorem scrubRing_good {n : Chn} {d : Dev} {k : RingK} (h : ((d.chan n).rings.ring k).good = true) :
    scrubRing n d k = d := by
  rw [scrubRing, h, if_pos rfl]

theorem scrubRing_bad {n : Chn} {d : Dev} {k : RingK} (h : ((d.chan n).rings.ring k).good = false) :
    scrubRing n d k = resetOnMismatch n k d := by
  rw [scrubRing, h, if_neg (by decide)]

/-- A channel whose active rings all have good pairs is not touched. -/
theorem scrubChan_calm {d : Dev} {n : Chn}
    (h : ∀ k, (d.chan n).state.active = true → ((d.chan n).rings.ring k).good = true) : scrubChan d n = d := by
  cases ha : (d.chan n).state.active with
  | false => simp [scrubChan, ha]
  | true => exact scrubChan_good fun k => h k ha

theorem scrub_calm {d : Dev} (h : ∀ n k, (d.chan n).state.active = true → ((d.chan n).rings.ring k).good = true) :
    scrub none d = d :=
  List.foldl_fixed' (fun n => scrubChan_calm (h n)) allChns

theorem resetOnMismatch_good {d : Dev} {n : Chn} {k : RingK}
    (h : ∀ m j, (m, j) ≠ (n, k) → (d.chan m).state.active = true → ((d.chan m).rings.ring j).good = true) (m : Chn)
    (j : RingK) (ha : ((resetOnMismatch n k d).chan m).state.active = true) :
    (((resetOnMismatch n k d).chan m).rings.ring j).good = true := by
  by_cases hm : m = n
  · subst hm
    obtain ⟨x, -, hx⟩ := resetOnMismatch_chan m k d
    rw [hx] at ha ⊢
    by_cases hj : j = k
    · subst hj
      rw [resetRing_ring_same]
      exact fresh_good _ _
    · rw [resetRing_ring_other _ hj]
      exact h m j (by simp [hj]) ha
  · rw [resetOnMismatch_other hm] at ha ⊢
    exact h m j (by simp [hm]) ha

/-- Where one ring alone mismatches, the scrub is the reset of that ring. -/
theorem scrub_resets {d : Dev} {n : Chn} {k : RingK} (ha : (d.chan n).state.active = true)
    (bad : ((d.chan n).rings.ring k).good = false)
    (h : ∀ m j, (m, j) ≠ (n, k) → (d.chan m).state.active = true → ((d.chan m).rings.ring j).good = true) :
    scrub none d = resetOnMismatch n k d := by
  have after := resetOnMismatch_good h
  obtain ⟨x, -, hx⟩ := resetOnMismatch_chan n k d
  have active : ((resetOnMismatch n k d).chan n).state.active = true := by rw [hx]; exact ha
  have within : RingK.all.foldl (scrubRing n) d = resetOnMismatch n k d :=
    foldl_once (fun j hj => scrubRing_good (h n j (by simp [hj]) ha)) (scrubRing_bad bad)
      (fun j => scrubRing_good (after n j active)) (by cases k <;> decide)
  have here : scrubChan d n = resetOnMismatch n k d := by rw [scrubChan, ha, if_pos rfl, within]
  exact foldl_once (fun m hm => scrubChan_calm fun j => h m j (by simp [hm])) here
    (fun m => scrubChan_calm (after m)) (List.mem_finRange n)

/-- Settles O30: the scrub is the identity, or the one reset. -/
theorem scrubResetsMismatchedRing : Obligations.ScrubResetsMismatchedRing := by
  refine fun s hs => ⟨fun h => ?_, fun n k ha bad h => ?_⟩
  · have calm := scrub_calm h
    exact ⟨_, onDev_to hs calm, same_const hs rfl, keeps_const (Keeps.refl _ _)⟩
  · have resets := scrub_resets ha bad h
    obtain ⟨x, hbit, hx⟩ := resetOnMismatch_chan n k s.dev
    refine ⟨_, onDev_to hs resets, same_const hs (resetOnMismatch_rst ..), keeps_const (keeps_resetOnMismatch _ _ _),
      others_const (fun m hm => resetOnMismatch_other hm k s.dev), ?_⟩
    rw [through_chan, through_trouble, hx]
    have counted : (s.through (fun _ => resetOnMismatch n k s.dev)).dev.fault24 = (resetOnMismatch n k s.dev).fault24 :=
      fault24_of (congrArg _ (through_trouble ..)) (congrArg _ (through_journal ..))
    exact ⟨hbit, resetOnMismatch_g2 n k s.dev, fun before after => resetOnMismatch_why before (after.trans_eq counted), rfl,
      resetRing_ring_same _ k, fun j hj => resetRing_ring_other _ hj, resetRing_mem _ k⟩

end Sys2Proof.Machine
end

section
/-!
SUPPORT. How a clause ends: what its record, the rest of its sentence, its output and its effects change.
-/

namespace Sys2Proof.Machine

/-! ### Moves of a channel's rings and sentences -/

/-- From `d` to `e`, of all channels `n` alone changes, its rings by `f`, its sentences by `g`, and no bit of CH_STICKY is
cleared; of the rest of the core `ps` changes. -/
structure RingMove (n : Chn) (ps : List Part) (f : Rings → Rings) (g : List Sentence → List Sentence) (d e : Dev) :
    Prop where
  keeps : Keeps ps d e
  others : OthersKept n d e
  rings : (e.chan n).rings = f (d.chan n).rings
  sents : (e.chan n).sents = g (d.chan n).sents
  sticky : ∀ b, bit (d.chan n).sticky b = true → bit (e.chan n).sticky b = true

theorem RingMove.refl (n : Chn) (ps : List Part) (d : Dev) : RingMove n ps id id d d :=
  ⟨Keeps.refl _ _, fun _ _ => rfl, rfl, rfl, fun _ h => h⟩

theorem RingMove.mono {n : Chn} {ps qs : List Part} {f : Rings → Rings} {g : List Sentence → List Sentence} {d e : Dev}
    (h : RingMove n ps f g d e) (hs : ∀ p ∈ ps, p ∈ qs := by decide) : RingMove n qs f g d e :=
  ⟨h.keeps.mono hs, h.others, h.rings, h.sents, h.sticky⟩

theorem RingMove.trans {n : Chn} {ps : List Part} {f f' : Rings → Rings} {g g' : List Sentence → List Sentence}
    {d e k : Dev} (h : RingMove n ps f g d e) (h' : RingMove n ps f' g' e k) :
    RingMove n ps (f' ∘ f) (g' ∘ g) d k :=
  ⟨h.keeps.trans h'.keeps, fun m hm => (h'.others m hm).trans (h.others m hm), by rw [h'.rings, h.rings]; rfl, by
    rw [h'.sents, h.sents]; rfl, fun b hb => h'.sticky b (h.sticky b hb)⟩

/-- A move before which, or after which, the rings and sentences stay. -/
theorem RingMove.after {n : Chn} {ps : List Part} {f : Rings → Rings} {g : List Sentence → List Sentence}
    {d e k : Dev} (h' : RingMove n ps f g e k) (h : RingMove n ps id id d e) : RingMove n ps f g d k := h.trans h'

theorem RingMove.before {n : Chn} {ps : List Part} {f : Rings → Rings} {g : List Sentence → List Sentence}
    {d e k : Dev} (h : RingMove n ps f g d e) (h' : RingMove n ps id id e k) : RingMove n ps f g d k := h.trans h'

theorem RingMove.of_chans {n : Chn} {ps : List Part} {d e : Dev} (k : Keeps ps d e) (c : e.chans = d.chans) :
    RingMove n ps id id d e :=
  ⟨k, fun m _ => chan_of c m, by rw [chan_of c]; rfl, by rw [chan_of c]; rfl, fun b hb => by rwa [chan_of c]⟩

theorem RingMove.modChan {n : Chn} {f : Rings → Rings} {g : List Sentence → List Sentence} {h : Chan → Chan} {d : Dev}
    (hf : (h (d.chan n)).rings = f (d.chan n).rings) (hg : (h (d.chan n)).sents = g (d.chan n).sents)
    (hs : (h (d.chan n)).sticky = (d.chan n).sticky) : RingMove n [.chans] f g d (modChan n h d) :=
  ⟨keeps_modChan n h d, fun _ hm => chan_modChan_other hm h d, by rw [chan_modChan_same, hf], by
    rw [chan_modChan_same, hg], fun b hb => by rwa [chan_modChan_same, hs]⟩

theorem RingMove.modRings (n : Chn) (f : Rings → Rings) (d : Dev) : RingMove n [.chans] f id d (modRings n f d) :=
  RingMove.modChan rfl rfl rfl

theorem RingMove.foldl {α : Type} {n : Chn} {ps : List Part} {f : Dev → α → Dev}
    (h : ∀ d a, RingMove n ps id id d (f d a)) (l : List α) (d : Dev) : RingMove n ps id id d (l.foldl f d) :=
  List.foldlRecOn (motive := RingMove n ps id id d) _ _ (RingMove.refl n ps d) (fun e he a _ => he.trans (h e a))

/-- Leaving an engine moves no ring and no sentence. -/
theorem RingMove.leave {n : Chn} {d e : Dev} (h : LeaveFrame n d e) : RingMove n [.chans, .cores] id id d e := by
  obtain ⟨p, hp⟩ := h.c
  exact ⟨h.k, h.o, by rw [hp]; rfl, by rw [hp]; rfl, fun b hb => by rwa [hp]⟩

/-! ### One record -/

/-- A status that sets a sticky bit with its record. -/
def Status.noted : Status → Bool
  | .keySpent | .authFail | .engineFault | .noEngine | .invariant => true
  | _ => false

theorem noteStatus_quiet {st : Status} (h : st.noted = false) (n : Chn) (eng : Nat) (c : Clause) (d : Dev) :
    noteStatus n st eng c d = d := by
  cases st <;> simp [Status.noted, noteStatus] at h ⊢

/-- A bit of CH_STICKY stays set under another record. -/
theorem noteCh_stays (n : Chn) (b e : Nat) (w : Word) {d : Dev} {b' : Nat} (h : bit (d.chan n).sticky b' = true) :
    bit ((noteCh n b e w d).chan n).sticky b' = true := by
  unfold noteCh
  split
  · exact h
  · rw [chan_of (queueEntry_chans _ _), chan_modChan_same]
    exact bit_setBit_of h

/-- With a status a channel's CH_STICKY, the device's sticky registers and the journal may change. -/
theorem noteStatus_move (n : Chn) (st : Status) (eng : Nat) (c : Clause) (d : Dev) :
    RingMove n [.chans, .trouble, .journal] id id d (noteStatus n st eng c d) := by
  have channel (b : Nat) (w : Word) : RingMove n [.chans, .trouble, .journal] id id d (noteCh n b eng w d) := by
    obtain ⟨x, hx⟩ := chan_noteCh n n b eng w d
    exact ⟨keeps_up (keeps_noteCh n b eng w d), fun _ hm => chan_noteCh_other hm b eng w d, by rw [hx]; rfl, by
      rw [hx]; rfl, fun b' hb => noteCh_stays n b eng w hb⟩
  have global (b : Nat) (w : Word) : RingMove n [.chans, .trouble, .journal] id id d (noteGx 2 b eng w d) :=
    .of_chans (keeps_up (keeps_noteGx 2 b eng w d)) (noteGx_chans ..)
  have counted (w : Word) : RingMove n [.chans, .trouble, .journal] id id d (noteInvar eng w d) := by
    refine .of_chans ?_ (noteInvar_chans ..)
    intro q hq _
    cases q <;> simp [Part.same] at hq ⊢
  cases st
  case keySpent => exact channel 10 _
  case authFail => exact channel 9 _
  case engineFault => exact global 10 _
  case noEngine => exact global 11 _
  case invariant => exact counted _
  all_goals exact RingMove.refl n _ d

/-- With a good CPL pair a record is posted as it is, and its status noted. -/
theorem postRecord_good {n : Chn} {d : Dev} (h : (d.chan n).rings.cpl.good = true) (c : Clause) (idx : Nat) (st : Status)
    (eng w1 w2 w3 : Nat) : postRecord n c idx st eng w1 w2 w3 d = noteStatus n st eng c
      (modRings n (fun r => r.post (cplWords st eng c.tag w1 w2 w3 idx) c.notify) d) := by
  have good : scrubRing n d .cpl = d := scrubRing_good h
  rw [postRecord, good]

/-- The parts of the core a record of this status changes. -/
def Status.parts (st : Status) : List Part := if st.noted then [.chans, .trouble, .journal] else [.chans]

theorem Status.chans_parts (st : Status) : ∀ p ∈ [Part.chans], p ∈ st.parts := by cases st <;> decide

theorem Status.parts_sub (st : Status) : ∀ p ∈ st.parts, p ∈ [Part.chans, .trouble, .journal] := by cases st <;> decide

theorem postRecord_move {n : Chn} {d : Dev} (h : (d.chan n).rings.cpl.good = true) (c : Clause) (idx : Nat) (st : Status)
    (eng w1 w2 w3 : Nat) : RingMove n st.parts
      (fun r => r.post (cplWords st eng c.tag w1 w2 w3 idx) c.notify) id d (postRecord n c idx st eng w1 w2 w3 d) := by
  have posted := RingMove.modRings n (fun r => r.post (cplWords st eng c.tag w1 w2 w3 idx) c.notify) d
  rw [postRecord_good h, Status.parts]
  cases hq : st.noted with
  | false => rw [noteStatus_quiet hq]; exact posted
  | true => exact posted.mono.before (noteStatus_move n st eng c _)

theorem of_good (v : Nat) : (PtrPair.of v).good = true := by simp [PtrPair.good, PtrPair.of]

/-- Posting leaves a good CPL pair good. -/
theorem post_good {r : Rings} (h : r.cpl.good = true) (ws : List Word) (b : Bool) : (r.post ws b).cpl.good = true := by
  rw [RingRegs.good, Bool.and_eq_true] at h ⊢
  exact ⟨h.1, of_good _⟩

/-- Posting writes the record's sixteen bytes, moves TAIL on and uses a credit. -/
theorem post_posted {r : Rings} (h : Mem.wf 0 r.mem = true) (c : Clause) (st : Status) (eng idx w1 w2 w3 : Nat) :
    Posted c st eng idx w1 w2 w3 r (r.post (cplWords st eng c.tag w1 w2 w3 idx) c.notify) :=
  ⟨rfl, rfl, rfl, wrote_write h _ _⟩

theorem postSkipped_move {n : Chn} (cs : List Clause) (i : Nat) {d : Dev} (h : (d.chan n).rings.cpl.good = true) :
    RingMove n [.chans] (Rings.skipped cs i) id d (postSkipped n cs i d) := by
  induction cs generalizing i d with
  | nil => exact RingMove.refl n _ d
  | cons c cs ih =>
    have posted := postRecord_move h c i .skipped 0xFF 0 0 c.w3hi
    exact posted.trans (ih (i + 1) (by rw [posted.rings]; exact post_good h _ _))

/-! ### The sentence after a record -/

theorem discardStream_move (n : Chn) (sid idx : Nat) (d : Dev) :
    RingMove n [.chans] id id d (discardStream n sid idx d) := RingMove.modChan rfl rfl rfl

theorem removeSent_move (n : Chn) (sid : Nat) (d : Dev) :
    RingMove n [.chans] id (·.filter (fun s => s.sid != sid)) d (removeSent n sid d) := RingMove.modChan rfl rfl rfl

/-- After a failure the rest of the sentence is SKIPPED and the sentence gone. -/
theorem advanceSent_failed {n : Chn} {d : Dev} (h : (d.chan n).rings.cpl.good = true) (sid idx : Nat) (cs : List Clause) :
    RingMove n [.chans] (Rings.skipped (cs.drop (idx + 1)) (idx + 1)) (·.filter (fun s => s.sid != sid)) d
      (advanceSent n sid idx true cs d) := by
  have dropped := (discardStream_move n sid idx d).trans (RingMove.foldl
    (fun d i => discardStream_move n sid (idx + 1 + i) d) (List.range (cs.drop (idx + 1)).length) _)
  exact (((postSkipped_move (cs.drop (idx + 1)) (idx + 1) (by rw [dropped.rings]; exact h)).trans
    (removeSent_move n sid _)).after dropped)

/-- The sentences after a record that ends only its clause `idx` of `len`: `sid` stands at its next clause, or is gone. -/
def advanced (sid idx len : Nat) (l : List Sentence) : List Sentence :=
  if idx + 1 < len then
    l.map (fun s => if s.sid = sid then
      { s with idx := idx + 1, wait := .none, judged := false, sel := none, job := none } else s)
  else l.filter (fun s => s.sid != sid)

theorem advanceSent_goesOn (n : Chn) (sid idx : Nat) (cs : List Clause) (d : Dev) :
    RingMove n [.chans] id (advanced sid idx cs.length) d (advanceSent n sid idx false cs d) := by
  refine RingMove.after ?_ (discardStream_move n sid idx d)
  rw [advanceSent, if_neg (by decide)]
  split
  · next more => exact RingMove.modChan rfl (by rw [advanced, if_pos more]) rfl
  · next last => exact RingMove.modChan rfl (by rw [advanced, if_neg last]) rfl

theorem sent_filtered {n : Chn} {e : Dev} {l : List Sentence} {sid : Nat}
    (h : (e.chan n).sents = l.filter (fun s => s.sid != sid)) : e.sent n sid = none := by
  rw [Dev.sent, h, List.find?_eq_none]
  intro y hy
  simpa using (List.mem_filter.1 hy).2

theorem advanced_sent {n : Chn} {x : Sentence} {d e : Dev} (hx : d.sent n x.sid = some x)
    (h : (e.chan n).sents = advanced x.sid x.idx x.clauses.length (d.chan n).sents) : Advanced n x e := by
  rw [Advanced]
  split
  · next more =>
    rw [advanced, if_pos more] at h
    have same : ((fun s : Sentence => decide (s.sid = x.sid)) ∘ fun s : Sentence => if s.sid = x.sid then
        { s with idx := x.idx + 1, wait := .none, judged := false, sel := none, job := none } else s)
        = fun s => decide (s.sid = x.sid) := by
      funext s
      by_cases hs : s.sid = x.sid <;> simp [hs]
    have found : (d.chan n).sents.find? (fun s => s.sid = x.sid) = some x := hx
    rw [Dev.sent, h, List.find?_map, same, found, Option.map_some, if_pos rfl]
  · next last =>
    rw [advanced, if_neg last] at h
    exact sent_filtered h

/-! ### A clause that is not dispatched -/

/-- The selection a failing clause held is given up: the scheduler's tags alone change. -/
theorem dropSel_move (n : Chn) (k : Cls) (x : Sel) (d : Dev) : RingMove n [.chans] id id d (dropSel k n x d) := by
  have left := LeaveFrame.refund n n k x.weight x.before 0 d
  refine .of_chans ?_ rfl
  intro q hq hne
  by_cases hc : q = .cores
  · subst hc
    rfl
  · exact left.k q (by simpa [hc] using hq) hne

/-- A clause of no template that fails undispatched posts its record, and its sentence is gone. -/
theorem failClause_root {n : Chn} {x : Sentence} {c : Clause} {d : Dev} (hc : x.clauses[x.idx]? = some c)
    (hp : x.parent = none) (h : (d.chan n).rings.cpl.good = true) (st : Status) (eng : Nat) :
    RingMove n st.parts (fun r => Rings.skipped (x.clauses.drop (x.idx + 1)) (x.idx + 1)
        (r.post (cplWords st eng c.tag 0 0 c.w3hi x.idx) c.notify))
      (·.filter (fun s => s.sid != x.sid)) d (failClause n x st eng d) := by
  have given : ∃ e, RingMove n [.chans] id id d e ∧ failClause n x st eng d
      = advanceSent n x.sid x.idx true x.clauses (postRecord n c x.idx st eng 0 0 c.w3hi e) := by
    simp only [failClause, hc, hp]
    split
    · exact ⟨_, dropSel_move .., rfl⟩
    · exact ⟨d, RingMove.refl .., rfl⟩
  obtain ⟨e, gave, heq⟩ := given
  have good : (e.chan n).rings.cpl.good = true := by rw [gave.rings]; exact h
  have posted := postRecord_move good c x.idx st eng 0 0 c.w3hi
  have ended := advanceSent_failed (by rw [posted.rings]; exact post_good good _ _) x.sid x.idx x.clauses
  rw [heq]
  exact (posted.trans (ended.mono st.chans_parts)).after (gave.mono st.chans_parts)

end Sys2Proof.Machine
end

section
/-!
The ring controller's own verbs (O34).
-/

namespace Sys2Proof.Machine

/-- A clause that names no slot passes check 10. -/
theorem check10_none (d : Dev) (n : Chn) : d.check10 n SlotPlan.none = none := rfl

/-- A NOP or FENCE that passes its checks posts OK, and its sentence goes on. -/
theorem completeInRing_ok {n : Chn} {x : Sentence} {c : Clause} {s : State} (h : s.atClause n x c) (hp : x.parent = none)
    (hr : x.ringReset = false) (pre : s.dev.preChecks n c (x.fits c) = none)
    (fields : c.fieldsOk false false .no .no false false = true) : completeInRing c.verb n x.sid s.dev
      = advanceSent n x.sid x.idx false x.clauses (postRecord n c x.idx .ok 0xFF 0 0 c.w3hi s.dev) := by
  obtain ⟨-, stopped, active, -, sent, job, clause, overlong⟩ := h
  have next : x.next c.verb = some c := by simp [Sentence.next, job, clause]
  have passes : s.dev.ringChecks n x c = none := by
    simp [Dev.ringChecks, pre, check10_none, fields, firstFail]
  simp [completeInRing, sent, next, stopped, active, overlong, passes, hp, hr]

/-- A clause with an unassigned verb fails check 2. -/
theorem failUnassigned_badVerb {n : Chn} {x : Sentence} {c : Clause} {s : State} (h : s.atClause n x c)
    (hv : unassigned c.verb = true) (hz : fld c.w0 19 16 = 0) :
    failUnassigned n x.sid s.dev = failClause n x .badVerb 0xFF s.dev := by
  obtain ⟨-, stopped, active, -, sent, job, clause, overlong⟩ := h
  have head : c.headChecks = some .badVerb := by simp [Clause.headChecks, firstFail, hz, hv]
  simp [failUnassigned, sent, job, clause, stopped, active, hv, overlong, head]

/-- Settles O34: the record of either is posted, and the sentence goes on or is gone. -/
theorem ringControllerCompletesItsVerbs : Obligations.RingControllerCompletesItsVerbs := by
  intro n x c s h hp hwf
  have ⟨awake, _, _, good, sent, _, clause, _⟩ := h
  have scrubbed : scrubChan s.dev n = s.dev := scrubChan_good good
  refine ⟨fun i v hi hverb hreset pre fields => ?_, fun hv hz hlast => ?_⟩
  · have completes : (fun d => judgeFresh n (completeInRing v n x.sid (scrubChan d n))) s.dev
        = judgeFresh n (advanceSent n x.sid x.idx false x.clauses
          (postRecord n c x.idx .ok 0xFF 0 0 c.w3hi s.dev)) := by
      rw [← completeInRing_ok h hp hreset pre fields, hverb]
      simp only [scrubbed]
    have posted := postRecord_move (good .cpl) c x.idx .ok 0xFF 0 0 c.w3hi
    have ended := posted.trans (advanceSent_goesOn n x.sid x.idx x.clauses _)
    refine ⟨_, ⟨by simpa using awake.2, ?_⟩, ended.keeps, ended.others, advanced_sent sent ended.sents, ?_⟩
    · obtain ⟨rfl, rfl⟩ | ⟨rfl, rfl⟩ := hi
      · exact onDev_to awake completes
      · exact onDev_to awake completes
    · rw [ended.rings]
      exact post_posted hwf c .ok 0xFF x.idx 0 0 c.w3hi
  · have fails : (fun d => failUnassigned n x.sid (scrubChan d n)) s.dev = failClause n x .badVerb 0xFF s.dev := by
      rw [← failUnassigned_badVerb h hv hz]
      simp only [scrubbed]
    have ended := failClause_root clause hp (good .cpl) .badVerb 0xFF
    have last : x.clauses.drop (x.idx + 1) = [] := List.drop_eq_nil_of_le (Nat.le_of_eq hlast)
    refine ⟨_, onDev_to awake fails, same_const awake (failClause_rst ..), keeps_const ended.keeps,
      others_const ended.others, sent_filtered (l := (s.dev.chan n).sents) ?_, ?_⟩
    · rw [through_chan, ended.sents]
    · rw [through_chan, ended.rings, last]
      exact post_posted hwf c .badVerb 0xFF x.idx 0 0 c.w3hi

end Sys2Proof.Machine
end

section
/-!
SUPPORT. How the work of a dispatched clause ends: its engine, its output, its effects, its buffers.
-/

namespace Sys2Proof.Machine

/-! ### Buffers that are freed -/

/-- From `d` to `e` buffers are freed and nothing else changes. -/
structure Freed (d e : Dev) : Prop where
  keeps : Keeps [.pool] d e
  chans : e.chans = d.chans
  mem : e.pool.mem = d.pool.mem
  gone : ∀ f, d.pool.buf f = none → e.pool.buf f = none

theorem Freed.refl (d : Dev) : Freed d d := ⟨Keeps.refl _ _, rfl, rfl, fun _ h => h⟩

theorem Freed.trans {d e k : Dev} (h : Freed d e) (h' : Freed e k) : Freed d k :=
  ⟨h.keeps.trans h'.keeps, h'.chans.trans h.chans, h'.mem.trans h.mem, fun f hf => h'.gone f (h.gone f hf)⟩

theorem Freed.foldl {α : Type} {f : Dev → α → Dev} (h : ∀ d a, Freed d (f d a)) (l : List α) (d : Dev) :
    Freed d (l.foldl f d) :=
  List.foldlRecOn (motive := Freed d) _ _ (Freed.refl d) (fun e he a _ => he.trans (h e a))

theorem buf_filtered {p q : Pool} {g : Nat} (h : q.bufs = p.bufs.filter (fun x => x.first != g)) (f : Nat)
    (hf : p.buf f = none) : q.buf f = none := by
  rw [Pool.buf, List.find?_eq_none] at hf ⊢
  rw [h]
  exact fun y hy => hf y (List.mem_filter.1 hy).1

theorem freed_dropBuf (f : Nat) (d : Dev) : Freed d (dropBuf f d) := by
  refine ⟨?_, (freeBuf_chan f d).2, ?_, buf_filtered (dropBuf_bufs f d)⟩
  · unfold dropBuf
    split <;> (intro q hq _; cases q <;> simp [Part.same] at hq ⊢)
  · unfold dropBuf
    split <;> rfl

theorem freed_freeBuf (f : Nat) (d : Dev) : Freed d (freeBuf f d) := by
  have advanced : Freed d { d with pool := d.pool.advance f } :=
    ⟨by intro q hq _; cases q <;> simp [Part.same] at hq ⊢, rfl, rfl, fun _ h => h⟩
  exact advanced.trans (freed_dropBuf f _)

theorem freeBuf_gone (f : Nat) (d : Dev) : (freeBuf f d).pool.buf f = none := by
  rw [Pool.buf, List.find?_eq_none, freeBuf_bufs]
  intro y hy
  simpa using (List.mem_filter.1 hy).2

theorem freed_releaseDying (n : Chn) (d : Dev) : Freed d (releaseDying n d) :=
  Freed.foldl (fun e (b : Buf) => freed_dropBuf b.first e) _ d

theorem freed_freeScratch (hs : List Nat) (d : Dev) : Freed d (freeScratch hs d) := by
  refine Freed.foldl (fun e h => ?_) hs d
  split
  · exact freed_freeBuf _ e
  · exact Freed.refl e

theorem Freed.move {d e : Dev} (h : Freed d e) (n : Chn) : RingMove n [.pool] id id d e := .of_chans h.keeps h.chans

/-! ### The output -/

/-- W3[31:16] of the record of a clause that has ended (06 Table 06.7). -/
def Job.w3hi (j : Job) (c : Clause) (st : Status) (p : Pool) : Nat :=
  match j.dst with
  | .alloc f => if st.failure then 0xFFFC else p.handle f
  | _ => c.w3hi

/-- The pool memory after an ended clause has left the bytes `bs`. -/
def Job.memAfter (j : Job) (st : Status) (bs : Bytes) (p : Pool) : Mem :=
  match j.dst with
  | .buf f off => p.mem.write 0 (f * 512 + off) bs
  | .alloc f => if st.failure then p.mem else p.mem.write 0 (f * 512) bs
  | _ => p.mem

/-- The output of a clause goes to its destination: into its OUT record, into its buffer, or its new buffer is freed. -/
theorem finishOut_moves {j : Job} (hg : j.outGone = false) (ha : ∀ q, j.dst ≠ .append q) (n : Chn) (sid : Nat)
    (c : Clause) (st : Status) (out : Bytes) (w1 : Nat) (d : Dev) :
    RingMove n [.chans, .pool] (fun r => if j.dst = .ring then
        r.seal (lenWord (st == .authFail) st.failure w1) (if st.failure then zeros w1 else out) else r) id d
      (finishOut n sid j c st out w1 d).1
    ∧ (finishOut n sid j c st out w1 d).2 = j.w3hi c st d.pool
    ∧ (finishOut n sid j c st out w1 d).1.pool.mem = j.memAfter st (if st.failure then zeros w1 else out) d.pool
    ∧ (st.failure = true → ∀ f, j.dst = .alloc f → (finishOut n sid j c st out w1 d).1.pool.buf f = none) := by
  have pooled (e : Dev) (k : Keeps [.pool] d e) (h : e.chans = d.chans) :
      RingMove n [.chans, .pool] id id d e := .of_chans (keeps_up k) h
  have written (addr : Nat) (bs : Bytes) : Keeps [.pool] d (writePool addr bs d) := keeps_writePool addr bs d
  cases hd : j.dst with
  | none =>
    simp only [finishOut, Job.w3hi, Job.memAfter, hd]
    exact ⟨RingMove.refl n _ d, trivial, trivial, nofun⟩
  | ring =>
    simp only [finishOut, Job.w3hi, Job.memAfter, hd, hg]
    exact ⟨(RingMove.modRings n _ d).mono, rfl, rfl, nofun⟩
  | append q => exact absurd hd (ha q)
  | buf f off =>
    simp only [finishOut, Job.w3hi, Job.memAfter, hd]
    exact ⟨pooled _ (written _ _) rfl, trivial, rfl, nofun⟩
  | alloc f =>
    simp only [finishOut, Job.w3hi, Job.memAfter, hd]
    cases hf : st.failure with
    | true =>
      have freed := freed_freeBuf f d
      exact ⟨pooled _ freed.keeps freed.chans, rfl, freed.mem, fun _ g hg => by cases hg; exact freeBuf_gone f d⟩
    | false =>
      have set (e : Dev) : Keeps [.pool] e (setBuf f .live e) := by
        intro q hq _
        cases q <;> simp [Part.same, setBuf] at hq ⊢
      exact ⟨pooled _ ((written _ _).trans (set _)) rfl, rfl, rfl, nofun⟩

theorem finishOut_recs (n : Chn) (sid : Nat) (j : Job) (c : Clause) (st : Status) (out : Bytes) (w1 : Nat) (d : Dev) :
    ((finishOut n sid j c st out w1 d).1.chan n).recs = (d.chan n).recs := by
  have rings (f : Rings → Rings) : ((modRings n f d).chan n).recs = (d.chan n).recs := by
    rw [modRings, chan_modChan_same]
  unfold finishOut
  dsimp only
  split
  · rfl
  · split
    · rfl
    · exact rings _
  · exact rings _
  · rfl
  · split
    · rw [chan_of (freed_freeBuf _ d).chans]
    · rfl

/-! ### The end of the work -/

/-- The reservation of a failed clause given back. -/
def unreserveDest (j : Job) (st : Status) (d : Dev) : Dev :=
  match j.dest with
  | some dk => if st.failure then unreserve dk.slot d else d
  | none => d

/-- CH_PROGk and the job area at the end of a clause. -/
def leaveCore (n : Chn) (j : Job) (st : Status) (d : Dev) : Dev :=
  if j.phase != .persist then endProg n j.engine (!st.failure) j.primes.isSome d
  else if (d.chan n).engs.contains j.engine then d
  else progEnds n j.engine (!st.failure) j.primes.isSome d

/-- What the end of a clause gives back after its effects: its reservation, the presignature places it held, its core. -/
def giveBack (n : Chn) (j : Job) (st : Status) (d : Dev) : Dev :=
  leaveCore n j st (unfill j.filling (unreserveDest j st d))

theorem endWork_eq (n : Chn) (x : Sentence) (j : Job) (c : Clause) (st : Status) (out : Bytes) (w1 : Nat)
    (es : List Effect) (d : Dev) :
    endWork n x j c st out w1 es d =
      let fo := finishOut n ((x.parent.map (·.sid)).getD x.sid) j c st out w1 (leaveEngine n x j d)
      (freeScratch ((j.phrase.map (·.scratch)).getD []) (giveBack n j st (es.foldl (applyEffect n) fo.1)), fo.2) := rfl

theorem giveBack_leaves (n : Chn) (j : Job) (st : Status) (d : Dev) :
    LeaveFrame n (unfill j.filling (unreserveDest j st d)) (giveBack n j st d) := by
  unfold giveBack leaveCore
  split
  · exact LeaveFrame.endProg ..
  · split
    · exact LeaveFrame.refl ..
    · exact LeaveFrame.progEnds ..

theorem unreserveDest_ks (j : Job) {st : Status} (h : st.failure = false) (d : Dev) :
    (unreserveDest j st d).ks = d.ks := by
  unfold unreserveDest
  split
  · rw [if_neg (by simp [h])]
  · rfl

theorem unreserveDest_slot (j : Job) (st : Status) (d : Dev) (m : Nat) :
    (unreserveDest j st d).ks.slot m = d.ks.slot m := by
  unfold unreserveDest
  split
  · split <;> rfl
  · rfl

theorem keeps_unreserveDest (j : Job) (st : Status) (d : Dev) : Keeps [.ks] d (unreserveDest j st d) := by
  unfold unreserveDest
  split
  · split
    · intro q hq _
      cases q <;> simp [Part.same, unreserve] at hq ⊢
    · exact Keeps.refl _ _
  · exact Keeps.refl _ _

theorem unreserveDest_chans (j : Job) (st : Status) (d : Dev) : (unreserveDest j st d).chans = d.chans := by
  unfold unreserveDest
  split
  · split <;> rfl
  · rfl

theorem giveBack_move (n : Chn) (j : Job) (st : Status) (d : Dev) :
    RingMove n [.chans, .ks, .cores, .presig] id id d (giveBack n j st d) := by
  have unreserved : RingMove n [.ks] id id d (unreserveDest j st d) :=
    .of_chans (keeps_unreserveDest j st d) (unreserveDest_chans j st d)
  have unfilled (e : Dev) : RingMove n [.presig] id id e (unfill j.filling e) := by
    refine .of_chans ?_ rfl
    intro q hq _
    cases q <;> simp [Part.same] at hq ⊢
  exact (unreserved.mono.trans (unfilled _).mono).trans (RingMove.leave (giveBack_leaves n j st d)).mono

theorem giveBack_slot (n : Chn) (j : Job) (st : Status) (d : Dev) (m : Nat) :
    (giveBack n j st d).ks.slot m = d.ks.slot m := by
  have left : (giveBack n j st d).ks = _ := (giveBack_leaves n j st d).k .ks (by decide) (by decide)
  rw [left, unfill_ks]
  exact unreserveDest_slot j st d m

/-- At the end of a clause that is OK nothing of the key store, no presignature and no record context goes back. -/
theorem giveBack_ok (n : Chn) (j : Job) {st : Status} (h : st.failure = false) (d : Dev) :
    (giveBack n j st d).ks = d.ks ∧ (giveBack n j st d).presig.avail = d.presig.avail
      ∧ ((giveBack n j st d).chan n).recs = (d.chan n).recs := by
  have left := giveBack_leaves n j st d
  obtain ⟨p, hp⟩ := left.c
  have ks : (giveBack n j st d).ks = _ := left.k .ks (by decide) (by decide)
  have presig : (giveBack n j st d).presig = _ := left.k .presig (by decide) (by decide)
  have before : (unreserveDest j st d).presig = d.presig := keeps_unreserveDest j st d .presig (by decide) (by decide)
  refine ⟨?_, ?_, ?_⟩
  · rw [ks, unfill_ks, unreserveDest_ks j h]
  · rw [presig, ← before]
    rfl
  · rw [hp, chan_of (unfill_chans j.filling _), chan_of (unreserveDest_chans j st d)]

/-- What the end of a clause without effects, and before its record, may change. -/
def endParts : List Part := [.chans, .pool, .ks, .cores, .presig]

/-- The end of the work, whose effects `es` change `ps` and move no ring, no sentence and no buffer: what it does to the rings,
its W3[31:16], the pool memory and a new buffer. -/
theorem endWork_moves {n : Chn} {x : Sentence} {j : Job} {st : Status} {es : List Effect} {d : Dev} {ps : List Part}
    (hg : j.outGone = false) (ha : ∀ q, j.dst ≠ .append q) (hps : .pool ∉ ps)
    (effects : ∀ e, RingMove n ps id id e (es.foldl (applyEffect n) e)) (c : Clause) (out : Bytes) (w1 : Nat) :
    RingMove n (endParts ++ ps) (fun r => if j.dst = .ring then
        r.seal (lenWord (st == .authFail) st.failure w1) (if st.failure then zeros w1 else out) else r) id d
      (endWork n x j c st out w1 es d).1
    ∧ (endWork n x j c st out w1 es d).2 = j.w3hi c st d.pool
    ∧ (endWork n x j c st out w1 es d).1.pool.mem = j.memAfter st (if st.failure then zeros w1 else out) d.pool
    ∧ (st.failure = true → ∀ f, j.dst = .alloc f → (endWork n x j c st out w1 es d).1.pool.buf f = none) := by
  have left := RingMove.leave (LeaveFrame.engine n x j d)
  have same : (leaveEngine n x j d).pool = d.pool := left.keeps .pool (by decide) (by decide)
  obtain ⟨moved, w3, mem, gone⟩ := finishOut_moves hg ha n ((x.parent.map (·.sid)).getD x.sid) c st out w1
    (leaveEngine n x j d)
  rw [same] at w3 mem
  rw [endWork_eq]
  dsimp only
  generalize finishOut n _ j c st out w1 _ = fo at moved w3 mem gone
  have back := giveBack_move n j st (es.foldl (applyEffect n) fo.1)
  have pooled : (giveBack n j st (es.foldl (applyEffect n) fo.1)).pool = fo.1.pool :=
    (back.keeps .pool (by decide) (by decide)).trans ((effects fo.1).keeps .pool hps (by decide))
  have freed := freed_freeScratch ((j.phrase.map (·.scratch)).getD []) (giveBack n j st (es.foldl (applyEffect n) fo.1))
  have parts {qs : List Part} (h : ∀ p ∈ qs, p ∈ endParts) : ∀ p ∈ qs, p ∈ endParts ++ ps :=
    fun p hp => List.mem_append_left ps (h p hp)
  refine ⟨?_, w3, ?_, fun hf f hd => freed.gone f ?_⟩
  · have worked := (moved.mono (parts (by decide))).after (left.mono (parts (by decide)))
    exact ((worked.before ((effects _).mono (List.subset_append_right _ _))).before (back.mono (parts (by decide)))).before
      ((freed.move n).mono (parts (by decide)))
  · rw [freed.mem, pooled, mem]
  · rw [pooled]
    exact gone hf f hd

/-- What the end of the work leaves of the key store, the supply, the presignatures and the record contexts: what its effects
make of them, whatever its output; a reservation given back changes no slot. -/
theorem endWork_effects {n : Chn} {x : Sentence} {j : Job} {st : Status} {d : Dev} (hg : j.outGone = false)
    (ha : ∀ q, j.dst ≠ .append q) (c : Clause) (out : Bytes) (w1 : Nat) :
    ∃ o : Dev, o.ks = d.ks ∧ o.supply = d.supply ∧ o.presig = d.presig ∧ (o.chan n).recs = (d.chan n).recs
      ∧ ∀ es, (∀ m, (endWork n x j c st out w1 es d).1.ks.slot m = (es.foldl (applyEffect n) o).ks.slot m)
        ∧ (endWork n x j c st out w1 es d).1.supply = (es.foldl (applyEffect n) o).supply
        ∧ (st.failure = false →
          (endWork n x j c st out w1 es d).1.ks = (es.foldl (applyEffect n) o).ks
          ∧ (endWork n x j c st out w1 es d).1.presig.avail = (es.foldl (applyEffect n) o).presig.avail
          ∧ ((endWork n x j c st out w1 es d).1.chan n).recs = ((es.foldl (applyEffect n) o).chan n).recs) := by
  have left := LeaveFrame.engine n x j d
  obtain ⟨p, hp⟩ := left.c
  have ⟨moved, _⟩ := finishOut_moves hg ha n ((x.parent.map (·.sid)).getD x.sid) c st out w1 (leaveEngine n x j d)
  have kept {q : Part} (hq : q ∉ [Part.chans, .cores, .pool]) (ht : q ≠ .tags) : q.same d (finishOut n
      ((x.parent.map (·.sid)).getD x.sid) j c st out w1 (leaveEngine n x j d)).1 :=
    ((keeps_up left.k).trans (keeps_up moved.keeps)) q hq ht
  refine ⟨_, kept (q := .ks) (by decide) (by decide), kept (q := .supply) (by decide) (by decide),
    kept (q := .presig) (by decide) (by decide), (finishOut_recs ..).trans (by rw [hp]), fun es => ?_⟩
  rw [endWork_eq]
  dsimp only
  generalize es.foldl (applyEffect n) _ = made
  have freed := freed_freeScratch ((j.phrase.map (·.scratch)).getD []) (giveBack n j st made)
  have ks : (freeScratch _ (giveBack n j st made)).ks = _ := freed.keeps .ks (by decide) (by decide)
  have supply : (freeScratch _ (giveBack n j st made)).supply = _ := freed.keeps .supply (by decide) (by decide)
  have presig : (freeScratch _ (giveBack n j st made)).presig = _ := freed.keeps .presig (by decide) (by decide)
  have back : (giveBack n j st made).supply = made.supply :=
    (giveBack_move n j st made).keeps .supply (by decide) (by decide)
  rw [ks, supply, presig, chan_of freed.chans]
  exact ⟨giveBack_slot n j st made, back, fun hf => giveBack_ok n j hf made⟩

/-! ### The end of a dispatched clause -/

/-- Where a clause writes no OUT record, or its OUT ring's pair is good, the check before its end finds nothing. -/
theorem checkOut_good {n : Chn} {x : Sentence} {j : Job} {d : Dev} (hx : d.sent n x.sid = some x) (hj : x.job = some j)
    (ha : ∀ q, j.dst ≠ .append q) (ho : (d.chan n).rings.out.good = true) : checkOut n x j d = (j, d) := by
  have good : scrubRing n d .out = d := scrubRing_good ho
  unfold checkOut
  split
  · have still : ({ j with outGone := j.outGone || j.outGone } : Job) = j := by rw [Bool.or_self]
    simp only [good, hx, hj, Option.bind_some, Option.map_some, Option.getD_some]
    rw [still]
  · next q hd => exact absurd hd (ha q)
  · rfl

/-- The record of a clause, the rest of its sentence, and the buffers its end sets free. -/
def endRecord (n : Chn) (x : Sentence) (c : Clause) (st : Status) (eng w1 w2 w3 : Nat) (d : Dev) : Dev :=
  releaseDying n (advanceSent n x.sid x.idx st.failure x.clauses (postRecord n c x.idx st eng w1 w2 w3 d))

/-- The end of a dispatched clause of no template, with the status it posts. -/
theorem finishRoot_eq {n : Chn} {x : Sentence} {j : Job} {c : Clause} {st : Status} {d : Dev}
    (hc : x.clauses[x.idx]? = some c) (checked : checkOut n x j d = (j, d)) (hst : postedStatus j x st = st)
    {out : Bytes} {w1 : Nat} (hw : w1 = if st.failure then max j.written out.length else out.length) (w2 : Nat)
    (es : List Effect) : finishRoot n x j st out w2 es d =
      let r := endWork n x j c st out w1 es d
      endRecord n x c st j.engine w1 w2 r.2 r.1 := by
  simp only [finishRoot, hc, checked, hst, hw, endRecord]

/-- A failure's record: it posts, the rest of the sentence is SKIPPED, and its sticky bit is set. -/
theorem endRecord_fails {n : Chn} {x : Sentence} {st : Status} {d : Dev} (hf : st.failure = true)
    (good : (d.chan n).rings.cpl.good = true) (c : Clause) (eng w1 w2 w3 : Nat) :
    RingMove n (.pool :: st.parts) (fun r => Rings.skipped (x.clauses.drop (x.idx + 1)) (x.idx + 1)
        (r.post (cplWords st eng c.tag w1 w2 w3 x.idx) c.notify)) (·.filter (fun s => s.sid != x.sid)) d
      (endRecord n x c st eng w1 w2 w3 d)
    ∧ (endRecord n x c st eng w1 w2 w3 d).pool.mem = d.pool.mem
    ∧ (∀ f, d.pool.buf f = none → (endRecord n x c st eng w1 w2 w3 d).pool.buf f = none)
    ∧ (st = .authFail → bit ((endRecord n x c st eng w1 w2 w3 d).chan n).sticky 9 = true)
    ∧ (st = .engineFault → bit (endRecord n x c st eng w1 w2 w3 d).trouble.g2 10 = true) := by
  rw [endRecord, hf]
  have noted := postRecord_good good c x.idx st eng w1 w2 w3
  have posted := postRecord_move good c x.idx st eng w1 w2 w3
  generalize postRecord n c x.idx st eng w1 w2 w3 d = p at noted posted
  have ended := advanceSent_failed (by rw [posted.rings]; exact post_good good _ _) x.sid x.idx x.clauses
  have freed := freed_releaseDying n (advanceSent n x.sid x.idx true x.clauses p)
  have pool : (advanceSent n x.sid x.idx true x.clauses p).pool = d.pool :=
    (ended.keeps .pool (by decide) (by decide)).trans (posted.keeps .pool (by cases st <;> decide) (by decide))
  refine ⟨?_, by rw [freed.mem, pool], fun f hb => freed.gone f (by rwa [pool]), fun h => ?_, fun h => ?_⟩
  · have chans := List.subset_cons_of_subset Part.pool st.chans_parts
    exact ((posted.mono (List.subset_cons_self _ _)).trans (ended.mono chans)).before ((freed.move n).mono (by simp))
  · rw [chan_of freed.chans]
    refine ended.sticky 9 ?_
    rw [noted, h]
    exact noteCh_bit n eng (by decide) _ _
  · have trouble : (releaseDying n (advanceSent n x.sid x.idx true x.clauses p)).trouble = p.trouble :=
      (freed.keeps .trouble (by decide) (by decide)).trans (ended.keeps .trouble (by decide) (by decide))
    rw [trouble, noted, h]
    exact noteGx_bit 2 eng (by decide) _ _

/-- The record of a clause that is OK: the sentence goes on. -/
theorem endRecord_ok {n : Chn} {x : Sentence} {d : Dev} (good : (d.chan n).rings.cpl.good = true) (c : Clause)
    (eng w1 w2 w3 : Nat) :
    RingMove n [.pool, .chans] (fun r => r.post (cplWords .ok eng c.tag w1 w2 w3 x.idx) c.notify)
      (advanced x.sid x.idx x.clauses.length) d (endRecord n x c .ok eng w1 w2 w3 d)
    ∧ (endRecord n x c .ok eng w1 w2 w3 d).pool.mem = d.pool.mem := by
  have posted := postRecord_move good c x.idx .ok eng w1 w2 w3
  have ended := posted.trans (advanceSent_goesOn n x.sid x.idx x.clauses _)
  have freed := freed_releaseDying n (advanceSent n x.sid x.idx false x.clauses
    (postRecord n c x.idx .ok eng w1 w2 w3 d))
  have pool : (advanceSent n x.sid x.idx false x.clauses (postRecord n c x.idx .ok eng w1 w2 w3 d)).pool = d.pool :=
    ended.keeps .pool (by decide) (by decide)
  exact ⟨ended.mono.before (freed.move n).mono, freed.mem.trans (congrArg Pool.mem pool)⟩

theorem seal_cpl (r : Rings) (w : Word) (bs : Bytes) : (r.seal w bs).cpl = r.cpl := by
  unfold Rings.seal
  split <;> rfl

/-- The end of a clause that fails: zeros of its length where its output would be, the rest of its sentence SKIPPED. -/
theorem finishRoot_fails {n : Chn} {x : Sentence} {j : Job} {c : Clause} {st : Status} {d : Dev}
    (hx : d.sent n x.sid = some x) (hj : x.job = some j) (hc : x.clauses[x.idx]? = some c) (hf : st.failure = true)
    (hg : j.outGone = false) (ha : ∀ q, j.dst ≠ .append q) (ho : (d.chan n).rings.out.good = true)
    (hcpl : (d.chan n).rings.cpl.good = true) (out : Bytes) (w2 : Nat) {w1 : Nat} (hw : w1 = max j.written out.length) :
    RingMove n (endParts ++ st.parts)
      (fun r => Rings.skipped (x.clauses.drop (x.idx + 1)) (x.idx + 1)
        (j.ringsAfter c st x.idx w1 w2 (j.w3hi c st d.pool) (lenWord (st == .authFail) true w1) (zeros w1) r))
      (·.filter (fun s => s.sid != x.sid)) d (finishRoot n x j st out w2 [] d)
    ∧ (finishRoot n x j st out w2 [] d).pool.mem = j.memAfter st (zeros w1) d.pool
    ∧ (∀ f, j.dst = .alloc f → (finishRoot n x j st out w2 [] d).pool.buf f = none)
    ∧ (∀ m, (finishRoot n x j st out w2 [] d).ks.slot m = d.ks.slot m)
    ∧ (st = .authFail → bit ((finishRoot n x j st out w2 [] d).chan n).sticky 9 = true)
    ∧ (st = .engineFault → bit (finishRoot n x j st out w2 [] d).trouble.g2 10 = true) := by
  have posts : postedStatus j x st = st := by simp [postedStatus, hf]
  obtain ⟨worked, w3, mem, gone⟩ := endWork_moves (x := x) (st := st) (es := []) (d := d) (ps := []) hg ha (by decide)
    (fun e => RingMove.refl n [] e) c out w1
  obtain ⟨o, ks, -, -, -, made⟩ := endWork_effects (x := x) (st := st) (d := d) (n := n) hg ha c out w1
  have slots (m : Nat) : (endWork n x j c st out w1 [] d).1.ks.slot m = d.ks.slot m := by
    rw [(made []).1 m, List.foldl_nil, ks]
  rw [finishRoot_eq hc (checkOut_good hx hj ha ho) posts (hw.trans (if_pos hf).symm)]
  simp only [hf, if_true] at worked mem gone ⊢
  generalize endWork n x j c st out w1 [] d = r at worked w3 mem gone slots
  have good : (r.1.chan n).rings.cpl.good = true := by
    rw [worked.rings, apply_ite Rings.cpl, seal_cpl, ite_self]
    exact hcpl
  obtain ⟨ended, mem', gone', auth, fault⟩ := endRecord_fails (x := x) hf good c j.engine w1 w2 r.2
  refine ⟨?_, mem'.trans mem, fun f hd => gone' f (gone trivial f hd), fun m => ?_, auth, fault⟩
  · rw [← w3]
    exact (worked.mono (List.subset_append_left _ _)).trans
      (ended.mono (List.cons_subset.2 ⟨by simp [endParts], List.subset_append_right _ _⟩))
  · have kept : (endRecord n x c st j.engine w1 w2 r.2 r.1).ks = r.1.ks :=
      ended.keeps .ks (by cases st <;> decide) (by decide)
    rw [kept, slots]

end Sys2Proof.Machine
end

section
/-!
Aborts of a channel's one sentence (O33).
-/

namespace Sys2Proof.Machine

/-- An abort that picks the one taken sentence of a channel. -/
theorem abortWhere_one {n : Chn} {x : Sentence} {d : Dev} {p : Sentence → Bool} (h : (d.chan n).sents = [x])
    (hp : x.parent = none) (hx : p x = true) : abortWhere n p d = abortSent n x.sid d := by
  simp [abortWhere, h, hp, hx]

theorem abortWhere_none {n : Chn} {x : Sentence} {d : Dev} {p : Sentence → Bool} (h : (d.chan n).sents = [x])
    (hx : p x = false) : abortWhere n p d = d := by
  simp [abortWhere, h, hx]

/-- Either abort command, where it picks the one sentence. -/
theorem abort_one {n : Chn} {x : Sentence} {s : State} (ht : s.takes (s.dev.bound n))
    (ha : (s.dev.chan n).state.active = true) (h : (s.dev.chan n).sents = [x]) (hp : x.parent = none) {i : Instr}
    (hi : i = .abortAll n ∨ ∃ tag : BitVec 16, i = .abortTag n tag ∧ x.hasTag tag.toNat = true) {D : Dev}
    (e : abortSent n x.sid s.dev = D) : exec i s = .next (s.through (fun _ => D)) := by
  obtain rfl | ⟨tag, rfl, htag⟩ := hi
  · have aborts : abortAll n s.dev = D := by rw [abortAll, if_pos ha, abortWhere_one h hp rfl, e]
    exact onPage_to ht aborts
  · have aborts : abortTag n tag.toNat s.dev = D := by rw [abortTag, if_pos ha, abortWhere_one h hp htag, e]
    exact onPage_to ht aborts

theorem sent_one {n : Chn} {x : Sentence} {d : Dev} (h : (d.chan n).sents = [x]) : d.sent n x.sid = some x := by
  simp [Dev.sent, h]

theorem childOf_one {n : Chn} {x : Sentence} {d : Dev} (h : (d.chan n).sents = [x]) (hp : x.parent = none) (sid : Nat) :
    d.childOf n sid = none :=
  childOf_none (by simp [h, hp]) sid

/-- A waiting clause ends ABORTED. -/
theorem abortSent_waiting {n : Chn} {x : Sentence} {d : Dev} (hx : d.sent n x.sid = some x) (hj : x.job = none) :
    abortSent n x.sid d = failClause n x .aborted 0xFF d := by
  simp [abortSent, hx, hj]

/-- A dispatched clause, of a sentence without templates, ends at once or is marked. -/
theorem abortSent_dispatched {n : Chn} {x : Sentence} {j : Job} {d : Dev} (hx : d.sent n x.sid = some x)
    (hj : x.job = some j) (hc : d.childOf n x.sid = none) :
    abortSent n x.sid d = if j.stopsAtOnce then endEarly n x j .aborted d else markAbort n x.sid d := by
  simp [abortSent, hx, hj, hc]

/-- An abort of a dispatched clause that touched no operand slot and is no phrase ends it with no output and no effect. -/
theorem endEarly_aborted {n : Chn} {x : Sentence} {j : Job} {d : Dev} (ha : (d.chan n).state.active = true)
    (hp : x.parent = none) (hq : j.phrase = none) (ht : j.touched = []) :
    endEarly n x j .aborted d = finishRoot n x j .aborted [] j.input.length [] d := by
  have open_ : ((d.chan n).state == .resetting) = false := by
    cases hs : (d.chan n).state <;> simp [hs, ChanState.active] at ha ⊢
  simp [endEarly, open_, hp, hq, finishClause, earlyEffects, earlyZero, ht, zeroTouched]

theorem w3hi_failed {j : Job} {st : Status} (h : st.failure = true) (c : Clause) (p : Pool) :
    j.w3hi c st p = match j.dst with
      | .alloc _ => 0xFFFC
      | _ => c.w3hi := by
  unfold Job.w3hi
  cases j.dst <;> simp [h]

theorem filter_one (x : Sentence) : [x].filter (fun s => s.sid != x.sid) = [] := by simp

/-- Settles O33: the waiting clause fails, a clause that can stop ends at once, any other is marked. -/
theorem abortEndsWaitingMarksRunning : Obligations.AbortEndsWaitingMarksRunning := by
  intro n x s ht ha hsents hp hcpl
  have sent := sent_one hsents
  have childless := childOf_one hsents hp x.sid
  refine ⟨fun i hi => ⟨fun cl hj hclauses hidx hwf => ?_, fun j hj hstop => ?_,
    fun j cl hj hstop hclause hphrase hgone hdst htouched hout => ?_⟩, fun tag htag => ?_⟩
  · have clause : x.clauses[x.idx]? = some cl := by rw [hclauses, hidx]; rfl
    have ended := failClause_root clause hp hcpl .aborted 0xFF
    refine ⟨_, abort_one ht ha hsents hp hi (abortSent_waiting sent hj), same_const ht.1 (failClause_rst ..),
      keeps_const ended.keeps, others_const ended.others, ?_, ?_⟩
    · rw [through_chan, ended.sents, hsents, filter_one]
    · rw [through_chan, ended.rings, hclauses, hidx]
      exact post_posted hwf cl .aborted 0xFF 0 0 0 cl.w3hi
  · have marks := (abortSent_dispatched sent hj childless).trans (if_neg (by simp [hstop]))
    refine ⟨_, abort_one ht ha hsents hp hi marks, same_const ht.1 rfl, keeps_const (keeps_modChan _ _ _),
      chanIs_const ⟨?_, fun m hm => chan_modChan_other hm _ _⟩⟩
    rw [markAbort, modJob, modSent, chan_modChan_same]
    simp [hsents, hj]
  · have ends := (abortSent_dispatched sent hj childless).trans
      ((if_pos hstop).trans (endEarly_aborted ha hp hphrase htouched))
    obtain ⟨ended, -, -, slots, -⟩ := finishRoot_fails sent hj hclause (st := .aborted) rfl hgone hdst hout hcpl [] j.input.length
      (w1 := j.written) (by simp)
    refine ⟨_, abort_one ht ha hsents hp hi ends, same_const ht.1 (finishRoot_rst ..),
      keeps_const (keeps_up ended.keeps), others_const ended.others, ?_, slots, ?_⟩
    · rw [through_chan, ended.sents, hsents, filter_one]
    · rw [through_chan, ended.rings, w3hi_failed rfl]
      rfl
  · have none_ : abortTag n tag.toNat s.dev = s.dev := by rw [abortTag, if_pos ha, abortWhere_none hsents htag]
    exact ⟨_, onPage_to ht none_, same_const ht.1 rfl, keeps_const (Keeps.refl _ _)⟩

end Sys2Proof.Machine
end

section
/-!
The end of a clause whose work is done (O46).
-/

namespace Sys2Proof.Machine

/-! ### Effects -/

/-- What the effects of a clause may change. -/
def effectParts : List Part := [.chans, .ks, .cores, .presig, .supply, .otp, .trouble, .journal]

theorem setRec_move (n : Chn) (i : Nat) (q : Option RecCtx) (d : Dev) : RingMove n effectParts id id d (setRec n i q d) :=
  (RingMove.modChan rfl rfl rfl).mono

theorem retireSlot_keeps (sl : Nat) (burns : List Bool) (d : Dev) : Keeps effectParts d (retireSlot sl burns d) := by
  have store (f : KeyStore → KeyStore) (e : Dev) : Keeps effectParts e (modKs f e) := by
    intro q hq _
    cases q <;> simp [Part.same, effectParts] at hq ⊢
  have row (f : EpochRow → EpochRow) (e : Dev) : Keeps effectParts e (modRow f e) := by
    intro q hq _
    cases q <;> simp [Part.same, effectParts, modRow] at hq ⊢
  unfold retireSlot retirePersistent
  split
  · exact store _ d
  · dsimp only
    split
    · exact (store _ d).trans (row _ _)
    · exact ((store _ d).trans (store _ _)).trans (keeps_up (keeps_noteG 3 9 _))

theorem retireSlot_chans (sl : Nat) (burns : List Bool) (d : Dev) : (retireSlot sl burns d).chans = d.chans := by
  unfold retireSlot retirePersistent
  split
  · rfl
  · dsimp only
    split
    · rfl
    · exact noteOtpErr_chans _

/-- An effect moves no ring and no sentence. -/
theorem applyEffect_move (n : Chn) (d : Dev) (e : Effect) : RingMove n effectParts id id d (applyEffect n d e) := by
  have core {e : Dev} (k : Keeps effectParts d e) (c : e.chans = d.chans) : RingMove n effectParts id id d e :=
    .of_chans k c
  have disarmed (a : Option Arm) (e : Dev) : Keeps effectParts e { e with supply := { e.supply with arm := a } } := by
    intro q hq _
    cases q <;> simp [Part.same, effectParts] at hq ⊢
  cases e with
  | recCtx i q => exact setRec_move n i q d
  | recDone i gen seq auth =>
    simp only [applyEffect]
    split
    · split
      · exact setRec_move n i _ d
      · exact RingMove.refl n _ d
    · exact RingMove.refl n _ d
  | putKey _ _ | area _ _ | arm _ | presig _ =>
    refine core ?_ rfl
    intro q hq _
    cases q <;> simp [Part.same, effectParts, applyEffect, putVolatile, addPresigs] at hq ⊢
  | retire sl burns =>
    have retired := retireSlot_keeps sl burns d
    have chans := retireSlot_chans sl burns d
    simp only [applyEffect]
    split
    · split
      · exact core (retired.trans (disarmed _ _)) chans
      · exact core retired chans
    · exact core retired chans

/-! What single effects do. -/

theorem applyEffect_putKey (n : Chn) (d : Dev) {dk : DestKey} (h : isVol dk.slot = true) (v : Bytes) :
    (applyEffect n d (.putKey dk v)).ks.slot dk.slot
      = some ⟨dk.slot, n.val, dk.cls, dk.usage, dk.limit, 0, .live, v, 0⟩ := by
  simp [applyEffect, putVolatile, modKs, KeyStore.slot, h]

theorem applyEffect_retire (n : Chn) (d : Dev) {sl : Nat} (h : isVol sl = true) (burns : List Bool) :
    (applyEffect n d (.retire sl burns)).ks.slot sl = none := by
  have emptied : (emptyVolatile sl d).ks.slot sl = none := by
    simp [emptyVolatile, modKs, KeyStore.slot, h]
  simp only [applyEffect, retireSlot, h, if_true]
  split
  · split <;> exact emptied
  · exact emptied

theorem applyEffect_recCtx (n : Chn) (d : Dev) {i : Nat} (h : i < 8) (q : Option RecCtx) :
    (applyEffect n d (.recCtx i q)).rec_ n i = q := by
  rw [Dev.rec_, applyEffect, setRec, chan_modChan_same, vget_of_lt _ h]
  simp [vset, h]

/-! ### The end of the work -/

theorem w3hi_ok {j : Job} (c : Clause) (p : Pool) : j.w3hi c .ok p = match j.dst with
    | .alloc f => p.handle f
    | _ => c.w3hi := by
  unfold Job.w3hi
  cases j.dst <;> rfl

theorem memAfter_ok {j : Job} (bs : Bytes) (p : Pool) : j.memAfter .ok bs p = match j.dst with
    | .buf f off => p.mem.write 0 (f * 512 + off) bs
    | .alloc f => p.mem.write 0 (f * 512) bs
    | _ => p.mem := by
  unfold Job.memAfter
  cases j.dst <;> rfl

theorem memAfter_failed {j : Job} {st : Status} (h : st.failure = true) (bs : Bytes) (p : Pool) :
    j.memAfter st bs p = match j.dst with
      | .buf f off => p.mem.write 0 (f * 512 + off) bs
      | _ => p.mem := by
  unfold Job.memAfter
  cases j.dst <;> simp [h]

theorem endRecord_recs {n : Chn} {x : Sentence} {d : Dev} (good : (d.chan n).rings.cpl.good = true) (c : Clause)
    (eng w1 w2 w3 : Nat) : ((endRecord n x c .ok eng w1 w2 w3 d).chan n).recs = (d.chan n).recs := by
  rw [endRecord, chan_of (freed_releaseDying ..).chans, postRecord_good good, noteStatus_quiet rfl]
  simp only [advanceSent, Status.failure, Bool.false_eq_true, if_false, discardStream, modRings]
  split
  · simp [modSent]
  · simp [removeSent]

/-- The end of a clause that is OK: its record, its output, its effects. -/
theorem finishRoot_ok {n : Chn} {x : Sentence} {j : Job} {c : Clause} {d : Dev}
    (hx : d.sent n x.sid = some x) (hj : x.job = some j) (hc : x.clauses[x.idx]? = some c) (hr : x.ringReset = false)
    (hg : j.outGone = false) (ha : ∀ q, j.dst ≠ .append q) (ho : (d.chan n).rings.out.good = true)
    (hcpl : (d.chan n).rings.cpl.good = true) (out : Bytes) (w2 : Nat) (es : List Effect) :
    RingMove n (endParts ++ effectParts)
      (j.ringsAfter c .ok x.idx out.length w2 (j.w3hi c .ok d.pool) (lenWord false false out.length) out)
      (advanced x.sid x.idx x.clauses.length) d (finishRoot n x j .ok out w2 es d)
    ∧ (finishRoot n x j .ok out w2 es d).pool.mem = j.memAfter .ok out d.pool
    ∧ ∃ o : Dev, o.ks = d.ks ∧ o.supply = d.supply ∧ o.presig = d.presig ∧ (o.chan n).recs = (d.chan n).recs
      ∧ (finishRoot n x j .ok out w2 es d).supply = (es.foldl (applyEffect n) o).supply
      ∧ (finishRoot n x j .ok out w2 es d).ks = (es.foldl (applyEffect n) o).ks
      ∧ (finishRoot n x j .ok out w2 es d).presig.avail = (es.foldl (applyEffect n) o).presig.avail
      ∧ ((finishRoot n x j .ok out w2 es d).chan n).recs = ((es.foldl (applyEffect n) o).chan n).recs := by
  have posts : postedStatus j x .ok = .ok := by simp [postedStatus, Status.failure, hg, hr]
  obtain ⟨worked, w3, mem, -⟩ := endWork_moves (x := x) (st := .ok) (es := es) (d := d) (ps := effectParts) hg ha
    (by decide) (fun e => RingMove.foldl (applyEffect_move n) es e) c out out.length
  obtain ⟨o, ks, supply, presig, recs, made⟩ := endWork_effects (x := x) (st := .ok) (d := d) (n := n) hg ha c out out.length
  obtain ⟨-, supply', gives⟩ := made es
  obtain ⟨ks', avail', recs'⟩ := gives rfl
  rw [finishRoot_eq hc (checkOut_good hx hj ha ho) posts (w1 := out.length) rfl]
  dsimp only
  generalize endWork n x j c .ok out out.length es d = r at worked w3 mem supply' ks' avail' recs'
  have good : (r.1.chan n).rings.cpl.good = true := by
    rw [worked.rings, apply_ite Rings.cpl, seal_cpl, ite_self]
    exact hcpl
  obtain ⟨ended, mem'⟩ := endRecord_ok (x := x) good c j.engine out.length w2 r.2
  have keptKs : (endRecord n x c .ok j.engine out.length w2 r.2 r.1).ks = r.1.ks :=
    ended.keeps .ks (by decide) (by decide)
  have keptSupply : (endRecord n x c .ok j.engine out.length w2 r.2 r.1).supply = r.1.supply :=
    ended.keeps .supply (by decide) (by decide)
  have keptPresig : (endRecord n x c .ok j.engine out.length w2 r.2 r.1).presig = r.1.presig :=
    ended.keeps .presig (by decide) (by decide)
  refine ⟨?_, mem'.trans mem, o, ks, supply, presig, recs, keptSupply.trans supply', keptKs.trans ks', ?_,
    (endRecord_recs good ..).trans recs'⟩
  · rw [← w3]
    exact worked.trans ended.mono
  · rw [keptPresig, avail']

/-- The end of a clause at its end, with no abort, is the end its result gives. -/
theorem completeClause_finishes {n : Chn} {x : Sentence} {c : Clause} {j : Job} {r : JobResult} {s : State}
    (h : s.atEnd n x c j r) (hrun : j.phase = .run) (ha : j.abort = false)
    (hkey : r.status = .ok → persistentKey r.good = none) : completeClause .none n x.sid s.dev
      = finishRoot n x j r.status r.out r.w2 (if r.status.failure then r.bad else r.good) s.dev := by
  obtain ⟨-, working, -, -, sent, job, clause, hp, -, -, steps, result, mid, raced, -, replay, halts⟩ := h
  have same : endResult .none n c j r s.dev = r := by simp [endResult, replay, raced]
  have stored : (r.status == .ok && (persistentKey r.good).isSome) = false := by
    cases hs : r.status == .ok with
    | false => rfl
    | true => rw [hkey (by simpa using hs)]; rfl
  simp [completeClause, sent, job, clause, hrun, working, halts, completeJob, Job.step, steps, endClause, result, ha,
    same, mid, raced, stored, bookError, finishClause, hp]

/-- A clause at its end, with an abort, ends ABORTED. -/
theorem completeClause_aborts {n : Chn} {x : Sentence} {c : Clause} {j : Job} {r : JobResult} {s : State}
    (h : s.atEnd n x c j r) (hrun : j.phase = .run) (ha : j.abort = true) :
    completeClause .none n x.sid s.dev = endEarly n x j .aborted s.dev := by
  obtain ⟨-, working, -, -, sent, job, clause, -, -, -, steps, result, -, -, -, -, halts⟩ := h
  simp [completeClause, sent, job, clause, hrun, working, halts, completeJob, Job.step, steps, endClause, result, ha]

/-- CLAUSE_COMPLETE is the end of the clause, and the judgement of what has become next. -/
theorem judges_complete {n : Chn} {x : Sentence} {c : Clause} {j : Job} {r : JobResult} {s : State} {e : Dev}
    (h : s.atEnd n x c j r) (he : completeClause .none n x.sid s.dev = e) (hrst : e.rst = s.dev.rst) :
    Judges (.clauseComplete n x.sid .none) s n e := by
  obtain ⟨awake, -, -, good, -⟩ := h
  have completes : (fun d => judgeFresh n (completeClause .none n x.sid (scrubChan d n))) s.dev = judgeFresh n e := by
    rw [← he]
    simp only [scrubChan_good good]
  exact ⟨hrst.trans awake.2, onDev_to awake completes⟩

/-- Settles O46: the three ends of a clause whose work is done. -/
theorem clauseEndPostsRecordAndOutput : Obligations.ClauseEndPostsRecordAndOutput := by
  intro n x c j r s h hrun
  have ⟨_, _, active, good, sent, job, clause, hp, hreset, hdst, _, _, _, _, gone, _, _⟩ := h
  refine ⟨fun ha hkey hok => ?_, fun ha hfail hbad => ?_, fun ha htouched hphrase => ?_⟩
  · have ends := completeClause_finishes h hrun ha (fun _ => hkey)
    rw [hok] at ends
    obtain ⟨ended, mem, o, ks, supply, presig, recs, supply', ks', avail', recs'⟩ :=
      finishRoot_ok sent job clause hreset gone hdst (good .out) (good .cpl) r.out r.w2 r.good
    refine ⟨_, judges_complete h ends (finishRoot_rst ..), keeps_up ended.keeps, ended.others,
      advanced_sent sent ended.sents, ?_, ?_, fun hg => ?_, fun dk v hg hv => ?_, fun sl burns hg hv => ?_,
      fun i q hg hi => ?_⟩
    · exact ended.rings.trans (by rw [w3hi_ok] <;> rfl)
    · exact mem.trans (by rw [memAfter_ok] <;> rfl)
    · rw [hg] at ks' supply' avail' ⊢
      exact ⟨ks'.trans ks, supply'.trans supply, avail'.trans (congrArg _ presig)⟩
    · rw [hg] at ks' ⊢
      exact (congrArg (·.slot dk.slot) ks').trans (applyEffect_putKey n o hv v)
    · rw [hg] at ks' ⊢
      exact (congrArg (·.slot sl) ks').trans (applyEffect_retire n o hv burns)
    · rw [hg] at recs' ⊢
      exact (congrArg (vget · i none) recs').trans (applyEffect_recCtx n o hi q)
  · have ends := completeClause_finishes h hrun ha (fun hok => by rw [hok] at hfail; cases hfail)
    rw [if_pos hfail, hbad] at ends
    obtain ⟨ended, mem, freed, -, auth, fault⟩ := finishRoot_fails sent job clause hfail gone hdst (good .out) (good .cpl)
      r.out r.w2 rfl
    have parts : ∀ p ∈ endParts ++ r.status.parts, p ∈ [.chans, .pool, .ks, .cores, .presig, .trouble, .journal] :=
      List.append_subset.2 ⟨by decide, List.Subset.trans r.status.parts_sub (by decide)⟩
    refine ⟨_, _, rfl, judges_complete h ends (finishRoot_rst ..), ended.keeps.mono parts, ended.others,
      sent_filtered ended.sents, ?_, ?_, freed, auth, fault⟩
    · exact ended.rings.trans (by rw [w3hi_failed hfail] <;> rfl)
    · exact mem.trans (by rw [memAfter_failed hfail] <;> rfl)
  · have ends := (completeClause_aborts h hrun ha).trans (endEarly_aborted active hp hphrase htouched)
    obtain ⟨ended, -, -, slots, -⟩ := finishRoot_fails sent job clause (st := .aborted) rfl gone hdst (good .out) (good .cpl)
      [] j.input.length (w1 := j.written) (by simp)
    refine ⟨_, judges_complete h ends (finishRoot_rst ..), keeps_up ended.keeps, ended.others,
      sent_filtered ended.sents, ?_, slots⟩
    exact ended.rings.trans (by rw [w3hi_failed rfl] <;> rfl)

end Sys2Proof.Machine
end

section
/-!
Taking a sentence (O31).
-/

namespace Sys2Proof.Machine

/-! ### The sentence taken -/

/-- The sentence a channel takes from ring `k`. -/
def Chan.takenSent (c : Chan) (k : RingK) (cs : List Clause) : Sentence :=
  { sid := c.nextSid, prio := k == .subp, fence := cs.any (·.fence), clauses := cs, idx := 0
    overlong := cs.length == 16 && (cs.getLast?.map (·.link)).getD false
    ringReset := false, wait := .none, judged := false, sel := none, parent := none, job := none }

/-- A channel that takes a sentence from ring `k`. -/
def Chan.takes (c : Chan) (k : RingK) (cs : List Clause) : Chan :=
  { c with
    rings := { c.rings.setRing k { c.rings.ring k with
      head := .of (((c.rings.ring k).head.nat + cs.length) % (c.rings.ring k).size) } with
      reserved := c.rings.reserved + cs.length }
    stream := (assignStream c.nextSid 0 cs c.stream).settle
    sents := c.sents ++ [c.takenSent k cs]
    nextSid := c.nextSid + 1 }

theorem takeSentence_chan (n : Chn) (k : RingK) (cs : List Clause) (d : Dev) :
    (takeSentence n k cs d).chan n = (d.chan n).takes k cs := chan_modChan_same n (·.takes k cs) d

theorem takeSentence_other {n m : Chn} (h : m ≠ n) (k : RingK) (cs : List Clause) (d : Dev) :
    (takeSentence n k cs d).chan m = d.chan m := chan_modChan_other h (·.takes k cs) d

theorem keeps_takeSentence (n : Chn) (k : RingK) (cs : List Clause) (d : Dev) :
    Keeps [.chans, .sched] d (takeSentence n k cs d) := by
  intro q hq _
  cases q <;> simp [Part.same, takeSentence] at hq ⊢

/-- A SUB ring's HEAD moves, and no other ring, no byte of ring memory. -/
theorem takes_rings {k : RingK} (hk : k = .subp ∨ k = .subb) (c : Chan) (cs : List Clause) :
    ((c.takes k cs).rings.ring k).head = .of (((c.rings.ring k).head.nat + cs.length) % (c.rings.ring k).size)
    ∧ ((c.takes k cs).rings.ring k).tail = (c.rings.ring k).tail ∧ (c.takes k cs).rings.mem = c.rings.mem
    ∧ (c.takes k cs).rings.cpl = c.rings.cpl := by
  obtain rfl | rfl := hk <;> exact ⟨rfl, rfl, rfl, rfl⟩

theorem takenSent_prio (c : Chan) (k : RingK) (cs : List Clause) : (c.takenSent k cs).prio = true ↔ k = .subp := by
  cases k <;> simp [Chan.takenSent]

/-! ### The visits -/

/-- Only SUB rings are visited. -/
theorem visited_sub {d : Dev} {n : Chn} {k : RingK} (h : (n, k) ∈ d.visits) : k = .subp ∨ k = .subb := by
  simp only [Dev.visits, List.mem_flatMap, List.mem_cons, Prod.mk.injEq, List.not_mem_nil, or_false] at h
  obtain ⟨m, -, ⟨-, rfl⟩ | ⟨-, rfl⟩⟩ := h
  · exact .inl rfl
  · exact .inr rfl

/-- A ring that can give its sentence gives it, and its first clause is judged. -/
theorem visitRing_gives {n : Chn} {k : RingK} {d : Dev} {cs : List Clause} (ha : (d.chan n).state.active = true)
    (good : ((d.chan n).rings.ring k).good = true) (cpl : (d.chan n).rings.cpl.good = true)
    (used : ((d.chan n).rings.ring k).used ≠ 0) (wait : (d.chan n).subWait k = 0)
    (next : (d.chan n).rings.nextSentence k = some cs) :
    visitRing n k d = some (judgeFresh n (takeSentence n k cs d)) := by
  simp [visitRing, ha, good, cpl, used, wait, next]

/-- The first ring in rotation that can give a sentence gives it. -/
theorem sentenceTake_first {n : Chn} {k : RingK} {d e : Dev} {pre post : List (Chn × RingK)} (work : d.stopped = false)
    (visits : d.visits = pre ++ (n, k) :: post) (none_ : ∀ v ∈ pre, visitRing v.1 v.2 d = none)
    (gives : visitRing n k d = some e) : sentenceTake d = e := by
  have before : pre.findSome? (fun v => visitRing v.1 v.2 d) = none := List.findSome?_eq_none_iff.2 none_
  simp [sentenceTake, work, visits, List.findSome?_append, before, gives]

/-- A fenced sentence that is taken, or one that waits behind others, keeps its ring from giving. -/
theorem subWait_fenced {c : Chan} {k : RingK} {cs : List Clause} (used : (c.rings.ring k).used ≠ 0)
    (next : c.rings.nextSentence k = some cs) (fenced : ∃ z ∈ c.sents, z.fence = true ∨ cs.any (·.fence) = true) :
    c.subWait k ≠ 0 := by
  have fence : (c.sents.any (·.fence) || (cs.any (·.fence) && !c.sents.isEmpty)) = true := by
    obtain ⟨z, hz, h | h⟩ := fenced
    · rw [Bool.or_eq_true]
      exact .inl (List.any_eq_true.2 ⟨z, hz, h⟩)
    · have some_ : c.sents.isEmpty = false := by
        rw [List.isEmpty_eq_false_iff]
        exact List.ne_nil_of_mem hz
      simp [h, some_]
  rw [Chan.subWait, if_neg used]
  simp only [next, fence, if_true]
  split
  · decide
  · split <;> decide

theorem visitRing_inactive {n : Chn} {k : RingK} {d : Dev} (h : (d.chan n).state.active = false) :
    visitRing n k d = none := by
  simp [visitRing, h]

theorem visitRing_empty {n : Chn} {k : RingK} {d : Dev} (good : ((d.chan n).rings.ring k).good = true)
    (h : ((d.chan n).rings.ring k).used = 0) : visitRing n k d = none := by
  simp [visitRing, good, h]

theorem visitRing_waits {n : Chn} {k : RingK} {d : Dev} (good : ∀ j, ((d.chan n).rings.ring j).good = true)
    (h : (d.chan n).subWait k ≠ 0) : visitRing n k d = none := by
  have cpl : (d.chan n).rings.cpl.good = true := good .cpl
  simp [visitRing, good k, cpl, h]

/-! ### The first judgement -/

/-- What a refused clause's verb changes moves no ring and no sentence. -/
def VerbSpec.RefusesInPlace (v : VerbSpec) : Prop :=
  ∀ a st d, ∃ g, v.atRefuse a st d = modChan a.n (fun c => { c with recs := g }) d ∨ v.atRefuse a st d = d

theorem refusesInPlace_default {v : VerbSpec} (h : v.atRefuse = fun _ _ d => d) : v.RefusesInPlace :=
  fun a st d => ⟨(d.chan a.n).recs, .inr (by rw [h])⟩

theorem refusesInPlace_protect : protectVerb.RefusesInPlace := by
  intro a st d
  simp only [protectVerb]
  split
  · split
    · exact ⟨_, .inl rfl⟩
    · exact ⟨(d.chan a.n).recs, .inr rfl⟩
  · exact ⟨(d.chan a.n).recs, .inr rfl⟩

theorem specRec_refusesInPlace (protect : Bool) (op : Nat) : (specRec protect op).RefusesInPlace := by
  unfold specRec
  split
  case h_2 =>
    cases protect with
    | true => exact refusesInPlace_protect
    | false => exact refusesInPlace_default rfl
  all_goals exact refusesInPlace_default rfl

theorem specHigh_refusesInPlace (v op : Nat) : (specHigh v op).RefusesInPlace := by
  unfold specHigh
  split
  case h_17 => exact specRec_refusesInPlace true op
  case h_18 => exact specRec_refusesInPlace false op
  all_goals exact refusesInPlace_default rfl

/-- Whatever the verb, its refusal moves no ring and no sentence. -/
theorem specOf_refusesInPlace (v op : Nat) : (specOf v op).RefusesInPlace := by
  have low : (specLow v).atRefuse = fun _ _ d => d := by
    unfold specLow
    split <;> rfl
  have prim : (specPrim v).atRefuse = fun _ _ d => d := by
    unfold specPrim
    split <;> rfl
  unfold specOf
  split
  · exact refusesInPlace_default low
  · split
    · exact refusesInPlace_default prim
    · exact specHigh_refusesInPlace v op

/-- A record found not to unwrap is dropped: no channel changes. -/
theorem dropUnreadable_chans (st : Status) (p : SlotPlan) (d : Dev) : (dropUnreadable st p d).chans = d.chans := by
  unfold dropUnreadable
  split
  · refine foldl_chans (fun e s => ?_) _ d
    unfold dropRecord
    split
    · rfl
    · exact noteG_chans ..
  · rfl

/-- A refusal changes neither the rings nor the sentences. -/
theorem refusal_chan {v : VerbSpec} (h : v.RefusesInPlace) (a : Ask) (st : Status) (p : SlotPlan) (d : Dev) :
    ((v.atRefuse a st (dropUnreadable st p d)).chan a.n).rings = (d.chan a.n).rings
    ∧ ((v.atRefuse a st (dropUnreadable st p d)).chan a.n).sents = (d.chan a.n).sents := by
  have same := chan_of (dropUnreadable_chans st p d) a.n
  obtain ⟨g, hg | hg⟩ := h a st (dropUnreadable st p d)
  · rw [hg, chan_modChan_same, same]
    exact ⟨rfl, rfl⟩
  · rw [hg, same]
    exact ⟨rfl, rfl⟩

/-- The first clause of a channel's one sentence, not yet judged: one that passes its checks stays, judged; one that fails posts
its record, and the rest of the sentence is SKIPPED. -/
theorem judgeFresh_one {n : Chn} {y : Sentence} {c : Clause} {cs : List Clause} {e : Dev}
    (ha : (e.chan n).state.active = true) (run : e.gRun = true) (cpl : (e.chan n).rings.cpl.good = true)
    (h : (e.chan n).sents = [y]) (hc : y.clauses = c :: cs) (hi : y.idx = 0) (hj : y.judged = false) (hjob : y.job = none)
    (hp : y.parent = none) (ho : y.overlong = false) {v : VerbSpec} {a : Ask}
    (hv : v = specOf c.verb (par8 (e.params c) 0)) (hask : a = e.ask n y c) (store : v.awaitsStore a = false) :
    (v.judge a = none → ((judgeFresh n e).chan n).sents = [{ y with judged := true }]
      ∧ ((judgeFresh n e).chan n).rings = (e.chan n).rings)
    ∧ (∀ st, v.judge a = some st → ((judgeFresh n e).chan n).sents = []
      ∧ ((judgeFresh n e).chan n).rings
        = Rings.skipped cs 1 ((e.chan n).rings.post (cplWords st 0xFF c.tag 0 0 c.w3hi 0) c.notify)) := by
  have sent := sent_one h
  have clause : y.clauses[y.idx]? = some c := by rw [hc, hi]; rfl
  have judges : judgeFresh n e = match v.judge a with
      | some st => failClause n y st 0xFF (v.atRefuse a st (dropUnreadable st (v.plan a) e))
      | none => modSent n y.sid (fun s => { s with judged := true }) e := by
    have fresh : judgeFresh n e = judgeFirst n e y.sid := by simp [judgeFresh, ha, run, h, hj, hjob]
    subst hv hask
    rw [fresh]
    simp only [judgeFirst, sent, hjob, clause, hj, ho, store]
    rfl
  rw [judges]
  refine ⟨fun passes => ?_, fun st fails => ?_⟩
  · rw [passes]
    simp [modSent, h]
  · rw [fails]
    have refuses : v.RefusesInPlace := hv ▸ specOf_refusesInPlace _ _
    have here : a.n = n := by rw [hask]; rfl
    obtain ⟨rings, sents⟩ := refusal_chan refuses a st (v.plan a) e
    rw [here] at rings sents
    have ended := failClause_root clause hp (by rw [rings]; exact cpl) st 0xFF
    rw [hc, hi] at ended
    exact ⟨by rw [ended.sents, sents, h, filter_one], by rw [ended.rings, rings]; rfl⟩

/-- Settles O31: the first ring that can give takes its sentence; behind a fence none gives. -/
theorem sentenceTakenReservesCredits : Obligations.SentenceTakenReservesCredits := by
  refine ⟨fun s pre post n k c cs awake work visits none_ active good cpl used wait next => ?_,
    fun s n k cs awake others good empty next fenced => ?_⟩
  · have sub : k = .subp ∨ k = .subb := visited_sub (d := s.dev) (n := n) (by simp [visits])
    have takes := sentenceTake_first work visits none_ (visitRing_gives active good cpl used wait next)
    have chan := takeSentence_chan n k (c :: cs) s.dev
    have run : (takeSentence n k (c :: cs) s.dev).gRun = true := by
      simp only [Dev.stopped, Bool.or_eq_false_iff, bne_eq_false_iff_eq] at work
      simp [Dev.gRun, takeSentence, work.2]
    obtain ⟨head, tail, mem, same⟩ := takes_rings sub (s.dev.chan n) (c :: cs)
    refine ⟨takeSentence n k (c :: cs) s.dev, (s.dev.chan n).takenSent k (c :: cs), ⟨awake.2, onDev_to awake takes⟩,
      keeps_takeSentence n k (c :: cs) s.dev, rfl, rfl, rfl, fun m hm => takeSentence_other hm k (c :: cs) s.dev, ?_⟩
    rw [chan]
    refine ⟨head, tail, rfl, mem, same, rfl, rfl, rfl, rfl, rfl, rfl, takenSent_prio .., rfl,
      fun v a hsents ho hv ha store => ?_⟩
    have one : ((takeSentence n k (c :: cs) s.dev).chan n).sents = [(s.dev.chan n).takenSent k (c :: cs)] := by
      rw [chan, Chan.takes, hsents]
      rfl
    have cplGood : ((takeSentence n k (c :: cs) s.dev).chan n).rings.cpl.good = true := by
      rw [chan, same]
      exact cpl
    have activeStill : ((takeSentence n k (c :: cs) s.dev).chan n).state.active = true := by
      rw [chan]
      exact active
    have judged := judgeFresh_one activeStill run cplGood one rfl rfl rfl rfl rfl ho hv ha store
    rw [chan] at judged
    refine ⟨_, onDev_to awake takes, ?_⟩
    rw [through_chan]
    exact judged
  · have waits : ∀ v ∈ s.dev.visits, visitRing v.1 v.2 s.dev = none := by
      rintro ⟨m, j⟩ -
      by_cases hm : m = n
      · subst hm
        by_cases hu : ((s.dev.chan m).rings.ring j).used = 0
        · exact visitRing_empty (good j) hu
        · have hj : j = k := by_contra fun h => hu (empty j h)
          subst hj
          exact visitRing_waits good (subWait_fenced hu next fenced)
      · exact visitRing_inactive (others m hm)
    have still : sentenceTake s.dev = s.dev := by
      rw [sentenceTake, List.findSome?_eq_none_iff.2 waits, Option.getD_none, ite_self]
    exact ⟨_, onDev_to awake still, same_const awake rfl, keeps_const (Keeps.refl _ _)⟩

end Sys2Proof.Machine
end

section
/-!
A held selection that names no engine of the clause's class (against O35).
-/

namespace Sys2Proof.Machine

/-- A BN_LOAD of one RAW value: 32 bytes at the start of buffer 0, its operand block behind them, core 0. -/
def rawLoad : Clause := ⟨0x40000001, 0, 0x10000000, 32, 0xFFFC0000, 0, 0x10000020, 12⟩

/-- The sentence of that clause, holding a selection of engine index 16, the service processor's. -/
def heldLoad : Sentence :=
  { sid := 0, prio := false, fence := false, clauses := [rawLoad], idx := 0, overlong := false, ringReset := false
    wait := .none, judged := true, sel := some ⟨16, 0, 0, []⟩, parent := none, job := none }

/-- Channel 0, OPEN, with that sentence taken. -/
def loadChan : Chan :=
  { Chan.fresh with state := .opened, quota := 1, rings := .opened 0 0, stream := .fresh, sents := [heldLoad] }

/-- The device in RUN: channel 0 owns the buffer and the empty user area of core 0. -/
def loadDev : Dev :=
  let d := State.reset.dev
  { d with
    chans := d.chans.set 0 loadChan
    pool := { d.pool with
      bufs := [⟨0, 1, 0, .live⟩]
      mem := Mem.write 0 [] 32 (natBE 2 0 ++ natBE 2 0xFFFF ++ natBE 2 0xFFFF ++ natBE 2 0xFFFF ++ [2, 0, 0, 1]) }
    cores := d.cores.set 0 ⟨some 0, [], false⟩ }

/-- The machine with that core. -/
def loadState : State := { State.reset with dev := loadDev }

/-- The row of BN_LOAD. -/
def loadRow : VerbRow := ⟨0, 0, 0x40, none, loadPrim.spec⟩

theorem loadState_awake : loadState.awake := ⟨by decide +kernel, by decide +kernel⟩

theorem loadState_atClause : loadState.atClause 0 heldLoad rawLoad :=
  ⟨loadState_awake, by decide +kernel, by decide +kernel, fun k => by cases k <;> decide +kernel, by decide +kernel, rfl,
    rfl, rfl⟩

/-- The held selection stands: an index from 16 on names no engine that could leave the dispatch set. -/
theorem loadState_given : loadState.given 0 heldLoad rawLoad 16 := ⟨rfl, rfl⟩

theorem loadState_starts : loadState.starts loadRow heldLoad rawLoad 16 :=
  ⟨loadState_atClause, rfl, by decide +kernel, nofun, by decide +kernel, rfl, by decide +kernel, by decide +kernel,
    by decide +kernel, by decide +kernel, loadState_given, by decide +kernel, by decide +kernel, by decide +kernel,
    by decide +kernel, by decide +kernel, by decide +kernel⟩

/-- The owner of a core's user area. -/
def ownerOf (cores : Vector BnCore 4) (k : Nat) : Option Chn := (vget cores k ⟨none, [], false⟩).owner

/-- The load starts and clears its destination: core 0, which had no written slot, is unowned after it. -/
theorem loadDev_dispatched : ownerOf (dispatchVerb 0x40 loadPrim.spec 0 0 loadDev).cores 0 = none := by decide +kernel

theorem loadDev_owned : ownerOf loadDev.cores 0 = some 0 := by decide +kernel

/-- Refutes O35: its hypotheses bind a held selection's engine to no class, so a big-number primitive may hold engine index
16, and starts on it; the clause that says that no start on an index from 16 on changes a core then fails, for the dispatch of
BN_LOAD clears its destination and with it the owner of core 0. -/
theorem not_verbDispatchStartsJob : ¬ Obligations.VerbDispatchStartsJob := by
  unfold Obligations.VerbDispatchStartsJob
  intro h
  obtain ⟨t, j, ex, -, -, -, -, -, -, -, -, -, -, -, -, -, -, -, -, -, -, -, -, cores, -⟩ :=
    h (.bnLoad 0 0) loadRow heldLoad rawLoad 16 loadState rfl loadState_starts
  have ran : exec (.bnLoad 0 0) loadState = .next (loadState.through (dispatchVerb 0x40 loadPrim.spec 0 0)) :=
    onDev_awake loadState_awake
  have reached : t = loadState.through (dispatchVerb 0x40 loadPrim.spec 0 0) := by
    rw [ran] at ex
    exact (Host.Outcome.next.inj ex).symm
  have kept : (dispatchVerb 0x40 loadPrim.spec 0 0 loadDev).cores = loadDev.cores := by
    have := cores (.inr (Nat.le_refl 16))
    rwa [reached, through_cores] at this
  have owner := loadDev_dispatched
  rw [kept, loadDev_owned] at owner
  cases owner

end Sys2Proof.Machine
end

section
/-!
The buffer pool: host allocations (O27).
-/

namespace Sys2Proof.Machine

/-- A change of the pool is a change of nothing else. -/
theorem keeps_pool (q : Pool) (d : Dev) : Keeps [.pool] d { d with pool := q } := by
  intro p hp _
  cases p <;> simp [Part.same] at hp ⊢

/-! ### The run selected (07 R158, R159) -/

theorem select_overQuota {d : Dev} {n : Chn} {c : Nat} (h : d.inQuota n c = false) : d.select n c = (none, 1) := by
  simp [Dev.select, h]

theorem select_noSpace {d : Dev} {n : Chn} {c : Nat} (hq : d.inQuota n c = true) (h : d.firstFit c = none) :
    d.select n c = (none, 2) := by
  simp [Dev.select, hq, h]

theorem select_firstFit {d : Dev} {n : Chn} {c g : Nat} (hq : d.inQuota n c = true) (h : d.firstFit c = some g) :
    d.select n c = (some g, 0) := by
  simp [Dev.select, hq, h]

/-! ### CH_ALLOC (07 R160) -/

/-- A channel that has started an allocation of `count` granules, the run selected or the refusal noted. -/
def Chan.allocates (c : Chan) (count : Nat) (r : Option Nat × Nat) : Chan :=
  { c with alloc := some ⟨count, r.1, r.2⟩, allocRes := clrBit c.allocRes 30 }

/-- A good CH_ALLOC selects its run at once. -/
theorem chAlloc_selects {n : Chn} {count : Nat} {d : Dev} (run : d.power.st = .run) (opened : (d.chan n).state = .opened)
    (lo : 1 ≤ count) (hi : count ≤ 64) (idle : (d.chan n).alloc = none) (p : Port) :
    chAlloc n count p d = modChan n (fun c => c.allocates count (d.select n count)) d := by
  have range : ¬ (count = 0 ∨ 64 < count) := by omega
  simp [chAlloc, run, opened, range, idle, Chan.allocates]

/-! ### The allocation's end (07 R160, R162, Table 07.5) -/

theorem allocComplete_refused {n : Chn} {c r : Nat} {d : Dev} (work : d.stopped = false)
    (h : (d.chan n).alloc = some ⟨c, none, r⟩) : allocComplete n d = allocEnds n r 0xFFFC d := by
  simp [allocComplete, h, work]

theorem allocComplete_places {n : Chn} {c f r : Nat} {d : Dev} (work : d.stopped = false)
    (h : (d.chan n).alloc = some ⟨c, some f, r⟩) (on : d.domOn (60 + f / 128) = true) :
    allocComplete n d = allocEnds n 0 (d.pool.handle f) (placeBuf ⟨f, c, n, .live⟩ d) := by
  simp [allocComplete, h, work, on]

/-- BUSY of CH_ALLOCRES is clear where no allocation is in progress. -/
theorem allocReg_notBusy {c : Chan} (h : c.alloc = none) : bit c.allocReg 31 = false := by
  simp [Chan.allocReg, h, putBit, clrBit, bit]

/-- A channel whose allocation has ended, its result and handle loaded and OVR kept (07 Table 07.5). -/
def Chan.allocEnded (c : Chan) (result handle : Nat) : Chan :=
  { c with
    alloc := none
    allocRes := at_ (flag (bit c.allocRes 30)) 30 ||| at_ result 24 ||| at_ handle 0 }

/-- An allocation's result loaded changes its channel alone. -/
theorem allocEnds_is (n : Chn) (r h : Nat) (d : Dev) :
    Keeps [.chans] d (allocEnds n r h d) ∧ ChanIs n (fun c => c.allocEnded r h) d (allocEnds n r h d) :=
  ⟨keeps_modChan n _ d, ChanIs.modChan n _ d⟩

/-- A buffer placed changes the pool alone. -/
theorem keeps_placeBuf (b : Buf) (d : Dev) : Keeps [.pool] d (placeBuf b d) := keeps_pool _ d

/-- Settles O27: CH_ALLOC keeps the outcome of the selection, and the allocation's end acts on what was kept. -/
theorem allocationPlacesZeroedBuffer : Obligations.AllocationPlacesZeroedBuffer := by
  refine ⟨fun n count s ht run opened lo hi idle => ?_, fun n s c r ha work => ⟨fun f picked on => ?_, fun refused => ?_⟩⟩
  · have started : chAlloc n (count % 128) (s.dev.bound n) s.dev
        = modChan n (fun c => c.allocates count (s.dev.select n count)) s.dev := by
      rw [Nat.mod_eq_of_lt (by omega)]
      exact chAlloc_selects run opened lo hi idle _
    have is := chanIs_const (ChanIs.modChan n (fun c => c.allocates count (s.dev.select n count)) s.dev)
    refine ⟨_, onPage_to ht started, same_const ht.1 rfl, keeps_const (keeps_modChan n _ s.dev), is.2, ?_⟩
    rw [is.1]
    refine ⟨opened, fun above => ?_, fun within full => ?_, fun g within fits => ?_⟩
    · rw [select_overQuota above]; rfl
    · rw [select_noSpace within full]; rfl
    · rw [select_firstFit within fits]; rfl
  · have placed := keeps_up (qs := [.chans, .pool]) (keeps_placeBuf ⟨f, c, n, .live⟩ s.dev)
    obtain ⟨kept, ended⟩ := allocEnds_is n 0 (s.dev.pool.handle f) (placeBuf ⟨f, c, n, .live⟩ s.dev)
    have is : ChanIs n (fun c => c.allocEnded 0 (s.dev.pool.handle f)) s.dev _ := chanIs_const (ended.of_chans rfl)
    refine ⟨_, onDev_to ha (allocComplete_places work picked on), same_const ha rfl,
      keeps_const (placed.trans (keeps_up kept)), is.2, rfl, rfl, rfl, ?_⟩
    rw [is.1]
    exact ⟨allocReg_notBusy rfl, rfl, _, rfl⟩
  · obtain ⟨kept, ended⟩ := allocEnds_is n r 0xFFFC s.dev
    exact ⟨_, onDev_to ha (allocComplete_refused work refused), same_const ha rfl, keeps_const kept, chanIs_const ended⟩

end Sys2Proof.Machine
end

section
/-!
The buffer pool: freeing a buffer and zeroing its granules (O28).
-/

namespace Sys2Proof.Machine

/-! ### Generations (07 R156) -/

/-- A granule whose entry is dropped has none. -/
theorem lookup_filter_self (g : Nat) (l : List (Nat × Nat)) : (l.filter (fun x => x.1 != g)).lookup g = none :=
  List.lookup_eq_none_iff.2 fun _ hx => bne_iff_ne.2 (bne_iff_ne.1 (List.mem_filter.1 hx).2).symm

/-- The granule advanced has the next generation: a granule at generation 1 has no entry. -/
theorem advance_gen_same (p : Pool) (g : Nat) : (p.advance g).gen g = nextGen g (p.gen g) := by
  rw [Pool.advance, Pool.gen]
  by_cases wraps : nextGen g (p.gen g) = 1
  · simp only [wraps, if_true, lookup_filter_self, Option.getD_none]
  · simp only [wraps, if_false, List.lookup_cons_self, Option.getD_some]

/-! ### CH_FREE (07 R164, R165) -/

/-- CH_FREE of a LIVE buffer by its owner and its current handle (07 Table 07.2). -/
theorem judgeFree_live {n : Chn} {h : Nat} {b : Buf} {d : Dev} (hb : d.pool.buf (h % 4096) = some b) (live : b.st = .live)
    (own : b.owner = n) (hi : h < 0xFFFC) (cur : h / 4096 = d.pool.gen (h % 4096)) (lo : 4096 ≤ h) :
    judgeFree n h d =
      if d.bufUsed n (h % 4096) then setBuf (h % 4096) .dying { d with pool := d.pool.advance (h % 4096) }
      else freeBuf (h % 4096) d := by
  have handle : ¬ 0xFFFC ≤ h ∧ h / 4096 ≠ 0 := by omega
  simp [judgeFree, hb, live, own, handle, ← cur]

/-- CH_FREE in OPEN or DRAINING is that judgement. -/
theorem chFree_active {n : Chn} {d : Dev} (act : (d.chan n).state.active = true) (h : Nat) :
    chFree n h d = judgeFree n h d := if_pos act

/-- The buffer found by a first granule starts there. -/
theorem buf_first {p : Pool} {g : Nat} {b : Buf} (h : p.buf g = some b) : b.first = g := by
  simpa using List.find?_some h

/-- A buffer's state changed shows in the buffer. -/
theorem setBuf_buf {g : Nat} {b : Buf} {d : Dev} (h : d.pool.buf g = some b) (st : BufState) :
    (setBuf g st d).pool.buf g = some { b with st := st } := by
  have found : (d.pool.bufs.map (fun b => if b.first = g then { b with st := st } else b)).find? (fun b => b.first = g)
      = (d.pool.buf g).map (fun b => if b.first = g then { b with st := st } else b) := by
    have kept : (fun b : Buf => decide (b.first = g)) ∘ (fun b => if b.first = g then { b with st := st } else b)
        = fun b => decide (b.first = g) := by
      funext b
      by_cases hb : b.first = g <;> simp [hb]
    rw [List.find?_map, kept, Pool.buf]
  rw [Pool.buf, setBuf, found, h, Option.map_some, if_pos (buf_first h)]

/-- A buffer freed: its generation advances and its granules join the dirty ones. -/
theorem freeBuf_pool {g : Nat} {b : Buf} {d : Dev} (h : d.pool.buf g = some b) :
    (freeBuf g d).pool = { d.pool.advance g with
      bufs := d.pool.bufs.filter (fun x => x.first != g)
      dirty := (List.range b.count).map (fun i => g + i) ++ d.pool.dirty } := by
  have same : (d.pool.advance g).buf g = some b := h
  simp only [freeBuf, dropBuf, same]
  rfl

/-! ### Zeroing (07 R166) -/

/-- The lowest dirty granule whose bank is on is zeroed next. -/
theorem zeroNext_lowest {d : Dev} {g : Nat} (hg : g < 4096) (dirty : d.pool.dirty.contains g = true)
    (on : d.domOn (60 + g / 128) = true)
    (lower : ∀ h, h < g → d.pool.dirty.contains h = true → d.domOn (60 + h / 128) = false) : d.zeroNext = some g := by
  rw [Dev.zeroNext, List.find?_range_eq_some]
  refine ⟨by rw [dirty, on]; rfl, List.mem_range.2 hg, fun h hh => ?_⟩
  cases marked : d.pool.dirty.contains h with
  | false => rfl
  | true => rw [lower h hh marked]; rfl

theorem granuleZero_next {d : Dev} {g : Nat} (next : d.zeroNext = some g) :
    granuleZero g d = { d with pool := zeroGran g 1 d.pool } := by
  rw [granuleZero, if_pos next]

theorem granuleZero_other {d : Dev} {g h : Nat} (next : d.zeroNext = some g) (ne : h ≠ g) : granuleZero h d = d := by
  rw [granuleZero, if_neg (by simpa [next] using ne.symm)]

/-- Zeroing one granule removes its mark and no other. -/
theorem zeroGran_one_dirty (g : Nat) (p : Pool) : (zeroGran g 1 p).dirty = p.dirty.filter (· != g) := by
  refine List.filter_congr fun x _ => Bool.eq_iff_iff.2 ?_
  simp only [Bool.or_eq_true, decide_eq_true_eq, bne_iff_ne]
  omega

/-- Settles O28: the judgement of a good handle frees the buffer or leaves it DYING, by its use; the granule zeroed next
is the lowest that may be. -/
theorem freeReturnsGranulesDirty : Obligations.FreeReturnsGranulesDirty := by
  refine ⟨fun n h b s ht act hb live own hi cur lo => ?_, fun g s ha hg dirty on lower => ?_⟩
  · have judged := (chFree_active act h.toNat).trans (judgeFree_live hb live own hi cur lo)
    cases used : s.dev.bufUsed n (h.toNat % 4096) with
    | true =>
      rw [used, if_pos rfl] at judged
      refine ⟨_, onPage_to ht judged, same_const ht.1 rfl, keeps_const (keeps_pool _ s.dev), ?_⟩
      rw [cur]
      exact ⟨advance_gen_same s.dev.pool _, rfl, nofun, fun _ => ⟨setBuf_buf hb .dying, rfl⟩⟩
    | false =>
      rw [used, if_neg Bool.false_ne_true] at judged
      refine ⟨_, onPage_to ht judged, same_const ht.1 (freeBuf_rst _ _), keeps_const (freed_freeBuf _ s.dev).keeps, ?_⟩
      rw [through_pool, freeBuf_pool hb, cur]
      exact ⟨advance_gen_same s.dev.pool _, rfl, fun _ => ⟨rfl, rfl⟩, nofun⟩
  · have next := zeroNext_lowest hg dirty on lower
    exact ⟨fun h ne => ⟨_, onDev_to ha (granuleZero_other next ne), same_const ha rfl, keeps_const (Keeps.refl _ _)⟩,
      _, onDev_to ha (granuleZero_next next), same_const ha rfl, keeps_const (keeps_pool _ s.dev), rfl,
      zeroGran_one_dirty g s.dev.pool, rfl, rfl⟩

end Sys2Proof.Machine
end

section
/-!
SUPPORT. Work that goes on at a boundary or from its context: one sentence changed in place, the charges that move the
scheduler's tags alone, the engine a selection gives.
-/

namespace Sys2Proof.Machine

/-! ### The scheduler's tags -/

/-- From `d` to `e` the scheduler's tags move, and free values are drawn; nothing else. -/
structure TagsMove (d e : Dev) : Prop where
  keeps : Keeps [] d e
  rst : e.rst = d.rst

theorem TagsMove.trans {d e f : Dev} (h : TagsMove d e) (h' : TagsMove e f) : TagsMove d f :=
  ⟨h.keeps.trans h'.keeps, h'.rst.trans h.rst⟩

theorem TagsMove.chans {d e : Dev} (h : TagsMove d e) : e.chans = d.chans := h.keeps .chans (by decide) (by decide)

theorem TagsMove.refund (k : Cls) (n : Chn) (w before b : Nat) (d : Dev) : TagsMove d (refundTag k n w before b d) := by
  refine ⟨fun q _ ht => ?_, rfl⟩
  cases q
  case tags => exact absurd rfl ht
  case sched => cases k <;> exact ⟨rfl, rfl, rfl⟩
  all_goals rfl

theorem TagsMove.correct (k : Cls) (n : Chn) (w before : Nat) (d : Dev) : TagsMove d (correctTag k n w before d) := by
  have refunded := TagsMove.refund k n w before (Config.busyCycles d.ctr) d
  refine refunded.trans ⟨fun q _ _ => ?_, rfl⟩
  cases q <;> first | rfl | exact ⟨rfl, rfl, rfl⟩ | exact ⟨rfl, rfl, rfl, rfl⟩

theorem TagsMove.select (k : Cls) (n : Chn) (prio : Bool) (e : Nat) (doms : List Nat) (d : Dev) :
    TagsMove d (selectFor k n prio e doms d).2 := ⟨selectFor_keeps k n prio e doms d, rfl⟩

theorem TagsMove.sent {d e : Dev} (h : TagsMove d e) (n : Chn) (sid : Nat) : e.sent n sid = d.sent n sid := by
  rw [Dev.sent, Dev.sent, chan_of h.chans]

/-! ### One channel changed -/

/-- From `d` to `e` channel `n` and the scheduler's tags alone change. -/
structure ChanFrame (n : Chn) (d e : Dev) : Prop where
  keeps : Keeps [.chans] d e
  others : OthersKept n d e
  rst : e.rst = d.rst

theorem ChanFrame.trans {n : Chn} {d e f : Dev} (h : ChanFrame n d e) (h' : ChanFrame n e f) : ChanFrame n d f :=
  ⟨h.keeps.trans h'.keeps, fun m hm => (h'.others m hm).trans (h.others m hm), h'.rst.trans h.rst⟩

theorem ChanFrame.modChan (n : Chn) (f : Chan → Chan) (d : Dev) : ChanFrame n d (modChan n f d) :=
  ⟨keeps_modChan n f d, fun _ hm => chan_modChan_other hm f d, rfl⟩

theorem TagsMove.frame {d e : Dev} (h : TagsMove d e) (n : Chn) : ChanFrame n d e :=
  ⟨keeps_up h.keeps, fun m _ => chan_of h.chans m, h.rst⟩

theorem ChanFrame.modJob (n : Chn) (sid : Nat) (f : Job → Job) (d : Dev) : ChanFrame n d (modJob n sid f d) :=
  ⟨keeps_modChan n _ d, fun _ hm => chan_modChan_other hm _ d, rfl⟩

theorem ChanFrame.setStep (n : Chn) (sid : Nat) (y : Option Step) (d : Dev) : ChanFrame n d (setStep n sid y d) :=
  ChanFrame.modJob n sid _ d

/-- A command whose effect changes one channel leaves the queue, the shells, the other channels and the rest of the core. -/
theorem ChanFrame.answers {n : Chn} {s : State} {D : Dev} (m : ChanFrame n s.dev D) (h : s.awake) {p : Prop} (hp : p) :
    SameShell s (s.through (fun _ => D)) ∧ Keeps [.chans] s.dev (s.through (fun _ => D)).dev
      ∧ OthersKept n s.dev (s.through (fun _ => D)).dev ∧ p :=
  ⟨same_const h m.rst, keeps_const m.keeps, others_const m.others, hp⟩

/-! ### One sentence changed in place -/

/-- Every sentence of the number changes, and no other. -/
theorem sent_modSent_map {f : Sentence → Sentence} (hf : ∀ y, (f y).sid = y.sid) (n : Chn) (sid i : Nat) (d : Dev) :
    (modSent n sid f d).sent n i = (d.sent n i).map (fun y => if y.sid = sid then f y else y) := by
  have same : ((fun y : Sentence => decide (y.sid = i)) ∘ fun y => if y.sid = sid then f y else y)
      = fun y => decide (y.sid = i) := by
    funext y
    by_cases hy : y.sid = sid <;> simp [hy, hf]
  rw [Dev.sent, modSent, chan_modChan_same, List.find?_map, same]
  rfl

theorem sent_modSent {n : Chn} {x : Sentence} {f : Sentence → Sentence} {d : Dev} (hf : ∀ y, (f y).sid = y.sid)
    (h : d.sent n x.sid = some x) : (modSent n x.sid f d).sent n x.sid = some (f x) := by
  rw [sent_modSent_map hf, h, Option.map_some, if_pos rfl]

theorem sent_job {n : Chn} {x : Sentence} {j : Job} {d : Dev} (h : d.sent n x.sid = some x) (hj : x.job = some j) :
    d.sent n x.sid = some { x with job := some j } := by
  rw [h, ← hj]

theorem sent_modJob {n : Chn} {x : Sentence} {j : Job} {d : Dev} (h : d.sent n x.sid = some { x with job := some j })
    (f : Job → Job) : (modJob n x.sid f d).sent n x.sid = some { x with job := some (f j) } :=
  sent_modSent (x := { x with job := some j }) (f := fun y => { y with job := y.job.map f }) (fun _ => rfl) h

theorem sent_through (f : Dev → Dev) (s : State) (n : Chn) (sid : Nat) :
    (s.through f).dev.sent n sid = (f s.dev).sent n sid := rfl

/-- Of its channel a change of one sentence changes the list of sentences alone. -/
theorem chan_modSent (n : Chn) (sid : Nat) (f : Sentence → Sentence) (d : Dev) :
    (modSent n sid f d).chan n = { d.chan n with
      sents := (d.chan n).sents.map (fun y => if y.sid = sid then f y else y) } := chan_modChan_same n _ d

theorem sent_consumeStream (n : Chn) (s : Sentence) (c : Clause) (k : Nat) (d : Dev) (sid : Nat) :
    (consumeStream n s c k d).sent n sid = d.sent n sid := by
  unfold consumeStream
  split
  · rw [Dev.sent, chan_modChan_same]
    rfl
  · rfl

theorem ChanFrame.consumeStream (n : Chn) (s : Sentence) (c : Clause) (k : Nat) (d : Dev) :
    ChanFrame n d (consumeStream n s c k d) := by
  unfold Sys2Proof.Machine.consumeStream
  split
  · exact ChanFrame.modChan n _ d
  · exact ⟨Keeps.refl _ _, fun _ _ => rfl, rfl⟩

/-! ### What a change of a sentence leaves of its channel's waits -/

theorem moreReady_of {n : Chn} {d e : Dev} (h : (e.chan n).stream = (d.chan n).stream) (x : Sentence) (j : Job) :
    e.moreReady n x j = d.moreReady n x j := by
  simp only [Dev.moreReady, Dev.streamUpTo, Dev.rangeOf, h]

/-- The bytes of a stream clause come from its channel's stream alone. -/
theorem inputBytes_of {n : Chn} {d e : Dev} {c : Clause} (hw : hi16 c.w2 = 0xFFFF)
    (h : (e.chan n).stream = (d.chan n).stream) (x : Sentence) (a b : Nat) :
    e.inputBytes n x c a b = d.inputBytes n x c a b := by
  simp only [Dev.inputBytes, Dev.rangeOf, hw, h, if_true]

/-- No more bytes of a stream clause are read than were asked for. -/
theorem inputBytes_length_le {n : Chn} {d : Dev} {c : Clause} (hw : hi16 c.w2 = 0xFFFF) (x : Sentence) (a b : Nat) :
    (d.inputBytes n x c a b).length ≤ b - a := by
  simp only [Dev.inputBytes, hw, if_true]
  split
  · exact Nat.zero_le _
  · rw [List.length_map, List.length_range]

/-- The contexts a channel can take depend on its clauses' phases, steps and held plaintext. -/
theorem canSave_modJob {f : Job → Job} (hf : ∀ j, (f j).phase = j.phase ∧ (f j).steps = j.steps ∧ (f j).hold = j.hold)
    (n : Chn) (sid : Nat) (d : Dev) : (modJob n sid f d).canSave n = d.canSave n := by
  have susp : ((modJob n sid f d).chan n).susp = (d.chan n).susp := by
    have same : (Sentence.isSusp ∘ fun y : Sentence => if y.sid = sid then { y with job := y.job.map f } else y)
        = Sentence.isSusp := by
      funext y
      rw [Function.comp_apply]
      split
      · unfold Sentence.isSusp
        cases y.job with
        | none => rfl
        | some j => simp only [Option.map_some, Job.step, hf]
      · rfl
    rw [Chan.susp, modJob, chan_modSent, List.filter_map, List.length_map, same, Chan.susp]
  have holding : ((modJob n sid f d).chan n).holding = (d.chan n).holding := by
    rw [Chan.holding, modJob, chan_modSent, List.findSome?_map]
    refine congrArg (List.findSome? · _) (funext fun y => ?_)
    rw [Function.comp_apply]
    split
    · cases y.job with
      | none => simp only [Option.map_none, Option.bind_none]
      | some j => simp only [Option.map_some, Option.bind_some, hf]
    · rfl
  rw [Dev.canSave, susp, holding]
  rfl

theorem canSave_of {n : Chn} {d e : Dev} (h : e.chans = d.chans) : e.canSave n = d.canSave n := by
  rw [Dev.canSave, chan_of h]
  rfl

end Sys2Proof.Machine
end

section
/-!
Segments, contexts, queued steps and class waits (O48).
-/

namespace Sys2Proof.Machine

/-! ### Classes and their engines (08 R173, R184) -/

theorem lt_of_mem_engines {k : Cls} {e : Nat} (h : e ∈ k.engines) : e < 16 := by
  cases k <;> simp [Cls.engines] at h <;> omega

/-- The lanes, of class C and class H. -/
theorem lane_of_mem_engines {k : Cls} (hk : k = .cipher ∨ k = .hash) {e : Nat} (h : e ∈ k.engines) : e < 12 := by
  rcases hk with rfl | rfl <;> simp [Cls.engines] at h <;> omega

theorem prefer_mem {d : Dev} {es : List Nat} {e : Nat} (h : d.prefer es = some e) : e ∈ es := by
  unfold Dev.prefer at h
  split at h
  · next hf =>
    cases h
    exact List.mem_of_find?_eq_some hf
  · exact List.mem_of_mem_head? h

/-- The engine preferred among the free ones of a class is one of that class. -/
theorem preferred_mem {d : Dev} {k : Cls} {e : Nat} (h : d.prefer (k.engines.filter d.engFree) = some e) :
    e ∈ k.engines := (List.mem_filter.1 (prefer_mem h)).1

theorem engIdOf_lt {e : Nat} (h : e < 16) : engIdOf e = engId e := if_pos h

/-- A verb that runs in segments is of class C or class H. -/
theorem segmented_class {v : Nat} (h : segmented v = true) : verbClass v = some .cipher ∨ verbClass v = some .hash := by
  unfold segmented at h
  split at h
  · next hv => exact .inl hv
  · next hv => exact .inr hv
  · cases h

theorem class_of_isPublic {v : Nat} (h : isPublic v = true) : verbClass v = some .bignum := by
  simp only [isPublic, Bool.and_eq_true, decide_eq_true_eq] at h
  rw [verbClass, if_neg (by omega), if_neg (by omega), if_pos (by omega)]

/-- The service processor has no part in a clause that runs in segments. -/
theorem halts_segmented {v : Nat} (h : segmented v = true) (d : Dev) : d.halts v = false := by
  have sequenced : isPublic v = false := Bool.eq_false_iff.2 fun hp => by
    rcases segmented_class h with hv | hv <;> cases hv.symm.trans (class_of_isPublic hp)
  rcases segmented_class h with hv | hv <;> rw [Dev.halts, hv, sequenced] <;> exact Bool.and_false _

theorem presigFill_whole : segmented 0x5E = false := rfl

/-- Where more input follows the next part, that part is a segment of at most 4 KiB (08 R181). -/
theorem nextLen_add_lt {v : Nat} {c : Clause} {k : Nat} (hv : c.verb = v) (hs : segmented v = true)
    (h : nextLen c k < c.inLen) : nextLen c k = k + 4096 := by
  have notPhrase : v ≠ 0x65 := by rintro rfl; cases hs
  rw [nextLen, hv, if_neg notPhrase, if_pos hs] at h ⊢
  omega

/-! ### A boundary (08 R181, R182) -/

section
variable {d saved : Dev} {n : Chn} {sid eng : Nat} {k : Cls} {ready runOn : Bool}

theorem fate_waits (hr : ready = false) (ho : runOn = false) :
    d.fate saved n sid k eng ready runOn = if d.canSave n then .save else .stay := by
  simp [Dev.fate, hr, ho]

theorem fate_leaves (hr : ready = true) (ho : runOn = false) (hs : d.canSave n = true)
    (h : d.stopped = true ∨ d.laneStays eng = false) : d.fate saved n sid k eng ready runOn = .save := by
  have leaves : (d.stopped || !d.laneStays eng) = true := by
    rcases h with h | h <;> simp [h]
  simp [Dev.fate, hr, ho, hs, leaves]

theorem fate_goes (hr : ready = true) (hs : d.canSave n = false) : d.fate saved n sid k eng ready runOn = .go := by
  simp [Dev.fate, hr, hs]

end

/-- The core once a clause at a boundary has its output counted and its charge corrected. -/
def atBoundary (n : Chn) (sid : Nat) (j : Job) (k : Cls) (w : Nat) (d : Dev) : Dev :=
  correctTag k n j.weight j.tagBefore (modJob n sid (fun j => { j with written := w }) d)

/-- The boundary of a running clause of a verb that runs in segments, with no output place: its ranking. -/
theorem segmentBoundary_ranks {n : Chn} {x : Sentence} {c : Clause} {j : Job} {k : Cls} {d : Dev}
    (good : ∀ q, ((d.chan n).rings.ring q).good = true) (hx : d.sent n x.sid = some x) (hc : x.clauses[x.idx]? = some c)
    (hk : verbClass c.verb = some k) (seg : segmented c.verb = true) (hw : d.working = true) (hj : x.job = some j)
    (run : j.phase = .run) (hr : j.result = none) (ha : j.abort = false) (hv : j.verb = c.verb) (hs : j.steps = [])
    (hp : j.primes = none) (hd : j.dst = .none) {w : Nat}
    (out : w = ((specOf c.verb (par8 j.params 0)).partialOut (j.work n c d)).length) :
    segmentBoundary n x.sid (scrubChan d n)
      = rankClause n x c { j with written := w } k (atBoundary n x.sid j k w d) := by
  have notFill : j.verb ≠ 0x5E := by
    intro h
    rw [← hv, h, presigFill_whole] at seg
    cases seg
  have halts : d.halts j.verb = false := hv ▸ halts_segmented seg d
  have wrote : writeSoFar n x c j d = modJob n x.sid (fun j => { j with written := w }) d := by
    simp only [writeSoFar, hd, ← out]
  have job : (((modJob n x.sid (fun j => { j with written := w }) d).sent n x.sid).bind (·.job)).elim j.written (·.written)
      = w := by
    rw [sent_modJob (sent_job hx hj)]
    rfl
  have bounded : clauseBoundary n x c j d = rankClause n x c { j with written := w } k (atBoundary n x.sid j k w d) := by
    simp [clauseBoundary, hk, hp, notFill, seg, hr, run, wrote, job, ha, atBoundary]
  simp [segmentBoundary, scrubChan_good good, hx, hj, hc, hw, run, Job.step, hs, halts, bounded]

section
variable (n : Chn) (sid : Nat) (j : Job) (k : Cls) (w : Nat) (d : Dev)

theorem atBoundary_frame : ChanFrame n d (atBoundary n sid j k w d) :=
  (ChanFrame.modChan n _ d).trans ((TagsMove.correct k n j.weight j.tagBefore _).frame n)

theorem atBoundary_chan : ∃ ss, (atBoundary n sid j k w d).chan n = { d.chan n with sents := ss } :=
  ⟨_, (chan_of (TagsMove.correct k n j.weight j.tagBefore _).chans n).trans (chan_modSent ..)⟩

theorem atBoundary_canSave : (atBoundary n sid j k w d).canSave n = d.canSave n :=
  (canSave_of (TagsMove.correct k n j.weight j.tagBefore _).chans).trans
    (canSave_modJob (f := fun j => { j with written := w }) (fun _ => ⟨rfl, rfl, rfl⟩) n sid d)

theorem atBoundary_stream : ((atBoundary n sid j k w d).chan n).stream = (d.chan n).stream := by
  obtain ⟨ss, h⟩ := atBoundary_chan n sid j k w d
  rw [h]

theorem atBoundary_laneStays (e : Nat) : (atBoundary n sid j k w d).laneStays e = d.laneStays e := rfl

theorem atBoundary_stopped : (atBoundary n sid j k w d).stopped = d.stopped := rfl

end

theorem atBoundary_sent {n : Chn} {x : Sentence} {j : Job} {d : Dev} (hx : d.sent n x.sid = some x) (hj : x.job = some j)
    (k : Cls) (w : Nat) :
    (atBoundary n x.sid j k w d).sent n x.sid = some { x with job := some { j with written := w } } :=
  ((TagsMove.correct k n j.weight j.tagBefore _).sent n x.sid).trans (sent_modJob (sent_job hx hj) _)

/-! ### Work that goes on with its next 4 KiB (08 R181) -/

/-- A job that goes on under the selection `y`, `more` bytes of input read. -/
def Job.goesOn (j : Job) (y : Sel) (runOn : Bool) (more : Bytes) : Job :=
  { j with phase := .run, weight := y.weight, tagBefore := y.before, runOn := runOn, input := j.input ++ more }

theorem settleResult_partial {j : Job} {c : Clause} (h : j.whole c = false) (v : VerbSpec) (n : Chn) (sid : Nat) (pre d : Dev) :
    settleResult v n sid c j pre d = modSent n sid (fun s => { s with job := some j }) d := by
  simp [settleResult, h]

/-- A stream clause whose input does not end with its next part goes on with no result yet. -/
theorem continueJob_goesOn {n : Chn} {x : Sentence} {c : Clause} {j : Job} {d : Dev} (seg : segmented c.verb = true)
    (stream : hi16 c.w2 = 0xFFFF) (begun : j.input ≠ []) (more : nextLen c j.input.length < c.inLen)
    (y : Sel) (runOn : Bool) : continueJob n x c j y runOn d
      = modSent n x.sid (fun s => { s with job := some (j.goesOn y runOn
          (d.inputBytes n x c j.input.length (nextLen c j.input.length))) })
        (consumeStream n x c (nextLen c j.input.length - j.input.length) (noteWait n x.sid .none
          (modSent n x.sid (fun s => { s with sel := none }) d))) := by
  have unbroken (off len : Nat) : d.brokenIn (hi16 c.w2) off len = false := by simp [Dev.brokenIn, stream]
  have started : (j.input.length == 0) = false := by simpa using begun
  have part := nextLen_add_lt rfl seg more
  have read := inputBytes_length_le (n := n) (d := d) stream x j.input.length (nextLen c j.input.length)
  have partial_ : ((j.goesOn y runOn (d.inputBytes n x c j.input.length (nextLen c j.input.length))).whole c) = false := by
    have short : (j.input.length + (d.inputBytes n x c j.input.length (nextLen c j.input.length)).length == c.inLen)
        = false := beq_eq_false_iff_ne.2 (by omega)
    simp only [Job.whole, Job.goesOn, List.length_append, short, Bool.false_and]
  simp only [continueJob, gather, unbroken, started, Bool.false_and, Bool.or_self, Bool.false_eq_true, if_false]
  exact settleResult_partial partial_ ..

theorem continueJob_spec {n : Chn} {x : Sentence} {c : Clause} {j : Job} {d : Dev} {z : Option Job}
    (hx : d.sent n x.sid = some { x with job := z }) (seg : segmented c.verb = true)
    (stream : hi16 c.w2 = 0xFFFF) (begun : j.input ≠ []) (more : nextLen c j.input.length < c.inLen)
    (y : Sel) (runOn : Bool) : ChanFrame n d (continueJob n x c j y runOn d)
      ∧ (continueJob n x c j y runOn d).sent n x.sid = some { x with
          job := some (j.goesOn y runOn (d.inputBytes n x c j.input.length (nextLen c j.input.length)))
          wait := .none, sel := none } := by
  rw [continueJob_goesOn seg stream begun more]
  have given := sent_modSent (x := { x with job := z }) (f := fun s => { s with sel := none }) (fun _ => rfl) hx
  have waits := sent_modSent (x := { x with job := z, sel := none }) (f := fun s => { s with wait := .none })
    (fun _ => rfl) given
  have read := (sent_consumeStream n x c (nextLen c j.input.length - j.input.length) _ x.sid).trans waits
  exact ⟨(((ChanFrame.modChan n _ d).trans (ChanFrame.modChan n _ _)).trans (ChanFrame.consumeStream ..)).trans
    (ChanFrame.modChan n _ _), sent_modSent (x := { x with job := z, sel := none, wait := .none }) (fun _ => rfl) read⟩

/-! ### The three outcomes of a boundary -/

section
variable {n : Chn} {x : Sentence} {c : Clause} {j : Job} {k : Cls} {d : Dev} {w : Nat}
  (hx : d.sent n x.sid = some x) (hj : x.job = some j) (fresh : j.runOn = false)
include fresh

/-- A clause that lacks its next bytes, or is to leave its lane, is saved, or keeps its lane where it cannot be. -/
theorem rankClause_leaves {ph : JobPhase} (h : d.moreReady n x j = false
        ∧ ph = (if d.canSave n then JobPhase.susp else .starved)
      ∨ d.moreReady n x j = true ∧ d.canSave n = true ∧ (d.stopped = true ∨ d.laneStays j.engine = false) ∧ ph = .susp) :
    rankClause n x c { j with written := w } k (atBoundary n x.sid j k w d)
      = modJob n x.sid (fun j => { j with phase := ph }) (atBoundary n x.sid j k w d) := by
  have ready : (atBoundary n x.sid j k w d).moreReady n x { j with written := w } = d.moreReady n x j :=
    moreReady_of (atBoundary_stream n x.sid j k w d) x _
  have room := atBoundary_canSave n x.sid j k w d
  rcases h with ⟨lacks, rfl⟩ | ⟨more, save, out, rfl⟩
  · simp only [rankClause, fate_waits (ready.trans lacks) fresh, room]
    cases d.canSave n <;> rfl
  · simp only [rankClause, fate_leaves (ready.trans more) fresh (room.trans save) out]

include hx hj in
/-- A clause that cannot be saved goes on where its next bytes are there (08 R182, R185). -/
theorem rankClause_goes (seg : segmented c.verb = true) (stream : hi16 c.w2 = 0xFFFF) (begun : j.input ≠ [])
    (more : nextLen c j.input.length < c.inLen) (ready : d.moreReady n x j = true) (full : d.canSave n = false) :
    ∃ y, ChanFrame n d (rankClause n x c { j with written := w } k (atBoundary n x.sid j k w d))
      ∧ (rankClause n x c { j with written := w } k (atBoundary n x.sid j k w d)).sent n x.sid = some { x with
          job := some (({ j with written := w } : Job).goesOn y (!d.laneStays j.engine)
            (d.inputBytes n x c j.input.length (nextLen c j.input.length)))
          wait := .none, sel := none } := by
  have ready' : (atBoundary n x.sid j k w d).moreReady n x { j with written := w } = true :=
    (moreReady_of (atBoundary_stream n x.sid j k w d) x _).trans ready
  have full' := (atBoundary_canSave n x.sid j k w d).trans full
  have runs : (atBoundary n x.sid j k w d).runsOn n j.engine j.runOn = !d.laneStays j.engine := by
    rw [Dev.runsOn, full', atBoundary_laneStays, fresh]
    rfl
  have selected := TagsMove.select k n x.prio 16 [] (atBoundary n x.sid j k w d)
  have sent := (selected.sent n x.sid).trans (atBoundary_sent hx hj k w)
  have same := inputBytes_of stream ((congrArg Chan.stream (chan_of selected.chans n)).trans
    (atBoundary_stream n x.sid j k w d)) x j.input.length (nextLen c j.input.length)
  simp only [rankClause, fate_goes ready' full', runs]
  obtain ⟨frame, goes⟩ := continueJob_spec (j := { j with written := w }) sent seg stream begun more
    (selectFor k n x.prio 16 [] (atBoundary n x.sid j k w d)).1 (!d.laneStays j.engine)
  rw [same] at goes
  exact ⟨_, ((atBoundary_frame n x.sid j k w d).trans (selected.frame n)).trans frame, goes⟩

end

/-! ### The scheduler's selection (08 R176, R184) -/

/-- Work that is the scheduler's pick of its class is given the preferred free engine. -/
theorem giveEngine_picks {k : Cls} {n : Chn} {sid e : Nat} {d : Dev} (hp : d.pick k = some (n, sid))
    (he : d.prefer (k.engines.filter d.engFree) = some e) (prio : Bool) (doms : Nat → List Nat) :
    giveEngine k n sid prio none doms d
      = (some (selectFor k n prio e (doms e) d).1, (selectFor k n prio e (doms e) d).2) := by
  simp only [giveEngine, hp, he, if_true]

/-- A lane selected while its domain is on starts its work at once. -/
theorem startOrHold_lane {k : Cls} {n : Chn} {e : Nat} {d : Dev} (on : d.domOn (12 + e) = true) (prio : Bool)
    (hold : Option Sel → Dev → Dev) (start : Sel → Dev → Dev) :
    startOrHold (some (selectFor k n prio e [12 + e] d).1, (selectFor k n prio e [12 + e] d).2) hold start
      = start (selectFor k n prio e [12 + e] d).1 (selectFor k n prio e [12 + e] d).2 := by
  have all : (selectFor k n prio e [12 + e] d).2.allOn [12 + e] = true := by
    rw [Dev.allOn, List.all_cons, List.all_nil, Bool.and_true]
    exact on
  exact if_pos all

/-- A clause of some class whose engine is preferred and whose input goes on beyond its next part runs in segments. -/
theorem segmented_of_lane {c : Clause} {k : Cls} {e i : Nat} (hk : verbClass c.verb = some k) (he : e ∈ k.engines)
    (more : nextLen c i < c.inLen) : segmented c.verb = true := by
  cases k with
  | service => cases he
  | bignum =>
    have whole : nextLen c i = c.inLen := by
      have notPhrase : c.verb ≠ 0x65 := by intro h; rw [h] at hk; cases hk
      simp [nextLen, notPhrase, segmented, hk]
    omega
  | cipher | hash => simp [segmented, hk]

section
variable {n : Chn} {x : Sentence} {c : Clause} {j : Job} {d : Dev} (hx : d.sent n x.sid = some x)
  (hc : x.clauses[x.idx]? = some c) (hj : x.job = some j) (work : d.stopped = false)
include hx hc hj work

/-- A saved clause that the scheduler picks goes on on the preferred free lane. -/
theorem contextResume_clause {k : Cls} {e : Nat} (hk : verbClass c.verb = some k) (susp : j.phase = .susp)
    (hs : j.steps = []) (unsel : x.sel = none) (hp : d.pick k = some (n, x.sid))
    (he : d.prefer (k.engines.filter d.engFree) = some e) (on : d.domOn (12 + e) = true) :
    contextResume n x.sid d = continueJob n x c { j with engine := engId e } (selectFor k n x.prio e [12 + e] d).1 false
      (selectFor k n x.prio e [12 + e] d).2 := by
  have id : engIdOf (selectFor k n x.prio e [12 + e] d).1.eng = engId e :=
    engIdOf_lt (lt_of_mem_engines (preferred_mem he))
  simp only [contextResume, work, hx, hj, hc, Job.step, hs, List.head?_nil, resumeClause, hk, susp, beq_self_eq_true,
    if_true, Bool.false_eq_true, if_false, unsel, giveEngine_picks hp he, startOrHold_lane on, id]

/-- A queued step of class C or H that the scheduler picks starts on the preferred free lane. -/
theorem contextResume_step {y : Step} {e : Nat} (hy : j.step = some y) (own : y.own = false)
    (lane : y.cls = .cipher ∨ y.cls = .hash) (queued : y.phase = .queued) (unsel : y.sel = none)
    (hp : d.pick y.cls = some (n, x.sid)) (he : d.prefer (y.cls.engines.filter d.engFree) = some e)
    (on : d.domOn (12 + e) = true) :
    contextResume n x.sid d = setStep n x.sid
      (some { y.go (selectFor y.cls n true e [12 + e] d).1 false with engine := engId e })
      (selectFor y.cls n true e [12 + e] d).2 := by
  have lane_ := lane_of_mem_engines lane (preferred_mem he)
  have doms : jobDoms 0x50 e [] = [12 + e] := by rw [jobDoms, if_neg (by omega), if_pos lane_]
  have id : engIdOf (selectFor y.cls n true e [12 + e] d).1.eng = engId e := engIdOf_lt (by omega : e < 16)
  have noCore : (y.cls == .bignum) = false := by rcases lane with h | h <;> rw [h] <;> rfl
  simp only [contextResume, work, hx, hj, hc, hy, resumeStep, queued, own, unsel, beq_self_eq_true, Bool.true_or,
    Bool.false_and, Bool.not_false, Bool.and_self, Bool.or_true, if_true, Bool.false_eq_true, if_false,
    giveEngine_picks hp he, doms, startOrHold_lane on, startStep, id, noCore]

end

/-- The end of a step that has read its input on a lane. -/
theorem completeClause_step {n : Chn} {x : Sentence} {c : Clause} {j : Job} {y : Step} {d : Dev}
    (hx : d.sent n x.sid = some x) (hc : x.clauses[x.idx]? = some c) (hj : x.job = some j) (hy : j.step = some y)
    (lane : y.cls = .cipher ∨ y.cls = .hash) (run : y.phase = .run) (read : y.len ≤ y.pos) (runs : j.phase = .run)
    (ha : j.abort = false) (hw : d.working = true) (hh : d.halts j.verb = false) (hcore : coreOf y.engine = none) :
    completeClause .none n x.sid d = setStep n x.sid none (correctTag y.cls n y.weight y.tagBefore d) := by
  have left : leaveStep n true y d = correctTag y.cls n y.weight y.tagBefore d := by
    simp [leaveStep, run, endProg, progEnds, releaseCore, hcore]
  have done : ¬ y.pos < y.len := by omega
  have ended : endStep .none n x c j y d = setStep n x.sid none (leaveStep n true y d) := by
    rcases lane with h | h <;> simp [endStep, ha, h]
  simp [completeClause, hx, hj, hc, runs, hw, hh, completeJob, hy, run, done, ended, left]

/-- A class wait that ends (08 R194). -/
theorem classWaitEnds_unserved {n : Chn} {x : Sentence} {c : Clause} {k : Cls} {d : Dev} (hx : d.sent n x.sid = some x)
    (hc : x.clauses[x.idx]? = some c) (hj : x.job = none) (hk : d.workClass x c = some k) (work : d.stopped = false)
    (hw : x.wait.holds = false) (hs : d.streamReady n x c = true) (ho : d.outReady n x c = true)
    (hh : d.holdReady n x c = true) (hu : d.unserved n c k = true) :
    classWaitEnds n x.sid d = failClause n x .noEngine 0xFF d := by
  simp [classWaitEnds, hx, hj, hc, hk, work, hw, hs, ho, hh, hu]

/-- A clause that ends NO_ENGINE is recorded in GSTICKY2 (04 Table 04.5). -/
theorem failClause_noEngine_bit {n : Chn} {x : Sentence} {c : Clause} {d : Dev} (hc : x.clauses[x.idx]? = some c)
    (hp : x.parent = none) (h : (d.chan n).rings.cpl.good = true) (eng : Nat) :
    bit (failClause n x .noEngine eng d).trouble.g2 11 = true := by
  have given : ∃ e, RingMove n [.chans] id id d e ∧ failClause n x .noEngine eng d
      = advanceSent n x.sid x.idx true x.clauses (postRecord n c x.idx .noEngine eng 0 0 c.w3hi e) := by
    simp only [failClause, hc, hp]
    split
    · exact ⟨_, dropSel_move .., rfl⟩
    · exact ⟨d, RingMove.refl .., rfl⟩
  obtain ⟨e, gave, heq⟩ := given
  have good : (e.chan n).rings.cpl.good = true := by rw [gave.rings]; exact h
  have posted := postRecord_move good c x.idx .noEngine eng 0 0 c.w3hi
  have ended := advanceSent_failed (by rw [posted.rings]; exact post_good good _ _) x.sid x.idx x.clauses
  have trouble : _ = _ := ended.keeps .trouble (by decide) (by decide)
  rw [heq, trouble, postRecord_good good]
  exact noteGx_bit 2 eng (by decide) _ _

/-- Settles O48: each boundary, resumption and end is one change of the sentence in place, up to the scheduler's tags; that
queued steps are started by CONTEXT_RESUME and ended by CLAUSE_COMPLETE is the model's choice (log entry 10). -/
theorem segmentsSaveAndResume : Obligations.SegmentsSaveAndResume := by
  intro n x c j k s awake active good sent clause cls
  refine ⟨fun seg working job run noResult noAbort verb noSteps noPrimes fresh noDst stream w out => ⟨fun ph h => ?_,
      fun ready full begun more => ?_⟩,
    fun e job susp noSteps unsel work picked preferred on noResult stream begun more => ?_,
    fun y job step own lane => ⟨fun e queued unsel work picked preferred on => ?_,
      fun run read runs noAbort working halts noCore => ?_⟩,
    fun job root work_ work wait ready outReady holdReady unserved => ?_⟩
  · have ranks := segmentBoundary_ranks good sent clause cls seg working job run noResult noAbort verb noSteps noPrimes
      noDst out
    obtain ⟨ss, chan⟩ := atBoundary_chan n x.sid j k w s.dev
    exact ⟨_, onDev_to awake (ranks.trans (rankClause_leaves fresh h)),
      ((atBoundary_frame ..).trans (ChanFrame.modJob ..)).answers awake
        ⟨⟨_, (chan_modSent ..).trans (by rw [chan])⟩, (sent_through ..).trans <| sent_modJob (atBoundary_sent sent job k w) _⟩⟩
  · have ranks := segmentBoundary_ranks good sent clause cls seg working job run noResult noAbort verb noSteps noPrimes
      noDst out
    obtain ⟨y, frame, goes⟩ := rankClause_goes (k := k) (w := w) sent job fresh seg stream begun more ready full
    exact ⟨_, _, onDev_to awake ranks, frame.answers awake ⟨(sent_through ..).trans goes, rfl, rfl, rfl, rfl, noResult, rfl⟩⟩
  · have resumes := contextResume_clause sent clause job work cls susp noSteps unsel picked preferred on
    have seg := segmented_of_lane cls (preferred_mem preferred) more
    have selected := TagsMove.select k n x.prio e [12 + e] s.dev
    have held : (selectFor k n x.prio e [12 + e] s.dev).2.sent n x.sid = some { x with job := some j } :=
      (selected.sent n x.sid).trans (sent_job sent job)
    obtain ⟨frame, goes⟩ := continueJob_spec (j := { j with engine := engId e }) held seg stream begun more
      (selectFor k n x.prio e [12 + e] s.dev).1 false
    rw [← unsel] at goes
    have read := inputBytes_of stream (congrArg Chan.stream (chan_of selected.chans n)) x j.input.length
      (nextLen c j.input.length)
    exact ⟨_, _, onDev_to awake resumes, ((selected.frame n).trans frame).answers awake
      ⟨(sent_through ..).trans goes, rfl, rfl, congrArg (j.input ++ ·) read, noResult⟩⟩
  · have resumes := contextResume_step sent clause job work step own lane queued unsel picked preferred on
    have selected := TagsMove.select y.cls n true e [12 + e] s.dev
    have noCore : (y.cls == .bignum) = false := by rcases lane with h | h <;> rw [h] <;> rfl
    refine ⟨_, _, onDev_to awake resumes, ((selected.frame n).trans (ChanFrame.setStep ..)).answers awake
      ⟨(sent_through ..).trans <| sent_modJob ((selected.sent n x.sid).trans (sent_job sent job)) _, rfl, rfl, rfl, rfl, ?_, rfl⟩⟩
    simp only [Step.go, noCore, Bool.false_eq_true, if_false]
  · have ends := completeClause_step sent clause job step lane run read runs noAbort working halts noCore
    have corrected := TagsMove.correct y.cls n y.weight y.tagBefore s.dev
    have frame := (corrected.frame n).trans (ChanFrame.setStep n x.sid none _)
    have completes : judgeFresh n (completeClause .none n x.sid (scrubChan s.dev n)) = judgeFresh n _ :=
      congrArg (judgeFresh n) ((congrArg _ (scrubChan_good good)).trans ends)
    exact ⟨_, ⟨frame.rst.trans awake.2, onDev_to awake completes⟩, frame.keeps, frame.others,
      sent_modJob ((corrected.sent n x.sid).trans (sent_job sent job)) _⟩
  · have ends : classWaitEnds n x.sid (scrubChan s.dev n) = failClause n x .noEngine 0xFF s.dev :=
      (congrArg _ (scrubChan_good good)).trans
        (classWaitEnds_unserved sent clause job work_ work wait ready outReady holdReady unserved)
    have failed := failClause_root clause root (good .cpl) .noEngine 0xFF
    refine ⟨_, onDev_to awake ends, same_const awake (failClause_rst ..), keeps_const (keeps_up failed.keeps),
      others_const failed.others, (sent_through ..).trans (sent_filtered failed.sents), ?_, ?_⟩
    · rw [through_trouble]
      exact failClause_noEngine_bit clause root (good .cpl) 0xFF
    · rw [through_chan]
      exact failed.rings

end Sys2Proof.Machine
end

section
/-!
SUPPORT. Selections given up when an engine leaves the dispatch set: what they leave of a channel, which they drop.
-/

namespace Sys2Proof.Machine

/-! ### One channel -/

/-- From `d` to `e` work of channel `n` loses selections: its rings stay, no sentence comes or goes, and a sentence that has
dispatched nothing loses its selection at most. -/
structure SelsMove (n : Chn) (d e : Dev) : Prop where
  frame : ChanFrame n d e
  rings : (e.chan n).rings = (d.chan n).rings
  gone : ∀ sid, d.sent n sid = none → e.sent n sid = none
  waits : ∀ x, x.job = none → d.sent n x.sid = some x →
    e.sent n x.sid = some x ∨ e.sent n x.sid = some { x with sel := none }

theorem SelsMove.refl (n : Chn) (d : Dev) : SelsMove n d d :=
  ⟨⟨Keeps.refl _ _, fun _ _ => rfl, rfl⟩, rfl, fun _ h => h, fun _ _ h => .inl h⟩

theorem SelsMove.trans {n : Chn} {d e f : Dev} (h : SelsMove n d e) (h' : SelsMove n e f) : SelsMove n d f := by
  refine ⟨h.frame.trans h'.frame, h'.rings.trans h.rings, fun sid hs => h'.gone sid (h.gone sid hs), fun x hj hx => ?_⟩
  rcases h.waits x hj hx with same | lost
  · exact h'.waits x hj same
  · exact .inr ((h'.waits { x with sel := none } hj lost).elim id id)

theorem SelsMove.tags {d e : Dev} (h : TagsMove d e) (n : Chn) : SelsMove n d e :=
  ⟨h.frame n, congrArg Chan.rings (chan_of h.chans n), fun sid hs => (h.sent n sid).trans hs,
    fun x _ hx => .inl ((h.sent n x.sid).trans hx)⟩

/-- A change in place that a sentence without a job does not notice, but for its selection. -/
theorem SelsMove.modSent {f : Sentence → Sentence} (hf : ∀ y, (f y).sid = y.sid)
    (hw : ∀ y : Sentence, y.job = none → f y = y ∨ f y = { y with sel := none }) (n : Chn) (sid : Nat) (d : Dev) :
    SelsMove n d (modSent n sid f d) := by
  refine ⟨ChanFrame.modChan n _ d, by rw [chan_modSent], fun i hi => ?_, fun x hj hx => ?_⟩
  · rw [sent_modSent_map hf, hi, Option.map_none]
  · rw [sent_modSent_map hf, hx, Option.map_some]
    split
    · exact (hw x hj).imp (congrArg some) (congrArg some)
    · exact .inl rfl

theorem SelsMove.dropSel (k : Cls) (n : Chn) (x : Sel) (d : Dev) : SelsMove n d (dropSel k n x d) :=
  .tags (TagsMove.refund k n x.weight x.before 0 d) n

theorem SelsMove.unselect (n : Chn) (sid : Nat) (d : Dev) :
    SelsMove n d (Machine.modSent n sid (fun s => { s with sel := none }) d) :=
  SelsMove.modSent (f := fun s => { s with sel := none }) (fun _ => rfl) (fun _ _ => .inr rfl) n sid d

theorem SelsMove.setStep (n : Chn) (sid : Nat) (t : Option Step) (d : Dev) : SelsMove n d (setStep n sid t d) :=
  SelsMove.modSent (f := fun y => { y with job := y.job.map (fun j => { j with steps := t.toList ++ j.steps.drop 1 }) })
    (fun _ => rfl) (fun y hy => .inl (by rw [hy, Option.map_none, ← hy])) n sid d

/-- The selection of a sentence's clause on engine `e` given up. -/
def dropClauseSel (e : Nat) (n : Chn) (s : Sentence) (d : Dev) : Dev :=
  match s.sel, (s.clauses[s.idx]?).bind (fun c => verbClass c.verb) with
  | some x, some k => if x.eng = e then dropSel k n x (modSent n s.sid (fun s => { s with sel := none }) d) else d
  | _, _ => d

/-- The selection of a sentence's step on engine `e` given up. -/
def dropStepSel (e : Nat) (n : Chn) (s : Sentence) (d : Dev) : Dev :=
  match s.job.bind Job.step with
  | none => d
  | some t =>
    match t.sel with
    | none => d
    | some x => if x.eng = e then dropSel t.cls n x (setStep n s.sid (some { t with sel := none }) d) else d

theorem dropSentSels_eq (e : Nat) (n : Chn) (d : Dev) (s : Sentence) :
    dropSentSels e n d s = dropStepSel e n s (dropClauseSel e n s d) := by
  rw [dropSentSels, dropStepSel, dropClauseSel]
  cases s.job.bind Job.step with
  | none => rfl
  | some t => cases h : t.sel <;> simp only [h] <;> rfl

theorem SelsMove.dropClauseSel (e : Nat) (n : Chn) (s : Sentence) (d : Dev) : SelsMove n d (dropClauseSel e n s d) := by
  unfold Machine.dropClauseSel
  split
  · split
    · exact (SelsMove.unselect n s.sid d).trans (SelsMove.dropSel ..)
    · exact SelsMove.refl n d
  · exact SelsMove.refl n d

theorem SelsMove.dropStepSel (e : Nat) (n : Chn) (s : Sentence) (d : Dev) : SelsMove n d (dropStepSel e n s d) := by
  unfold Machine.dropStepSel
  split
  · exact SelsMove.refl n d
  · split
    · exact SelsMove.refl n d
    · split
      · exact (SelsMove.setStep ..).trans (SelsMove.dropSel ..)
      · exact SelsMove.refl n d

theorem SelsMove.dropSentSels (e : Nat) (n : Chn) (d : Dev) (s : Sentence) : SelsMove n d (dropSentSels e n d s) := by
  rw [dropSentSels_eq]
  exact (SelsMove.dropClauseSel e n s d).trans (SelsMove.dropStepSel e n s _)

theorem SelsMove.dropCheckSel (e : Nat) (n : Chn) (d : Dev) : SelsMove n d (dropCheckSel e n d) := by
  have phased (p : OpenPhase) : SelsMove n d (modChan n (fun c => { c with phase := p }) d) := by
    have sents : ((modChan n (fun c => { c with phase := p }) d).chan n).sents = (d.chan n).sents := by
      rw [chan_modChan_same]
    have sent (sid : Nat) : (modChan n (fun c => { c with phase := p }) d).sent n sid = d.sent n sid := by
      rw [Dev.sent, sents, Dev.sent]
    exact ⟨ChanFrame.modChan n _ d, by rw [chan_modChan_same], fun sid hs => (sent sid).trans hs,
      fun x _ hx => .inl ((sent x.sid).trans hx)⟩
  unfold Machine.dropCheckSel
  split
  · split
    · split
      · exact (phased _).trans (SelsMove.dropSel ..)
      · exact SelsMove.refl n d
    · exact SelsMove.refl n d
  · exact SelsMove.refl n d

/-- The selections of channel `n` on engine `e` given up. -/
def dropChanSels (e : Nat) (n : Chn) (d : Dev) : Dev := dropCheckSel e n ((d.chan n).sents.foldl (dropSentSels e n) d)

theorem SelsMove.sentences (e : Nat) (n : Chn) (l : List Sentence) (d : Dev) :
    SelsMove n d (l.foldl (Machine.dropSentSels e n) d) :=
  List.foldlRecOn (motive := SelsMove n d) _ _ (SelsMove.refl n d) (fun u hu s _ => hu.trans (.dropSentSels e n u s))

theorem SelsMove.dropChanSels (e : Nat) (n : Chn) (d : Dev) : SelsMove n d (dropChanSels e n d) :=
  (SelsMove.sentences e n _ d).trans (SelsMove.dropCheckSel e n _)

/-! ### Which selections stay -/

/-- No work of a channel holds a selection on engine `e`. -/
def Chan.unselects (c : Chan) (e : Nat) : Prop := ∀ y ∈ c.sels, y.eng ≠ e

theorem unselects_of_engSel {d : Dev} {e : Nat} (h : d.engSel e = false) (n : Chn) : (d.chan n).unselects e := by
  intro y hy he
  have all : d.sels.any (fun z => z.eng == e) = false := h
  have := List.any_eq_false.1 all y (List.mem_flatMap.2 ⟨n, List.mem_finRange n, hy⟩)
  simp [he] at this

theorem dropSentSels_none {e : Nat} {s : Sentence} (h : ∀ y ∈ s.sels, y.eng ≠ e) (n : Chn) (d : Dev) :
    dropSentSels e n d s = d := by
  have ofClause : dropClauseSel e n s d = d := by
    unfold dropClauseSel
    split
    · next y k hy _ => exact if_neg (h y (by simp [Sentence.sels, hy]))
    · rfl
  have ofStep : dropStepSel e n s d = d := by
    unfold dropStepSel
    split
    · rfl
    · next t ht =>
      split
      · rfl
      · next y hy => exact if_neg (h y (by simp [Sentence.sels, ht, hy]))
  rw [dropSentSels_eq, ofClause, ofStep]

theorem dropCheckSel_none {e : Nat} {n : Chn} {d : Dev} (h : (d.chan n).unselects e) : dropCheckSel e n d = d := by
  unfold dropCheckSel
  split
  · next key nonce resp t hp =>
    split
    · next y hy => exact if_neg (h y (by simp [Chan.sels, Chan.check, hp, hy]))
    · rfl
  · rfl

theorem dropChanSels_none {e : Nat} {n : Chn} {d : Dev} (h : (d.chan n).unselects e) : dropChanSels e n d = d := by
  have sentences : ∀ l : List Sentence, (∀ s ∈ l, s ∈ (d.chan n).sents) → l.foldl (dropSentSels e n) d = d := by
    intro l hl
    refine List.foldlRecOn (motive := (· = d)) _ _ rfl (fun u hu s hs => ?_)
    rw [hu]
    exact dropSentSels_none (fun y hy => h y (List.mem_append_left _ (List.mem_flatMap.2 ⟨s, hl s hs, hy⟩))) n d
  rw [dropChanSels, sentences _ (fun _ hs => hs), dropCheckSel_none h]

/-! ### Every channel -/

/-- What the giving up of one channel's selections keeps, the giving up of every channel's keeps. -/
theorem dropSelsOn_induct {p : Dev → Prop} {e : Nat} {d : Dev} (h : p d) (step : ∀ n u, p u → p (dropChanSels e n u)) :
    p (dropSelsOn e d) :=
  List.foldlRecOn (motive := p) _ _ h (fun u hu n _ => step n u hu)

theorem dropSelsOn_keeps (e : Nat) (d : Dev) : Keeps [.chans] d (dropSelsOn e d) :=
  dropSelsOn_induct (Keeps.refl _ d) (fun n u hu => hu.trans (SelsMove.dropChanSels e n u).frame.keeps)

theorem dropSelsOn_rings (e : Nat) (d : Dev) (m : Chn) : ((dropSelsOn e d).chan m).rings = (d.chan m).rings := by
  refine dropSelsOn_induct (p := fun u => (u.chan m).rings = (d.chan m).rings) rfl (fun n u hu => ?_)
  have moved := SelsMove.dropChanSels e n u
  by_cases hm : m = n
  · subst hm
    exact moved.rings.trans hu
  · rw [moved.frame.others m hm, hu]

theorem dropSelsOn_gone {e : Nat} {d : Dev} {m : Chn} {sid : Nat} (h : d.sent m sid = none) :
    (dropSelsOn e d).sent m sid = none := by
  refine dropSelsOn_induct (p := fun u => u.sent m sid = none) h (fun n u hu => ?_)
  have moved := SelsMove.dropChanSels e n u
  by_cases hm : m = n
  · subst hm
    exact moved.gone sid hu
  · rw [Dev.sent, moved.frame.others m hm]
    exact hu

/-- A channel with no selection on the engine is not touched. -/
theorem dropSelsOn_chan {e : Nat} {d : Dev} {m : Chn} (h : (d.chan m).unselects e) :
    (dropSelsOn e d).chan m = d.chan m := by
  refine dropSelsOn_induct (p := fun u => u.chan m = d.chan m) rfl (fun n u hu => ?_)
  by_cases hm : m = n
  · subst hm
    rw [dropChanSels_none (by rwa [hu]), hu]
  · rw [(SelsMove.dropChanSels e n u).frame.others m hm, hu]

theorem dropSelsOn_chans {e : Nat} {d : Dev} (h : d.engSel e = false) : (dropSelsOn e d).chans = d.chans :=
  Vector.ext fun i hi => dropSelsOn_chan (m := ⟨i, hi⟩) (unselects_of_engSel h ⟨i, hi⟩)

/-! ### A clause that waited for its switch-on (08 R186) -/

/-- A fold whose members all keep `p` and `q`, one of which makes `q` of `p`, makes `q` of `p`. -/
theorem foldl_reaches {α β : Type} {f : β → α → β} {p q : β → Prop} {a : α}
    (keepsP : ∀ b x, p b → p (f b x)) (keepsQ : ∀ b x, q b → q (f b x)) (acts : ∀ b, p b → q (f b a)) :
    ∀ {l : List α} {b : β}, a ∈ l → p b → q (l.foldl f b)
  | x :: l, b, ha, hb => by
    rw [List.foldl_cons]
    rcases List.mem_cons.1 ha with rfl | ha
    · exact List.foldlRecOn (motive := q) _ _ (acts b hb) (fun u hu y _ => keepsQ u y hu)
    · exact foldl_reaches keepsP keepsQ acts ha (keepsP b x hb)

section
variable {n : Chn} {x : Sentence} {c : Clause} {y : Sel} {e : Nat} (hj : x.job = none) (hc : x.clauses[x.idx]? = some c)
  (hv : (verbClass c.verb).isSome = true) (hy : x.sel = some y) (he : y.eng = e)
include hj hc hv hy he

/-- The sentence itself loses its selection, whether or not another of its number has taken it before. -/
theorem dropSentSels_unselects {d : Dev} (h : d.sent n x.sid = some x ∨ d.sent n x.sid = some { x with sel := none }) :
    (dropSentSels e n d x).sent n x.sid = some { x with sel := none } := by
  obtain ⟨k, hk⟩ := Option.isSome_iff_exists.1 hv
  have drops : dropSentSels e n d x = dropSel k n y (modSent n x.sid (fun s => { s with sel := none }) d) := by
    simp [dropSentSels, hj, hc, hk, hy, he]
  rw [drops]
  refine ((TagsMove.refund k n y.weight y.before 0 _).sent n x.sid).trans ?_
  rcases h with h | h
  · exact sent_modSent (f := fun s => { s with sel := none }) (fun _ => rfl) h
  · exact sent_modSent (x := { x with sel := none }) (f := fun s => { s with sel := none }) (fun _ => rfl) h

/-- A clause that waited for the switch-on of an engine that leaves has no engine selected any more. -/
theorem dropSelsOn_unselects {d : Dev} (hx : d.sent n x.sid = some x) :
    (dropSelsOn e d).sent n x.sid = some { x with sel := none } := by
  have waits {m : Chn} {u v : Dev} (moved : SelsMove m u v)
      (h : u.sent n x.sid = some x ∨ u.sent n x.sid = some { x with sel := none }) :
      v.sent n x.sid = some x ∨ v.sent n x.sid = some { x with sel := none } := by
    by_cases hm : n = m
    · subst hm
      exact h.elim (moved.waits x hj) (fun lost => .inr ((moved.waits { x with sel := none } hj lost).elim id id))
    · rwa [Dev.sent, moved.frame.others n hm]
  have lost {m : Chn} {u v : Dev} (moved : SelsMove m u v) (h : u.sent n x.sid = some { x with sel := none }) :
      v.sent n x.sid = some { x with sel := none } := by
    by_cases hm : n = m
    · subst hm
      exact (moved.waits { x with sel := none } hj h).elim id id
    · rwa [Dev.sent, moved.frame.others n hm]
  refine foldl_reaches (p := fun u => u.sent n x.sid = some x ∨ u.sent n x.sid = some { x with sel := none })
    (q := fun u => u.sent n x.sid = some { x with sel := none }) (fun u m => waits (SelsMove.dropChanSels e m u))
    (fun u m => lost (SelsMove.dropChanSels e m u)) (fun u hu => ?_) (List.mem_finRange n) (.inl hx)
  refine lost (SelsMove.dropCheckSel e n _) (hu.elim (fun same => ?_) (lost (SelsMove.sentences e n _ u)))
  exact foldl_reaches (p := fun u => u.sent n x.sid = some x ∨ u.sent n x.sid = some { x with sel := none })
    (q := fun u => u.sent n x.sid = some { x with sel := none }) (fun v s => waits (SelsMove.dropSentSels e n v s))
    (fun v s => lost (SelsMove.dropSentSels e n v s)) (fun _ => dropSentSels_unselects hj hc hv hy he)
    (List.mem_of_find?_eq_some same) (.inl same)

end

end Sys2Proof.Machine
end

section
/-!
Engines' service states: commands, known-answer tests, faults, idleness (O49).
-/

namespace Sys2Proof.Machine

/-! ### One engine changed -/

theorem modEng_eng (e : Eng) (f : Engine → Engine) (d : Dev) (g : Eng) :
    (modEng e f d).eng g = if g = e then f (d.eng e) else d.eng g := by
  simp only [modEng, Dev.eng, Vector.getElem_set, Fin.ext_iff, eq_comm (a := g.val)]

theorem keeps_modEng (e : Eng) (f : Engine → Engine) (d : Dev) : Keeps [.engines] d (modEng e f d) := by
  intro q hq _
  cases q <;> simp [Part.same] at hq ⊢

theorem eng_of {d u : Dev} (h : u.engines = d.engines) (g : Eng) : u.eng g = d.eng g := by simp [Dev.eng, h]

theorem eng_through (f : Dev → Dev) (s : State) (g : Eng) : (s.through f).dev.eng g = (f s.dev).eng g := rfl

theorem katf_through (f : Dev → Dev) (s : State) (g : Eng) : (s.through f).dev.katf g = (f s.dev).katf g := rfl

/-! ### An engine put into TEST -/

theorem zeroCore_keeps (e : Eng) (d : Dev) : Keeps [.cores] d (zeroCore e d) := by
  unfold zeroCore
  split
  · intro q hq _
    cases q <;> simp [Part.same] at hq ⊢
  · exact Keeps.refl _ d

/-- A core's user area becomes unowned and empty. -/
theorem zeroCore_own {e : Eng} {k : Nat} (hk : k < 4) (h : e.val = 12 + k) (d : Dev) :
    (zeroCore e d).cores[k] = { d.cores[k] with owner := none, slots := [] } := by
  have at_k : e.val - 12 = k := by omega
  simp [zeroCore, vmod, h, hk]

/-- The other cores stay. -/
theorem zeroCore_other {e : Eng} {k : Nat} (hk : k < 4) (h : e.val ≠ 12 + k) (d : Dev) :
    (zeroCore e d).cores[k] = d.cores[k] := by
  unfold zeroCore
  split
  · next core =>
    have off : e.val - 12 ≠ k := by omega
    unfold vmod
    split
    · next inside => exact Vector.getElem_set_ne inside hk off
    · rfl
  · rfl

theorem startTest_idle {e : Eng} {d : Dev} (h : d.engBusy (engId e.val) = false) (cause : Nat) : startTest e cause d
    = demandOn (12 + e.val) (zeroCore e (modEng e (fun x => { x with svc := .test, cause := cause }) d)) :=
  congrArg (demandOn _) (if_neg (fun busy => absurd (h.symm.trans busy) (by decide)))

theorem startTest_busy {e : Eng} {d : Dev} (h : d.engBusy (engId e.val) = true) (cause : Nat) : startTest e cause d
    = demandOn (12 + e.val) (modEng e (fun x => { x with svc := .test, cause := cause }) d) :=
  congrArg (demandOn _) (if_pos h)

/-- But for its power demand and its core's operand memory an engine that starts its test changes its service state alone. -/
theorem startTest_tests (e : Eng) (cause : Nat) (d : Dev) : ∃ u,
    startTest e cause d = demandOn (12 + e.val) u
      ∧ Keeps [.cores] (modEng e (fun x => { x with svc := .test, cause := cause }) d) u := by
  cases hb : d.engBusy (engId e.val) with
  | false => exact ⟨_, startTest_idle hb cause, zeroCore_keeps e _⟩
  | true => exact ⟨_, startTest_busy hb cause, Keeps.refl _ _⟩

theorem startTest_keeps (e : Eng) (cause : Nat) (d : Dev) : Keeps [.engines, .cores, .power] d (startTest e cause d) := by
  obtain ⟨u, tests, cores⟩ := startTest_tests e cause d
  rw [tests]
  exact ((keeps_up (keeps_modEng e _ d)).trans (keeps_up cores)).trans (keeps_up (demandOn_keeps _ u))

theorem startTest_eng (e : Eng) (cause : Nat) (d : Dev) (f : Eng) :
    (startTest e cause d).eng f = if f = e then { d.eng e with svc := .test, cause := cause } else d.eng f := by
  obtain ⟨u, tests, cores⟩ := startTest_tests e cause d
  rw [tests]
  exact (eng_of (cores .engines (by decide) (by decide)) f).trans (modEng_eng e _ d f)

theorem startTest_doms (e : Eng) (cause : Nat) (d : Dev) : (startTest e cause d).power.doms
    = vmod d.power.doms (12 + e.val) (fun x => { x with demand := true }) := by
  obtain ⟨u, tests, cores⟩ := startTest_tests e cause d
  have power : u.power = d.power := cores .power (by decide) (by decide)
  rw [tests, demandOn, power]

theorem startTest_core {e : Eng} {k : Nat} {d : Dev} (hk : k < 4) (h : e.val = 12 + k)
    (idle : d.engBusy (engId e.val) = false) (cause : Nat) :
    (startTest e cause d).cores[k] = { d.cores[k] with owner := none, slots := [] } := by
  rw [startTest_idle idle]
  exact zeroCore_own hk h _

theorem startTest_core_other {e : Eng} {k : Nat} (hk : k < 4) (h : e.val ≠ 12 + k) (cause : Nat) (d : Dev) :
    (startTest e cause d).cores[k] = d.cores[k] := by
  cases hb : d.engBusy (engId e.val) with
  | false =>
    rw [startTest_idle hb]
    exact zeroCore_other hk h _
  | true =>
    rw [startTest_busy hb]
    rfl

/-! ### Commands (R186, R187) and the end of a test -/

theorem engOut_inn {e : Eng} {d : Dev} (h : (d.eng e).svc = .inn) :
    engOut e d = dropSelsOn e.val (modEng e (fun x => { x with svc := .out }) d) := by rw [engOut, h]

theorem engOut_test {e : Eng} {d : Dev} (h : (d.eng e).svc = .test) :
    engOut e d = modEng e (fun x => { x with svc := .out }) d := by rw [engOut, h]

theorem engIn_starts {e : Eng} {d : Dev} (allowed : d.denied (12 + e.val) = false) (out : (d.eng e).svc = .out) :
    engIn e d = startTest e 1 d := by
  simp [engIn, allowed, out]

theorem engIn_denied {e : Eng} {d : Dev} (h : d.denied (12 + e.val) = true) : engIn e d = noteLink .A 12 d := if_pos h

section
variable {e : Eng} {d : Dev} (working : d.working = true) (test : (d.eng e).svc = .test)
  (on : d.domOn (12 + e.val) = true) (idle : d.engBusy (engId e.val) = false) (burns vfy : List Bool)
include working test on idle

theorem katEnds_pass : katEnds e true burns vfy d = modEng e (fun x => { x with svc := .inn }) d := by
  simp [katEnds, working, test, on, idle]

theorem katEnds_fail : katEnds e false burns vfy d = failTest e burns vfy d := by
  simp [katEnds, working, test, on, idle]

end

/-! ### The quarantine record -/

theorem flashErase_down {d : Dev} (h : d.flashUp = false) (a k : Nat) : flashErase a k d = d := by simp [flashErase, h]

/-- While the flash is not up no record is written. -/
theorem writeCopy_down {d : Dev} (h : d.flashUp = false) (r : TwoCopies) (mk : Nat → Nat → Bytes) (ok : Bool) :
    writeCopy r mk ok d = d := by
  simp [writeCopy, flashErase_down h, flashProgram, h]

theorem writeCopy_keeps (r : TwoCopies) (mk : Nat → Nat → Bytes) (d : Dev) :
    (writeCopy r mk (d.outcome []).1 d).rst = d.rst ∧ Keeps [.flash] d (writeCopy r mk (d.outcome []).1 d) := by
  have verifies : (d.outcome []).1 = d.flashUp := rfl
  cases up : d.flashUp with
  | true =>
    rw [verifies, up]
    exact writeCopy_frame r mk d
  | false =>
    rw [writeCopy_down up]
    exact ⟨rfl, Keeps.refl _ d⟩

/-- From `d` to `u` the failures due to be recorded may be recorded in the flash. -/
structure Recorded (d u : Dev) : Prop where
  keeps : Keeps [.engines, .flash] d u
  rst : u.rst = d.rst
  engs : ∀ f, u.eng f = d.eng f ∨ u.eng f = { d.eng f with due := none }

theorem recordFailures_recorded (d : Dev) : Recorded d (recordFailures [] d) := by
  unfold recordFailures
  split
  · exact ⟨Keeps.refl _ d, rfl, fun _ => .inl rfl⟩
  · obtain ⟨rst, written⟩ := writeCopy_keeps quarCopies (quarRecord d.quarBody) d
    generalize writeCopy quarCopies (quarRecord d.quarBody) (d.outcome []).1 d = u at rst written
    have engines : u.engines = d.engines := written .engines (by decide) (by decide)
    refine ⟨(keeps_up written).trans ?_, rst, fun f => .inr ?_⟩
    · intro q hq _
      cases q <;> simp [Part.same] at hq ⊢
    · simp [Dev.eng, engines]

/-! ### Failed tests (R191) -/

/-- A count below 3 is raised by one, its OTP bit burnt, and the failure is recorded. -/
theorem countFailure_counts {e : Eng} {d : Dev} (h : d.katf e < 3) (cause : Nat) :
    Keeps [.engines, .otp, .flash] d (countFailure e cause [] [] d)
    ∧ (countFailure e cause [] [] d).rst = d.rst
    ∧ (countFailure e cause [] [] d).katf e = d.katf e + 1
    ∧ (d.supply.level = 3 → (countFailure e cause [] [] d).flash = d.flash)
    ∧ ∀ f, f ≠ e → (d.eng f).due = none → (countFailure e cause [] [] d).eng f = d.eng f := by
  have counts : countFailure e cause [] [] d = recordFailures []
      (modEng e (fun x => { x with due := some (cause, d.journal.seconds) })
        { d with otp := { d.otp with quar := d.otp.quar.set e.val (d.otp.quar[e.val] + 1) e.isLt } }) :=
    if_neg (Nat.not_le.2 h)
  rw [counts]
  generalize hb : ({ d with otp := { d.otp with quar := d.otp.quar.set e.val (d.otp.quar[e.val] + 1) e.isLt } } : Dev) = b
  have burnt : Keeps [.otp] d b := by
    subst hb
    intro q hq _
    cases q <;> simp [Part.same] at hq ⊢
  have quar : b.otp.quar[e.val] = d.otp.quar[e.val] + 1 := by simp [← hb]
  have burntEng (f : Eng) : b.eng f = d.eng f := eng_of (burnt .engines (by decide) (by decide)) f
  have burntRst : b.rst = d.rst := by rw [← hb]
  have due := keeps_modEng e (fun x => { x with due := some (cause, d.journal.seconds) }) b
  have dueEng := modEng_eng e (fun x => { x with due := some (cause, d.journal.seconds) }) b
  have dueRst : (modEng e (fun x => { x with due := some (cause, d.journal.seconds) }) b).rst = d.rst := burntRst
  generalize modEng e (fun x => { x with due := some (cause, d.journal.seconds) }) b = w at due dueEng dueRst
  have waits : Keeps [.engines, .otp] d w := (keeps_up burnt).trans (keeps_up due)
  have recorded := recordFailures_recorded w
  refine ⟨(keeps_up waits).trans (keeps_up recorded.keeps), recorded.rst.trans dueRst, ?_,
    fun level => ?_, fun f hf none_ => ?_⟩
  · have otp : (recordFailures [] w).otp = b.otp :=
      (recorded.keeps .otp (by decide) (by decide)).trans (due .otp (by decide) (by decide))
    have raised : ((recordFailures [] w).eng e).raised = (d.eng e).raised := by
      rcases recorded.engs e with same | same <;> rw [same, dueEng, if_pos rfl, burntEng]
    have before : d.katf e = min 3 (d.otp.quar[e.val] + (d.eng e).raised) := rfl
    have after : (recordFailures [] w).katf e
        = min 3 ((recordFailures [] w).otp.quar[e.val] + ((recordFailures [] w).eng e).raised) := rfl
    rw [after, otp, quar, raised]
    omega
  · have held : w.supply.level = 3 := by rw [waits .supply (by decide) (by decide), level]
    rw [recordFailures_held (Nat.le_of_eq held.symm), waits .flash (by decide) (by decide)]
  · have same : w.eng f = d.eng f := by rw [dueEng, if_neg hf, burntEng]
    rw [← same] at none_ ⊢
    rcases recorded.engs f with kept | undue
    · exact kept
    · rw [undue, ← none_]

theorem quarantine_keeps (e : Eng) (d : Dev) : Keeps [.engines, .trouble, .journal] d (quarantine e d) :=
  ((keeps_up (keeps_modEng e _ d)).trans (keeps_up (keeps_noteGx 2 4 (engId e.val) 0 _))).trans
    (keeps_up (keeps_raiseWhy 0 (engId e.val) _))

theorem quarantine_eng (e : Eng) (d : Dev) (f : Eng) :
    (quarantine e d).eng f = if f = e then { d.eng e with svc := .quar } else d.eng f := by
  have engines := ((keeps_noteGx 2 4 (engId e.val) 0 (modEng e (fun x => { x with svc := .quar }) d)).trans
    (keeps_raiseWhy 0 (engId e.val) _)) .engines (by decide) (by decide)
  exact (eng_of engines f).trans (modEng_eng ..)

/-- A set bit of GSTICKYk stays set when a cause of trouble is raised. -/
theorem raiseWhy_stays (b e k c : Nat) {d : Dev} (h : bit (d.trouble.g k) c = true) :
    bit ((raiseWhy b e d).trouble.g k) c = true := by
  unfold raiseWhy
  split
  · exact h
  · exact queueEntry_bit _ h

theorem quarantine_stays (e : Eng) {d : Dev} {c : Nat} (h : bit d.trouble.g2 c = true) :
    bit (quarantine e d).trouble.g2 c = true :=
  raiseWhy_stays 0 (engId e.val) 2 c (noteGx_stays 2 4 (engId e.val) c 0 h)

/-- A count follows the OTP's and the failures that could not be burnt. -/
theorem katf_of {u t : Dev} {e : Eng} (otp : t.otp = u.otp) (raised : (t.eng e).raised = (u.eng e).raised) :
    t.katf e = u.katf e := by
  have count (v : Dev) : v.katf e = min 3 (v.otp.quar[e.val] + (v.eng e).raised) := rfl
  rw [count, count, otp, raised]

/-- From `d` to `t` a failed test of `e` is noted and counted; the other engines stay. -/
structure TestFailed (e : Eng) (d t : Dev) : Prop where
  rst : t.rst = d.rst
  keeps : Keeps [.engines, .otp, .flash, .trouble, .journal] d t
  katf : t.katf e = d.katf e + 1
  flash : d.supply.level = 3 → t.flash = d.flash
  others : ∀ f, f ≠ e → t.eng f = d.eng f
  noted : bit t.trouble.g2 3 = true

theorem countFailure_failed {e : Eng} {d : Dev} (h : d.katf e < 3) (due : ∀ f, f ≠ e → (d.eng f).due = none)
    (cause : Nat) :
    TestFailed e d (countFailure e cause [] [] (noteGx 2 3 (engId e.val) 0 d)) := by
  have noted := keeps_noteGx 2 3 (engId e.val) 0 d
  have set : bit (noteGx 2 3 (engId e.val) 0 d).trouble.g2 3 = true := noteGx_bit 2 (engId e.val) (by decide) 0 d
  have noteRst : (noteGx 2 3 (engId e.val) 0 d).rst = d.rst := noteGx_rst ..
  generalize noteGx 2 3 (engId e.val) 0 d = p at noted set noteRst
  have engs (f : Eng) : p.eng f = d.eng f := eng_of (noted .engines (by decide) (by decide)) f
  have katf : p.katf e = d.katf e := katf_of (noted .otp (by decide) (by decide)) (by rw [engs])
  obtain ⟨counted, rst, raised, held, others⟩ := countFailure_counts (katf ▸ h) cause
  refine ⟨rst.trans noteRst, (keeps_up noted).trans (keeps_up counted), by rw [raised, katf], fun level => ?_,
    fun f hf => by rw [others f hf (by rw [engs, due f hf]), engs], ?_⟩
  · have level' : p.supply.level = 3 := by rw [noted .supply (by decide) (by decide), level]
    rw [held level', noted .flash (by decide) (by decide)]
  · rwa [counted .trouble (by decide) (by decide)]

/-- The service state that follows a failed test changes nothing of its count. -/
theorem TestFailed.settles {e : Eng} {d u t : Dev} {v : Svc} (failed : TestFailed e d u) (rst : t.rst = u.rst)
    (moved : Keeps [.engines, .trouble, .journal] u t)
    (eng : ∀ f, t.eng f = if f = e then { u.eng e with svc := v } else u.eng f) (noted : bit t.trouble.g2 3 = true) :
    TestFailed e d t := by
  have raised : (t.eng e).raised = (u.eng e).raised := by rw [eng, if_pos rfl]
  refine ⟨rst.trans failed.rst, failed.keeps.trans (keeps_up moved), ?_, fun level => ?_, fun f hf => ?_, noted⟩
  · rw [katf_of (moved .otp (by decide) (by decide)) raised, failed.katf]
  · rw [moved .flash (by decide) (by decide), failed.flash level]
  · rw [eng, if_neg hf, failed.others f hf]

/-- A failed test of an engine that has failed less than three times ends in OUT, or in QUAR at 3. -/
theorem failTest_failed {e : Eng} {d : Dev} (h : d.katf e < 3) (due : ∀ f, f ≠ e → (d.eng f).due = none) :
    TestFailed e d (failTest e [] [] d)
    ∧ (d.katf e < 2 → ((failTest e [] [] d).eng e).svc = .out)
    ∧ (d.katf e = 2 → ((failTest e [] [] d).eng e).svc = .quar ∧ bit (failTest e [] [] d).trouble.why 0 = true) := by
  rw [failTest]
  have failed := countFailure_failed h due (max 1 (d.eng e).cause)
  generalize countFailure e (max 1 (d.eng e).cause) [] [] (noteGx 2 3 (engId e.val) 0 d) = u at failed
  have count := failed.katf
  by_cases last : d.katf e = 2
  · have full : 3 ≤ u.katf e := by omega
    simp only [if_pos full]
    refine ⟨failed.settles (by simp [quarantine]) (quarantine_keeps e u) (quarantine_eng e u)
      (quarantine_stays e failed.noted), fun less => absurd last (Nat.ne_of_lt less),
      fun _ => ⟨?_, raiseWhy_bit _ (by decide) _⟩⟩
    rw [quarantine_eng, if_pos rfl]
  · have more : ¬ 3 ≤ u.katf e := by omega
    simp only [if_neg more]
    have out := modEng_eng e (fun x => { x with svc := .out }) u
    exact ⟨failed.settles rfl (keeps_up (keeps_modEng e _ u)) out failed.noted, fun _ => by rw [out, if_pos rfl],
      fun two => absurd two last⟩

/-! ### Faults (R190) -/

/-- The job of the dispatch that runs on an engine is its sentence's. -/
theorem dispatchOn_job {d : Dev} {e : Eng} {n : Chn} {x : Sentence} {j : Job} (h : d.dispatchOn e = some (n, x, j)) :
    x.job = some j := by
  obtain ⟨m, -, inChan⟩ := List.exists_of_findSome?_eq_some h
  obtain ⟨y, -, inSent⟩ := List.exists_of_findSome?_eq_some inChan
  split at inSent
  · obtain ⟨i, hi, same⟩ := Option.map_eq_some_iff.1 inSent
    obtain ⟨rfl, rfl, rfl⟩ : m = n ∧ y = x ∧ i = j := by simpa using same
    exact hi
  · exact absurd inSent nofun

/-- A fault during a dispatch that is no phrase, whose failure has no effect, ends it with no output and no effect. -/
theorem endEarly_faulted {n : Chn} {x : Sentence} {j : Job} {d : Dev} (ha : (d.chan n).state.active = true)
    (hp : x.parent = none) (hq : j.phrase = none) (hr : ∀ r, j.result = some r → r.bad = []) :
    endEarly n x j .engineFault d = finishRoot n x j .engineFault [] j.input.length [] d := by
  have open_ : ((d.chan n).state == .resetting) = false := by
    cases hs : (d.chan n).state <;> simp [hs, ChanState.active] at ha ⊢
  have quiet : earlyEffects j .engineFault = [] := by
    cases made : j.result with
    | none => simp [earlyEffects, made]
    | some r => simp [earlyEffects, made, hr r made]
  have still : earlyZero j .engineFault d = d := rfl
  rw [endEarly, open_, hp, hq]
  simp [finishClause, hp, quiet, still]

/-- A dispatch that runs is watched. -/
theorem watched_of_dispatch {d : Dev} {e : Eng} {n : Chn} {x : Sentence} {j : Job} (h : d.dispatchOn e = some (n, x, j))
    (run : j.phase = .run) (working : d.working = true) : d.watched e = true := by
  simp [Dev.watched, h, run, working]

theorem engineFault_dispatch {d : Dev} {e : Eng} {n : Chn} {x : Sentence} {j : Job}
    (h : d.dispatchOn e = some (n, x, j)) : engineFault e d = faultTest e (endEarly n x j .engineFault d) := by
  rw [engineFault, h]

/-- An engine that is IN is tested after a fault: no selection on it is left. -/
theorem faultTest_tests {e : Eng} {d : Dev} (h : (d.eng e).svc = .inn) :
    faultTest e d = startTest e 3 (dropSelsOn e.val d) := if_pos (by rw [h]; rfl)

/-- The test that follows a fault keeps the other channels without a selection on the engine, and every channel's rings. -/
theorem faultTest_spec {e : Eng} {d : Dev} (h : (d.eng e).svc = .inn) :
    (faultTest e d).rst = d.rst
    ∧ Keeps [.chans, .cores, .engines, .power] d (faultTest e d)
    ∧ (∀ f, (faultTest e d).eng f = if f = e then { d.eng e with svc := .test, cause := 3 } else d.eng f)
    ∧ (∀ m, (d.chan m).unselects e.val → (faultTest e d).chan m = d.chan m)
    ∧ (∀ m, ((faultTest e d).chan m).rings = (d.chan m).rings)
    ∧ ∀ m sid, d.sent m sid = none → (faultTest e d).sent m sid = none := by
  rw [faultTest_tests h]
  have dropped := dropSelsOn_keeps e.val d
  have tested := startTest_keeps e 3 (dropSelsOn e.val d)
  have chan (m : Chn) : (startTest e 3 (dropSelsOn e.val d)).chan m = (dropSelsOn e.val d).chan m :=
    chan_of (tested .chans (by decide) (by decide)) m
  have engs (f : Eng) : (dropSelsOn e.val d).eng f = d.eng f := eng_of (dropped .engines (by decide) (by decide)) f
  refine ⟨by simp, (keeps_up dropped).trans (keeps_up tested), fun f => ?_, fun m hm => ?_, fun m => ?_,
    fun m sid hs => ?_⟩
  · rw [startTest_eng, engs, engs]
  · rw [chan, dropSelsOn_chan hm]
  · rw [chan, dropSelsOn_rings]
  · have same : (startTest e 3 (dropSelsOn e.val d)).sent m sid = (dropSelsOn e.val d).sent m sid := by
      rw [Dev.sent, Dev.sent, chan]
    rw [same, dropSelsOn_gone hs]

/-! ### Idleness (R184) -/

theorem idleOff_off {e : Eng} {d : Dev} (timed : d.eidle ≠ 0) (level : d.supply.level < 3)
    (idle : d.engBusy (engId e.val) = false) (svc : (d.eng e).svc ≠ .test) (on : d.domOn (12 + e.val) = true) :
    idleOff e d = demandOff (12 + e.val) d := by
  have test : ((d.eng e).svc == .test) = false := by simp [svc]
  have below : decide (3 ≤ d.supply.level) = false := decide_eq_false (Nat.not_le.2 level)
  exact if_neg (by rw [below, idle, test, on, decide_eq_false timed]; decide)

/-! ### The obligation -/

/-- Settles O49: an ENGCMD, the end of a known-answer test, a fault and idleness each change one engine, what hangs on it,
and the records; that IN of a denied domain is a reserved value whatever the engine's state is the model's choice (log entry
73). -/
theorem enginesLeaveAndRejoinService : Obligations.EnginesLeaveAndRejoinService := by
  intro e s
  refine ⟨fun takes svc => ?_, fun takes allowed out => ?_, fun takes denied => ?_, fun awake working test on idle =>
    ⟨fun burns vfy => ?_, fun count due => ?_⟩, fun n x j c i awake runs sent clause root inn unsel active good run kept
    noPhrase noAppend noBad cause => ?_, fun awake timed level idle svc on => ?_⟩
  · have engs := modEng_eng e (fun x => { x with svc := .out }) s.dev
    have keeps := keeps_modEng e (fun x => { x with svc := .out }) s.dev
    rcases svc with inn | test
    · have dropped := dropSelsOn_keeps e.val (modEng e (fun x => { x with svc := .out }) s.dev)
      refine ⟨_, onWrite_to takes (engOut_inn inn), same_const takes.1 (dropSelsOn_rst ..),
        keeps_const ((keeps_up keeps).trans (keeps_up dropped)), fun f => ?_, fun unsel => ?_,
        fun n x c y _ sent job clause verb sel eng => ?_⟩
      · rw [eng_through, eng_of (dropped .engines (by decide) (by decide)), engs]
      · rw [through_chans]
        exact dropSelsOn_chans unsel
      · rw [sent_through]
        exact dropSelsOn_unselects job clause verb sel eng sent
    · exact ⟨_, onWrite_to takes (engOut_test test), same_const takes.1 rfl, keeps_const (keeps_up keeps),
        fun f => (eng_through _ s f).trans (engs f), fun _ => through_chans .., fun _ _ _ _ inn =>
          absurd (test.symm.trans inn) (by decide)⟩
  · refine ⟨_, onWrite_to takes (engIn_starts allowed out), same_const takes.1 (startTest_rst ..),
      keeps_const (startTest_keeps e 1 s.dev), fun f => (eng_through _ s f).trans (startTest_eng e 1 s.dev f), ?_,
      fun k hk => ⟨fun own quiet => ?_, fun other => ?_⟩⟩
    · rw [through_power, startTest_doms]
    · rw [through_cores, startTest_core hk own quiet]
      exact ⟨rfl, rfl⟩
    · rw [through_cores, startTest_core_other hk other]
  · refine ⟨_, onWrite_to takes (engIn_denied denied), same_const takes.1 (noteLink_rst ..),
      keeps_const (keeps_noteLink .A 12 s.dev), ?_⟩
    rw [through_trouble]
    exact noteLink_bit .A (by decide) s.dev
  · exact ⟨_, onDev_to awake (katEnds_pass working test on idle burns vfy), same_const awake rfl,
      keeps_const (keeps_modEng e _ s.dev), fun f => (eng_through _ s f).trans (modEng_eng e _ s.dev f)⟩
  · obtain ⟨failed, out, quar⟩ := failTest_failed count due
    refine ⟨_, onDev_to awake (katEnds_fail working test on idle [] []), same_const awake failed.rst,
      keeps_const failed.keeps, (katf_through _ s e).trans failed.katf, fun level => ?_,
      fun f hf => (eng_through _ s f).trans (failed.others f hf), ?_,
      fun less => (congrArg Engine.svc (eng_through _ s e)).trans (out less),
      fun two => ⟨(congrArg Engine.svc (eng_through _ s e)).trans (quar two).1, ?_⟩⟩
    · rw [through_flash, failed.flash level]
    · rw [through_trouble, failed.noted]
    · rw [through_trouble, (quar two).2]
  · have ends : engineFault e s.dev = faultTest e (finishRoot n x j .engineFault [] j.input.length [] s.dev) := by
      rw [engineFault_dispatch runs, endEarly_faulted active root noPhrase noBad]
    have answers : exec i s = .next (s.through fun _ =>
        faultTest e (finishRoot n x j .engineFault [] j.input.length [] s.dev)) := by
      obtain rfl | ⟨rfl, working⟩ := cause
      · exact onDev_to awake ends
      · exact onDev_to awake ((if_pos (watched_of_dispatch runs run working)).trans ends)
    obtain ⟨failed, -, -, -, -, noted⟩ := finishRoot_fails sent (dispatchOn_job runs) clause (st := .engineFault) rfl
      kept noAppend (good .out) (good .cpl) [] j.input.length (w1 := j.written) (by simp)
    have ended : (finishRoot n x j .engineFault [] j.input.length [] s.dev).rst = s.dev.rst := finishRoot_rst ..
    generalize finishRoot n x j .engineFault [] j.input.length [] s.dev = u at answers failed noted ended
    have engs (f : Eng) : u.eng f = s.dev.eng f := eng_of (failed.keeps .engines (by decide) (by decide)) f
    obtain ⟨rst, keeps, tested, chans, rings, gone⟩ := faultTest_spec (e := e) (d := u) (by rw [engs, inn])
    refine ⟨_, answers, same_const awake (rst.trans ended), keeps_const ((keeps_up failed.keeps).trans (keeps_up keeps)),
      others_const fun m hm => ?_, ?_, ?_, fun f => ?_, ?_⟩
    · have other := failed.others m hm
      rw [chans m (by rw [other]; exact unselects_of_engSel unsel m), other]
    · rw [sent_through]
      exact gone n x.sid (sent_filtered failed.sents)
    · rw [through_trouble, keeps .trouble (by decide) (by decide)]
      exact noted rfl
    · rw [eng_through, tested, engs, engs]
    · rw [through_chan, rings, failed.rings, w3hi_failed rfl] <;> rfl
  · exact ⟨_, onDev_to awake (idleOff_off timed level idle svc on), same_const awake rfl,
      keeps_const (demandOff_keeps (12 + e.val) s.dev), by rw [through_power, demandOff]⟩

end Sys2Proof.Machine
end

section
/-!
A clause that starts with its whole input: the dispatch leaves its sentence with a running job whose result is that of the
verb's work (08 R173–R184; 06 R147; 09 R207, R210; 12 R284, R285).
-/

namespace Sys2Proof.Machine

/-! ### Keys taken at the dispatch (12 R284, R285; 09 R219) -/

/-- From `d` to `e` the key store alone changes. -/
def KsMove (d e : Dev) : Prop := ∃ k, e = { d with ks := k }

theorem KsMove.refl (d : Dev) : KsMove d d := ⟨d.ks, rfl⟩

theorem KsMove.trans {d e f : Dev} : KsMove d e → KsMove e f → KsMove d f := by
  rintro ⟨_, rfl⟩ ⟨k, rfl⟩
  exact ⟨k, rfl⟩

theorem KsMove.modKs (f : KeyStore → KeyStore) (d : Dev) : KsMove d (modKs f d) := ⟨_, rfl⟩

theorem KsMove.touchCache (s : Nat) (d : Dev) : KsMove d (touchCache s d) := by
  obtain ⟨k, h⟩ := touchCache_eq s d
  exact h ▸ KsMove.modKs ..

theorem KsMove.foldl {α : Type} {g : Dev → α → Dev} (h : ∀ d a, KsMove d (g d a)) (l : List α) (d : Dev) :
    KsMove d (l.foldl g d) := by
  induction l generalizing d with
  | nil => exact .refl d
  | cons a l ih => exact (h d a).trans (ih _)

/-- The core once a dispatch has taken its keys: used, charged, the destination reserved. -/
def keysTaken (v : VerbSpec) (a : Ask) (d : Dev) : Dev :=
  let e := (v.plan a).charges.foldl charge
    (((v.plan a).srcs.map (·.slot)).foldl (fun d x => touchCache x d) d)
  match v.dest a with
  | some dk => reserveSlot dk.slot e
  | none => e

theorem keysTaken_move (v : VerbSpec) (a : Ask) (d : Dev) : KsMove d (keysTaken v a d) := by
  have used := (KsMove.foldl (fun e x => KsMove.touchCache x e) ((v.plan a).srcs.map (·.slot)) d).trans
    (KsMove.foldl (g := charge) (fun _ _ => ⟨_, rfl⟩) (v.plan a).charges _)
  unfold keysTaken
  split
  · exact used.trans ⟨_, rfl⟩
  · exact used

/-! ### The draw (09 R207) -/

/-- The draw of a verb's dispatch: its bytes, none where it waits. -/
def drawFor (v : VerbSpec) (a : Ask) (sid : Nat) (d : Dev) : Option Bytes × Dev :=
  match v.draw a with
  | some r => enterDraw (.clause a.n sid) r d
  | none => (some [], d)

theorem servesNow_of {d e : Dev} (hd : e.drbg = d.drbg) (he : e.entropy = d.entropy) (q : Option DrawReq) :
    e.servesNow q = d.servesNow q := by
  cases q with
  | none => rfl
  | some q => simp only [Dev.servesNow, Dev.reseedDue, hd, he]

/-- What a draw served at once gives. -/
def Dev.drawnBytes (d : Dev) (q : Option DrawReq) : Bytes := (q.map (fun r => (d.drbg.generate r.len r.add).1)).getD []

/-- A draw served at once changes the generator alone. -/
theorem drawFor_now {v : VerbSpec} {a : Ask} {d : Dev} (h : d.servesNow (v.draw a) = true) (sid : Nat) :
    (drawFor v a sid d).1 = some (d.drawnBytes (v.draw a)) ∧ ∃ g, (drawFor v a sid d).2 = { d with drbg := g } := by
  unfold drawFor
  cases hq : v.draw a with
  | none => exact ⟨rfl, d.drbg, rfl⟩
  | some q =>
    simp only [enterDraw_now (hq ▸ h)]
    exact ⟨rfl, _, rfl⟩

/-! ### The output place and the progress page leave the sentences (06 R141, 10 R251) -/

theorem sents_modRings (n : Chn) (f : Rings → Rings) (d : Dev) : ((modRings n f d).chan n).sents = (d.chan n).sents := by
  rw [modRings, chan_modChan_same]

theorem openDst_sents {n : Chn} {d : Dev} (h : (d.chan n).rings.out.good = true) (x : Sentence) (c : Clause) :
    ((openDst n x c d).2.chan n).sents = (d.chan n).sents := by
  have calm : scrubRing n d .out = d := scrubRing_good h
  simp only [openDst, calm]
  split
  · cases x.parent with
    | none => exact sents_modRings n (fun r => r.openOut (recBytes c.outCap) x.sid) d
    | some p => rfl
  · split
    · cases d.firstFit (ceilDiv c.outCap 512) <;> rfl
    · split <;> rfl

theorem startProg_sents (n : Chn) (c : Clause) (e : Nat) (d : Dev) :
    ((startProg n c e d).chan n).sents = (d.chan n).sents := by
  unfold startProg
  split
  · have claimed := congrArg Chan.sents (chan_modChan_same n
      (fun ch => { ch with prog := vset ch.prog (e - 12) ⟨true, 0, BitVec.ofNat 16 c.tag⟩ }) d)
    exact claimed
  · rfl

/-! ### The whole input read at once (06 R147) -/

/-- The job with its input read and its verb's work done, from the core `pre`. -/
def Job.done (j : Job) (v : VerbSpec) (n : Chn) (c : Clause) (inp : Bytes) (pre : Dev) : Job :=
  { j with input := inp, result := some (v.run (({ j with input := inp } : Job).work n c pre)) }

theorem gather_whole {v : VerbSpec} {n : Chn} {x : Sentence} {c : Clause} {j : Job} {pre d : Dev}
    (sent : d.sent n x.sid = some { x with sel := none }) (fresh : j.input = []) (noResult : j.result = none)
    (drawn : j.drawing = false) (noPrimes : j.primes = none) (len : nextLen c 0 = c.inLen)
    (whole : (pre.inputBytes n x c 0 c.inLen).length = c.inLen)
    (inputOk : pre.brokenIn (hi16 c.w2) (lo16 c.w2) c.inLen = false)
    (paramsOk : pre.brokenIn (hi16 c.w6) (lo16 c.w6) c.parLen = false) :
    (gather v n x c j pre d).sent n x.sid = some { x with
      wait := .none, sel := none, job := some (j.done v n c (pre.inputBytes n x c 0 c.inLen) pre) } := by
  have waits : (noteWait n x.sid .none d).sent n x.sid = some { x with wait := .none, sel := none } :=
    sent_modSent (x := { x with sel := none }) (fun _ => rfl) sent
  have read := (sent_consumeStream n x c c.inLen (noteWait n x.sid .none d) x.sid).trans waits
  have all : ({ j with input := pre.inputBytes n x c 0 c.inLen } : Job).whole c = true := by
    simp [Job.whole, whole, drawn, noPrimes]
  simp only [gather, fresh, List.length_nil, List.nil_append, Nat.add_zero, Nat.sub_zero, len, inputOk, paramsOk,
    Bool.and_false, Bool.or_self, Bool.false_eq_true, if_false, settleResult, noResult] at all ⊢
  simp only [all, Option.isNone_none, Bool.and_self, if_true]
  exact sent_modSent (x := { x with wait := .none, sel := none }) (fun _ => rfl) read

/-! ### The dispatch update (08 R173, R184) -/

/-- A verb whose own changes at dispatch leave its channel's sentences and rings. -/
def VerbSpec.SparesSents (v : VerbSpec) : Prop := ∀ a d,
  ((v.atDispatch a d).chan a.n).sents = (d.chan a.n).sents ∧ ((v.atDispatch a d).chan a.n).rings = (d.chan a.n).rings

/-- The core a dispatch draws from: its selection used up, its keys taken. -/
def keyed (v : VerbSpec) (a : Ask) (x : Sentence) (d : Dev) : Dev :=
  keysTaken v a (modSent a.n x.sid (fun s => { s with sel := none }) d)

/-- The core in which a dispatch opens its output place: after its draw and the verb's own changes. -/
def drawn (v : VerbSpec) (a : Ask) (x : Sentence) (d : Dev) : Dev :=
  v.atDispatch a (drawFor v a x.sid (keyed v a x d)).2

/-- The job a dispatch makes, its input still to be read. -/
def firstJob (v : VerbSpec) (a : Ask) (x : Sentence) (y : Sel) (dst : Dest) (rnd : Option Bytes) : Job :=
  { verb := a.c.verb, engine := engIdOf y.eng, phase := .run, input := [], params := a.ps
    key := ((((v.plan a).srcs.map (·.slot)).head?).map a.d.keyValue).getD []
    key2 := ((((v.plan a).srcs.map (·.slot))[1]?).map a.d.keyValue).getD []
    rnd := rnd.getD [], slots := (v.plan a).srcs.map (·.slot)
    ctr := (((v.plan a).charges.head?).map (fun z => (a.d.ks.budget z.1).1)).getD 0
    dst := dst, written := 0, dest := v.dest a, hold := a.d.holdOf a.n x a.c, weight := y.weight, tagBefore := y.before
    presig := v.presig a, filling := v.filling a, touched := v.touched a, raced := false, abort := false, outGone := false
    drawing := rnd.isNone, steps := v.steps a, runOn := false, primes := if v.rounds a then some [] else none
    phrase := none, result := none }

theorem firstJob_primes {v : VerbSpec} {a : Ask} (h : v.rounds a = false) (x : Sentence) (y : Sel) (dst : Dest)
    (rnd : Option Bytes) : (firstJob v a x y dst rnd).primes = none := if_neg (by rw [h]; decide)

theorem dispatchNow_ask (v : VerbSpec) (n : Chn) (x : Sentence) (c : Clause) (y : Sel) (pre d : Dev) :
    dispatchNow v (pre.ask n x c) x y d = gather v n x c
      (firstJob v (pre.ask n x c) x y (openDst n x c (drawn v (pre.ask n x c) x d)).1
        (drawFor v (pre.ask n x c) x.sid (keyed v (pre.ask n x c) x d)).1) pre
      (startProg n c y.eng (openDst n x c (drawn v (pre.ask n x c) x d)).2) := rfl

section
variable {r : VerbRow} {x : Sentence} {c : Clause} {e : Nat} {s : State}

/-- The clause that starts is dispatched, under the selection it holds, one made now, or on the service processor. -/
theorem dispatchVerb_starts (h : s.starts r x c e) : ∃ y d, TagsMove s.dev d
    ∧ dispatchVerb r.verb r.spec r.n r.sid s.dev = dispatchNow r.spec (s.dev.ask r.n x c) x y d := by
  obtain ⟨⟨-, work, active, good, sent, job, clause, short⟩, sid, verb, -, cls, holds, store, pass, noWait, noCkpt,
    given, on, -⟩ := h
  have next : x.next r.verb = some c := by simp [Sentence.next, job, clause, verb]
  have assigned : (verbClass r.verb).isNone = false := by rw [← Option.not_isSome, cls]; rfl
  have judged : dispatchVerb r.verb r.spec r.n r.sid s.dev = dispatchOrWait r.spec (s.dev.ask r.n x c) x s.dev := by
    simp [dispatchVerb, scrubChan_good good, judgeNext, sid, sent, next, work, active, holds, assigned, short, judgeAndStart,
      store, pass, noWait, noCkpt]
  have started {y : Sel} {d : Dev} (move : TagsMove s.dev d) (eng : y.eng = e) :
      startSelected r.spec (s.dev.ask r.n x c) x y d = dispatchNow r.spec (s.dev.ask r.n x c) x y d := by
    have power : d.power = s.dev.power := move.keeps .power (by decide) (by decide)
    have same : d.domOn = s.dev.domOn := funext fun dom => by rw [Dev.domOn, power, Dev.domOn]
    have all : d.allOn (r.spec.needs (s.dev.ask r.n x c) y.eng) = true := by rw [eng, Dev.allOn, same]; exact on
    exact if_pos all
  rw [judged]
  have still : TagsMove s.dev s.dev := ⟨Keeps.refl _ _, rfl⟩
  unfold State.given at given
  split at given
  · next y hy =>
    obtain ⟨eng, stands⟩ := given
    refine ⟨y, s.dev, still, ?_⟩
    rw [← started still eng]
    simp only [dispatchOrWait, hy, stands, if_true]
  · next k hsel hk =>
    obtain ⟨picked, engine⟩ := given
    refine ⟨(selectFor k r.n (x.ranksP k) e [] s.dev).1, (selectFor k r.n (x.ranksP k) e [] s.dev).2, .select .., ?_⟩
    rw [← started (.select ..) rfl]
    have cls : s.dev.workClass x (s.dev.ask r.n x c).c = some k := hk
    simp only [dispatchOrWait, hsel, cls]
    have who : (s.dev.ask r.n x c).n = r.n := rfl
    have what : (s.dev.ask r.n x c).c = c := rfl
    simp only [pickAndStart, who, what, picked, engine, if_true]
  · next hsel hk =>
    obtain ⟨rfl, halt⟩ := given
    refine ⟨.service, s.dev, still, ?_⟩
    rw [← started still rfl]
    have cls : s.dev.workClass x (s.dev.ask r.n x c).c = none := hk
    simp only [dispatchOrWait, hsel, cls, halt, Bool.false_eq_true, if_false]

/-- Before its draw a dispatch has changed the sentences of its channel and the key store alone. -/
theorem keyed_frame (v : VerbSpec) (a : Ask) (x : Sentence) (d : Dev) :
    (keyed v a x d).chans = (modSent a.n x.sid (fun s => { s with sel := none }) d).chans
      ∧ (keyed v a x d).drbg = d.drbg ∧ (keyed v a x d).entropy = d.entropy := by
  obtain ⟨k, h⟩ := keysTaken_move v a (modSent a.n x.sid (fun s => { s with sel := none }) d)
  rw [keyed, h]
  exact ⟨rfl, rfl, rfl⟩

/-- With its draw served at once a dispatch leaves its channel's rings, and of its sentences what giving up the selection
leaves. -/
theorem drawn_chan {v : VerbSpec} (spares : v.SparesSents) {a : Ask} {x : Sentence} {d : Dev}
    (served : (keyed v a x d).servesNow (v.draw a) = true) :
    ((drawn v a x d).chan a.n).sents = ((modSent a.n x.sid (fun s => { s with sel := none }) d).chan a.n).sents
      ∧ ((drawn v a x d).chan a.n).rings = (d.chan a.n).rings := by
  obtain ⟨-, g, draws⟩ := drawFor_now served x.sid
  obtain ⟨sents, rings⟩ := spares a (drawFor v a x.sid (keyed v a x d)).2
  have kept : (drawFor v a x.sid (keyed v a x d)).2.chan a.n
      = (modSent a.n x.sid (fun s => { s with sel := none }) d).chan a.n := by
    rw [draws]
    exact chan_of (keyed_frame v a x d).1 a.n
  rw [kept] at sents rings
  refine ⟨sents, rings.trans ?_⟩
  rw [chan_modSent]

/-- The work of the first job, its whole input read and its draw served at once, is that of the clause that starts. -/
theorem firstJob_work (oneRound : r.spec.rounds (s.dev.ask r.n x c) = false) (y : Sel) (dst : Dest) :
    ({ firstJob r.spec (s.dev.ask r.n x c) x y dst (some (s.dev.drawnBytes (r.spec.draw (s.dev.ask r.n x c)))) with
      input := (s.dev.ask r.n x c).inp } : Job).work r.n c s.dev = s.workOf r x c := by
  simp only [Job.work, firstJob, State.workOf, oneRound, Bool.false_eq_true, if_false, Option.getD_none]
  cases hq : r.spec.draw (s.dev.ask r.n x c) <;> rfl

/-- What a dispatch leaves of the sentence, from a core `d` that differs from the one the checks saw in tags alone: the
running job, its result that of the verb's work. -/
theorem dispatchNow_runs (h : s.starts r x c e) (spares : r.spec.SparesSents)
    (oneRound : r.spec.rounds (s.dev.ask r.n x c) = false) (y : Sel) {d : Dev} (move : TagsMove s.dev d) :
    ∃ j, (dispatchNow r.spec (s.dev.ask r.n x c) x y d).sent r.n x.sid
        = some { x with wait := .none, sel := none, job := some j }
      ∧ j.phase = .run ∧ j.result = some (r.spec.run (s.workOf r x c)) := by
  obtain ⟨⟨-, -, -, good, sent, -⟩, -, -, -, -, -, -, -, -, -, -, -, served, len, whole, inputOk, paramsOk⟩ := h
  obtain ⟨-, drbg, entropy⟩ := keyed_frame r.spec (s.dev.ask r.n x c) x d
  have sameDrbg := drbg.trans (move.keeps .drbg (by decide) (by decide))
  have serves := (servesNow_of sameDrbg (entropy.trans (move.keeps .entropy (by decide) (by decide))) _).trans served
  have draws : (drawFor r.spec (s.dev.ask r.n x c) x.sid (keyed r.spec (s.dev.ask r.n x c) x d)).1
      = some (s.dev.drawnBytes (r.spec.draw (s.dev.ask r.n x c))) := by
    rw [(drawFor_now serves x.sid).1, Dev.drawnBytes, sameDrbg, Dev.drawnBytes]
  obtain ⟨sents, rings⟩ := drawn_chan spares serves
  have out : ((drawn r.spec (s.dev.ask r.n x c) x d).chan r.n).rings.out.good = true :=
    (congrArg (·.out.good) (rings.trans (congrArg Chan.rings (chan_of move.chans r.n)))).trans (good .out)
  have kept : (startProg r.n c y.eng (openDst r.n x c (drawn r.spec (s.dev.ask r.n x c) x d)).2).sent r.n x.sid
      = some { x with sel := none } := by
    rw [Dev.sent, startProg_sents, openDst_sents out]
    exact (congrArg (List.find? _) sents).trans
      (sent_modSent (f := fun s => { s with sel := none }) (fun _ => rfl) ((move.sent r.n x.sid).trans sent))
  have read : s.dev.inputBytes r.n x c 0 c.inLen = (s.dev.ask r.n x c).inp := by rw [← len]; rfl
  rw [dispatchNow_ask, draws]
  refine ⟨_, gather_whole kept rfl rfl rfl (firstJob_primes oneRound ..) len (read ▸ whole) inputOk
    paramsOk, rfl, ?_⟩
  rw [read, Job.done, firstJob_work oneRound]

/-- The command of a verb leaves the clause it starts running, its result that of the verb's work. -/
theorem runs_of_starts {i : Instr} (verb : exec i s = onDev (dispatchVerb r.verb r.spec r.n r.sid) s)
    (h : s.starts r x c e) (spares : r.spec.SparesSents) (oneRound : r.spec.rounds (s.dev.ask r.n x c) = false) :
    Runs i s r x (r.spec.run (s.workOf r x c)) := by
  obtain ⟨y, d, move, dispatched⟩ := dispatchVerb_starts h
  obtain ⟨j, sent, phase, result⟩ := dispatchNow_runs h spares oneRound y move
  exact ⟨_, j, verb.trans (onDev_to h.1.1 dispatched), (sent_through ..).trans sent, phase, result⟩

end

end Sys2Proof.Machine
end

section
/-!
What the cipher, hash, control and key verbs give (O37, O39, O41): each verb's command dispatches its row of the verb tables,
and its work is what its entry says.
-/

namespace Sys2Proof.Machine

/-- A verb that does nothing of its own at dispatch computes what its work is; its row and its command are read off the
tables. -/
theorem computes_by (v : VerbSpec) {i : Instr} {n : Chn} {sid verb : Nat} {op : Option Nat} {o : Work → JobResult}
    (work : ∀ w, v.run w = o w) (row : verbRow i = some ⟨n, sid, verb, op, v⟩ := by rfl)
    (command : ∀ s, exec i s = onDev (dispatchVerb verb v n sid) s := by intro; rfl)
    (quiet : ∀ a d, v.atDispatch a d = d := by intros; rfl) : Computes i o := by
  intro r x c e s hr starts oneRound
  obtain rfl := Option.some.inj (row.symm.trans hr)
  rw [← work]
  exact runs_of_starts (command s) starts (fun a d => by rw [quiet]; exact ⟨rfl, rfl⟩) oneRound

/-! ### Ciphers (09 R208–R213) -/

theorem openOut_eq (alg : AeadAlg) (key iv : Bytes) (t : Nat) (aad ct tag : Bytes) (hold : Bool) (w2 : Nat) :
    openOut alg key iv t aad ct tag hold w2 = if alg.tag key iv t aad ct = tag then okOut (alg.crypt key iv ct) w2
      else failOut .authFail (if hold then [] else alg.crypt key iv ct) w2 := by
  simp only [openOut, sameBytes_iff]

/-- The tag is made where there is no tag to compare with, and compared otherwise. -/
theorem cmacVerb_run (w : Work) : cmacVerb.run w =
    if w.ps = [] then okOut (cmac w.key w.inp) w.inp.length
    else if cmac w.key w.inp = w.ps then okOut [] w.inp.length else failOut .authFail [] w.inp.length := by
  simp only [cmacVerb, sameBytes_iff]

/-- Settles O37: the seals and opens run their AEAD on the payload and the AAD of the input. -/
theorem cipherVerbsCompute : Obligations.CipherVerbsCompute := by
  intro n sid
  refine ⟨computes_by copyVerb fun _ => rfl,
    computes_by zeroVerb fun _ => rfl,
    computes_by (cbcVerb true) fun _ => rfl,
    computes_by (cbcVerb false) fun _ => rfl,
    computes_by ctrVerb fun _ => rfl,
    computes_by cmacVerb cmacVerb_run, ?_,
    computes_by ccmSealVerb fun _ => rfl, ?_,
    computes_by ccmOpenVerb fun _ => openOut_eq ..⟩
  · intro i crypt tag h
    simp only [List.mem_cons, Prod.mk.injEq, List.not_mem_nil, or_false] at h
    obtain ⟨rfl, rfl, rfl⟩ | ⟨rfl, rfl, rfl⟩ := h
    · exact computes_by (sealVerb gcmAlg aeadClasses) fun _ => rfl
    · exact computes_by (sealVerb chachaAlg [0x14]) fun _ => rfl
  · intro i crypt tag h
    simp only [List.mem_cons, Prod.mk.injEq, List.not_mem_nil, or_false] at h
    obtain ⟨rfl, rfl, rfl⟩ | ⟨rfl, rfl, rfl⟩ := h
    · exact computes_by (openVerb gcmAlg aeadClasses) fun _ => openOut_eq ..
    · exact computes_by (openVerb chachaAlg [0x14]) fun _ => openOut_eq ..

/-! ### Hashes, MACs and derivations (09 R217–R224) -/

theorem hmacVerb_run (h : HmacHash) (cls : Nat) (w : Work) : (hmacVerb h cls).run w =
    if w.ps = [] then okOut (hmac h w.key w.inp) w.inp.length
    else if (hmac h w.key w.inp).take w.ps.length = w.ps then okOut [] w.inp.length
    else failOut .authFail [] w.inp.length := by
  simp only [hmacVerb, sameBytes_iff]

/-- Settles O39: the digests and XOFs of the input, the HMAC made or compared, the derivations put out or into a slot. -/
theorem hashVerbsCompute : Obligations.HashVerbsCompute := by
  intro n sid
  refine ⟨computes_by (digestVerb 32 sha256) fun _ => rfl,
    computes_by (digestVerb 48 sha384) fun _ => rfl,
    computes_by (digestVerb 64 sha512) fun _ => rfl,
    computes_by (digestVerb 32 sha3_256) fun _ => rfl,
    computes_by (digestVerb 64 sha3_512) fun _ => rfl,
    computes_by (xofVerb shake128) fun _ => rfl,
    computes_by (xofVerb shake256) fun _ => rfl, ?_,
    computes_by extractVerb fun _ => rfl, ?_,
    computes_by hashSaveVerb fun _ => rfl,
    computes_by hashResumeVerb fun _ => rfl⟩
  · intro i h hi
    simp only [List.mem_cons, Prod.mk.injEq, List.not_mem_nil, or_false] at hi
    obtain ⟨rfl, rfl⟩ | ⟨rfl, rfl⟩ := hi
    · exact computes_by (hmacVerb .sha256 0x18) (hmacVerb_run _ _)
    · exact computes_by (hmacVerb .sha384 0x19) (hmacVerb_run _ _)
  · intro i expand hi
    simp only [List.mem_cons, Prod.mk.injEq, List.not_mem_nil, or_false] at hi
    obtain ⟨rfl, rfl⟩ | ⟨rfl, rfl⟩ := hi
    · exact computes_by expandVerb fun _ => rfl
    · exact computes_by labelVerb fun _ => rfl

/-! ### Control and keys (09 R206, R207, R215, R216, R225, R226) -/

/-- The slot's block without ORIGIN, its counter, whether units are left, its kind and its number (Table 09.10). -/
theorem keyInfo_run {w : Work} {y : KeySlot} (h : w.d.ks.slot w.c.keySlot = some y) :
    keyInfo.run w = okOut (keyInfoBytes y) 0 := by
  simp only [keyInfo, h, Option.map_some, Option.getD_some]

theorem keyWrapVerb_run {w : Work} {z : KeySlot} (h : w.d.ks.slot w.c.dstSlot = some z) :
    keyWrapVerb.run w = okOut (keyWrap w.key (kabBytes z.cls z.usage true (z.limit - z.ctr) ++ w.key2)) 0 := by
  simp only [keyWrapVerb, h]

/-- A recovered blob is put into the slot where nothing of Table 09.3 speaks against it. -/
theorem unwrapResult_some (dst len : Nat) (pt : Bytes) : unwrapResult dst len (some pt) =
    if (kabAt pt 0).origin then failOut .keyDenied [] len
    else if (kabAt pt 0).symBody = false ∨ 8 + 8 * (kabAt pt 0).len + 8 ≠ len then failOut .badParam [] len
    else if kindHolds dst (kabAt pt 0).cls = false then failOut .keyDenied [] len
    else { okOut [] len with good := [.putKey ((kabAt pt 0).dest dst) (slice 8 (8 * (kabAt pt 0).len) pt)] } := by
  simp only [unwrapResult, Bool.or_eq_true, Bool.not_eq_true', bne_iff_ne]

theorem keyUnwrapVerb_run (w : Work) :
    keyUnwrapVerb.run w = unwrapResult w.c.dstSlot w.inp.length (keyUnwrap w.key w.inp) := by simp only [keyUnwrapVerb]

/-- Settles O41: what the verbs draw, retire, report, wrap and unwrap; KEY_INFO and KEY_WRAP of a slot that holds a key. -/
theorem keyVerbsCompute : Obligations.KeyVerbsCompute := by
  intro n sid
  refine ⟨computes_by random fun _ => rfl,
    fun burns => computes_by (retireKey burns) fun _ => rfl,
    computes_by keyGen fun _ => rfl, ?_,
    computes_by keyUnwrapVerb fun w => ?_⟩
  · have informs : Computes (.keyInfo n sid) keyInfo.run := computes_by keyInfo fun _ => rfl
    have wraps : Computes (.keyWrap n sid) keyWrapVerb.run := computes_by keyWrapVerb fun _ => rfl
    intro r x c e s y starts slot
    refine ⟨fun row => ?_, fun z row subject => ?_⟩
    · have runs := informs r x c e s row starts (by cases row; rfl)
      rwa [keyInfo_run slot] at runs
    · have runs := wraps r x c e s row starts (by cases row; rfl)
      rw [keyWrapVerb_run subject] at runs
      cases row
      exact runs
  · rw [keyUnwrapVerb_run]
    cases keyUnwrap w.key w.inp with
    | none => rfl
    | some pt => exact unwrapResult_some ..

end Sys2Proof.Machine
end

section
/-!
SUPPORT. Byte strings cut in pieces; key streams, whose exclusive or with a message, made twice, gives the message again.
-/

namespace Sys2Proof.Machine

/-! ### Pieces -/

/-- Any fuel from the length of the string on cuts it whole. -/
theorem chunksFuel_enough {n f g : Nat} {bs : Bytes} (hn : 0 < n) (hf : bs.length ≤ f) (hg : bs.length ≤ g) :
    chunksFuel n f bs = chunksFuel n g bs := by
  induction f generalizing g bs with
  | zero =>
    obtain rfl := List.eq_nil_of_length_eq_zero (Nat.le_zero.1 hf)
    cases g <;> rfl
  | succ f ih =>
    cases bs with
    | nil => cases g <;> rfl
    | cons b bs =>
      cases g with
      | zero => cases hg
      | succ g =>
        have rest : ((b :: bs).drop n).length ≤ bs.length := by simp only [List.length_drop, List.length_cons]; omega
        simp only [List.length_cons, Nat.add_le_add_iff_right] at hf hg
        exact congrArg ((b :: bs).take n :: ·) (ih (rest.trans hf) (rest.trans hg))

theorem chunks_nil (n : Nat) : chunks n [] = [] := rfl

/-- A string that is not empty gives its first `n` bytes, then the pieces of the rest. -/
theorem chunks_of_ne {n : Nat} (hn : 0 < n) {bs : Bytes} (h : bs ≠ []) :
    chunks n bs = bs.take n :: chunks n (bs.drop n) := by
  cases bs with
  | nil => exact absurd rfl h
  | cons b bs =>
    have rest : ((b :: bs).drop n).length ≤ bs.length := by simp only [List.length_drop, List.length_cons]; omega
    exact congrArg ((b :: bs).take n :: ·) (chunksFuel_enough hn rest (Nat.le_refl _))

/-- A string of whole pieces in front is cut by itself. -/
theorem chunks_append {n k : Nat} (hn : 0 < n) {a : Bytes} (h : a.length = n * k) (b : Bytes) :
    chunks n (a ++ b) = chunks n a ++ chunks n b := by
  induction k generalizing a with
  | zero =>
    obtain rfl := List.eq_nil_of_length_eq_zero h
    rfl
  | succ k ih =>
    rw [Nat.mul_succ] at h
    have long : n ≤ a.length := by omega
    have nonempty : a ≠ [] := List.ne_nil_of_length_pos (by omega)
    rw [chunks_of_ne hn nonempty, chunks_of_ne hn (List.append_ne_nil_of_left_ne_nil nonempty b),
      List.take_append_of_le_length long, List.drop_append_of_le_length long, ih (by rw [List.length_drop]; omega),
      List.cons_append]

/-- A string of `k` whole pieces is cut in `k` pieces of full length. -/
theorem chunks_whole {n k : Nat} (hn : 0 < n) {bs : Bytes} (h : bs.length = n * k) :
    (chunks n bs).length = k ∧ ∀ p ∈ chunks n bs, p.length = n := by
  induction k generalizing bs with
  | zero =>
    obtain rfl := List.eq_nil_of_length_eq_zero h
    exact ⟨rfl, nofun⟩
  | succ k ih =>
    rw [Nat.mul_succ] at h
    obtain ⟨count, full⟩ := ih (bs := bs.drop n) (by rw [List.length_drop]; omega)
    rw [chunks_of_ne hn (List.ne_nil_of_length_pos (by omega))]
    refine ⟨congrArg (· + 1) count, fun p hp => ?_⟩
    rcases List.mem_cons.1 hp with rfl | hp
    · rw [List.length_take]; omega
    · exact full p hp

/-- The bytes of pieces of one length. -/
theorem length_flatten_of {n : Nat} {l : List Bytes} (h : ∀ p ∈ l, p.length = n) : l.flatten.length = l.length * n := by
  rw [List.length_flatten, List.map_congr_left h, List.map_const', List.sum_replicate, smul_eq_mul]

theorem length_flatMap_of {α : Type} {n : Nat} {f : α → Bytes} {l : List α} (h : ∀ p ∈ l, (f p).length = n) :
    (l.flatMap f).length = l.length * n := by
  rw [List.length_flatMap, List.map_congr_left h, List.map_const', List.sum_replicate, smul_eq_mul]

@[simp] theorem length_zeros (n : Nat) : (zeros n).length = n := List.length_replicate

@[simp] theorem length_xorBytes (a b : Bytes) : (xorBytes a b).length = min a.length b.length := List.length_zipWith

/-! ### Key streams -/

/-- The blocks of a key stream from the `i`th on, exclusive-ored into pieces. -/
def xorStream (key : Nat → Bytes) : List Bytes → Nat → Bytes
  | [], _ => []
  | p :: ps, i => xorBytes p (key i) ++ xorStream key ps (i + 1)

/-- A key that reaches over the string, applied twice, gives the string again. -/
theorem xorBytes_twice {a k : Bytes} (h : a.length ≤ k.length) : xorBytes (xorBytes a k) k = a := by
  induction a generalizing k with
  | nil => rfl
  | cons x a ih =>
    cases k with
    | nil => cases h
    | cons y k =>
      have byte : x ^^^ y ^^^ y = x := by rw [BitVec.xor_assoc, BitVec.xor_self, BitVec.xor_zero]
      exact List.cons_eq_cons.2 ⟨byte, ih (Nat.le_of_succ_le_succ h)⟩

section
variable {key : Nat → Bytes} {n : Nat} (hn : 0 < n) (blocks : ∀ i, (key i).length = n)
include hn blocks

/-- The first block of the stream's output is that of the first piece, the rest that of the others. -/
theorem xorStream_cut (m : Bytes) (i : Nat) : (xorStream key (chunks n m) i).take n = xorBytes (m.take n) (key i)
    ∧ (xorStream key (chunks n m) i).drop n = xorStream key (chunks n (m.drop n)) (i + 1) := by
  by_cases hm : m = []
  · subst hm
    simp [chunks_nil, xorStream, xorBytes]
  · rw [chunks_of_ne hn hm, xorStream]
    by_cases long : n ≤ m.length
    · have full : (xorBytes (m.take n) (key i)).length = n := by
        rw [length_xorBytes, blocks, List.length_take]; omega
      exact ⟨List.take_left' full, List.drop_left' full⟩
    · have last : m.drop n = [] := List.drop_eq_nil_of_le (by omega)
      have short : (xorBytes (m.take n) (key i)).length ≤ n := by
        rw [length_xorBytes, blocks]; exact Nat.min_le_right ..
      simp only [last, chunks_nil, xorStream, List.append_nil]
      exact ⟨List.take_of_length_le short, List.drop_eq_nil_of_le short⟩

/-- A key stream applied twice gives the message again. -/
theorem xorStream_twice (m : Bytes) (i : Nat) :
    xorStream key (chunks n (xorStream key (chunks n m) i)) i = m := by
  by_cases hm : m = []
  · subst hm
    rfl
  · have pos : 0 < m.length := List.length_pos_iff.2 hm
    obtain ⟨first, rest⟩ := xorStream_cut hn blocks m i
    have ne : xorStream key (chunks n m) i ≠ [] := by
      intro h
      have := congrArg List.length first
      simp only [h, List.take_nil, List.length_nil, length_xorBytes, blocks, List.length_take] at this
      omega
    have reach : (m.take n).length ≤ (key i).length := by rw [List.length_take, blocks]; exact Nat.min_le_left ..
    rw [chunks_of_ne hn ne, xorStream, first, rest, xorStream_twice, xorBytes_twice reach, List.take_append_drop]
termination_by m.length
decreasing_by rw [List.length_drop]; omega

end

end Sys2Proof.Machine
end

section
/-!
AES and ChaCha20 give whole blocks, so their counter modes undo themselves; an AEAD open undoes the seal (O38).
-/

namespace Sys2Proof.Machine

/-! ### AES (FIPS 197) -/

/-- A schedule of at least `nk` four-byte words goes on with four-byte words. -/
theorem aesExpand_words {nk : Nat} (hk : 0 < nk) (n i : Nat) (rc : Byte) {ws : List Bytes} (len : nk ≤ ws.length)
    (words : ∀ w ∈ ws, w.length = 4) :
    (aesExpand nk n i rc ws).length = n + ws.length ∧ ∀ w ∈ aesExpand nk n i rc ws, w.length = 4 := by
  induction n generalizing i rc ws with
  | zero => exact ⟨(Nat.zero_add _).symm, words⟩
  | succ n ih =>
    have word (k : Nat) (hk : k < ws.length) : (ws.getD k []).length = 4 := by
      rw [List.getD_eq_getElem _ _ hk]
      exact words _ (List.getElem_mem hk)
    have newest := word 0 (by omega)
    have oldest := word (nk - 1) (by omega)
    have next {w : Bytes} (hw : w.length = 4) (rc : Byte) :
        (aesExpand nk n (i + 1) rc (w :: ws)).length = n + 1 + ws.length
          ∧ ∀ u ∈ aesExpand nk n (i + 1) rc (w :: ws), u.length = 4 := by
      obtain ⟨count, four⟩ := ih (i + 1) rc (ws := w :: ws) (by rw [List.length_cons]; omega)
        (fun u hu => (List.mem_cons.1 hu).elim (fun h => h ▸ hw) (words u))
      exact ⟨count.trans (by rw [List.length_cons]; omega), four⟩
    unfold aesExpand
    split
    · refine next ?_ _
      rw [length_xorBytes, length_xorBytes, List.length_map, List.length_append, List.length_drop, List.length_take, newest,
        oldest]
      rfl
    · split
      · exact next (by rw [length_xorBytes, List.length_map, newest, oldest, Nat.min_self]) _
      · exact next (by rw [length_xorBytes, newest, oldest, Nat.min_self]) _

/-- The round keys of a key of 16 or 32 bytes have 16 bytes. -/
theorem aesKeys_blocks {key : Bytes} (h : key.length = 16 ∨ key.length = 32) : ∀ k ∈ aesKeys key, k.length = 16 := by
  have expanded {nk : Nat} (hk : 0 < nk) (len : key.length = 4 * nk) : ∀ k ∈ aesKeys key, k.length = 16 := by
    obtain ⟨count, four⟩ := chunks_whole (by decide) len
    obtain ⟨all, words⟩ := aesExpand_words hk (4 * (nk + 7) - nk) nk 1 (ws := (chunks 4 key).reverse)
      (by rw [List.length_reverse, count]) (fun w hw => four w (List.mem_reverse.1 hw))
    have count4 : key.length / 4 = nk := by omega
    rw [aesKeys, count4]
    refine (chunks_whole (k := nk + 7) (by decide) ?_).2
    rw [length_flatten_of (n := 4) (fun w hw => words w (List.mem_reverse.1 hw)), List.length_reverse, all,
      List.length_reverse, count]
    omega
  rcases h with h | h
  · exact expanded (nk := 4) (by decide) h
  · exact expanded (nk := 8) (by decide) h

theorem length_aesShift (b : Bytes) : (aesShift b).length = 16 := by rw [aesShift, List.length_map, List.length_range]

/-- The columns of a block, each replaced by a column. -/
theorem length_mixed (k0 k1 k2 k3 : Byte) {b : Bytes} (h : b.length = 16) :
    ((chunks 4 b).flatMap (aesCol k0 k1 k2 k3)).length = 16 := by
  obtain ⟨count, -⟩ := chunks_whole (n := 4) (k := 4) (by decide) h
  rw [length_flatMap_of (n := 4) (fun c _ => by rw [aesCol, List.length_map, List.length_range]), count]

theorem length_aesRounds {ks : List Bytes} (keys : ∀ k ∈ ks, k.length = 16) {b : Bytes} (h : b.length = 16) :
    (aesRounds ks b).length = 16 := by
  induction ks generalizing b with
  | nil => exact h
  | cons k ks ih =>
    have first := keys k (List.mem_cons_self ..)
    cases ks with
    | nil => rw [aesRounds, length_xorBytes, length_aesShift, first, Nat.min_self]
    | cons k' ks =>
      refine ih (fun u hu => keys u (List.mem_cons_of_mem _ hu)) ?_
      rw [length_xorBytes, length_mixed _ _ _ _ (length_aesShift _), first, Nat.min_self]

theorem length_aesEncryptWith {ks : List Bytes} (keys : ∀ k ∈ ks, k.length = 16) {b : Bytes} (h : b.length = 16) :
    (aesEncryptWith ks b).length = 16 := by
  cases ks with
  | nil => exact h
  | cons k ks =>
    refine length_aesRounds (fun u hu => keys u (List.mem_cons_of_mem _ hu)) ?_
    rw [length_xorBytes, h, keys k (List.mem_cons_self ..), Nat.min_self]

/-! ### Counter mode (SP 800-38A) -/

theorem ctrBlocks_eq_xorStream (ks : List Bytes) (w : Nat) (ctr : Bytes) (ps : List Bytes) (i : Nat) :
    ctrBlocks ks w ctr ps i = xorStream (fun i => aesEncryptWith ks (ctrBlock w ctr i)) ps i := by
  induction ps generalizing i with
  | nil => rfl
  | cons p ps ih => rw [ctrBlocks, xorStream, ih]

theorem length_ctrBlock {w : Nat} (hw : w ≤ 16) {ctr : Bytes} (h : ctr.length = 16) (i : Nat) :
    (ctrBlock w ctr i).length = 16 := by
  rw [ctrBlock, List.length_append, List.length_take, length_natBE, h]
  omega

theorem ctrCrypt_twice {key : Bytes} (hk : key.length = 16 ∨ key.length = 32) {w : Nat} (hw : w ≤ 16) {ctr : Bytes}
    (h : ctr.length = 16) (m : Bytes) : ctrCrypt key w ctr (ctrCrypt key w ctr m) = m := by
  simp only [ctrCrypt, ctrBlocks_eq_xorStream]
  exact xorStream_twice (by decide) (fun i => length_aesEncryptWith (aesKeys_blocks hk) (length_ctrBlock hw h i)) m 0

theorem gcmCrypt_twice {key iv : Bytes} (hk : key.length = 16 ∨ key.length = 32) (hi : iv.length = 12) (m : Bytes) :
    gcmCrypt key iv (gcmCrypt key iv m) = m :=
  ctrCrypt_twice hk (by decide) (by rw [List.length_append, length_natBE, hi]) m

theorem ccmCrypt_twice {key iv : Bytes} (hk : key.length = 16 ∨ key.length = 32) (hi : iv.length ≤ 15) (m : Bytes) :
    ccmCrypt key iv (ccmCrypt key iv m) = m := by
  have ctr0 : (ccmCtr0 iv).length = 16 := by
    simp only [ccmCtr0, List.cons_append, List.length_cons, List.length_append, length_zeros]
    omega
  exact ctrCrypt_twice hk (by omega) (length_ctrBlock (by omega) ctr0 1) m

/-! ### ChaCha20 (RFC 8439) -/

theorem chachaBlocks_eq_xorStream (key nonce : Bytes) (ps : List Bytes) (i : Nat) :
    chachaBlocks key nonce ps i = xorStream (fun i => chachaBlock key i nonce) ps i := by
  induction ps generalizing i with
  | nil => rfl
  | cons p ps ih => rw [chachaBlocks, xorStream, ih]

theorem length_chAt (s : List Word) (i j k l : Nat) : (chAt s i j k l).length = s.length := by
  simp only [chAt, List.length_set]

theorem length_chRounds (n : Nat) (s : List Word) : (chRounds n s).length = s.length := by
  induction n generalizing s with
  | zero => rfl
  | succ n ih => rw [chRounds, ih, chDouble]; simp only [length_chAt]

theorem length_chachaBlock {key nonce : Bytes} (hk : key.length = 32) (hn : nonce.length = 12) (i : Nat) :
    (chachaBlock key i nonce).length = 64 := by
  have start : (ascii "expand 32-byte k" ++ key ++ natLE 4 i ++ nonce).length = 4 * 16 := by
    have constant : (ascii "expand 32-byte k").length = 16 := by decide
    rw [List.length_append, List.length_append, List.length_append, constant, hk, length_natLE, hn]
  have words : (leWords (ascii "expand 32-byte k" ++ key ++ natLE 4 i ++ nonce)).length = 16 := by
    rw [leWords, List.length_map, (chunks_whole (by decide) start).1]
  rw [chachaBlock, length_flatMap_of (n := 4) (fun w _ => length_natLE 4 w.toNat), List.length_zipWith, length_chRounds,
    words, Nat.min_self]

theorem chachaCrypt_twice {key nonce : Bytes} (hk : key.length = 32) (hn : nonce.length = 12) (m : Bytes) :
    chachaCrypt key nonce (chachaCrypt key nonce m) = m := by
  simp only [chachaCrypt, chachaBlocks_eq_xorStream]
  exact xorStream_twice (by decide) (length_chachaBlock hk hn) m 1

/-! ### Seal and open (09 R209, R211–R213) -/

/-- An AEAD whose text transformation undoes itself opens what it sealed. -/
theorem openOut_sealed {alg : AeadAlg} {key iv pt : Bytes} (twice : alg.crypt key iv (alg.crypt key iv pt) = pt)
    (aad : Bytes) (tlen w2 : Nat) (hold : Bool) : openOut alg key iv tlen aad (alg.crypt key iv pt)
      (alg.tag key iv tlen aad (alg.crypt key iv pt)) hold w2 = okOut pt w2 := by
  rw [openOut_eq, if_pos rfl, twice]

/-- Settles O38: the three text transformations undo themselves; a tag that differs is refused. -/
theorem aeadOpenUndoesSeal : Obligations.AeadOpenUndoesSeal := by
  intro alg key iv aad pt tag tlen w2 hold lengths ct
  have twice : alg.crypt key iv (alg.crypt key iv pt) = pt := by
    obtain ⟨rfl, hi, hk⟩ | ⟨rfl, -, hi, hk⟩ | ⟨rfl, hi, hk⟩ := lengths
    · exact gcmCrypt_twice hk hi pt
    · exact ccmCrypt_twice hk (by omega) pt
    · exact chachaCrypt_twice hk hi pt
  refine ⟨rfl, openOut_sealed twice aad tlen w2 hold, fun wrong => ?_⟩
  rw [openOut_eq, if_neg (Ne.symm wrong), if_pos rfl]

end Sys2Proof.Machine
end

section
/-!
Saved hash states: what a SHA-2 record keeps of the message so far, and that a save and a resume go on from it (O40).
-/

namespace Sys2Proof.Machine

/-! ### Numbers and words as bytes -/

theorem beNat_append (a : Bytes) (b : Byte) : beNat (a ++ [b]) = beNat a * 256 + b.toNat := by
  rw [beNat, List.foldl_append]
  rfl

theorem natBE_succ (n v : Nat) : natBE (n + 1) v = natBE n (v / 256) ++ [BitVec.ofNat 8 v] := by
  rw [natBE, natLE, List.reverse_cons, natBE]

/-- A number that fits its bytes is read back from them. -/
theorem beNat_natBE {n v : Nat} (h : v < 256 ^ n) : beNat (natBE n v) = v := by
  induction n generalizing v with
  | zero => rw [Nat.pow_zero, Nat.lt_one_iff] at h; subst h; rfl
  | succ n ih =>
    have high : v / 256 < 256 ^ n := Nat.div_lt_of_lt_mul (by rwa [Nat.pow_succ, Nat.mul_comm] at h)
    rw [natBE_succ, beNat_append, ih high, BitVec.toNat_ofNat]
    omega

/-- Strings of one length joined are cut into themselves. -/
theorem chunks_flatMap {α : Type} {n : Nat} (hn : 0 < n) {f : α → Bytes} (h : ∀ a, (f a).length = n) (l : List α) :
    chunks n (l.flatMap f) = l.map f := by
  induction l with
  | nil => rfl
  | cons a l ih =>
    have one : chunks n (f a) = [f a] := by
      rw [chunks_of_ne hn (List.ne_nil_of_length_pos (by rw [h]; exact hn)), ← h a, List.take_length, List.drop_length]
      rfl
    rw [List.flatMap_cons, chunks_append hn (k := 1) ((h a).trans (Nat.mul_one n).symm), one, ih]
    rfl

/-- Words are read back from their bytes. -/
theorem words_of_bytes {w k : Nat} (hk : 0 < k) (hw : 2 ^ w = 256 ^ k) (l : List (BitVec w)) :
    (chunks k (l.flatMap (fun x => natBE k x.toNat))).map (fun c => BitVec.ofNat w (beNat c)) = l := by
  rw [chunks_flatMap hk (f := fun x : BitVec w => natBE k x.toNat) (fun x => length_natBE k x.toNat), List.map_map]
  refine (List.map_congr_left fun x _ => ?_).trans (List.map_id l)
  rw [Function.comp_apply, beNat_natBE (hw ▸ x.isLt), BitVec.ofNat_toNat, BitVec.setWidth_eq, id]

theorem length_padTo (n : Nat) (bs : Bytes) : (padTo n bs).length = n := by
  rw [padTo, List.length_append, List.length_take, length_zeros]
  omega

/-! ### SHA-2 as its records see it (09 R223, Table 09.9) -/

/-- A SHA-2 hash: its code, block length, chaining values with their bytes in a digest and in a record, padding and the
part of the result that is the digest. -/
structure Sha2 where
  Chain : Type
  code : Byte
  block : Nat
  iv : Chain
  step : Chain → Bytes → Chain
  out : Chain → Bytes
  chain : Bytes → Chain
  pad : Nat → Bytes
  trim : Bytes → Bytes

namespace Sha2
variable (h : Sha2)

/-- The chaining value after whole blocks. -/
def absorb (s : h.Chain) (m : Bytes) : h.Chain := (chunks h.block m).foldl h.step s

/-- The digest of a message. -/
def digest (m : Bytes) : Bytes := h.trim (h.out (h.absorb h.iv (m ++ h.pad m.length)))

/-- The whole blocks of a message. -/
def whole (m : Bytes) : Bytes := m.take (m.length / h.block * h.block)

/-- The bytes of a message behind its whole blocks. -/
def rest (m : Bytes) : Bytes := m.drop (m.length / h.block * h.block)

/-- The record of a chaining value, a count and a tail (R223). -/
def record (s : h.Chain) (count : Nat) (tail : Bytes) : Bytes :=
  [h.code, 0x01] ++ natBE 6 count ++ h.out s ++ padTo h.block tail

/-- The record of no input. -/
def empty : Bytes := [h.code, 0x01] ++ zeros 6

/-- The model's records are those of the hash: how its saves and resumes go, and what it reads back. -/
structure Modelled : Prop where
  pos : 0 < h.block
  save : ∀ ps inp, par8 ps 0 = h.code.toNat → saveRecord ps inp = h.record
    (h.absorb (h.chain ps) (h.whole (recTail ps ++ inp))) (recCount ps + inp.length) (h.rest (recTail ps ++ inp))
  resume : ∀ ps inp len, par8 ps 0 = h.code.toNat → resumeDigest ps inp len = h.trim (h.out (h.absorb (h.chain ps)
    (recTail ps ++ inp ++ h.pad (recCount ps - (recTail ps).length + (recTail ps ++ inp).length))))
  chainEmpty : h.chain h.empty = h.iv
  tailEmpty : recTail h.empty = []
  chainRecord : ∀ s count tail, h.chain (h.record s count tail) = s
  tailRecord : ∀ s count tail, count < 2 ^ 48 →
    recTail (h.record s count tail) = (padTo h.block tail).take (count % h.block)

/-- What a record keeps of the message so far. -/
structure Saved (ps msg : Bytes) : Prop where
  code : par8 ps 0 = h.code.toNat
  count : recCount ps = msg.length
  chain : h.chain ps = h.absorb h.iv (h.whole msg)
  tail : recTail ps = h.rest msg

theorem whole_append_rest (m : Bytes) : h.whole m ++ h.rest m = m := List.take_append_drop ..

theorem length_whole (m : Bytes) : (h.whole m).length = h.block * (m.length / h.block) := by
  rw [whole, List.length_take, Nat.min_eq_left (Nat.div_mul_le_self ..), Nat.mul_comm]

theorem length_rest (m : Bytes) : (h.rest m).length = m.length % h.block := by
  rw [rest, List.length_drop, Nat.mod_eq_sub_div_mul]

theorem length_record (s : h.Chain) (count : Nat) (tail : Bytes) :
    (h.record s count tail).length = 8 + (h.out s).length + h.block := by
  simp only [record, List.length_append, length_natBE, length_padTo, List.length_cons, List.length_nil]

/-- The record of a hash is longer than that of no input. -/
theorem record_long (pos : 0 < h.block) (s : h.Chain) (count : Nat) (tail : Bytes) :
    (h.record s count tail).length ≠ 8 := by
  rw [length_record]
  omega

theorem recCount_record (s : h.Chain) {count : Nat} (small : count < 2 ^ 48) (tail : Bytes) :
    recCount (h.record s count tail) = count := by
  have bytes : slice 2 6 (h.record s count tail) = natBE 6 count := by
    rw [slice, record, List.append_assoc, List.append_assoc]
    exact List.take_left' (length_natBE ..)
  rw [recCount, bytes, beNat_natBE small]

/-- What stands behind the head of a record: the chaining value, then the tail. -/
theorem record_body (s : h.Chain) (count : Nat) (tail : Bytes) {k : Nat} (hk : (h.out s).length = k) :
    slice 8 k (h.record s count tail) = h.out s ∧ (h.record s count tail).drop (8 + k) = padTo h.block tail := by
  have head : ([h.code, 0x01] ++ natBE 6 count).length = 8 := by rw [List.length_append, length_natBE]; rfl
  constructor
  · rw [slice, record, List.append_assoc, List.drop_left' head]
    exact List.take_left' hk
  · exact List.drop_left' (by rw [List.length_append, head, hk])

variable {h} (md : h.Modelled)
include md

/-- The blocks of a message that has been absorbed so far and goes on. -/
theorem cut_append (m inp : Bytes) : h.whole (m ++ inp) = h.whole m ++ h.whole (h.rest m ++ inp)
    ∧ h.rest (m ++ inp) = h.rest (h.rest m ++ inp) := by
  have split : m ++ inp = h.whole m ++ (h.rest m ++ inp) := by rw [← List.append_assoc, whole_append_rest]
  have blocks : (m ++ inp).length / h.block * h.block
      = (h.whole m).length + (h.rest m ++ inp).length / h.block * h.block := by
    rw [split, List.length_append, length_whole, Nat.mul_add_div md.pos, Nat.add_mul, Nat.mul_comm h.block]
  constructor
  · rw [whole, blocks, split, List.take_length_add_append]
    rfl
  · rw [rest, blocks, split, List.drop_length_add_append]
    rfl

theorem absorb_append (s : h.Chain) {a : Bytes} {k : Nat} (ha : a.length = h.block * k) (b : Bytes) :
    h.absorb s (a ++ b) = h.absorb (h.absorb s a) b := by
  rw [absorb, chunks_append md.pos ha, List.foldl_append]
  rfl

/-- The record of what has been absorbed of a message and of the rest of it keeps that message. -/
theorem saved_record {m : Bytes} (len : m.length < 2 ^ 48) :
    h.Saved (h.record (h.absorb h.iv (h.whole m)) m.length (h.rest m)) m where
  code := rfl
  count := h.recCount_record _ len _
  chain := md.chainRecord ..
  tail := by
    have short : (h.rest m).length = m.length % h.block := h.length_rest m
    have fits : (h.rest m).length ≤ h.block := short ▸ (Nat.mod_lt _ md.pos).le
    rw [md.tailRecord _ _ _ len, padTo, List.take_of_length_le fits]
    exact List.take_left' short

theorem saved_empty : h.Saved h.empty [] where
  code := rfl
  count := rfl
  chain := by rw [md.chainEmpty, whole, List.take_nil]; rfl
  tail := by rw [md.tailEmpty, rest, List.drop_nil]

/-- A save keeps the message so far with the new input behind it. -/
theorem Saved.save {ps msg : Bytes} (sv : h.Saved ps msg) {inp : Bytes} (len : (msg ++ inp).length < 2 ^ 48) :
    h.Saved (saveRecord ps inp) (msg ++ inp) := by
  obtain ⟨whole, rest⟩ := cut_append md msg inp
  have made := saved_record md len
  rwa [whole, rest, absorb_append md _ (h.length_whole msg), List.length_append, ← sv.count, ← sv.chain, ← sv.tail,
    ← md.save _ _ sv.code] at made

/-- A resume gives the digest of the message so far with the new input behind it. -/
theorem Saved.resume {ps msg : Bytes} (sv : h.Saved ps msg) (inp : Bytes) (len : Nat) :
    resumeDigest ps inp len = h.digest (msg ++ inp) := by
  have total : msg.length - (h.rest msg).length + (h.rest msg ++ inp).length = (msg ++ inp).length := by
    have := h.length_rest msg ▸ Nat.mod_le msg.length h.block
    rw [List.length_append, List.length_append]
    omega
  rw [md.resume _ _ _ sv.code, sv.chain, sv.tail, sv.count, total, ← absorb_append md _ (h.length_whole msg), digest,
    List.append_assoc, ← List.append_assoc, whole_append_rest, List.append_assoc]

/-- Any number of saves keep all the input in order. -/
theorem Saved.saves {ps msg : Bytes} (sv : h.Saved ps msg) (parts : List Bytes)
    (len : (msg ++ parts.flatten).length < 2 ^ 48) : h.Saved (parts.foldl saveRecord ps) (msg ++ parts.flatten) := by
  induction parts generalizing ps msg with
  | nil => rwa [List.flatten_nil, List.append_nil]
  | cons p parts ih =>
    rw [List.flatten_cons, ← List.append_assoc] at len ⊢
    exact ih (sv.save md (by rw [List.length_append] at len; omega)) len

/-- Saved from nothing, saved on and resumed, the hash is that of all the input. -/
theorem resume_saves (parts : List Bytes) (last : Bytes) (len : Nat) (fits : (parts.flatten ++ last).length < 2 ^ 48) :
    resumeDigest (parts.foldl saveRecord h.empty) last len = h.digest (parts.flatten ++ last) := by
  rw [List.length_append] at fits
  exact ((saved_empty md).saves md parts (by rw [List.nil_append]; omega)).resume md last len

end Sha2

/-! ### SHA-256, SHA-384 and SHA-512 -/

/-- SHA-256. -/
def hash256 : Sha2 where
  Chain := Sha256Chain
  code := 0x20
  block := 64
  iv := sha256Iv
  step := sha256Block
  out := sha256Out
  chain := chain256
  pad := mdPad 64 8
  trim := id

theorem length_sha256Out (s : Sha256Chain) : (sha256Out s).length = 32 :=
  length_flatMap_of (n := 4) fun _ _ => length_natBE ..

theorem hash256_modelled : hash256.Modelled where
  pos := by decide
  save ps inp alg := by
    have code : par8 ps 0 = 0x20 := alg
    simp only [saveRecord, code]
    rfl
  resume ps inp len alg := by
    have code : par8 ps 0 = 0x20 := alg
    simp only [resumeDigest, code]
    rfl
  chainEmpty := rfl
  tailEmpty := rfl
  chainRecord s count tail := by
    change chain256 (hash256.record s count tail) = s
    rw [chain256, if_neg (hash256.record_long (by decide) s count tail),
      (hash256.record_body s count tail (length_sha256Out s)).1, words32]
    exact congrArg sha256Of (words_of_bytes (by decide) (by decide) _)
  tailRecord s count tail small := by
    have code : par8 (hash256.record s count tail) 0 = 0x20 := rfl
    simp only [recTail, code, hash256.recCount_record s small, if_neg (hash256.record_long (by decide) s count tail)]
    exact congrArg (List.take _) (hash256.record_body s count tail (length_sha256Out s)).2

/-- SHA-384 and SHA-512, by code, initial chaining value and digest length. -/
def hash512 (code : Byte) (iv : Sha512Chain) (len : Nat) : Sha2 where
  Chain := Sha512Chain
  code := code
  block := 128
  iv := iv
  step := sha512Block
  out := sha512Out
  chain := chain512
  pad := mdPad 128 16
  trim := List.take len

theorem length_sha512Out (s : Sha512Chain) : (sha512Out s).length = 64 :=
  length_flatMap_of (n := 8) fun _ _ => length_natBE ..

theorem hash512_modelled {code : Byte} {iv : Sha512Chain} {len : Nat}
    (h : (code, iv, len) = (0x21, sha384Iv, 48) ∨ (code, iv, len) = (0x22, sha512Iv, 64)) :
    (hash512 code iv len).Modelled where
  pos := (by decide : 0 < 128)
  save ps inp alg := by
    rcases h with h | h <;> cases h
    · have code : par8 ps 0 = 0x21 := alg
      simp only [saveRecord, code]
      rfl
    · have code : par8 ps 0 = 0x22 := alg
      simp only [saveRecord, code]
      rfl
  resume ps inp len alg := by
    rcases h with h | h <;> cases h
    · have code : par8 ps 0 = 0x21 := alg
      simp only [resumeDigest, code]
      rfl
    · have code : par8 ps 0 = 0x22 := alg
      simp only [resumeDigest, code]
      rfl
  chainEmpty := by rcases h with h | h <;> cases h <;> rfl
  tailEmpty := by rcases h with h | h <;> cases h <;> rfl
  chainRecord s count tail := by
    change chain512 ((hash512 code iv len).record s count tail) = s
    rw [chain512, if_neg (Sha2.record_long _ (by decide : 0 < 128) s count tail),
      (Sha2.record_body _ s count tail (length_sha512Out s)).1, words64]
    exact congrArg sha512Of (words_of_bytes (by decide) (by decide) _)
  tailRecord s count tail small := by
    have bytes := ((hash512 code iv len).record_body s count tail (length_sha512Out s)).2
    have long := (hash512 code iv len).record_long (by decide : 0 < 128) s count tail
    rcases h with h | h <;> cases h
    · have code : par8 ((hash512 0x21 sha384Iv 48).record s count tail) 0 = 0x21 := rfl
      simp only [recTail, code, Sha2.recCount_record _ s small, if_neg long]
      exact congrArg (List.take _) bytes
    · have code : par8 ((hash512 0x22 sha512Iv 64).record s count tail) 0 = 0x22 := rfl
      simp only [recTail, code, Sha2.recCount_record _ s small, if_neg long]
      exact congrArg (List.take _) bytes

theorem hash256_digest (m : Bytes) : hash256.digest m = sha256 m := by
  rw [sha256, sha256Finish, Nat.zero_add]
  rfl

theorem hash384_digest (m : Bytes) : (hash512 0x21 sha384Iv 48).digest m = sha384 m := by
  rw [sha384, sha512Finish, Nat.zero_add]
  rfl

theorem hash512_digest (m : Bytes) : (hash512 0x22 sha512Iv 64).digest m = sha512 m := by
  rw [sha512, sha512Finish, Nat.zero_add]
  exact List.take_of_length_le (length_sha512Out _).le

/-- Settles O40: a record keeps its message, whatever the parts in which it came. -/
theorem savedHashStateContinues : Obligations.SavedHashStateContinues := by
  intro alg hash parts last len h fits
  simp only [List.mem_cons, Prod.mk.injEq, List.not_mem_nil, or_false] at h
  obtain ⟨rfl, rfl⟩ | ⟨rfl, rfl⟩ | ⟨rfl, rfl⟩ := h
  · exact (Sha2.resume_saves hash256_modelled parts last len fits).trans (hash256_digest _)
  · exact (Sha2.resume_saves (hash512_modelled (.inl rfl)) parts last len fits).trans (hash384_digest _)
  · exact (Sha2.resume_saves (hash512_modelled (.inr rfl)) parts last len fits).trans (hash512_digest _)

end Sys2Proof.Machine
end

section
/-!
What the primitive verbs leave on their core (O43): a primitive's command leaves its clause running, the slots its job makes
put beside slots that stood there before; then what each primitive makes (10 R235–R242, Tables 10.3–10.5).
-/

namespace Sys2Proof.Machine

/-! ### The slots a job finds, drops and writes (10 R231, R239, R241) -/

theorem mem_of_mem_unwrite {gone : OpSlot → Bool} {ss : List OpSlot} {u : OpSlot} (h : u ∈ unwrite gone ss) :
    u ∈ ss ∧ gone u = false := by
  simp only [unwrite, List.mem_filter, Bool.and_eq_true, Bool.not_eq_true'] at h
  exact ⟨h.1, h.2.1⟩

/-- What a job keeps of the area, its destination and what met it unwritten, stood there before. -/
theorem mem_of_mem_kept {ss srcs : List OpSlot} {x : Nat} {sh : DstShape} {u : OpSlot}
    (h : u ∈ dropDst (clearDst ss srcs x sh) x sh) : u ∈ ss :=
  (mem_of_mem_unwrite (mem_of_mem_unwrite h).1).1

/-- A run of one slot is the slot its name names. -/
theorem slotRun_one {ss : List OpSlot} {x : Nat} {y : OpSlot} (h : slotAt ss x = some y) (len : Nat) :
    slotRun ss x 1 len = [some y] := by
  rw [← h]
  simp [slotRun, slotAt]

theorem polyRun_one {b : OpBlock} {ss : List OpSlot} {x : Nat} {y : OpSlot} (h : slotAt ss x = some y) (one : b.count = 1) :
    polyRun b ss x = [some y] := by
  rw [polyRun, one, slotRun_one h]

/-- Values made by position and then placed by position. -/
theorem map_zipIdx_range {α β : Type} (k : Nat) (g : Nat → α) (place : α × Nat → β) :
    ((List.range k).map g).zipIdx.map place = (List.range k).map (fun t => place (g t, t)) :=
  List.ext_getElem (by simp) (by simp)

/-! ### The work of a primitive and what its command leaves (10 R240, R241) -/

/-- What the plan of a primitive sees when its work is done. -/
def Work.asked (w : Work) : Ask := ⟨w.d, w.n, w.c, w.ps, w.inp, true, none⟩

/-- At its dispatch a primitive changes operand memory alone. -/
theorem Prim.spares (p : Prim) : p.spec.SparesSents := by
  intro a d
  have same : (p.spec.atDispatch a d).chans = d.chans := by
    simp only [Prim.spec]
    split <;> rfl
  rw [chan_of same]
  exact ⟨rfl, rfl⟩

/-- The clause that starts has the operand block `b`, which names the core `core`, where the slots `ss` stand. -/
structure OnCore (r : VerbRow) (x : Sentence) (c : Clause) (e : Nat) (s : State) (b : OpBlock) (ss : List OpSlot)
    (core : Fin 4) : Prop where
  starts : s.starts r x c e
  block : b = opBlock (s.dev.params c)
  core : core.val = b.core % 4
  area : ss = s.dev.area b.core

/-- The command leaves the clause running with a result OK and no output, which puts the slots `vs` on the core beside
slots of `ss`. -/
def Leaves (i : Instr) (s : State) (r : VerbRow) (x : Sentence) (core : Fin 4) (ss vs : List OpSlot) : Prop :=
  ∃ o new, Runs i s r x o ∧ o.status = .ok ∧ o.out = [] ∧ o.good = [.area core new] ∧ (∀ v ∈ vs, v ∈ new)
    ∧ ∀ u ∈ new, u ∈ vs ∨ u ∈ ss

section
variable {n : Chn} {sid verb : Nat} {r : VerbRow} {x : Sentence} {c : Clause} {e : Nat} {s : State} {b : OpBlock}
  {ss : List OpSlot} {core : Fin 4} {i : Instr} {st : Status} {vs : List OpSlot} {out : Bytes}

/-- The command of a primitive leaves its clause running with the result of its work. -/
theorem OnCore.runs (on : OnCore r x c e s b ss core) (p : Prim) (hr : verbRow i = some r)
    (row : verbRow i = some ⟨n, sid, verb, none, p.spec⟩)
    (command : exec i s = onDev (dispatchVerb verb p.spec n sid) s) :
    Runs i s r x (p.spec.run (s.workOf r x c)) := by
  obtain rfl := Option.some.inj (row.symm.trans hr)
  exact runs_of_starts command on.starts p.spares rfl

/-- The work of a primitive with a destination. -/
theorem Prim.run_dst (p : Prim) {w : Work} {sh : DstShape} (hb : b = opBlock w.ps) (hcore : core.val = b.core % 4)
    (hss : ss = w.d.area b.core) (made : p.make w b ss = (st, vs, out)) (dst : (p.plan w.asked b ss).dst = some sh) :
    p.spec.run w = ⟨st, out, w.inp.length,
      [.area core (writeSlots (clearDst ss (p.plan w.asked b ss).written b.dst sh) b.dst sh vs)],
      [.area core (dropDst (clearDst ss (p.plan w.asked b ss).written b.dst sh) b.dst sh)]⟩ := by
  subst hb hss
  obtain rfl : core = Fin.ofNat 4 (opBlock w.ps).core := Fin.ext hcore
  rw [Work.asked] at dst ⊢
  simp only [Prim.spec, dst, made]

/-- The work of a primitive without a destination. -/
theorem Prim.run_noDst (p : Prim) {w : Work} (hb : b = opBlock w.ps) (hcore : core.val = b.core % 4)
    (hss : ss = w.d.area b.core) (made : p.make w b ss = (st, vs, out)) (dst : (p.plan w.asked b ss).dst = none) :
    p.spec.run w = ⟨st, out, w.inp.length, [.area core (p.clear b ss)], []⟩ := by
  subst hb hss
  obtain rfl : core = Fin.ofNat 4 (opBlock w.ps).core := Fin.ext hcore
  rw [Work.asked] at dst
  simp only [Prim.spec, dst, made]

/-- A primitive with a destination: its new slots stand beside slots that stood there, which are all that a failure
leaves. -/
theorem OnCore.runs_dst (on : OnCore r x c e s b ss core) (p : Prim) (hr : verbRow i = some r)
    (made : p.make (s.workOf r x c) b ss = (st, vs, out)) {sh : DstShape}
    (dst : (p.plan (s.workOf r x c).asked b ss).dst = some sh := by rfl)
    (row : verbRow i = some ⟨n, sid, verb, none, p.spec⟩ := by rfl)
    (command : exec i s = onDev (dispatchVerb verb p.spec n sid) s := by rfl) :
    ∃ kept, Runs i s r x ⟨st, out, (s.workOf r x c).inp.length, [.area core (kept ++ vs)], [.area core kept]⟩
      ∧ ∀ u ∈ kept, u ∈ ss := by
  have runs := on.runs p hr row command
  rw [p.run_dst (w := s.workOf r x c) on.block on.core on.area made dst] at runs
  exact ⟨_, runs, fun u => mem_of_mem_kept⟩

/-- A primitive without a destination changes its area by what it clears. -/
theorem OnCore.runs_noDst (on : OnCore r x c e s b ss core) (p : Prim) (hr : verbRow i = some r)
    (made : p.make (s.workOf r x c) b ss = (st, vs, out))
    (dst : (p.plan (s.workOf r x c).asked b ss).dst = none := by rfl)
    (row : verbRow i = some ⟨n, sid, verb, none, p.spec⟩ := by rfl)
    (command : exec i s = onDev (dispatchVerb verb p.spec n sid) s := by rfl) :
    Runs i s r x ⟨st, out, (s.workOf r x c).inp.length, [.area core (p.clear b ss)], []⟩ := by
  have runs := on.runs p hr row command
  rwa [p.run_noDst (w := s.workOf r x c) on.block on.core on.area made dst] at runs

/-- A primitive that makes the values of its destination slots. -/
theorem OnCore.leaves (on : OnCore r x c e s b ss core) (p : Prim) (hr : verbRow i = some r)
    (made : p.make (s.workOf r x c) b ss = madeOk vs) {sh : DstShape}
    (dst : (p.plan (s.workOf r x c).asked b ss).dst = some sh := by rfl)
    (row : verbRow i = some ⟨n, sid, verb, none, p.spec⟩ := by rfl)
    (command : exec i s = onDev (dispatchVerb verb p.spec n sid) s := by rfl) : Leaves i s r x core ss vs := by
  obtain ⟨kept, runs, stood⟩ := on.runs_dst p hr made dst row command
  exact ⟨_, kept ++ vs, runs, rfl, rfl, rfl, fun _ => List.mem_append_right kept,
    fun u hu => (List.mem_append.1 hu).symm.imp_right (stood u)⟩

/-- A job that makes one slot. -/
theorem Leaves.one {v : OpSlot} (left : Leaves i s r x core ss [v]) : ∃ o new, Runs i s r x o ∧ o.status = .ok
    ∧ o.out = [] ∧ o.good = [.area core new] ∧ v ∈ new ∧ ∀ u ∈ new, u = v ∨ u ∈ ss := by
  obtain ⟨o, new, runs, ok, out, good, wrote, only⟩ := left
  exact ⟨o, new, runs, ok, out, good, wrote v (List.mem_singleton_self v), fun u hu => by simpa using only u hu⟩

/-- A job that makes a run of `k` slots. -/
theorem Leaves.run {k : Nat} {slot : Nat → OpSlot} (left : Leaves i s r x core ss ((List.range k).map slot)) :
    ∃ o new, Runs i s r x o ∧ o.status = .ok ∧ o.good = [.area core new] ∧ ∀ t, t < k → slot t ∈ new := by
  obtain ⟨o, new, runs, ok, -, good, wrote, -⟩ := left
  exact ⟨o, new, runs, ok, good, fun t ht => wrote _ (List.mem_map_of_mem (List.mem_range.2 ht))⟩

end

/-! ### What each primitive makes (Tables 10.3–10.5) -/

section
variable {w : Work} {b : OpBlock} {ss : List OpSlot} {m y z : OpSlot}

theorem binPrim_make (f : Nat → Nat → Nat → Nat) (hm : slotAt ss b.mod = some m) (hy : slotAt ss b.srcA = some y)
    (hz : slotAt ss b.srcB = some z) :
    (binPrim f).make w b ss = madeOk [residue w b m (anySecret b [y, z]) 0 (f y.num z.num m.num)] := by
  simp only [binPrim, hm, hy, hz]

theorem expPrim_make (hm : slotAt ss b.mod = some m) (hy : slotAt ss b.srcA = some y) (hz : slotAt ss b.srcB = some z) :
    expPrim.make w b ss = madeOk [residue w b m (anySecret b [y, z]) 0 (powMod y.num z.num m.num)] := by
  simp only [expPrim, hm, hy, hz]

theorem invPrim_make_some {q : Nat} (hm : slotAt ss b.mod = some m) (hy : slotAt ss b.srcA = some y)
    (inverse : invMod y.num m.num = some q) :
    invPrim.make w b ss = madeOk [residue w b m (anySecret b [y]) 0 q] := by
  simp only [invPrim, hm, hy, inverse]

theorem invPrim_make_none (hm : slotAt ss b.mod = some m) (hy : slotAt ss b.srcA = some y)
    (noInverse : invMod y.num m.num = none) : invPrim.make w b ss = (.badParam, [], []) := by
  simp only [invPrim, hm, hy, noInverse]

/-- Slot `t` of a load of RAW integers of `l` bytes. -/
def rawSlot (b : OpBlock) (l : Nat) (inp : Bytes) (t : Nat) : OpSlot :=
  { first := nameCell b.dst + t * cellsOf (8 * l), len := cellsOf (8 * l), kind := .raw, size := 8 * l, ring := 0
    ntt := false, ctx := 0, secret := b.secret, value := [beNat (slice (t * l) l inp)], mask := 0 }

theorem loadPrim_make_raw (fmt : b.fmt = 2) :
    loadPrim.make w b ss = madeOk ((List.range b.count).map fun t =>
      rawSlot b (w.c.inLen / b.count) w.inp t) := by
  have bytes : 8 * (w.c.inLen / b.count) / 8 = w.c.inLen / b.count := Nat.mul_div_cancel_left _ (by decide)
  simp [loadPrim, loadSize, fmt, loadInts, map_zipIdx_range, bytes, rawSlot]

theorem loadPrim_make_residues (fmt : b.fmt = 0 ∨ b.fmt = 1) (hm : slotAt ss b.mod = some m) :
    loadPrim.make w b ss = madeOk ((List.range b.count).map fun t =>
      residue w b m b.secret t (beNat (slice (t * (m.size / 8)) (m.size / 8) w.inp) % m.num)) := by
  obtain fmt | fmt := fmt <;>
    simp [loadPrim, loadSize, fmt, loadInts, hm, map_zipIdx_range, Function.comp_def]

theorem storePrim_make_one (hy : slotAt ss b.srcA = some y) (one : b.count = 1) (ring : b.ring = 0) :
    storePrim.make w b ss = (.ok, [], natBE (y.size / 8) y.num) := by
  simp [storePrim, one, slotRun_one hy, ring]

theorem clearPrim_clear_all (all : b.bit1 = true) : clearPrim.clear b ss = [] := if_pos all

/-- What BN_CLEAR leaves stood there and is not the slot it names. -/
theorem mem_of_mem_cleared {u : OpSlot} (h : u ∈ clearPrim.clear b ss) : u ∈ ss ∧ u.first ≠ nameCell b.srcA := by
  by_cases all : b.bit1 = true
  · rw [clearPrim_clear_all all] at h
    cases h
  · simp only [clearPrim, all] at h
    obtain ⟨stood, other⟩ := mem_of_mem_unwrite h
    exact ⟨stood, beq_eq_false_iff_ne.1 other⟩

theorem nttPrim_make_one (fwd : Bool) (hy : slotAt ss b.srcA = some y) (one : b.count = 1) :
    (nttPrim fwd).make w b ss = madeOk [polySlot b (anySecret b [y]) fwd 0
      ((if fwd then ntt b.ringOf else intt b.ringOf) y.value)] := by
  simp [nttPrim, polyRun_one hy one]

/-- The result of LAT_PMUL over one polynomial each. -/
def pmulValue (b : OpBlock) (f g : Poly) : Poly :=
  match b.fmt with
  | 0 => nttMul b.ringOf f g
  | 1 => nttDot b.ringOf [f] [g]
  | 2 => polyAdd b.ringOf f g
  | _ => polySub b.ringOf f g

theorem pmulValues_one (b : OpBlock) (f g : Poly) : pmulValues b [f] [g] = [pmulValue b f g] := by
  unfold pmulValues pmulValue
  match b.fmt with
  | 0 | 1 | 2 | _ + 3 => rfl

theorem pmulPrim_make_one (hy : slotAt ss b.srcA = some y) (hz : slotAt ss b.srcB = some z) (one : b.count = 1) :
    pmulPrim.make w b ss = madeOk [polySlot b (anySecret b [y, z]) (if b.fmt ≤ 1 then true else y.ntt) 0
      (pmulValue b y.value z.value)] := by
  simp [pmulPrim, polyRun_one hy one, polyRun_one hz one, hy, pmulValues_one]

end

/-! ### The obligation -/

section
variable {r : VerbRow} {x : Sentence} {c : Clause} {s : State} {b : OpBlock} {ss : List OpSlot} {core : Fin 4} {i : Instr}

/-- What a binary modular verb leaves at DST: a residue of the CONTEXT, SECRET where the block or a source is. -/
theorem Leaves.modular {m y z : OpSlot} {k : Nat}
    (left : Leaves i s r x core ss [residue (s.workOf r x c) b m (anySecret b [y, z]) 0 k]) :
    ∃ o new v, Runs i s r x o ∧ o.status = .ok ∧ o.out = [] ∧ o.good = [.area core new] ∧ v ∈ new
      ∧ v.first = nameCell b.dst ∧ v.kind = .residue ∧ v.ctx = m.first ∧ v.size = m.size
      ∧ v.secret = (b.secret || y.secret || z.secret) ∧ v.num = k ∧ ∀ u ∈ new, u = v ∨ u ∈ ss := by
  obtain ⟨o, new, runs, ok, out, good, wrote, only⟩ := left.one
  exact ⟨o, new, _, runs, ok, out, good, wrote, by simp [residue], rfl, rfl, rfl,
    by simp [residue, anySecret, Bool.or_assoc], rfl, only⟩

/-- What a transform leaves at DST. -/
theorem Leaves.transformed {y : OpSlot} {f : Poly → Poly} {fwd : Bool}
    (left : Leaves i s r x core ss [polySlot b (anySecret b [y]) fwd 0 (f y.value)]) :
    ∃ o new v, Runs i s r x o ∧ o.status = .ok ∧ o.good = [.area core new] ∧ v ∈ new ∧ v.first = nameCell b.dst
      ∧ v.kind = .poly ∧ v.ring = b.ring ∧ v.ntt = fwd ∧ v.value = f y.value ∧ ∀ u ∈ new, u = v ∨ u ∈ ss := by
  obtain ⟨o, new, runs, ok, -, good, wrote, only⟩ := left.one
  exact ⟨o, new, _, runs, ok, good, wrote, by simp [polySlot], rfl, rfl, rfl, rfl, only⟩

end

/-- Settles O43: each primitive makes its slots, its output or its status as its entry says, and its command leaves them. -/
theorem primitiveVerbsCompute : Obligations.PrimitiveVerbsCompute := by
  intro n sid r x c e s starts b ss core block hcore area
  have on : OnCore r x c e s b ss core := ⟨starts, block, hcore, area⟩
  refine ⟨fun i m y z f hi hr hm hy hz => ?_, fun m y hr hm hy => ?_, fun hr => ?_, fun hr fmt => ?_,
    fun m hr fmt hm => ?_, fun y hr hy one ring => ?_, fun hr => ?_, fun i y f fwd hi hr hy one => ?_,
    fun y z hr hy hz one => ?_, fun hr => ?_⟩
  · simp only [List.mem_cons, Prod.mk.injEq, List.not_mem_nil, or_false] at hi
    obtain ⟨rfl, rfl⟩ | ⟨rfl, rfl⟩ | ⟨rfl, rfl⟩ | ⟨rfl, rfl⟩ := hi
    · exact (on.leaves (binPrim _) hr (binPrim_make _ hm hy hz)).modular
    · exact (on.leaves (binPrim _) hr (binPrim_make _ hm hy hz)).modular
    · exact (on.leaves (binPrim _) hr (binPrim_make _ hm hy hz)).modular
    · exact (on.leaves expPrim hr (expPrim_make hm hy hz)).modular
  · cases inverse : invMod y.num m.num with
    | none =>
      obtain ⟨kept, runs, stood⟩ := on.runs_dst invPrim hr (invPrim_make_none hm hy inverse)
      exact ⟨_, runs, nofun, fun _ => ⟨rfl, kept, rfl, stood⟩⟩
    | some q =>
      obtain ⟨o, new, runs, ok, -, good, wrote, only⟩ :=
        (on.leaves invPrim hr (invPrim_make_some hm hy inverse)).one
      exact ⟨o, runs, fun q' same => ⟨ok, new, _, good, wrote, by simp [residue], Option.some.inj same, rfl, only⟩,
        nofun⟩
  · obtain ⟨o, new, runs, ok, -, good, wrote, only⟩ := (on.leaves setmodPrim hr rfl).one
    exact ⟨o, new, _, runs, ok, good, wrote, rfl, rfl, rfl, rfl, only⟩
  · obtain ⟨o, new, runs, ok, good, wrote⟩ := (on.leaves loadPrim hr (loadPrim_make_raw fmt)).run
    exact ⟨o, new, runs, ok, good, fun t ht => ⟨_, wrote t ht, rfl, rfl, rfl, rfl⟩⟩
  · obtain ⟨o, new, runs, ok, good, wrote⟩ := (on.leaves loadPrim hr (loadPrim_make_residues fmt hm)).run
    exact ⟨o, new, runs, ok, good, fun t ht => ⟨_, wrote t ht, rfl, rfl, rfl, rfl⟩⟩
  · exact ⟨_, on.runs_noDst storePrim hr (storePrim_make_one hy one ring), rfl, rfl⟩
  · exact ⟨_, _, on.runs_noDst clearPrim hr rfl, rfl, rfl, rfl, fun u hu => mem_of_mem_cleared hu, clearPrim_clear_all⟩
  · simp only [List.mem_cons, Prod.mk.injEq, List.not_mem_nil, or_false] at hi
    obtain ⟨rfl, rfl, rfl⟩ | ⟨rfl, rfl, rfl⟩ := hi
    · exact (on.leaves (nttPrim true) hr (nttPrim_make_one true hy one)).transformed
    · exact (on.leaves (nttPrim false) hr (nttPrim_make_one false hy one)).transformed
  · obtain ⟨o, new, runs, ok, -, good, wrote, only⟩ := (on.leaves pmulPrim hr (pmulPrim_make_one hy hz one)).one
    refine ⟨o, new, _, runs, ok, good, wrote, by simp [polySlot], only, ?_, ?_, ?_, ?_⟩ <;>
      exact fun fmt => by simp [polySlot, pmulValue, fmt]
  · obtain ⟨o, new, runs, ok, good, wrote⟩ := (on.leaves samplePrim hr rfl).run
    exact ⟨o, new, runs, ok, good, fun t ht => ⟨_, wrote t ht, rfl, rfl, rfl,
      fun fmt => by simp [polySlot, samplePoly, fmt], fun fmt => by simp [polySlot, samplePoly, fmt],
      fun fmt => by simp [polySlot, samplePoly, fmt]⟩⟩

end Sys2Proof.Machine
end

section
/-!
What the public-key verbs give (O42): the work of each verb is what its entry says; then a round of RSA key generation
(11 R255, R260–R269).
-/

namespace Sys2Proof.Machine

/-! ### Signatures and their verification (R262–R264) -/

/-- A signing clause takes a presignature from the pool at its dispatch, or counts a fallback. -/
theorem ecdsaSignVerb_spares : ecdsaSignVerb.SparesSents := by
  intro a d
  have same : (ecdsaSignVerb.atDispatch a d).chans = d.chans := by
    simp only [ecdsaSignVerb]
    split
    · rfl
    · split <;> rfl
  rw [chan_of same]
  exact ⟨rfl, rfl⟩

/-- A signature is put out where its checks hold. -/
theorem signOut_ite (p : Prop) [Decidable p] (bs : Bytes) (w2 : Nat) :
    signOut (if p then some bs else none) w2 = if p then okOut bs w2 else failOut .invariant [] w2 := by
  split <;> rfl

/-- A signature is right where the number is below the modulus and its encoded message fits the scheme. -/
theorem rsaVerifyVerb_run (w : Work) : rsaVerifyVerb.run w =
    let len := rsaVerifyLen w.c.parLen
    let b := msgBlock w.ps
    let md := beNat (slice 8 len w.ps)
    let sg := beNat (slice (8 + len) len w.ps)
    let em := natBE len (powMod sg (beNat (slice 4 4 w.ps)) md)
    if sg < md ∧ (if b.scheme = 1 then em = pkcs1Encode b.h len (b.digest w.inp)
        else pssVerify b.h len (b.digest w.inp) em (if b.salt = 0xFF then none else some b.salt) = true) then
      okOut [] w.inp.length
    else failOut .authFail [] w.inp.length := by
  by_cases pkcs1 : (msgBlock w.ps).scheme = 1 <;>
    simp only [rsaVerifyVerb, verified, pkcs1, if_true, if_false, Bool.and_eq_true, decide_eq_true_eq, sameBytes_iff]

/-! ### Keys and agreement (R260, R265, R266) -/

theorem x25519Verb_run (w : Work) : x25519Verb.run w =
    if x25519 w.key w.inp = zeros 32 then failOut .badParam [] w.inp.length
    else putSecret w [] (x25519 w.key w.inp) := by simp only [x25519Verb, beq_iff_eq]

theorem republishes_iff (c : Clause) : republishes c = true ↔ c.keySlot ≠ 0 := bne_iff_ne

/-- The result of making a key: its public key out, its value into the slot; INVARIANT where none can be made. -/
def keyMade (dst : Nat) (k : Kab) (v : Option Bytes) : JobResult :=
  match v with
  | none => failOut .invariant [] 0
  | some v => { okOut (publicKey k.cls v) 0 with good := [.putKey (k.dest dst) v] }

theorem keypairVerb_run (cs : List Nat) (w : Work) : (keypairVerb cs).run w =
    if w.c.keySlot ≠ 0 then okOut (publicKey (w.d.slotCls w.c.keySlot) w.key) 0
    else keyMade w.c.dstSlot (kabAt w.ps 0) (privateKey (kabAt w.ps 0).cls (beNat (slice 8 4 w.ps)) w.rnd w.primes) := by
  simp only [keypairVerb, republishes_iff]
  rfl

/-- An RSA key is made from the primes its rounds have accepted. -/
theorem privateKey_rsa {cls : Nat} (h : isRsa cls = true) (e : Nat) (rnd : Bytes) (primes : List Nat) :
    privateKey cls e rnd primes
      = (rsaOfPrimes (primes.getD 0 0) (primes.getD 1 0) e).map (RsaKey.bytes (rsaHalf cls)) := by
  have notEcc : ¬ (0x20 ≤ cls ∧ cls ≤ 0x23) := by
    simp only [isRsa, Bool.and_eq_true, decide_eq_true_eq] at h
    omega
  rw [privateKey, if_neg notEcc, if_pos h]

/-- Of a new RSA key the clause puts out what the two primes make. -/
theorem keypairVerb_run_rsa (cs : List Nat) {w : Work} (fresh : w.c.keySlot = 0) (rsa : isRsa (kabAt w.ps 0).cls = true) :
    (keypairVerb cs).run w = keyMade w.c.dstSlot (kabAt w.ps 0)
      ((rsaOfPrimes (w.primes.getD 0 0) (w.primes.getD 1 0) (beNat (slice 8 4 w.ps))).map
        (RsaKey.bytes (rsaHalf (kabAt w.ps 0).cls))) := by
  rw [keypairVerb_run, if_neg (not_not_intro fresh), privateKey_rsa rsa]

theorem hybridEnd_secret {ssx : Bytes} (h : ssx ≠ zeros 32) (w : Work) (out ssk : Bytes) : hybridEnd w out ssk ssx =
    { okOut out w.inp.length with good := [.putKey ((kabAt w.ps 8).dest w.c.dstSlot)
      (hkdfExtract (hashOfCode (par8 w.ps 1)) (hybSaltValue w) (ssk ++ ssx))] } := by
  rw [hybridEnd, if_neg (mt beq_iff_eq.1 h)]

theorem hybridVerb_run_encaps {w : Work} (mode : par8 w.ps 0 = 1) (ek : kemEkOk kem768 (w.inp.take 1184) = true) :
    hybridVerb.run w = hybridEnd w
      ((kemEncaps kem768 (w.inp.take 1184) (w.rnd.drop 32)).1 ++ x25519 (w.rnd.take 32) x25519Base)
      (kemEncaps kem768 (w.inp.take 1184) (w.rnd.drop 32)).2 (x25519 (w.rnd.take 32) (w.inp.drop 1184)) := by
  simp only [hybridVerb, hybMode, mode, ek, if_true]

theorem hybridVerb_run_decaps {w : Work} (mode : par8 w.ps 0 = 2) :
    hybridVerb.run w = hybridEnd w [] (kemDecaps kem768 (hybridKem w.key) (w.inp.take 1088))
      (x25519 (hybridParts w.key).1 (w.inp.drop 1088)) := by
  simp [hybridVerb, hybMode, mode]

section
variable {n : Chn} {sid : Nat} {r : VerbRow} {x : Sentence} {c : Clause} {e : Nat} {s : State}

/-- The mode the row of a starting clause names is the mode in its parameters. -/
theorem nextPar_starts {op : Nat} (h : s.starts r x c e) (hop : r.op = some op) :
    par8 (s.dev.params c) 0 = op ∧ s.dev.nextPar r.n r.sid 0 = op := by
  obtain ⟨⟨-, -, -, -, sent, -, clause, -⟩, sid, -, mode, -⟩ := h
  have first := mode op hop
  exact ⟨first, by simp only [Dev.nextPar, sid, sent, clause, first]⟩

/-- Two effects that are one on the core of an awake state. -/
theorem onDev_congr {f g : Dev → Dev} (h : s.awake) (same : f s.dev = g s.dev) : onDev f s = onDev g s := by
  rw [onDev_awake h, onDev_awake h, through_congr same]

/-- HYBRID_KEX in either mode leaves its clause running with the result of its work. -/
theorem hybrid_runs {i : Instr} {op other : Nat} (starts : s.starts r x c e) (hr : verbRow i = some r)
    (row : verbRow i = some ⟨n, sid, 0x5F, some op, hybridVerb⟩) (differs : op ≠ other)
    (command : exec i s = onDev (fun d => if d.nextPar n sid 0 = other then d else dispatchVerb 0x5F hybridVerb n sid d) s) :
    par8 (s.workOf r x c).ps 0 = op ∧ Runs i s r x (hybridVerb.run (s.workOf r x c)) := by
  obtain rfl := Option.some.inj (row.symm.trans hr)
  obtain ⟨mode, next⟩ := nextPar_starts starts rfl
  have dispatches : exec i s = onDev (dispatchVerb 0x5F hybridVerb n sid) s :=
    command.trans (onDev_congr starts.1.1 (if_neg (by rw [next]; exact differs)))
  exact ⟨mode, runs_of_starts dispatches starts (fun _ _ => ⟨rfl, rfl⟩) rfl⟩

end

/-! ### Presignatures (R268, R269) -/

/-- A clause that fills places counts them at its dispatch. -/
theorem presigFillVerb_spares : presigFillVerb.SparesSents := fun _ _ => ⟨rfl, rfl⟩

/-- A scalar is drawn from 1 to n - 1. -/
theorem drawScalar_range {cv : Curve} (h : 1 < cv.n) (rnd : Bytes) :
    1 ≤ drawScalar cv rnd ∧ drawScalar cv rnd < cv.n := by
  have below : Config.scalarOf (cv.n - 1) rnd % (cv.n - 1) < cv.n - 1 := Nat.mod_lt _ (by omega)
  rw [drawScalar]
  omega

/-- A triple holds its nonce's r, not 0, and the nonce's inverse. -/
def PresigHolds (p : Nat × Nat × Nat) : Prop :=
  1 ≤ p.1 ∧ p.1 < p256.n ∧ p.2.1 = pointX (p256.mul p.1 p256.g) % p256.n ∧ p.2.1 ≠ 0
    ∧ invMod p.1 p256.n = some p.2.2

theorem makePresigs_hold {rnd : Bytes} {k : Nat} : ∀ p ∈ makePresigs rnd k, PresigHolds p := by
  induction k with
  | zero => exact nofun
  | succ t ih =>
    simp only [makePresigs]
    split
    · next inverse hi =>
      split
      · exact nofun
      · next nonzero =>
        have range := drawScalar_range (cv := p256) (by decide) (slice (32 * t) 32 rnd)
        exact List.forall_mem_cons.2 ⟨⟨range.1, range.2, rfl, nonzero, hi⟩, ih⟩
    · exact nofun

/-- The triples made are kept; one that fails its check is the failure of the clause. -/
theorem presigFillVerb_run (w : Work) : (presigFillVerb.run w).out = []
    ∧ Effect.presig (makePresigs w.rnd (w.rnd.length / 32)) ∈ (presigFillVerb.run w).good
    ∧ ((presigFillVerb.run w).status = .ok
      ↔ (makePresigs w.rnd (w.rnd.length / 32)).length = w.rnd.length / 32) := by
  simp only [presigFillVerb]
  split
  · next all => exact ⟨rfl, List.mem_singleton_self _, fun _ => all, fun _ => rfl⟩
  · next fewer => exact ⟨rfl, List.mem_singleton_self _, nofun, fun all => absurd all fewer⟩

/-! ### A round of RSA key generation (R261) -/

/-- DONE of CH_PROGk after a round that leaves the primes `l`. -/
def markPrime (n : Chn) (eng : Nat) (l : List Nat) (d : Dev) : Dev :=
  if l.length = 1 then
    match coreOf eng with
    | some k => modChan n (fun ch => { ch with prog := vmod ch.prog k (fun p => { p with done := 128 }) }) d
    | none => d
  else d

/-- The job with its work done where nothing is missing for it. -/
def Job.settled (j : Job) (v : VerbSpec) (n : Chn) (c : Clause) (pre : Dev) : Job :=
  if j.whole c && j.result.isNone then { j with result := some (v.run (j.work n c pre)) } else j

section
variable {n : Chn} {x : Sentence} {c : Clause} {j : Job} {d : Dev} {acc : List Nat}

theorem vget_vmod {α : Type} {m k : Nat} (v : Vector α m) (h : k < m) (f : α → α) (y : α) :
    vget (vmod v k f) k y = f (vget v k y) := by
  simp [vget_of_lt _ h, vmod, h]

theorem coreOf_lt {eng k : Nat} (h : coreOf eng = some k) : k < 4 := by
  unfold coreOf at h
  split at h
  · cases h; omega
  · cases h

theorem ChanFrame.refl (n : Chn) (d : Dev) : ChanFrame n d d := ⟨Keeps.refl _ _, fun _ _ => rfl, rfl⟩

theorem ChanFrame.bump (n : Chn) (d : Dev) : ChanFrame n d (bump d) :=
  ⟨fun p _ _ => by cases p <;> simp [Part.same], fun _ _ => rfl, rfl⟩

theorem markPrime_frame (n : Chn) (eng : Nat) (l : List Nat) (d : Dev) : ChanFrame n d (markPrime n eng l d) := by
  unfold markPrime
  split
  · split
    · exact ChanFrame.modChan ..
    · exact ChanFrame.refl ..
  · exact ChanFrame.refl ..

theorem markPrime_sents (n : Chn) (eng : Nat) (l : List Nat) (d : Dev) :
    ((markPrime n eng l d).chan n).sents = (d.chan n).sents := by
  unfold markPrime
  split
  · split
    · rw [chan_modChan_same]
    · rfl
  · rfl

/-- With the first prime DONE is 128. -/
theorem markPrime_done {eng k : Nat} {l : List Nat} (one : l.length = 1) (hk : coreOf eng = some k) (y : Prog) :
    (vget ((markPrime n eng l d).chan n).prog k y).done = 128 := by
  simp only [markPrime, one, if_true, hk, chan_modChan_same, vget_vmod _ (coreOf_lt hk)]

/-- A settled job stands in its sentence, and nothing else of its channel changes. -/
theorem settleResult_spec (v : VerbSpec) (pre : Dev) (sent : d.sent n x.sid = some x) :
    ChanFrame n d (settleResult v n x.sid c j pre d)
      ∧ (settleResult v n x.sid c j pre d).sent n x.sid = some { x with job := some (j.settled v n c pre) }
      ∧ ((settleResult v n x.sid c j pre d).chan n).prog = (d.chan n).prog := by
  have put (q : Job) : ChanFrame n d (modSent n x.sid (fun s => { s with job := some q }) d)
      ∧ (modSent n x.sid (fun s => { s with job := some q }) d).sent n x.sid = some { x with job := some q }
      ∧ ((modSent n x.sid (fun s => { s with job := some q }) d).chan n).prog = (d.chan n).prog :=
    ⟨ChanFrame.modChan .., sent_modSent (fun _ => rfl) sent, by rw [chan_modSent]⟩
  unfold settleResult Job.settled
  split
  · obtain ⟨frame, sent, prog⟩ := put { j with result := some (v.run (j.work n c pre)) }
    exact ⟨frame.trans (ChanFrame.bump ..), sent, prog⟩
  · exact put j

/-- The boundary of a key generation clause is the end of its round. -/
theorem segmentBoundary_round (good : ∀ q, ((d.chan n).rings.ring q).good = true) (sent : d.sent n x.sid = some x)
    (job : x.job = some j) (clause : x.clauses[x.idx]? = some c) (cls : verbClass c.verb = some .bignum)
    (working : d.working = true) (run : j.phase = .run) (steps : j.steps = []) (halt : d.lc.dbgHalt = false)
    (primes : j.primes = some acc) : segmentBoundary n x.sid (scrubChan d n) = endRound n x c j acc d := by
  simp [segmentBoundary, scrubChan_good good, sent, job, clause, working, run, Job.step, steps, Dev.halts, halt,
    clauseBoundary, cls, primes]

/-- A round that ends settles the job with the primes accepted so far, of which the first is marked in CH_PROGk. -/
theorem endRound_settles (sent : d.sent n x.sid = some x) (drawn : j.drawing = false) (few : acc.length < 2)
    (noAbort : j.abort = false) {l : List Nat} (hl : l = roundPrimes j.params j.rnd acc d.ctr) :
    ChanFrame n d (endRound n x c j acc d)
      ∧ (endRound n x c j acc d).sent n x.sid = some { x with job := some (({ j with primes := some l } : Job).settled
        (specOf c.verb (par8 j.params 0)) n c (markPrime n j.engine l d)) }
      ∧ ((endRound n x c j acc d).chan n).prog = ((markPrime n j.engine l d).chan n).prog := by
  have settles : endRound n x c j acc d
      = bump (settleResult (specOf c.verb (par8 j.params 0)) n x.sid c { j with primes := some l }
        (markPrime n j.engine l d) (markPrime n j.engine l d)) := by
    subst hl
    simp only [endRound, drawn, noAbort, Nat.not_le.2 few, decide_false, Bool.or_self, Bool.false_eq_true, if_false]
    rfl
  have stands : (markPrime n j.engine l d).sent n x.sid = some x := by rw [Dev.sent, markPrime_sents]; exact sent
  obtain ⟨settled, sent', prog⟩ := settleResult_spec (c := c) (j := { j with primes := some l })
    (specOf c.verb (par8 j.params 0)) (markPrime n j.engine l d) stands
  rw [settles]
  exact ⟨((markPrime_frame ..).trans settled).trans (ChanFrame.bump ..), sent', prog⟩

theorem settled_primes (v : VerbSpec) (pre : Dev) : (j.settled v n c pre).primes = j.primes := by
  unfold Job.settled
  split <;> rfl

/-- With fewer than two primes the clause has no result yet. -/
theorem settled_few {l : List Nat} (primes : j.primes = some l) (few : l.length < 2) (v : VerbSpec) (pre : Dev) :
    (j.settled v n c pre).result = j.result := by
  have missing : j.whole c = false := by simp [Job.whole, primes, few]
  rw [Job.settled, missing]
  rfl

/-- With the second prime the key generation clause has the key the two make. -/
theorem settled_two {l : List Nat} (primes : j.primes = some l) (two : l.length = 2) (whole : j.input.length = c.inLen)
    (drawn : j.drawing = false) (noResult : j.result = none) (fresh : c.keySlot = 0)
    (rsa : isRsa (kabAt j.params 0).cls = true) (cs : List Nat) (pre : Dev) :
    (j.settled (keypairVerb cs) n c pre).result = some (keyMade c.dstSlot (kabAt j.params 0)
      ((rsaOfPrimes (l.getD 0 0) (l.getD 1 0) (beNat (slice 8 4 j.params))).map
        (RsaKey.bytes (rsaHalf (kabAt j.params 0).cls)))) := by
  have all : j.whole c = true := by simp [Job.whole, whole, drawn, primes, two]
  have run := keypairVerb_run_rsa cs (w := j.work n c pre) fresh rsa
  have accepted : (j.work n c pre).primes = l := by rw [Job.work, primes]; rfl
  rw [accepted] at run
  rw [Job.settled, all, noResult]
  exact congrArg some run

end

/-! ### The obligation -/

/-- A verb that spares its channel's sentences at dispatch computes what its work is. -/
theorem computes_sparing (v : VerbSpec) (spares : v.SparesSents) {i : Instr} {n : Chn} {sid verb : Nat}
    {o : Work → JobResult} (work : ∀ w, v.run w = o w) (row : verbRow i = some ⟨n, sid, verb, none, v⟩ := by rfl)
    (command : ∀ s, exec i s = onDev (dispatchVerb verb v n sid) s := by intro; rfl) : Computes i o := by
  intro r x c e s hr starts oneRound
  obtain rfl := Option.some.inj (row.symm.trans hr)
  rw [← work]
  exact runs_of_starts (command s) starts spares oneRound

/-- Settles O42: each verb's work is what its entry says, HYBRID_KEX and PRESIG_FILL in the state they start from; a round
tries one candidate. That SEGMENT_BOUNDARY ends a round, and what each candidate is, are the model's choices (log entries 1, 10, 11);
that points are validated after the dispatch is its reading (log entry 21). -/
theorem publicKeyVerbsCompute : Obligations.PublicKeyVerbsCompute := by
  intro n sid
  have fills : Computes (.presigFill n sid) presigFillVerb.run :=
    computes_sparing presigFillVerb presigFillVerb_spares fun _ => rfl
  refine ⟨computes_sparing ecdsaSignVerb ecdsaSignVerb_spares fun w => ?_,
    computes_by ecdsaVerifyVerb fun _ => rfl,
    computes_by ecdhVerb fun w => ?_,
    computes_by x25519Verb x25519Verb_run,
    computes_by ed25519SignVerb fun _ => rfl,
    computes_by ed25519VerifyVerb fun _ => rfl,
    computes_by rsaVerifyVerb rsaVerifyVerb_run,
    computes_by rsaSignVerb fun w => by simp only [rsaSignVerb, signOut_ite],
    computes_by mldsaVerifyVerb fun _ => rfl,
    computes_by mldsaSignVerb fun w => ?_, ?_,
    computes_by mlkemEncapsVerb fun _ => rfl,
    computes_by mlkemDecapsVerb fun _ => rfl,
    fun r x c e s starts w hw => ⟨fun hr ek secret => ?_, fun hr secret => ?_, fun hr => ?_⟩, ?_⟩
  · simp only [ecdsaSignVerb, signInputs]
    cases ecdsaSign (curveOf (w.d.slotCls w.c.keySlot)) (beNat w.key)
      ((curveOf (w.d.slotCls w.c.keySlot)).digest ((msgBlock w.ps).digest w.inp)) w.rnd w.presig <;> rfl
  · simp only [ecdhVerb]
    cases (curveOf (w.d.slotCls w.c.keySlot)).decode w.inp with
    | none => rfl
    | some q => cases (curveOf (w.d.slotCls w.c.keySlot)).mul (beNat w.key) (some q) <;> rfl
  · simp only [mldsaSignVerb]
    cases dsaSign (dsaKeyGen w.key) (w.ps.drop 2) w.inp (if par8 w.ps 0 = 1 then zeros 32 else w.rnd) <;> rfl
  · rintro i (rfl | rfl)
    · exact computes_by (keypairVerb _) (keypairVerb_run _)
    · exact computes_by (keypairVerb _) (keypairVerb_run _)
  · subst hw
    obtain ⟨mode, runs⟩ := hybrid_runs (op := 1) (other := 2) starts hr rfl (by decide) rfl
    rwa [hybridVerb_run_encaps mode ek, hybridEnd_secret secret] at runs
  · subst hw
    obtain ⟨mode, runs⟩ := hybrid_runs (op := 2) (other := 1) starts hr rfl (by decide) rfl
    rwa [hybridVerb_run_decaps mode, hybridEnd_secret secret] at runs
  · subst hw
    obtain ⟨out, good, ok⟩ := presigFillVerb_run (s.workOf r x c)
    have runs := fills r x c e s hr starts (by cases hr; rfl)
    exact ⟨_, _, runs, out, rfl, good, ok, makePresigs_hold⟩
  · intro x c j s acc l p b awake working good sent job clause verb pair _ run steps halt drawn noAbort noResult whole
      primes few hb hp hl
    subst hb hp
    have boundary := segmentBoundary_round good sent job clause (by rw [verb]; rfl) working run steps halt primes
    obtain ⟨frame, sent', prog⟩ := endRound_settles (c := c) sent drawn few noAbort hl
    have spec : specOf c.verb (par8 j.params 0)
        = keypairVerb [0x20, 0x21, 0x22, 0x23, 0x24, 0x25, 0x28, 0x29, 0x2A, 0x34] := by
      rw [verb]
      rfl
    rw [spec] at sent'
    refine ⟨_, _, onDev_to awake boundary, frame.answers awake
      ⟨(sent_through ..).trans sent', settled_primes .., ?_, ?_, ?_⟩⟩
    · intro one k hk
      rw [through_chan, prog]
      exact markPrime_done one hk _
    · intro one
      exact (settled_few rfl one ..).trans noResult
    · intro two rsa
      refine (settled_two (j := { j with primes := some l }) rfl two whole drawn noResult pair rsa ..).trans ?_
      cases rsaOfPrimes (l.getD 0 0) (l.getD 1 0) (beNat (slice 8 4 j.params)) <;> rfl

end Sys2Proof.Machine
end

section
/-!
SUPPORT. What the writes of the key store put into the flash and the OTP when every one verifies (12 R280, R285, R289).
-/

namespace Sys2Proof.Machine

theorem keeps_modKs (f : KeyStore → KeyStore) (d : Dev) : Keeps [.ks] d (modKs f d) := by
  intro q hq _
  cases q <;> simp [Part.same] at hq ⊢

/-! ### The counter log (12 R289) -/

section
variable {d : Dev}

/-- A counter record that verifies stands at the next place and is its slot's newest. -/
theorem logRecord_ok (up : d.flashUp = true) (slot v flags : Nat) : logRecord slot v flags true d
    = { d with
        flash := { d.flash with
          mem := d.flash.mem.write 0xFF (logAddr d.ks.logSec d.ks.logPos)
            (ctrRecord d.ks.kek slot d.otp.rowIdx v (nextSeqNo d.ks.recSeq) flags) }
        ks := { d.ks with
          logPos := d.ks.logPos + 1, recSeq := nextSeqNo d.ks.recSeq
          recs := ⟨slot, v, flags, logAddr d.ks.logSec d.ks.logPos⟩ :: d.ks.recs.filter (fun r => r.slot != slot) } } := by
  rw [logRecord, flashProgram_ok up]
  rfl

theorem logRecord_mem (up : d.flashUp = true) (slot v flags : Nat) : (logRecord slot v flags true d).flash.mem
    = d.flash.mem.write 0xFF (logAddr d.ks.logSec d.ks.logPos)
      (ctrRecord d.ks.kek slot d.otp.rowIdx v (nextSeqNo d.ks.recSeq) flags) := by
  rw [logRecord_ok up]

theorem logRecord_keeps (up : d.flashUp = true) (slot v flags : Nat) :
    Keeps [.flash, .ks] d (logRecord slot v flags true d) ∧ (logRecord slot v flags true d).rst = d.rst := by
  rw [logRecord_ok up]
  refine ⟨fun q hq _ => ?_, rfl⟩
  cases q <;> simp [Part.same] at hq ⊢

/-- With places left in its sector the log takes a record at the first attempt. -/
theorem logAppend_first (up : d.flashUp = true) (places : d.ks.logPos + d.ks.inNext.length < 127)
    (slot v flags t : Nat) : logAppend slot v flags (t + 1) [] d = (true, logRecord slot v flags true d, []) := by
  simp [logAppend, logRoom, places, outcome_nil up]

end

/-! ### The epoch row (12 R279) -/

/-- A change of the newest used row that leaves it used leaves which row is the newest used. -/
theorem rowIdx_modRow {f : EpochRow → EpochRow} {d : Dev} (used : (f d.otp.row).used = d.otp.row.used)
    (row : d.otp.rowIdx < d.otp.rows.length) : (modRow f d).otp.rowIdx = d.otp.rowIdx := by
  have same (i : Nat) : ((d.otp.rows.set d.otp.rowIdx (f d.otp.row)).getD i .blank).used
      = (d.otp.rows.getD i .blank).used := by
    by_cases hi : d.otp.rowIdx = i
    · subst hi
      have newest : d.otp.row = d.otp.rows[d.otp.rowIdx] := by simp [Otp.row, List.getD_eq_getElem?_getD, row]
      rw [newest] at used ⊢
      simpa [List.getD_eq_getElem?_getD, row] using used
    · simp only [List.getD_eq_getElem?_getD, List.getElem?_set_ne hi]
  simp only [Otp.rowIdx, modRow, List.length_set] at same ⊢
  simp only [same]

theorem row_modRow {f : EpochRow → EpochRow} {d : Dev} (used : (f d.otp.row).used = d.otp.row.used)
    (row : d.otp.rowIdx < d.otp.rows.length) : (modRow f d).otp.row = f d.otp.row := by
  conv_lhs => rw [Otp.row, rowIdx_modRow used row]
  simp [modRow, List.getD_eq_getElem?_getD, List.getElem?_set_self row]

theorem keeps_modRow (f : EpochRow → EpochRow) (d : Dev) : Keeps [.otp] d (modRow f d) := by
  intro q hq _
  cases q <;> simp [Part.same, modRow] at hq ⊢

/-! ### The writes of a persistent key (12 R280) -/

/-- The address of the next free place of a slot's record area. -/
def KeyStore.nextPlace (k : KeyStore) (slot : Nat) : Nat :=
  slotAddr (isLarge slot) (if isLarge slot then k.largeNext else k.stdNext)

/-- The key store once the place of a slot's record is used. -/
def KeyStore.placed (k : KeyStore) (slot : Nat) : KeyStore :=
  if isLarge slot then { k with largeNext := k.largeNext + 1 } else { k with stdNext := k.stdNext + 1 }

/-- The record of a persistent key at the next free place. -/
def slotStep (owner : Nat) (dk : DestKey) (v : Bytes) (d : Dev) : Dev :=
  modKs (·.placed dk.slot)
    (flashProgram (d.ks.nextPlace dk.slot) (slotRecord d.ks.kek d.otp.rowIdx owner dk v) true d)

section
variable {owner : Nat} {dk : DestKey} {v : Bytes} {d : Dev}

theorem writeSlotRecord_first (up : d.flashUp = true) (room : d.ks.room dk.slot = true) :
    writeSlotRecord owner dk v 2 [] d = (some (d.ks.nextPlace dk.slot), slotStep owner dk v d, []) := by
  simp only [writeSlotRecord, room, outcome_nil up, Bool.not_true, Bool.false_eq_true, if_false, if_true]
  rfl

/-- The record's place is used, and the record stands there; the counter log is as it was. -/
theorem slotStep_eq (up : d.flashUp = true) : slotStep owner dk v d
    = { d with
        flash := { d.flash with
          mem := d.flash.mem.write 0xFF (d.ks.nextPlace dk.slot) (slotRecord d.ks.kek d.otp.rowIdx owner dk v) }
        ks := d.ks.placed dk.slot } := by
  rw [slotStep, flashProgram_ok up]
  rfl

theorem slotStep_flashUp (up : d.flashUp = true) : (slotStep owner dk v d).flashUp = true := by
  rw [slotStep_eq up]
  exact up

theorem slotStep_mem (up : d.flashUp = true) : (slotStep owner dk v d).flash.mem
    = d.flash.mem.write 0xFF (d.ks.nextPlace dk.slot) (slotRecord d.ks.kek d.otp.rowIdx owner dk v) := by
  rw [slotStep_eq up]

/-- The counter log and the key of its records are as before a slot record. -/
theorem slotStep_log (up : d.flashUp = true) : (slotStep owner dk v d).ks.logSec = d.ks.logSec
    ∧ (slotStep owner dk v d).ks.logPos = d.ks.logPos ∧ (slotStep owner dk v d).ks.kek = d.ks.kek
    ∧ (slotStep owner dk v d).ks.recSeq = d.ks.recSeq ∧ (slotStep owner dk v d).ks.inNext = d.ks.inNext := by
  rw [slotStep_eq up]
  unfold KeyStore.placed
  split <;> exact ⟨rfl, rfl, rfl, rfl, rfl⟩

theorem slotStep_keeps (up : d.flashUp = true) :
    Keeps [.flash, .ks] d (slotStep owner dk v d) ∧ (slotStep owner dk v d).rst = d.rst := by
  rw [slotStep_eq up]
  refine ⟨fun q hq _ => ?_, rfl⟩
  cases q <;> simp [Part.same] at hq ⊢

/-- With every operation verified the three writes are made, and the slot is LIVE. -/
theorem writePersistent_verified (up : d.flashUp = true) (room : d.ks.room dk.slot = true)
    (places : d.ks.logPos + d.ks.inNext.length < 127) : writePersistent owner dk v [] [] d
      = (true, putPersistent owner dk (d.ks.nextPlace dk.slot) (modRow (fun x => { x with written := dk.slot :: x.written })
        (logRecord dk.slot 0 1 true (slotStep owner dk v d)))) := by
  have log : (slotStep owner dk v d).ks.logPos + (slotStep owner dk v d).ks.inNext.length < 127 := by
    obtain ⟨-, pos, -, -, copies⟩ := slotStep_log (owner := owner) (dk := dk) (v := v) up
    rwa [pos, copies]
  simp [writePersistent, persistSteps, writeSlotRecord_first up room, logAppend_first (slotStep_flashUp up) log, burnBit]

end

theorem isVol_of_isPer {slot : Nat} (per : isPer slot = true) : isVol slot = false := by
  simp only [isPer, isStd, isLarge, isVol, Bool.or_eq_true, Bool.and_eq_true, decide_eq_true_eq,
    Bool.and_eq_false_iff, decide_eq_false_iff_not] at per ⊢
  omega

theorem putPersistent_slot {dk : DestKey} (per : isPer dk.slot = true) (owner a : Nat) (d : Dev) :
    (putPersistent owner dk a d).ks.slot dk.slot
      = some ⟨dk.slot, owner, dk.cls, dk.usage, dk.limit, 0, .live, [], a⟩ := by
  simp [putPersistent, KeyStore.slot, isVol_of_isPer per]

/-- From `d` to `e` the key `dk` of `owner` with value `v` has been written: its slot record, its clean counter record of 0, its
WRITTEN bit, its slot LIVE. -/
structure KeyWritten (owner : Nat) (dk : DestKey) (v : Bytes) (d e : Dev) : Prop where
  keeps : Keeps [.ks, .flash, .otp] d e
  rst : e.rst = d.rst
  slot : e.ks.slot dk.slot
    = some ⟨dk.slot, owner, dk.cls, dk.usage, dk.limit, 0, .live, [], d.ks.nextPlace dk.slot⟩
  mem : e.flash.mem = (d.flash.mem.write 0xFF (d.ks.nextPlace dk.slot)
      (slotRecord d.ks.kek d.otp.rowIdx owner dk v)).write 0xFF (logAddr d.ks.logSec d.ks.logPos)
    (ctrRecord d.ks.kek dk.slot d.otp.rowIdx 0 (nextSeqNo d.ks.recSeq) 1)
  row : e.otp.row = { d.otp.row with written := dk.slot :: d.otp.row.written }

theorem writePersistent_writes {owner : Nat} {dk : DestKey} {v : Bytes} {d : Dev} (per : isPer dk.slot = true)
    (up : d.flashUp = true) (room : d.ks.room dk.slot = true) (places : d.ks.logPos + d.ks.inNext.length < 127)
    (row : d.otp.rowIdx < d.otp.rows.length) :
    ∃ e, writePersistent owner dk v [] [] d = (true, e) ∧ KeyWritten owner dk v d e := by
  refine ⟨_, writePersistent_verified up room places, ?_⟩
  have ⟨placed, rst⟩ := slotStep_keeps (owner := owner) (dk := dk) (v := v) up
  have store := slotStep_log (owner := owner) (dk := dk) (v := v) up
  have mem := slotStep_mem (owner := owner) (dk := dk) (v := v) up
  have up' : (slotStep owner dk v d).flashUp = true := slotStep_flashUp up
  generalize slotStep owner dk v d = p at placed rst store mem up' ⊢
  have ⟨logged, rst'⟩ := logRecord_keeps up' dk.slot 0 1
  have otp : p.otp = d.otp := placed .otp (by decide) (by decide)
  have otp' : (logRecord dk.slot 0 1 true p).otp = d.otp := (logged .otp (by decide) (by decide)).trans otp
  have mem' := logRecord_mem up' dk.slot 0 1
  obtain ⟨sec, pos, kek, seq, -⟩ := store
  rw [mem, sec, pos, kek, seq, otp] at mem'
  generalize logRecord dk.slot 0 1 true p = q at logged rst' otp' mem' ⊢
  refine ⟨?_, rst'.trans rst, putPersistent_slot per _ _ _, mem', ?_⟩
  · exact (keeps_up placed).trans ((keeps_up logged).trans ((keeps_up (keeps_modRow _ q)).trans
      (keeps_up (keeps_modKs _ _))))
  · rw [← otp'] at row ⊢
    exact row_modRow (f := fun x => { x with written := dk.slot :: x.written }) rfl row

end Sys2Proof.Machine
end

section
/-!
A persistent key: its engine freed, its writes, the end of its clause; the end of a checkpoint (O47).
-/

namespace Sys2Proof.Machine

/-! ### The engine freed before the writes (12 R280) -/

/-- With no step under way a clause leaves its engine with the scheduler's tags alone changed. -/
theorem TagsMove.leaveEngine {n : Chn} {x : Sentence} {j : Job} {d : Dev} (steps : j.steps = []) :
    TagsMove d (leaveEngine n x j d) := by
  have dropped (k : Cls) : TagsMove d (match x.sel with
      | some y => dropSel k n y d
      | none => d) := by
    cases x.sel with
    | none => exact ⟨Keeps.refl _ d, rfl⟩
    | some y => exact TagsMove.refund ..
  simp only [Sys2Proof.Machine.leaveEngine, Job.step, steps, List.head?_nil]
  cases verbClass j.verb with
  | none => exact ⟨Keeps.refl _ d, rfl⟩
  | some k =>
    dsimp only
    split
    · exact (dropped k).trans (TagsMove.correct ..)
    · exact dropped k

theorem persistentKey_putKey {dk : DestKey} (per : isPer dk.slot = true) (v : Bytes) :
    persistentKey [.putKey dk v] = some (dk, v) := by simp [persistentKey, per]

theorem otherEffects_putKey {dk : DestKey} (per : isPer dk.slot = true) (v : Bytes) :
    otherEffects [.putKey dk v] = [] := by simp [otherEffects, per]

/-- A clause at its end whose key goes to the flash starts the writes. -/
theorem completeClause_persists {n : Chn} {x : Sentence} {c : Clause} {j : Job} {r : JobResult} {s : State}
    (h : s.atEnd n x c j r) (hrun : j.phase = .run) (ha : j.abort = false) (hok : r.status = .ok)
    (hkey : (persistentKey r.good).isSome = true) :
    completeClause .none n x.sid s.dev = startPersist n x j r s.dev := by
  obtain ⟨-, working, -, -, sent, job, clause, -, -, -, steps, result, mid, raced, -, replay, halts⟩ := h
  have same : endResult .none n c j r s.dev = r := by simp [endResult, replay, raced]
  simp [completeClause, sent, job, clause, hrun, working, halts, completeJob, Job.step, steps, endClause, result, ha,
    same, mid, raced, hok, hkey, bookError]

/-- A job whose writes start leaves its engine and core; of its channel its own phase alone changes. -/
theorem startPersist_spec {n : Chn} {x : Sentence} {j : Job} {r : JobResult} {d : Dev} (steps : j.steps = [])
    (sent : d.sent n x.sid = some x) (job : x.job = some j) (result : j.result = some r) :
    Keeps [.chans, .cores] d (startPersist n x j r d) ∧ OthersKept n d (startPersist n x j r d)
      ∧ (startPersist n x j r d).rst = d.rst
      ∧ (startPersist n x j r d).sent n x.sid = some { x with job := some { j with phase := .persist } }
      ∧ ((startPersist n x j r d).chan n).rings = (d.chan n).rings
      ∧ ((startPersist n x j r d).chan n).prog = (d.chan n).prog := by
  have left := TagsMove.leaveEngine (n := n) (x := x) (d := d) steps
  have released := LeaveFrame.release n j.engine (leaveEngine n x j d)
  have chans : (releaseCore j.engine (leaveEngine n x j d)).chans = d.chans := by
    rw [← left.chans]
    unfold releaseCore
    split <;> rfl
  unfold startPersist
  dsimp only
  generalize releaseCore j.engine (leaveEngine n x j d) = e at released chans ⊢
  have marked := ChanFrame.modJob n x.sid (fun y => { y with phase := .persist, result := some r }) e
  have here : e.sent n x.sid = some { x with job := some j } := by
    rw [Dev.sent, chan_of chans]
    exact sent_job sent job
  refine ⟨?_, fun m hm => (marked.others m hm).trans (chan_of chans m), ?_, ?_, ?_, ?_⟩
  · exact ((keeps_up left.keeps).trans released.k).trans (keeps_up marked.keeps)
  · exact marked.rst.trans (released.r.trans left.rst)
  · rw [sent_modJob here, result]
  · rw [modJob, chan_modSent, chan_of chans]
  · rw [modJob, chan_modSent, chan_of chans]

/-! ### The end of the writes (12 R280) -/

/-- The end of the work of a clause whose core is already free, without effects, leaves the cores as they are. -/
theorem endWork_persisted {n : Chn} {x : Sentence} {j : Job} {c : Clause} {d : Dev} (steps : j.steps = [])
    (persist : j.phase = .persist) (gone : j.outGone = false) (dst : ∀ q, j.dst ≠ .append q) (out : Bytes) (w1 : Nat) :
    (endWork n x j c .ok out w1 [] d).1.cores = d.cores := by
  have left : (leaveEngine n x j d).cores = d.cores :=
    (TagsMove.leaveEngine steps).keeps .cores (by decide) (by decide)
  have ⟨moved, _⟩ := finishOut_moves gone dst n ((x.parent.map (·.sid)).getD x.sid) c .ok out w1 (leaveEngine n x j d)
  have free (e : Dev) : (leaveCore n j .ok e).cores = e.cores := by
    simp only [leaveCore, persist, bne_self_eq_false, Bool.false_eq_true, if_false]
    split
    · rfl
    · unfold progEnds
      split <;> rfl
  rw [endWork_eq]
  dsimp only
  generalize finishOut n _ j c .ok out w1 _ = fo at moved
  calc (freeScratch _ (giveBack n j .ok fo.1)).cores
      = (giveBack n j .ok fo.1).cores := (freed_freeScratch _ _).keeps .cores (by decide) (by decide)
    _ = (unreserveDest j .ok fo.1).cores := free _
    _ = fo.1.cores := keeps_unreserveDest j .ok fo.1 .cores (by decide) (by decide)
    _ = (leaveEngine n x j d).cores := moved.keeps .cores (by decide) (by decide)
    _ = d.cores := left

/-- The record of a clause whose core is already free: of the core, its channel, the pool and the presignature places
change. -/
theorem finishRoot_persisted {n : Chn} {x : Sentence} {j : Job} {c : Clause} {d : Dev}
    (sent : d.sent n x.sid = some x) (job : x.job = some j) (clause : x.clauses[x.idx]? = some c)
    (reset : x.ringReset = false) (gone : j.outGone = false) (dst : ∀ q, j.dst ≠ .append q)
    (hout : (d.chan n).rings.out.good = true) (hcpl : (d.chan n).rings.cpl.good = true) (steps : j.steps = [])
    (persist : j.phase = .persist) (out : Bytes) (w2 : Nat) :
    Keeps [.chans, .pool, .ks, .presig] d (finishRoot n x j .ok out w2 [] d) := by
  have posts : postedStatus j x .ok = .ok := by simp [postedStatus, Status.failure, gone, reset]
  obtain ⟨worked, -⟩ := endWork_moves (x := x) (st := .ok) (es := []) (d := d) (ps := []) gone dst (by decide)
    (fun e => RingMove.refl n [] e) c out out.length
  have cores := endWork_persisted (n := n) (x := x) (c := c) (d := d) steps persist gone dst out out.length
  rw [finishRoot_eq clause (checkOut_good sent job dst hout) posts (w1 := out.length) rfl]
  dsimp only
  generalize endWork n x j c .ok out out.length [] d = r at worked cores
  have good : (r.1.chan n).rings.cpl.good = true := by
    rw [worked.rings, apply_ite Rings.cpl, seal_cpl, ite_self]
    exact hcpl
  obtain ⟨ended, -⟩ := endRecord_ok (x := x) good c j.engine out.length w2 r.2
  have whole : Keeps endParts d (endRecord n x c .ok j.engine out.length w2 r.2 r.1) :=
    (keeps_up worked.keeps).trans (keeps_up ended.keeps)
  intro q hq ht
  by_cases hc : q = .cores
  · subst hc
    exact (ended.keeps .cores (by decide) (by decide)).trans cores
  · refine whole q ?_ ht
    simp only [endParts, List.mem_cons, List.not_mem_nil, or_false, not_or] at hq ⊢
    obtain ⟨h1, h2, h3, h4⟩ := hq
    exact ⟨h1, h2, h3, hc, h4⟩

/-- PERSISTENT_WRITE_DONE with every operation verified is the clause's end in the core with the key written. -/
theorem persistDone_ends {n : Chn} {x : Sentence} {c : Clause} {j : Job} {r : JobResult} {dk : DestKey} {v : Bytes}
    {s : State} {e : Dev} (h : s.atEnd n x c j r) (persist : j.phase = .persist) (ha : j.abort = false)
    (hgood : r.good = [.putKey dk v]) (per : isPer dk.slot = true) (level : s.dev.supply.level < 3)
    (written : writePersistent n.val dk v [] [] s.dev = (true, e)) :
    persistDone n x.sid [] [] s.dev = finishRoot n x j .ok r.out r.w2 [] e := by
  obtain ⟨-, -, active, -, sent, job, -, root, -, -, -, result, -⟩ := h
  have here : ((s.dev.chan n).state == .resetting) = false := by
    revert active
    cases (s.dev.chan n).state <;> decide
  simp [persistDone, sent, job, persist, result, Nat.not_le.2 level, here, hgood, persistentKey_putKey per, written,
    finishClause, root, otherEffects_putKey per, ha]

/-- PERSISTENT_WRITE_DONE is the end of the writes, and the judgement of what has become next. -/
theorem judges_persistDone {n : Chn} {x : Sentence} {c : Clause} {j : Job} {r : JobResult} {s : State} {e : Dev}
    (h : s.atEnd n x c j r) (he : persistDone n x.sid [] [] s.dev = e) (hrst : e.rst = s.dev.rst) :
    Judges (.persistentWriteDone n x.sid [] []) s n e := by
  obtain ⟨awake, -, -, good, -⟩ := h
  have ends : (fun d => judgeFresh n (persistDone n x.sid [] [] (scrubChan d n))) s.dev = judgeFresh n e := by
    rw [← he]
    simp only [scrubChan_good good]
  exact ⟨hrst.trans awake.2, onDev_to awake ends⟩

/-! ### Checkpoints (12 R285) -/

/-- A checkpoint that nobody waits for and whose record verifies ends with that record. -/
theorem ckptEnds_unwaited {slot val : Nat} {d : Dev} (work : d.stopped = false)
    (running : d.ks.ckpts.lookup slot = some val) (clauses : d.ckptWaiters slot = [])
    (opens : ∀ m nonce resp, (d.chan m).phase ≠ .ckptWait slot nonce resp) (up : d.flashUp = true)
    (places : d.ks.logPos + d.ks.inNext.length < 127) : ckptEnds slot [] d
      = modKs (fun k => { k with ckpts := k.ckpts.filter (fun x => x.1 != slot) }) (logRecord slot val 0 true d) := by
  have chans : (modKs (fun k => { k with ckpts := k.ckpts.filter (fun x => x.1 != slot) })
      (logRecord slot val 0 true d)).chans = d.chans :=
    (logRecord_keeps up slot val 0).1 .chans (by decide) (by decide)
  simp only [ckptEnds, running, work, logAppend_first up places, Bool.false_eq_true, if_false, if_true]
  generalize modKs _ (logRecord slot val 0 true d) = e at chans ⊢
  have waiters : e.ckptWaiters slot = [] := by
    rw [← clauses]
    simp only [Dev.ckptWaiters, Dev.chan, chans]
  have waits (m : Chn) : endCkptOpen slot true e m = e := by
    unfold endCkptOpen
    rw [chan_of chans]
    split
    · next a nonce resp phase =>
      have other : a ≠ slot := fun same => opens m nonce resp (by rw [phase, same])
      simp [other]
    · rfl
  rw [waiters, List.foldl_nil]
  exact List.foldl_fixed' waits allChns

/-- Settles O47: the finished work starts the writes; the writes, each verified, leave the records, the WRITTEN bit and the
LIVE slot and end the clause; a checkpoint nobody waits for leaves its record. -/
theorem persistentKeyIsWritten : Obligations.PersistentKeyIsWritten := by
  refine fun n x c j r dk v s => ⟨fun h hrun ha hok hgood per => ?_,
    fun h persist ha hok hgood per level up room places row => ?_,
    fun slot val awake work running clauses opens up places => ?_⟩
  · have ⟨_, _, _, _, sent, job, _, _, _, _, steps, result, _⟩ := h
    have starts := completeClause_persists h hrun ha hok (by rw [hgood, persistentKey_putKey per]; rfl)
    obtain ⟨keeps, others, rst, now⟩ := startPersist_spec (r := r) steps sent job result
    exact ⟨_, judges_complete h starts rst, keeps, others, now⟩
  · have ⟨_, _, _, good, sent, job, clause, _, reset, dst, steps, _, _, _, gone, _⟩ := h
    obtain ⟨e, writes, key⟩ := writePersistent_writes (owner := n.val) (v := v) per up room places row
    have chans : e.chans = s.dev.chans := key.keeps .chans (by decide) (by decide)
    have pool : e.pool = s.dev.pool := key.keeps .pool (by decide) (by decide)
    have chan := chan_of chans n
    have sent' : e.sent n x.sid = some x := by rw [Dev.sent, chan]; exact sent
    have hout : (e.chan n).rings.out.good = true := by rw [chan]; exact good .out
    have hcpl : (e.chan n).rings.cpl.good = true := by rw [chan]; exact good .cpl
    have frame := finishRoot_persisted sent' job clause reset gone dst hout hcpl steps persist r.out r.w2
    obtain ⟨ended, -, o, ks, -, -, -, -, ks', -⟩ := finishRoot_ok sent' job clause reset gone dst hout hcpl r.out r.w2 []
    have ends := persistDone_ends h persist ha hgood per level writes
    refine ⟨_, _, judges_persistDone h ends ((finishRoot_rst ..).trans key.rst), (keeps_up key.keeps).trans (keeps_up frame),
      fun m hm => (ended.others m hm).trans (chan_of chans m), advanced_sent sent' ended.sents, rfl, ?_, ?_, ?_, ?_⟩
    · rw [ks', List.foldl_nil, ks]
      exact key.slot
    · rw [frame .flash (by decide) (by decide)]
      exact key.mem
    · rw [frame .otp (by decide) (by decide)]
      exact key.row
    · rw [ended.rings, chan, pool, w3hi_ok]
  · have ends := ckptEnds_unwaited work running clauses opens up places
    have ⟨logged, rst⟩ := logRecord_keeps up slot val 0
    refine ⟨_, onDev_to awake ends, same_const awake rst, keeps_const ((keeps_up logged).trans (keeps_up (keeps_modKs _ _))),
      logRecord_mem up slot val 0, ?_, ?_, ?_⟩ <;> rw [through_ks, modKs_ks, logRecord_ok up]
    simp [KeyStore.newest]

end Sys2Proof.Machine
end

section
/-!
Tamper inputs: what their actions empty, the PRESIG_FILL they end, their acknowledgement (O50).
-/

namespace Sys2Proof.Machine

/-! ### The core emptied (12 R300) -/

theorem keeps_modLc (f : LifeCycle → LifeCycle) (d : Dev) : Keeps [.lc] d (modLc f d) := by
  intro q hq _
  cases q <;> simp [Part.same] at hq ⊢

theorem keeps_modSup (f : Supply → Supply) (d : Dev) : Keeps [.supply] d (modSup f d) := by
  intro q hq _
  cases q <;> simp [Part.same] at hq ⊢

theorem dropArm_all (d : Dev) : dropArm (fun _ => true) d = modSup (fun s => { s with arm := none }) d := by
  unfold dropArm
  split
  · rfl
  · next h => rw [modSup, ← h]

theorem freeRecs_chan (d : Dev) (n : Chn) :
    (freeRecs d).chan n = { d.chan n with recs := Vector.replicate 8 none } := by
  simp [freeRecs, Dev.chan]

/-- A last-gasp path abandoned: none runs, and of the core the supply alone changes. -/
theorem abandonGasp_supply (d : Dev) :
    ∃ f : Supply → Supply, abandonGasp d = modSup f d ∧ (f d.supply).gasp = none ∧ (f d.supply).arm = d.supply.arm := by
  unfold abandonGasp
  split
  · exact ⟨_, rfl, rfl, rfl⟩
  · next h => exact ⟨id, rfl, h, rfl⟩

/-- From `d` to `e` the volatile keys, the key cache, the presignatures, the record contexts, the arm and the path of the last
gasp are gone. -/
structure Emptied (d e : Dev) : Prop where
  keeps : Keeps [.ks, .presig, .supply, .chans] d e
  rst : e.rst = d.rst
  ks : e.ks = { d.ks with vol := [], cache := [] }
  presig : e.presig = ⟨[], 0, d.presig.fallback⟩
  gasp : e.supply.gasp = none
  arm : e.supply.arm = none
  chan : ∀ n, e.chan n = { d.chan n with recs := Vector.replicate 8 none }

theorem emptied_all (d : Dev) : Emptied d (abandonGasp (emptyKeys d)) := by
  have keys : emptyKeys d = freeRecs (modSup (fun s => { s with arm := none })
      (clearPresig (modKs (fun k => { k with vol := [], cache := [] }) d))) := by rw [emptyKeys, dropArm_all]
  obtain ⟨f, abandoned, gasp, arm⟩ := abandonGasp_supply (emptyKeys d)
  rw [keys] at abandoned gasp arm ⊢
  rw [abandoned]
  refine ⟨fun q hq _ => ?_, rfl, rfl, rfl, gasp, arm, freeRecs_chan _⟩
  cases q <;> simp [Part.same, freeRecs, clearPresig] at hq ⊢

/-! ### Clauses the action ZERO ends (11 R272) -/

/-- A channel without a PRESIG_FILL in progress loses none. -/
theorem dropFills_none {n : Chn} {d : Dev} (h : ∀ x j, x ∈ (d.chan n).sents → x.job = some j → j.filling = 0) :
    dropFills d n = d := by
  have picked : (d.chan n).sents.filter (fun s => s.job.any (fun j => j.filling != 0)) = [] := by
    rw [List.filter_eq_nil_iff]
    intro x hx
    cases hj : x.job with
    | none => simp
    | some j => simp [h x j hx hj]
  rw [dropFills, picked, List.foldl_nil]

/-- A channel without a clause that holds a volatile key or a presignature is not touched. -/
theorem denyVolatile_none {n : Chn} {d : Dev} (h : ∀ x j, x ∈ (d.chan n).sents → x.job = some j → j.volatile = false) :
    denyVolatile d n = d := by
  have picked : (d.chan n).sents.filter (fun s => (s.job.map Job.volatile).getD false) = [] := by
    rw [List.filter_eq_nil_iff]
    intro x hx
    cases hj : x.job with
    | none => simp
    | some j => simp [h x j hx hj]
  rw [denyVolatile, denyWhere, picked, List.map_nil, List.foldl_nil]

/-- Where no clause holds volatile material or fills, ZERO only empties. -/
theorem tamperZero_calm {d : Dev}
    (calm : ∀ n x j, x ∈ (d.chan n).sents → x.job = some j → j.volatile = false ∧ j.filling = 0) :
    Emptied d (tamperZero d) := by
  have fills : allChns.foldl dropFills d = d :=
    List.foldl_fixed' (fun n => dropFills_none (fun x j hx hj => (calm n x j hx hj).2)) allChns
  have denies : allChns.foldl denyVolatile d = d :=
    List.foldl_fixed' (fun n => denyVolatile_none (fun x j hx hj => (calm n x j hx hj).1)) allChns
  rw [tamperZero, fills, denies]
  exact emptied_all d

/-- Of its channel a job that ends without a record changes CH_PROGk alone. -/
theorem dropJob_chan (n : Chn) (s : Sentence) (j : Job) (d : Dev) :
    ∃ p, (dropJob n s j d).chan n = { d.chan n with prog := p } := by
  have left : LeaveFrame n d (if j.phase == .persist then leaveEngine n s j d
      else endProg n j.engine false j.primes.isSome (leaveEngine n s j d)) := by
    split
    · exact LeaveFrame.engine n s j d
    · exact (LeaveFrame.engine n s j d).trans (LeaveFrame.endProg ..)
  obtain ⟨p, hp⟩ := left.c
  refine ⟨p, ?_⟩
  rw [dropJob, chan_of (freeScratch_chans _ _), ← hp]
  split <;> simp only [Dev.chan, unreserve_chans, zeroTouched_chans, unfill_chans]

/-- A dispatched sentence dropped is gone, and no ring moves. -/
theorem dropOne_move {n : Chn} {s : Sentence} {j : Job} (job : s.job = some j) (d : Dev) :
    RingMove n [.chans, .cores, .presig, .ks, .pool] id (·.filter (fun y => y.sid != s.sid)) d (dropOne n s d) := by
  obtain ⟨keeps, others, ⟨sticky, -⟩, -⟩ := DropFrame.dropOne n s d
  obtain ⟨p, chan⟩ := dropJob_chan n s j d
  refine ⟨keeps, others, ?_, dropOne_sents n s d, fun b hb => by rwa [sticky]⟩
  rw [dropOne, job]
  exact (removeSent_move n s.sid (dropJob n s j d)).rings.trans (by rw [chan])

/-- A PRESIG_FILL of no template ends: its sentence is gone, its credits are returned, no record posts. -/
theorem dropFill_move {n : Chn} {x : Sentence} {j : Job} (root : x.parent = none) (job : x.job = some j) (d : Dev) :
    RingMove n [.chans, .cores, .presig, .ks, .pool]
      (fun r => { r with reserved := r.reserved - (x.clauses.length - x.idx) })
      (·.filter (fun y => y.sid != x.sid)) d (dropFill n d x) := by
  have discarded := RingMove.foldl (fun e i => discardStream_move n x.sid i e)
    ((List.range x.clauses.length).drop x.idx) d
  have returned := RingMove.modRings n (fun r => { r with reserved := r.reserved - (x.clauses.length - x.idx) })
  simp only [dropFill, root]
  exact ((dropOne_move job _).after discarded.mono).trans (returned _).mono

/-- Where one PRESIG_FILL is the only work, ZERO ends it and empties. -/
theorem tamperZero_fill {n : Chn} {x : Sentence} {j : Job} {d : Dev} (one : (d.chan n).sents = [x])
    (alone : ∀ m, m ≠ n → (d.chan m).sents = []) (root : x.parent = none) (job : x.job = some j) (fills : j.filling ≠ 0) :
    Emptied (dropFill n d x) (tamperZero d) ∧ ((dropFill n d x).chan n).sents = [] := by
  have ended := dropFill_move (n := n) root job d
  have acts : dropFills d n = dropFill n d x := by simp [dropFills, one, job, fills]
  have here : ((dropFill n d x).chan n).sents = [] := by rw [ended.sents, one]; exact filter_one x
  have idle (m : Chn) : ((dropFill n d x).chan m).sents = [] := by
    by_cases hm : m = n
    · rw [hm, here]
    · rw [ended.others m hm, alone m hm]
  have dropped : allChns.foldl dropFills d = dropFill n d x :=
    foldl_once (fun m hm => dropFills_none (fun y k hy => by rw [alone m hm] at hy; cases hy)) acts
      (fun m => dropFills_none (fun y k hy => by rw [idle m] at hy; cases hy)) (List.mem_finRange n)
  have denied : allChns.foldl denyVolatile (dropFill n d x) = dropFill n d x :=
    List.foldl_fixed' (fun m => denyVolatile_none (fun y k hy => by rw [idle m] at hy; cases hy)) allChns
  rw [tamperZero, dropped, denied]
  exact ⟨emptied_all _, here⟩

/-! ### An input that opens (12 R299) -/

/-- An input that opens, recorded: its bit of TAMPERSTAT and of GSTICKY3. -/
def tamperNoted (i : Fin 2) (d : Dev) : Dev :=
  noteG 3 i.val { modLc (fun l => { l with tamperOpen := put2 l.tamperOpen i true }) d with
    pins := { d.pins with tamper := put2 d.pins.tamper i true } }

section
variable {i : Fin 2} {d : Dev}

theorem tamperNoted_keeps : Keeps [.lc, .pins, .trouble, .journal] d (tamperNoted i d) := by
  refine Keeps.trans ?_ (keeps_up (keeps_noteG 3 i.val _))
  intro q hq _
  cases q <;> simp [Part.same] at hq ⊢

theorem tamperNoted_rst : (tamperNoted i d).rst = d.rst := noteG_rst ..

theorem tamperNoted_lc :
    (tamperNoted i d).lc = { d.lc with tamperOpen := put2 d.lc.tamperOpen i true } := noteG_lc ..

theorem tamperNoted_chan (n : Chn) : (tamperNoted i d).chan n = d.chan n :=
  chan_of (tamperNoted_keeps .chans (by decide) (by decide)) n

theorem tamperNoted_bit : bit (tamperNoted i d).trouble.g3 i.val = true := noteG_bit 3 (by omega) _

/-- An enabled input that opens is recorded, and acts as it is configured: ZERO, then BLOCK. -/
theorem tamperOpens_acts (enabled : (d.tamperByte i).testBit 0 = true) (closed : d.lc.tamperOpen.getLsbD i.val = false) :
    tamperOpens i d = modLc (fun l => { l with tamperBlock := l.tamperBlock || (d.tamperByte i).testBit 5 })
      (if (d.tamperByte i).testBit 4 then tamperZero (tamperNoted i d) else tamperNoted i d) := by
  have acts : tamperOpens i d = if (d.tamperByte i).testBit 5 then modLc (fun l => { l with tamperBlock := true })
      (if (d.tamperByte i).testBit 4 then tamperZero (tamperNoted i d) else tamperNoted i d)
      else if (d.tamperByte i).testBit 4 then tamperZero (tamperNoted i d) else tamperNoted i d := by
    simp only [tamperOpens, enabled, closed, Bool.not_true, Bool.false_or, Bool.false_eq_true, if_false]
    rfl
  rw [acts]
  cases (d.tamperByte i).testBit 5 with
  | true => simp
  | false => simp [modLc]

end

/-- Where no clause holds volatile material or fills, an input that opens is recorded, BLOCK is set where enabled, and with ZERO
all that is volatile is gone. -/
theorem tamperOpens_calm {i : Fin 2} {d : Dev} (enabled : (d.tamperByte i).testBit 0 = true)
    (closed : d.lc.tamperOpen.getLsbD i.val = false)
    (calm : ∀ n x j, x ∈ (d.chan n).sents → x.job = some j → j.volatile = false ∧ j.filling = 0) :
    ∃ z, tamperOpens i d = modLc (fun l => { l with tamperBlock := l.tamperBlock || (d.tamperByte i).testBit 5 }) z
      ∧ Keeps [.ks, .presig, .supply, .chans] (tamperNoted i d) z ∧ z.rst = d.rst
      ∧ ((d.tamperByte i).testBit 4 = true → Emptied (tamperNoted i d) z)
      ∧ ((d.tamperByte i).testBit 4 = false → z = tamperNoted i d) := by
  refine ⟨_, tamperOpens_acts enabled closed, ?_⟩
  cases (d.tamperByte i).testBit 4 with
  | true =>
    have zero := tamperZero_calm (d := tamperNoted i d) (fun n => by rw [tamperNoted_chan]; exact calm n)
    rw [if_pos rfl]
    exact ⟨zero.keeps, zero.rst.trans tamperNoted_rst, fun _ => zero, nofun⟩
  | false =>
    rw [if_neg nofun]
    exact ⟨Keeps.refl _ _, tamperNoted_rst, nofun, fun _ => rfl⟩

/-- TAMPER_OPENED answers the core `z` its actions leave, with BLOCK as `f` puts it, but for what its wake changes of the power
controller. -/
theorem exec_tamperOpened {i : Fin 2} {s : State} {f : LifeCycle → LifeCycle} {z : Dev} (awake : s.awake)
    (acts : tamperOpens i s.dev = modLc f z) :
    ∃ e, exec (.tamperOpened i) s = .next (s.through (fun _ => e)) ∧ Keeps [.lc, .power] z e ∧ e.lc = f z.lc
      ∧ e.rst = z.rst ∧ (z.power.st = .run → e.power = z.power) := by
  refine ⟨_, onDev_to awake rfl, ?_⟩
  dsimp only
  rw [acts]
  split
  · exact ⟨keeps_up (keeps_modLc f z), rfl, rfl, fun _ => rfl⟩
  · have woken := keeps_wakes [4 + i.val] (modLc f z)
    exact ⟨(keeps_up (keeps_modLc f z)).trans (keeps_up woken), woken .lc (by decide) (by decide), wakes_rst _ _,
      fun run => by rw [wakes_run (d := modLc f z) run, modLc_power]⟩

/-! ### Its acknowledgement (12 R301) -/

theorem exec_tamperAck {s : State} (awake : s.awake) (run : s.dev.gRun = true) (unended : s.dev.otp.endFuse = false) :
    exec (.tamperAck .A) s = .next (s.through (fun _ => tamperAck s.dev)) := by
  have reaches : (if !s.dev.gRun || s.dev.otp.endFuse then s.dev else aOnly .A tamperAck s.dev) = tamperAck s.dev := by
    rw [run, unended]
    rfl
  exact onDev_to awake reaches

theorem tamperAck_held {d : Dev} (held : d.blockHeld = true) : tamperAck d = d := if_pos held

theorem tamperAck_free {d : Dev} (held : d.blockHeld = false) :
    tamperAck d = modLc (fun l => { l with tamperBlock := false }) d := if_neg (by rw [held]; nofun)

/-- Settles O50: an input that opens is recorded and its actions follow; ZERO ends a PRESIG_FILL before it empties; closing and
ACK change their registers. -/
theorem tamperInputsActAndAreAcknowledged : Obligations.TamperInputsActAndAreAcknowledged := by
  refine fun i s awake => ⟨fun enabled closed calm => ?_, fun n x j enabled closed zero one alone root job fills => ?_, ?_,
    fun run unended free => ?_, fun run unended held => ?_⟩
  · obtain ⟨z, acts, kept, zrst, zero, idle⟩ := tamperOpens_calm enabled closed calm
    obtain ⟨e, answers, left, lc, rst, power⟩ := exec_tamperOpened awake acts
    have noted := tamperNoted_keeps (i := i) (d := s.dev)
    have whole : Keeps [.lc, .pins, .trouble, .journal, .ks, .presig, .supply, .chans] s.dev z :=
      (keeps_up noted).trans (keeps_up kept)
    have same : z.power = s.dev.power := whole .power (by decide) (by decide)
    have ks : e.ks = z.ks := left .ks (by decide) (by decide)
    have presig : e.presig = z.presig := left .presig (by decide) (by decide)
    have supply : e.supply = z.supply := left .supply (by decide) (by decide)
    have chans : e.chans = z.chans := left .chans (by decide) (by decide)
    refine ⟨_, answers, same_const awake (rst.trans zrst), keeps_const ((keeps_up whole).trans (keeps_up left)),
      fun run => ?_, ?_, ?_, fun h4 => ?_, fun h4 => ?_⟩
    · rw [through_power, power (by rw [same, run]), same]
    · rw [through_lc, lc, kept .lc (by decide) (by decide), tamperNoted_lc]
    · rw [through_trouble, left .trouble (by decide) (by decide), kept .trouble (by decide) (by decide)]
      exact tamperNoted_bit
    · have gone := zero h4
      rw [through_ks, through_presig, through_supply, ks, presig, supply, gone.ks, gone.presig, gone.gasp, gone.arm,
        noted .ks (by decide) (by decide)]
      refine ⟨rfl, rfl, rfl, rfl, fun n => ?_⟩
      rw [through_chan, chan_of chans, gone.chan, tamperNoted_chan]
    · rw [through_ks, through_presig, through_supply, through_chans, ks, presig, supply, chans, idle h4]
      exact ⟨noted .ks (by decide) (by decide), noted .presig (by decide) (by decide),
        noted .supply (by decide) (by decide), noted .chans (by decide) (by decide)⟩
  · obtain ⟨e, answers, left, -⟩ := exec_tamperOpened awake (tamperOpens_acts enabled closed)
    rw [if_pos zero] at left
    have here := tamperNoted_chan (i := i) (d := s.dev) n
    obtain ⟨gone, dropped⟩ := tamperZero_fill (d := tamperNoted i s.dev) (by rw [here]; exact one)
      (fun m hm => by rw [tamperNoted_chan]; exact alone m hm) root job fills
    have ended := dropFill_move (n := n) root job (tamperNoted i s.dev)
    have chan := (chan_of (left .chans (by decide) (by decide)) n).trans (gone.chan n)
    have places : e.presig = _ := (left .presig (by decide) (by decide)).trans gone.presig
    refine ⟨_, answers, ?_, ?_, ?_, ?_, ?_⟩
    · rw [through_chan, chan, dropped]
    · rw [through_chan, chan, ended.rings, here]
    · rw [through_chan, chan, ended.rings, here]
    · rw [through_presig, places]
    · rw [through_presig, places]
  · refine ⟨_, onDev_to awake rfl, same_const awake rfl, keeps_const (fun q hq _ => ?_), rfl⟩
    cases q <;> simp [Part.same] at hq ⊢
  · refine ⟨_, exec_tamperAck awake run unended, ?_⟩
    rw [tamperAck_free free]
    exact ⟨same_const awake rfl, keeps_const (keeps_modLc _ _), rfl⟩
  · refine ⟨_, exec_tamperAck awake run unended, ?_⟩
    rw [tamperAck_held held]
    exact ⟨same_const awake rfl, keeps_const (Keeps.refl _ _)⟩

end Sys2Proof.Machine
end
section
/-!
Bank supplies (O8) and the queue under every command (O3).
-/

namespace Sys2Proof.Machine

/-! ### Bank supplies (02 R29, R30; 19 R434) -/

theorem keeps_pins (q : Pins) (d : Dev) : Keeps [.pins] d { d with pins := q } := by
  intro p hp _
  cases p <;> simp [Part.same] at hp ⊢

theorem bankIx_lt (b : Bank3) : bankIx b < 3 := by cases b <;> decide

/-- A member of a vector is as it was where another changes. -/
theorem vget_vmod_other {α : Type} {m i k : Nat} (v : Vector α m) (h : i ≠ k) (f : α → α) (y : α) :
    vget (vmod v k f) i y = vget v i y := by
  unfold vget vmod
  split
  · simp [List.getD_eq_getElem?_getD, Vector.getElem?_set_ne _ h.symm]
  · rfl

/-- The supply pins once a bank supply has crossed VBDET. -/
def Pins.crossed (q : Pins) (b : Bank3) (mv : Option Nat) : Pins :=
  { q with bank := vmod q.bank (bankIx b) (bankLevel mv) }

theorem crossed_same (q : Pins) (b : Bank3) (mv : Option Nat) :
    vget (q.crossed b mv).bank (bankIx b) none = bankLevel mv (vget q.bank (bankIx b) none) := by
  rw [Pins.crossed, vget_vmod _ (bankIx_lt b), vget_of_lt _ (bankIx_lt b)]

theorem crossed_other (q : Pins) {b : Bank3} (mv : Option Nat) {i : Nat} (h : i ≠ bankIx b) :
    vget (q.crossed b mv).bank i none = vget q.bank i none := vget_vmod_other _ h _ _

/-- A supply that rises, and bank B's that falls, change the pins alone. -/
theorem exec_vddioDetection_stays {b : Bank3} {mv : Option Nat} (s : State) (h : mv.isSome = true ∨ b = .B) :
    exec (.vddioDetection b mv) s = .next (s.through (fun d => { d with pins := d.pins.crossed b mv })) := by
  have stays : (mv.isNone && b != .B) = false := by
    rcases h with h | rfl
    · rw [← Option.not_isSome, h]
      rfl
    · simp
  refine congrArg _ (through_congr ?_)
  simp only [bankMoves, stays]
  rfl

theorem powerOn_idle {d : Dev} (h : d.boot.mgmt = none) :
    powerOn d = { Dev.fresh d.otp d.flash with pins := d.pins, rst := .por, ctr := d.ctr } := by
  simp only [powerOn, mgmtLeft_idle h]

/-- The loss of bank A or F is a power-on reset. -/
theorem exec_vddioDetection_lost {b : Bank3} {s : State} (h : b ≠ .B) (idle : s.dev.boot.mgmt = none) :
    exec (.vddioDetection b none) s = .next (s.through (fun _ => { Dev.fresh s.dev.otp s.dev.flash with
      pins := s.dev.pins.crossed b none, rst := .por, ctr := s.dev.ctr })) := by
  have lost : (b != .B) = true := bne_iff_ne.2 h
  refine congrArg _ (through_congr ?_)
  simp only [bankMoves, lost, Option.isNone_none, Bool.and_self, if_true]
  exact powerOn_idle idle

/-- VIN, bank A or bank F low asserts the power-on reset (19 R434). -/
theorem inPor_iff (d : Dev) :
    d.inPor = true ↔ d.pins.vin = false ∨ vget d.pins.bank 0 none = none ∨ vget d.pins.bank 2 none = none := by
  rw [vget_of_lt _ (by decide), vget_of_lt _ (by decide)]
  simp [Dev.inPor, or_assoc]

theorem served_inPor {d : Dev} (h : d.inPor = true) (p : Port) : d.served p = false := by
  cases p <;> simp [Dev.served, h]

/-- Settles O8: a supply that rises, or bank B's that falls, changes the pins alone; bank A's or F's fall is a power-on
reset, under which no frame is served and no command acts. -/
theorem bankSupplyDetection : Obligations.BankSupplyDetection := by
  intro s rst
  refine ⟨fun b mv => ⟨_, exec_vddioDetection_stays s (.inl rfl), through_same rst, (keeps_pins _ _).through, rfl, rfl,
      ?_, fun i hi => crossed_other _ _ hi⟩,
    ⟨_, exec_vddioDetection_stays s (.inr rfl), through_same rst, (keeps_pins _ _).through, rfl, rfl,
      fun i hi => crossed_other _ _ hi, crossed_same s.dev.pins .B none⟩,
    fun b hb idle => ⟨_, exec_vddioDetection_lost hb idle, through_shell_fresh (.inr rfl), ?_, rfl, rfl,
      fun q hq ht => ?_⟩,
    fun low => ?_⟩
  · refine (crossed_same s.dev.pins b (some mv)).trans ?_
    cases vget s.dev.pins.bank (bankIx b) none <;> rfl
  · have gone := crossed_same s.dev.pins b none
    refine (inPor_iff _).2 (.inr ?_)
    cases b with
    | A => exact .inl gone
    | B => exact absurd rfl hb
    | F => exact .inr gone
  · cases q
    case tags => contradiction
    case pins => simp at hq
    case sched => exact ⟨rfl, rfl, rfl⟩
    all_goals rfl
  · have held := (inPor_iff s.dev).2 low
    refine ⟨fun p f => ?_, onDev_inPor held, fun env => onDev_inPor held⟩
    change onFrame p (readFrame p f) s = _
    rw [onFrame, served_inPor held]
    rfl

/-! ### The queue under every command -/

/-- The command answers a state with the queue `q`. -/
def AnswersWith (q : List Instr) (o : Out) : Prop := ∃ t, o = .next t ∧ t.pending = q

theorem answersWith_next {q : List Instr} {t : State} (h : t.pending = q) : AnswersWith q (.next t) := ⟨t, rfl, h⟩

theorem writeCtl_pending (v : Via) (a : Nat) (w : Word) (s : State) : (s.writeCtl v a w).pending = s.pending := by
  unfold State.writeCtl
  split
  · rfl
  · split
    · rfl
    · split <;> rfl

theorem commitWord_pending (v : Via) (stop : Bool) (a : Nat) (w : Word) (s : State) :
    (s.commitWord v stop a w).pending = s.pending := by
  simp only [State.commitWord]
  split
  · rfl
  · split
    · split <;> rfl
    · split
      · exact writeCtl_pending v a w s
      · split <;> rfl

theorem commitWords_pending (p : Port) (stop : Bool) (lim : Nat) (ws : List Word) :
    ∀ (a : Nat) (s : State), (commitWords p stop lim a ws s).pending = s.pending := by
  induction ws with
  | nil => exact fun _ _ => rfl
  | cons w ws ih =>
    intro a s
    refine (ih (a + 4) _).trans ?_
    split
    · rfl
    · exact commitWord_pending (some p) stop a w s

theorem commitOne_pending (p : Port) (s : State) : (s.commitOne p).pending = s.pending := by
  unfold State.commitOne
  split
  · rfl
  · rw [through_pending]
    split
    · exact commitWords_pending ..
    all_goals rfl

theorem commitAll_pending (p : Port) (s : State) : (s.commitAll p).pending = s.pending := by
  unfold State.commitAll
  split
  · exact (commitOne_pending p _).trans (commitOne_pending p s)
  · rfl

theorem fallback_pending (p : Port) (s : State) : (s.fallback p).pending = s.pending := by
  simp only [State.fallback]
  split <;> rfl

theorem readFrame_pending (p : Port) (f : ReadFrame) (s : State) : (readFrame p f s).pending = s.pending := by
  simp only [readFrame]
  split <;> rfl

theorem statusFrame_pending (p : Port) (f : ReadFrame) (s : State) : (statusFrame p f s).pending = s.pending := rfl

theorem outreadFrame_pending (p : Port) (f : ReadFrame) (s : State) : (outreadFrame p f s).pending = s.pending := by
  simp only [outreadFrame]
  split <;> rfl

theorem writeFrame_pending (p : Port) (cmd : Nat) (ok : Bool) (n : Nat) (mk : List Word → Captured) (f : WriteFrame)
    (s : State) : (writeFrame p cmd ok n mk f s).pending = s.pending := by
  unfold writeFrame
  split
  · rfl
  · split <;> rfl

theorem malformed_pending (p : Port) (bytes : Bytes) (s : State) : (malformed p bytes s).pending = s.pending := by
  simp only [malformed]
  split
  · rfl
  · split <;> rfl

theorem dbgWrite_pending (a : Nat) (w : Word) (s : State) : (dbgWrite a w s).pending = s.pending := by
  simp only [dbgWrite]
  split
  · rfl
  · split
    · rfl
    · exact commitWord_pending ..

theorem onDev_answers (f : Dev → Dev) (s : State) : AnswersWith s.pending (onDev f s) :=
  answersWith_next (by split <;> rfl)

theorem onFrame_answers {f : State → State} (hf : ∀ u, (f u).pending = u.pending) (p : Port) (s : State) :
    AnswersWith s.pending (onFrame p f s) := by
  refine answersWith_next ?_
  split
  · exact (hf _).trans (fallback_pending p s)
  · rfl

theorem onCommit_answers {f : State → State} (hf : ∀ u, (f u).pending = u.pending) (s : State) :
    AnswersWith s.pending (onCommit f s) := by
  refine answersWith_next ?_
  split
  · exact hf s
  · rfl

/-- What the commit of a word at a window offset does. -/
theorem onCommit_word_answers {c : Bool} (v : Via) (stop : Bool) (a : Nat) (w : Word) (s : State) :
    AnswersWith s.pending (onCommit (fun u => if c then u.commitWord v stop a w else u) s) := by
  refine onCommit_answers (fun u => ?_) s
  split
  · exact commitWord_pending v stop a w u
  · rfl

/-- Settles O3: a frame and a commit keep the queue; every other command acts on the core alone. -/
theorem everyCommandAnswersAndKeepsQueue : Obligations.EveryCommandAnswersAndKeepsQueue := by
  intro i s
  change AnswersWith s.pending (exec i s)
  cases i
  case por => exact answersWith_next rfl
  case vddioDetection => exact answersWith_next rfl
  case read p f => exact onFrame_answers (readFrame_pending p f) p s
  case write p f => exact onFrame_answers (writeFrame_pending p _ _ _ _ f) p s
  case status f => exact onFrame_answers (statusFrame_pending f.port f.frame) f.port s
  case outread p f => exact onFrame_answers (outreadFrame_pending p f) p s
  case stream p f =>
    exact onFrame_answers (fun u => (commitAll_pending p _).trans (writeFrame_pending p _ _ _ _ f u)) p s
  case skip p f =>
    exact onFrame_answers (fun u => (commitAll_pending p _).trans (writeFrame_pending p _ _ _ _ f u)) p s
  case outreadCommit p =>
    refine answersWith_next ?_
    split
    · rfl
    · split
      · split
        · exact commitOne_pending p s
        · split
          · exact commitAll_pending p s
          · rfl
      · rfl
  case malformedFrame p bytes =>
    refine answersWith_next ?_
    split
    · exact (malformed_pending p bytes _).trans (fallback_pending p s)
    · rfl
  case linkFallback p =>
    refine answersWith_next ?_
    split
    · exact fallback_pending p s
    · rfl
  case windowWrite p a w =>
    exact onCommit_word_answers (some p) false a w s
  case registerWrite p a w =>
    exact onCommit_word_answers (some p) false a w s
  case hlcfgWrite p w => exact onCommit_answers (fun u => commitWord_pending _ _ _ _ u) s
  case dbgaccWrite a w =>
    refine answersWith_next ?_
    split
    · rfl
    · exact dbgWrite_pending a w s
  all_goals exact onDev_answers _ s

end Sys2Proof.Machine
end
section
/-!
A protected TLS record opens again (O45): the AEADs of the suites keep lengths, their tags are 16 bytes.
-/

namespace Sys2Proof.Machine

/-! ### Lengths under a key stream -/

section
variable {key : Nat → Bytes} {n : Nat} (hn : 0 < n) (blocks : ∀ i, (key i).length = n)
include hn blocks

theorem length_xorStream (m : Bytes) (i : Nat) : (xorStream key (chunks n m) i).length = m.length := by
  by_cases hm : m = []
  · subst hm
    rfl
  · have pos : 0 < m.length := List.length_pos_iff.2 hm
    obtain ⟨first, rest⟩ := xorStream_cut hn blocks m i
    rw [← List.take_append_drop n (xorStream key (chunks n m) i), List.length_append, first, rest, length_xorStream,
      length_xorBytes, blocks, List.length_take, List.length_drop]
    omega
termination_by m.length
decreasing_by rw [List.length_drop]; omega

end

theorem length_ctrCrypt {key : Bytes} (hk : key.length = 16 ∨ key.length = 32) {w : Nat} (hw : w ≤ 16) {ctr : Bytes}
    (h : ctr.length = 16) (m : Bytes) : (ctrCrypt key w ctr m).length = m.length := by
  rw [ctrCrypt, ctrBlocks_eq_xorStream]
  exact length_xorStream (by decide) (fun i => length_aesEncryptWith (aesKeys_blocks hk) (length_ctrBlock hw h i)) m 0

theorem length_ccmCtr0 {iv : Bytes} (hi : iv.length ≤ 15) : (ccmCtr0 iv).length = 16 := by
  simp only [ccmCtr0, List.cons_append, List.length_cons, List.length_append, length_zeros]
  omega

/-! ### The tag of CCM (SP 800-38C) -/

theorem length_cbcMac {ks : List Bytes} (keys : ∀ k ∈ ks, k.length = 16) {bs : List Bytes} (blocks : ∀ b ∈ bs, b.length = 16)
    {x : Bytes} (h : x.length = 16) : (cbcMac ks bs x).length = 16 := by
  unfold cbcMac
  induction bs generalizing x with
  | nil => exact h
  | cons b bs ih =>
    refine ih (fun c hc => blocks c (List.mem_cons_of_mem _ hc)) (length_aesEncryptWith keys ?_)
    simp [blocks b List.mem_cons_self, h]

theorem length_padMul (bs : Bytes) : ∃ k, (padMul 16 bs).length = 16 * k := by
  refine ⟨(bs.length + (16 - bs.length % 16) % 16) / 16, ?_⟩
  rw [padMul, List.length_append, length_zeros]
  omega

theorem length_ccmTag {key iv : Bytes} (hk : key.length = 16 ∨ key.length = 32) (hi : iv.length ≤ 15) (aad pt : Bytes) :
    (ccmTag key iv 16 aad pt).length = 16 := by
  have b0 : (ccmB0 iv 16 aad.length pt.length).length = 16 := by
    simp only [ccmB0, List.cons_append, List.length_cons, List.length_append, length_natBE]
    omega
  obtain ⟨k, text⟩ := length_padMul pt
  obtain ⟨l, header⟩ := length_padMul (ccmAadLen aad.length ++ aad)
  have whole : ∃ j, (ccmB0 iv 16 aad.length pt.length
      ++ (if aad.length = 0 then [] else padMul 16 (ccmAadLen aad.length ++ aad)) ++ padMul 16 pt).length = 16 * j := by
    rw [List.length_append, List.length_append, b0, text]
    split
    · exact ⟨1 + k, by rw [List.length_nil]; omega⟩
    · exact ⟨1 + l + k, by omega⟩
  obtain ⟨j, whole⟩ := whole
  have mac := length_cbcMac (aesKeys_blocks hk) (chunks_whole (by decide) whole).2 (length_zeros 16)
  simp only [ccmTag]
  rw [List.length_take, length_xorBytes, mac, length_aesEncryptWith (aesKeys_blocks hk) (length_ccmCtr0 hi)]
  rfl

/-! ### The AEAD of a suite -/

/-- Under a key and a nonce the AEAD's text transformation undoes itself and keeps the length, and its tag is 16 bytes. -/
structure AeadAlg.Good (alg : AeadAlg) (key iv : Bytes) : Prop where
  twice : ∀ m, alg.crypt key iv (alg.crypt key iv m) = m
  length : ∀ m, (alg.crypt key iv m).length = m.length
  tag : ∀ aad ct, (alg.tag key iv 16 aad ct).length = 16

section
variable {key iv : Bytes} (hi : iv.length = 12)
include hi

theorem gcmAlg_good (hk : key.length = 16 ∨ key.length = 32) : gcmAlg.Good key iv where
  twice := gcmCrypt_twice hk hi
  length := length_ctrCrypt hk (by decide) (by rw [List.length_append, length_natBE, hi])
  tag aad ct := by
    have block : (iv ++ natBE 4 1).length = 16 := by rw [List.length_append, length_natBE, hi]
    exact (length_xorBytes _ _).trans (by rw [length_natBE, length_aesEncryptWith (aesKeys_blocks hk) block]; rfl)

theorem ccmAlg_good (hk : key.length = 16 ∨ key.length = 32) : ccmAlg.Good key iv where
  twice := ccmCrypt_twice hk (by omega)
  length := length_ctrCrypt hk (by omega) (length_ctrBlock (by omega) (length_ccmCtr0 (by omega)) 1)
  tag aad ct := length_ccmTag hk (by omega) aad _

theorem chachaAlg_good (hk : key.length = 32) : chachaAlg.Good key iv where
  twice := chachaCrypt_twice hk hi
  length m := by
    change (chachaCrypt key iv m).length = m.length
    rw [chachaCrypt, chachaBlocks_eq_xorStream]
    exact length_xorStream (by decide) (length_chachaBlock hk hi) m 1
  tag _ _ := length_natLE 16 _

theorem suiteAlg_good {suite : Nat} (ok : suiteOk suite = true) (hk : key.length = suiteKeyLen suite) :
    (suiteAlg suite).Good key iv := by
  have suites : suite = 0x1301 ∨ suite = 0x1302 ∨ suite = 0x1303 ∨ suite = 0x1304 := by
    simp only [suiteOk, Bool.and_eq_true, decide_eq_true_eq] at ok
    omega
  obtain rfl | rfl | rfl | rfl := suites
  · exact gcmAlg_good hi (.inl hk)
  · exact gcmAlg_good hi (.inr hk)
  · exact chachaAlg_good hi hk
  · exact ccmAlg_good hi (.inl hk)

end

/-! ### A TLS record (15 R355, R357) -/

/-- The inner plaintext of a record. -/
def recInner (typ pad : Nat) (content : Bytes) : Bytes := content ++ BitVec.ofNat 8 typ :: zeros pad

theorem innerSplit_recInner {typ : Nat} (pos : 1 ≤ typ) (small : typ < 256) (pad : Nat) (content : Bytes) :
    innerSplit (recInner typ pad content) = some (BitVec.ofNat 8 typ, content) := by
  have nonzero : BitVec.ofNat 8 typ ≠ 0#8 := by
    intro h
    have := congrArg BitVec.toNat h
    rw [BitVec.toNat_ofNat, Nat.mod_eq_of_lt small] at this
    exact absurd this (by simpa using Nat.one_le_iff_ne_zero.1 pos)
  have tail : (zeros pad).dropWhile (· == 0) = [] := by simp [zeros]
  have dropped : (recInner typ pad content).reverse.dropWhile (· == 0) = BitVec.ofNat 8 typ :: content.reverse := by
    rw [recInner, List.reverse_append, List.reverse_cons, zeros, List.reverse_replicate, List.append_assoc,
      List.dropWhile_append, ← zeros, tail]
    simp [nonzero]
  rw [innerSplit, dropped]
  simp

section
variable {r : RecCtx} (tls : r.proto = 1)
include tls

theorem header_tls (n len : Nat) : r.header n len = [0x17, 0x03, 0x03] ++ natBE 2 len := if_pos tls

theorem length_header_tls (n len : Nat) : (r.header n len).length = 5 := by
  rw [header_tls tls, List.length_append, length_natBE]
  rfl

/-- A TLS record: its header, ciphertext and tag. -/
theorem seal_tls (n typ pad : Nat) (content : Bytes) : r.seal n typ pad content
    = r.header n ((recInner typ pad content).length + 16) ++ ((suiteAlg r.suite).crypt r.key (r.nonce n) (recInner typ pad content)
      ++ (suiteAlg r.suite).tag r.key (r.nonce n) 16 (r.header n ((recInner typ pad content).length + 16))
        ((suiteAlg r.suite).crypt r.key (r.nonce n) (recInner typ pad content))) := by
  simp only [RecCtx.seal, tls, if_true]
  rfl

/-- Two TLS contexts of one suite, key and IV protect alike. -/
theorem seal_congr {q : RecCtx} (tls' : q.proto = 1) (suite : q.suite = r.suite) (key : q.key = r.key) (iv : q.iv = r.iv)
    (n typ pad : Nat) (content : Bytes) : q.seal n typ pad content = r.seal n typ pad content := by
  have nonce : q.nonce n = r.nonce n := by simp [RecCtx.nonce, tls, tls', iv]
  simp only [seal_tls tls, seal_tls tls', header_tls tls, header_tls tls', suite, key, nonce]

/-- A context whose AEAD is good opens what it would have protected under its number. -/
theorem unseal_seal (good : (suiteAlg r.suite).Good r.key (r.nonce r.seq)) (i : Nat) {typ : Nat} (pos : 1 ≤ typ)
    (small : typ < 256) (pad : Nat) (content : Bytes) (hold : Bool) :
    r.unseal i (r.seal r.seq typ pad content) hold =
      ⟨.ok, [BitVec.ofNat 8 typ, 0] ++ natBE 2 r.epoch ++ natBE 8 r.seq ++ content, content.length + pad + 22,
        [.recDone i r.gen r.seq true], [.recDone i r.gen r.seq true]⟩ := by
  have inner : (recInner typ pad content).length = content.length + pad + 1 := by
    rw [recInner, List.length_append, List.length_cons, length_zeros]
    omega
  have sealed := seal_tls tls r.seq typ pad content
  generalize hh : r.header r.seq ((recInner typ pad content).length + 16) = hdr at sealed
  have five : hdr.length = 5 := hh ▸ length_header_tls tls _ _
  generalize hc : (suiteAlg r.suite).crypt r.key (r.nonce r.seq) (recInner typ pad content) = ct at sealed
  have long : ct.length = content.length + pad + 1 := by rw [← hc, good.length, inner]
  generalize ht : (suiteAlg r.suite).tag r.key (r.nonce r.seq) 16 hdr ct = tag at sealed
  have sixteen : tag.length = 16 := ht ▸ good.tag hdr ct
  have total : (hdr ++ (ct ++ tag)).length = content.length + pad + 22 := by
    rw [List.length_append, List.length_append, five, long, sixteen]
    omega
  have back : (suiteAlg r.suite).crypt r.key (r.nonce r.seq) ct = recInner typ pad content := by rw [← hc, good.twice]
  have start : ∀ b0, recHeaderLen r.proto r.cid.length b0 = 5 := fun _ => if_pos tls
  have plain : plainHeader r (hdr ++ (ct ++ tag)) = hdr := by
    simp only [plainHeader, tls, if_true]
    exact (congrArg (List.take · _) (by rfl)).trans (List.take_left' five)
  have text : slice 5 ((hdr ++ (ct ++ tag)).length - 5 - 16) (hdr ++ (ct ++ tag)) = ct := by
    rw [slice, List.drop_left' five, total]
    exact List.take_left' (by omega)
  have last : (hdr ++ (ct ++ tag)).drop ((hdr ++ (ct ++ tag)).length - 16) = tag := by
    rw [total, ← List.append_assoc]
    exact List.drop_left' (by rw [List.length_append]; omega)
  have number : ∀ inp, r.recvSeq inp = r.seq := fun _ => if_pos tls
  have same : sameBytes tag tag = true := (sameBytes_iff _ _).2 rfl
  rw [sealed]
  simp only [RecCtx.unseal, start, number, plain, text, last, back, ht, same, innerSplit_recInner pos small, if_true,
    RecCtx.recvOut]
  rw [total]

end

/-- Settles O45: the contexts protect alike, and the suite's AEAD is good under a key and a nonce of its lengths. -/
theorem protectedRecordOpensAgain : Obligations.ProtectedRecordOpensAgain := by
  intro p u i typ pad content hold tlsP tlsU suite ok key keyLen iv ivLen seq pos small _
  have nonce : (u.nonce u.seq).length = 12 := by
    rw [RecCtx.nonce, length_xorBytes, length_natBE, ← iv, ivLen]
    rfl
  have good : (suiteAlg u.suite).Good u.key (u.nonce u.seq) :=
    suiteAlg_good nonce (suite ▸ ok) (by rw [← key, ← suite, keyLen])
  rw [seq, seal_congr tlsU tlsP suite key iv]
  exact unseal_seal tlsU good i pos small pad content hold

end Sys2Proof.Machine
end
section
/-!
The protocol service verbs (O44): a record command dispatches its row, a dispatched RECORD advances its context's number.
-/

namespace Sys2Proof.Machine

section
variable {i : Instr} {n : Chn} {sid verb op : Nat} {v : VerbSpec} {r : VerbRow} {x : Sentence} {c : Clause} {e : Nat} {s : State}

/-- A record command whose clause starts is the dispatch of its row. -/
theorem rec_dispatches (starts : s.starts r x c e) (hr : verbRow i = some r)
    (row : verbRow i = some ⟨n, sid, verb, some op, recSpec op v⟩ := by rfl)
    (command : exec i s = onDev (dispatchRec verb op v n sid) s := by rfl) :
    exec i s = onDev (dispatchVerb r.verb r.spec r.n r.sid) s := by
  obtain rfl := Option.some.inj (row.symm.trans hr)
  exact command.trans (onDev_congr starts.1.1 (if_pos (.inl (nextPar_starts starts rfl).2)))

end

/-- A record verb that does nothing of its own at dispatch computes what its work is. -/
theorem computes_rec (op : Nat) (v : VerbSpec) {i : Instr} {n : Chn} {sid verb : Nat} {o : Work → JobResult}
    (work : ∀ w, v.run w = o w) (row : verbRow i = some ⟨n, sid, verb, some op, recSpec op v⟩ := by rfl)
    (command : ∀ s, exec i s = onDev (dispatchRec verb op v n sid) s := by intro; rfl)
    (quiet : ∀ a d, v.atDispatch a d = d := by intros; rfl) : Computes i o := by
  intro r x c e s hr starts oneRound
  have dispatches := rec_dispatches starts hr row (command s)
  obtain rfl := Option.some.inj (row.symm.trans hr)
  rw [← work]
  exact runs_of_starts dispatches starts (fun a d => by rw [show (recSpec op v).atDispatch a d = d from quiet a d]; exact ⟨rfl, rfl⟩)
    oneRound

/-! ### The record contexts under a dispatch -/

theorem recs_modSent (n : Chn) (sid : Nat) (f : Sentence → Sentence) (d : Dev) :
    ((modSent n sid f d).chan n).recs = (d.chan n).recs := by rw [chan_modSent]

theorem setRec_spares (n : Chn) (i : Nat) (q : Option RecCtx) (d : Dev) :
    ((setRec n i q d).chan n).sents = (d.chan n).sents ∧ ((setRec n i q d).chan n).rings = (d.chan n).rings := by
  rw [setRec, chan_modChan_same]
  exact ⟨rfl, rfl⟩

theorem rec_setRec {i : Nat} (h : i < 8) (n : Chn) (q : Option RecCtx) (d : Dev) : (setRec n i q d).rec_ n i = q := by
  rw [setRec, Dev.rec_, chan_modChan_same, vset, dif_pos h, vget_of_lt _ h]
  simp

theorem rec_lt {d : Dev} {n : Chn} {i : Nat} {y : RecCtx} (h : d.rec_ n i = some y) : i < 8 := by
  by_contra hn
  rw [Dev.rec_, vget, List.getD_eq_getElem?_getD, List.getElem?_eq_none (by simpa using hn)] at h
  cases h

theorem recs_modRings (n : Chn) (f : Rings → Rings) (d : Dev) : ((modRings n f d).chan n).recs = (d.chan n).recs := by
  rw [modRings, chan_modChan_same]

theorem openDst_recs {n : Chn} {d : Dev} (h : (d.chan n).rings.out.good = true) (x : Sentence) (c : Clause) :
    ((openDst n x c d).2.chan n).recs = (d.chan n).recs := by
  have calm : scrubRing n d .out = d := scrubRing_good h
  simp only [openDst, calm]
  split
  · cases x.parent with
    | none => exact recs_modRings n (fun r => r.openOut (recBytes c.outCap) x.sid) d
    | some p => rfl
  · split
    · cases d.firstFit (ceilDiv c.outCap 512) <;> rfl
    · split <;> rfl

theorem startProg_recs (n : Chn) (c : Clause) (e : Nat) (d : Dev) :
    ((startProg n c e d).chan n).recs = (d.chan n).recs := by
  unfold startProg
  split
  · have claimed := congrArg Chan.recs (chan_modChan_same n
      (fun ch => { ch with prog := vset ch.prog (e - 12) ⟨true, 0, BitVec.ofNat 16 c.tag⟩ }) d)
    exact claimed
  · rfl

theorem consumeStream_recs (n : Chn) (x : Sentence) (c : Clause) (k : Nat) (d : Dev) :
    ((consumeStream n x c k d).chan n).recs = (d.chan n).recs := by
  unfold consumeStream
  split
  · rw [chan_modChan_same]
  · rfl

theorem settleResult_recs (v : VerbSpec) (n : Chn) (sid : Nat) (c : Clause) (j : Job) (pre d : Dev) :
    ((settleResult v n sid c j pre d).chan n).recs = (d.chan n).recs := by
  unfold settleResult
  split
  · exact recs_modSent n sid (fun s => { s with job := some { j with result := some (v.run (j.work n c pre)) } }) d
  · exact recs_modSent n sid (fun s => { s with job := some j }) d

/-- A record of an uncorrectable word leaves the contexts of its channel. -/
theorem noteUncorrectable_recs (n : Chn) (e : Nat) (w : Word) (d : Dev) :
    ((noteUncorrectable (some n) e w d).chan n).recs = (d.chan n).recs := by
  obtain ⟨z, noted⟩ := chan_noteCh n n 7 e (w &&& 0xFFFF) (noteGx 2 8 e w d)
  unfold noteUncorrectable
  have kept : ((noteGx 2 8 e w d).chan n).recs = (d.chan n).recs := congrArg Chan.recs (chan_of (noteGx_chans ..) n)
  rw [chan_of (stampFault_chans _)]
  exact (congrArg Chan.recs noted).trans kept

theorem gather_recs (v : VerbSpec) (n : Chn) (x : Sentence) (c : Clause) (j : Job) (pre d : Dev) :
    ((gather v n x c j pre d).chan n).recs = (d.chan n).recs := by
  simp only [gather]
  split
  · rw [noteUncorrectable_recs, recs_modSent, consumeStream_recs, noteWait, recs_modSent]
  · rw [settleResult_recs, consumeStream_recs, noteWait, recs_modSent]

section
variable {r : VerbRow} {x : Sentence} {c : Clause} {e : Nat} {s : State}

/-- The core the own changes of a verb are made on at the dispatch of its clause holds the contexts of before. -/
theorem drawnFrom_recs (starts : s.starts r x c e) {d : Dev} (move : TagsMove s.dev d) :
    ((drawFor r.spec (s.dev.ask r.n x c) x.sid (keyed r.spec (s.dev.ask r.n x c) x d)).2.chan r.n).recs
      = (s.dev.chan r.n).recs := by
  obtain ⟨-, -, -, -, -, -, -, -, -, -, -, -, served, -⟩ := starts
  obtain ⟨chans, drbg, entropy⟩ := keyed_frame r.spec (s.dev.ask r.n x c) x d
  have serves := (servesNow_of (drbg.trans (move.keeps .drbg (by decide) (by decide)))
    (entropy.trans (move.keeps .entropy (by decide) (by decide))) _).trans served
  obtain ⟨-, g, draws⟩ := drawFor_now serves x.sid
  rw [draws]
  exact (congrArg Chan.recs (chan_of chans r.n)).trans ((recs_modSent ..).trans (congrArg Chan.recs (chan_of move.chans r.n)))

/-- After a dispatch the contexts of its channel are those its verb's own changes leave. -/
theorem dispatchNow_recs (starts : s.starts r x c e) (spares : r.spec.SparesSents) (y : Sel) {d : Dev} (move : TagsMove s.dev d) :
    ((dispatchNow r.spec (s.dev.ask r.n x c) x y d).chan r.n).recs
      = ((drawn r.spec (s.dev.ask r.n x c) x d).chan r.n).recs := by
  obtain ⟨⟨-, -, -, good, -⟩, -, -, -, -, -, -, -, -, -, -, -, served, -⟩ := starts
  obtain ⟨chans, drbg, entropy⟩ := keyed_frame r.spec (s.dev.ask r.n x c) x d
  have serves := (servesNow_of (drbg.trans (move.keeps .drbg (by decide) (by decide)))
    (entropy.trans (move.keeps .entropy (by decide) (by decide))) _).trans served
  obtain ⟨-, rings⟩ := drawn_chan spares serves
  have out : ((drawn r.spec (s.dev.ask r.n x c) x d).chan r.n).rings.out.good = true :=
    (congrArg (·.out.good) (rings.trans (congrArg Chan.rings (chan_of move.chans r.n)))).trans (good .out)
  rw [dispatchNow_ask, gather_recs, startProg_recs, openDst_recs out]

/-- A command whose clause starts leaves its job running, the contexts of its channel as its verb's own changes leave those of
before. -/
theorem runs_with_recs {i : Instr} (verb : exec i s = onDev (dispatchVerb r.verb r.spec r.n r.sid) s)
    (starts : s.starts r x c e) (spares : r.spec.SparesSents) (oneRound : r.spec.rounds (s.dev.ask r.n x c) = false) :
    ∃ t j d, exec i s = .next t ∧ t.dev.sent r.n x.sid = some { x with wait := .none, sel := none, job := some j }
      ∧ j.phase = .run ∧ j.result = some (r.spec.run (s.workOf r x c)) ∧ (d.chan r.n).recs = (s.dev.chan r.n).recs
      ∧ (t.dev.chan r.n).recs = ((r.spec.atDispatch (s.dev.ask r.n x c) d).chan r.n).recs := by
  obtain ⟨y, d, move, dispatched⟩ := dispatchVerb_starts starts
  obtain ⟨j, sent, phase, result⟩ := dispatchNow_runs starts spares oneRound y move
  have recs : ((s.through (fun _ => dispatchNow r.spec (s.dev.ask r.n x c) x y d)).dev.chan r.n).recs
      = ((drawn r.spec (s.dev.ask r.n x c) x d).chan r.n).recs := by
    rw [through_chan]
    exact dispatchNow_recs starts spares y move
  exact ⟨_, j, _, verb.trans (onDev_to starts.1.1 dispatched), (sent_through ..).trans sent, phase, result,
    drawnFrom_recs starts move, recs⟩

end

/-! ### Records (15 R355, R357) -/

theorem protectVerb_spares : (recSpec 2 protectVerb).SparesSents := by
  intro a d
  change ((protectVerb.atDispatch a d).chan a.n).sents = _ ∧ ((protectVerb.atDispatch a d).chan a.n).rings = _
  simp only [protectVerb]
  split
  · exact setRec_spares ..
  · exact ⟨rfl, rfl⟩

theorem unprotectVerb_spares : (recSpec 2 unprotectVerb).SparesSents := by
  intro a d
  change ((unprotectVerb.atDispatch a d).chan a.n).sents = _ ∧ ((unprotectVerb.atDispatch a d).chan a.n).rings = _
  simp only [unprotectVerb]
  split
  · split
    · exact setRec_spares ..
    · exact ⟨rfl, rfl⟩
  · exact ⟨rfl, rfl⟩

/-- Protecting a record advances its context's number at the dispatch. -/
theorem protectVerb_advances {a : Ask} {d : Dev} {y : RecCtx} (h : d.rec_ a.n (par8 a.ps 1) = some y) :
    ((recSpec 2 protectVerb).atDispatch a d).rec_ a.n (par8 a.ps 1) = some { y with seq := y.seq + 1 } := by
  have acts : (recSpec 2 protectVerb).atDispatch a d = setRec a.n (par8 a.ps 1) (some { y with seq := y.seq + 1 }) d := by
    change protectVerb.atDispatch a d = _
    simp only [protectVerb, recIdx, h]
  rw [acts, rec_setRec (rec_lt h)]

/-- Opening a TLS record advances its context's number at the dispatch. -/
theorem unprotectVerb_advances {a : Ask} {d : Dev} {y : RecCtx} (h : d.rec_ a.n (par8 a.ps 1) = some y) :
    ((recSpec 2 unprotectVerb).atDispatch a d).rec_ a.n (par8 a.ps 1)
      = some (if y.proto = 1 then { y with seq := y.seq + 1 } else y) := by
  have acts : (recSpec 2 unprotectVerb).atDispatch a d
      = if y.proto = 1 then setRec a.n (par8 a.ps 1) (some { y with seq := y.seq + 1 }) d else d := by
    change unprotectVerb.atDispatch a d = _
    simp only [unprotectVerb, recIdx, h]
  rw [acts]
  split
  · rw [rec_setRec (rec_lt h)]
  · exact h

theorem protectVerb_run {w : Work} {y : RecCtx} (h : w.d.rec_ w.n (par8 w.ps 1) = some y) :
    protectVerb.run w = okOut (y.seal y.seq (par8 w.ps 2) (par16 w.ps 4) w.inp) w.inp.length := by
  simp only [protectVerb, recIdx, h]

theorem unprotectVerb_run {w : Work} {y : RecCtx} (h : w.d.rec_ w.n (par8 w.ps 1) = some y) :
    unprotectVerb.run w = y.unseal (par8 w.ps 1) w.inp w.hold := by
  simp only [unprotectVerb, recIdx, h]

/-- The signature of a telemetry message, or INVARIANT. -/
theorem telemetryVerb_run (w : Work) : telemetryVerb.run w =
    let cls := w.d.slotCls w.c.keySlot
    let prot := teleHeader cls w.c.keySlot w.ctr w.d.journal.seconds.toNat
    if par8 w.ps 0 = 1 then
      match coseSig cls w.key w.rnd (sigStructure prot (w.ps.drop 8) w.inp) with
      | some sg => okOut (coseSign1 prot w.inp sg) w.inp.length
      | none => failOut .invariant [] w.inp.length
    else
      let iv := if (slice 4 4 w.ps).length = 4 then slice 4 4 w.ps ++ zeros 3 ++ natBE 5 w.ctr else slice 4 4 w.ps
      okOut (cborTag 16 ++ cborArray 3 ++ cborBytes prot ++ cborMap 1 ++ cborUint 5 ++ cborBytes iv
        ++ cborBytes (sealOut (if cls = 0x14 then chachaAlg else gcmAlg) [] w.key iv 16
          (cborArray 3 ++ cborText "Encrypt0" ++ cborBytes prot ++ cborBytes (w.ps.drop 8)) w.inp)) w.inp.length := by
  simp only [telemetryVerb]
  split
  · cases coseSig (w.d.slotCls w.c.keySlot) w.key w.rnd (sigStructure (teleHeader (w.d.slotCls w.c.keySlot) w.c.keySlot w.ctr
      w.d.journal.seconds.toNat) (w.ps.drop 8) w.inp) <;> rfl
  · rfl

/-- The evidence signed, the statement of the derived key, or the identity's public key. -/
theorem attestVerb_run (w : Work) : attestVerb.run w =
    if par8 w.ps 0 = 1 then
      match es384Sign w.d.ks.aliasKey w.rnd (w.d.evidence w.n (w.ps.drop 4)) with
      | some sg => okOut sg 0
      | none => failOut .invariant [] 0
    else if par8 w.ps 0 = 2 then okOut w.d.ks.aliasStmt 0 else okOut w.d.ks.idPub 0 := by
  simp only [attestVerb]
  split
  · next h =>
    rw [if_pos h]
    cases es384Sign w.d.ks.aliasKey w.rnd (w.d.evidence w.n (w.ps.drop 4)) <;> rfl
  · next h => rw [h, if_neg (by decide), if_pos rfl]
  · next h1 h2 => rw [if_neg h1, if_neg h2]

/-- INFO gives the bytes of its context, zeros where there is none. -/
theorem info_runs {i : Instr} {n : Chn} {sid verb : Nat} {protect : Bool} {r : VerbRow} {x : Sentence} {c : Clause} {e : Nat}
    {s : State} (starts : s.starts r x c e) (hr : verbRow i = some r)
    (row : verbRow i = some ⟨n, sid, verb, some 4, recSpec 4 (recInfoVerb protect)⟩)
    (command : exec i s = onDev (dispatchRec verb 4 (recInfoVerb protect) n sid) s) :
    Runs i s r x (okOut (((s.dev.rec_ n (par8 (s.workOf r x c).ps 1)).map RecCtx.info).getD (zeros 32)) 0) := by
  have dispatches := rec_dispatches starts hr row command
  obtain rfl := Option.some.inj (row.symm.trans hr)
  exact runs_of_starts dispatches starts (fun _ _ => ⟨rfl, rfl⟩) rfl

/-- Settles O44: each service verb's work is what its entry says; a RECORD clause moves its context's number at its dispatch.
That INIT makes the context LIVE at the end of its clause, and that INFO gives the highest number for unprotect, are the model's
readings (log entry 24). -/
theorem serviceVerbsCompute : Obligations.ServiceVerbsCompute := by
  intro n sid
  refine ⟨?_, ?_, fun r x c e s starts w hw => ⟨fun i hi hr => ?_, fun y hr hy => ?_, fun y hr hy => ?_⟩,
    computes_by telemetryVerb telemetryVerb_run, computes_by attestVerb attestVerb_run, computes_by armVerb fun _ => rfl⟩
  · intro i protect h
    simp only [List.mem_cons, Prod.mk.injEq, List.not_mem_nil, or_false] at h
    obtain ⟨rfl, rfl⟩ | ⟨rfl, rfl⟩ := h
    · exact computes_rec 1 (recInitVerb true) fun _ => rfl
    · exact computes_rec 1 (recInitVerb false) fun _ => rfl
  · rintro i (rfl | rfl)
    · exact computes_rec 3 (recCloseVerb true) fun _ => rfl
    · exact computes_rec 3 (recCloseVerb false) fun _ => rfl
  · subst hw
    have runs : Runs i s r x (okOut (((s.dev.rec_ n (par8 (s.workOf r x c).ps 1)).map RecCtx.info).getD (zeros 32)) 0) := by
      obtain rfl | rfl := hi
      · exact info_runs (protect := true) starts hr rfl rfl
      · exact info_runs (protect := false) starts hr rfl rfl
    exact ⟨fun y hy => by rwa [hy] at runs, fun hy => by rwa [hy] at runs⟩
  · subst hw
    have dispatches := rec_dispatches (v := protectVerb) starts hr
    cases hr
    obtain ⟨t, j, d, answers, sent, -, result, before, after⟩ := runs_with_recs dispatches starts protectVerb_spares rfl
    have held : d.rec_ n (par8 (s.dev.ask n x c).ps 1) = some y := (congrArg (fun v => vget v _ none) before).trans hy
    refine ⟨t, j, answers, (congrArg (fun v => vget v _ none) after).trans (protectVerb_advances held), ?_, ?_⟩
    · exact (congrArg (t.dev.sent n) starts.2.1).trans sent
    · exact result.trans (congrArg some (protectVerb_run hy))
  · subst hw
    have dispatches := rec_dispatches (v := unprotectVerb) starts hr
    cases hr
    obtain ⟨t, j, d, answers, sent, phase, result, before, after⟩ := runs_with_recs dispatches starts unprotectVerb_spares rfl
    have held : d.rec_ n (par8 (s.dev.ask n x c).ps 1) = some y := (congrArg (fun v => vget v _ none) before).trans hy
    refine ⟨⟨t, j, answers, sent, phase, result.trans (congrArg some (unprotectVerb_run hy))⟩, fun u hu => ?_⟩
    obtain rfl := Host.Outcome.next.inj (answers.symm.trans hu)
    exact (congrArg (fun v => vget v _ none) after).trans (unprotectVerb_advances held)

end Sys2Proof.Machine
end
section
/-!
JTAG instructions and DBGACC accesses (O52).
-/

namespace Sys2Proof.Machine

/-- A command that changes the life-cycle registers alone. -/
theorem answers_lc {i : Instr} {s : State} {f : LifeCycle → LifeCycle} (awake : s.awake)
    (answers : exec i s = .next (s.through (fun _ => modLc f s.dev))) :
    ∃ t, exec i s = .next t ∧ SameShell s t ∧ Keeps [.lc] s.dev t.dev ∧ t.dev.lc = f s.dev.lc :=
  ⟨_, answers, same_const awake rfl, keeps_const (keeps_modLc _ _), rfl⟩

section
variable {d : Dev} (on : d.domOn 4 = true)
include on

/-! ### The TAP (13 R315, Table 13.6) -/

theorem jtagSelect_on (op : BitVec 4) (open_ : Bool) : jtagSelect op open_ d
    = modLc (fun l => { l with jtagIr := if open_ && !d.debugOpen then 0xF else op }) d := by
  simp only [jtagSelect, on]
  rfl

/-- A boundary-scan instruction that is available takes the bits shifted in. -/
theorem jtagScan_available {op : BitVec 4} {open_ : Bool} (avail : (open_ && !d.debugOpen) = false) :
    jtagScan op open_ d = bump (modLc (fun l => { l with
      jtagIr := op, scan := Config.scanIn d.ctr % 2 ^ Config.scanLen }) d) := by
  have selected : (modLc (fun l => { l with jtagIr := op }) d).domOn 4 = true := on
  simp only [jtagScan, jtagSelect_on on, avail, Bool.false_eq_true, if_false, selected]
  simp [modLc]

/-- One that is not leaves the boundary scan. -/
theorem jtagScan_unavailable {op : BitVec 4} {open_ : Bool} (avail : (open_ && !d.debugOpen) = true) (ne : op ≠ 0xF) :
    jtagScan op open_ d = modLc (fun l => { l with jtagIr := 0xF }) d := by
  have other : ((0xF : BitVec 4) == op) = false := beq_eq_false_iff_ne.2 ne.symm
  simp only [jtagScan, jtagSelect_on on, avail, if_true, modLc_lc, other, Bool.and_false, Bool.false_eq_true, if_false]

/-! ### DBGACC (13 R316) -/

theorem dbgAccess_open (opened : d.debugOpen = true) (f : Dev → Dev × Option Word × Bool) :
    dbgAccess f d = modLc (fun l => { l with
      jtagIr := 0x8, dbgUsed := true, dbgDone := true, dbgErr := (f d).2.2, dbgData := (f d).2.1.getD l.dbgData }) (f d).1 := by
  simp only [dbgAccess, on, opened]
  rfl

theorem dbgAccess_closed (closed : d.debugOpen = false) (f : Dev → Dev × Option Word × Bool) :
    dbgAccess f d = modLc (fun l => { l with jtagIr := 0xF }) d := by
  simp only [dbgAccess, on, closed]
  rfl

theorem dbgControl_open (opened : d.debugOpen = true) (f : LifeCycle → LifeCycle) :
    dbgControl f d = modLc (fun l => { f l with jtagIr := 0x8, dbgUsed := true, dbgDone := true, dbgErr := false }) d :=
  dbgAccess_open on opened _

end

/-- A write acts on the core its access leaves. -/
theorem exec_dbgaccWrite {s : State} (awake : s.awake) {a : Nat} {w : Word} {D : Dev} (writes : dbgWrite a w s = s.setDev D) :
    exec (.dbgaccWrite a w) s = .next (s.through (fun _ => D)) := by
  change Host.Outcome.next (if s.dev.inPor then s else (dbgWrite a w s).through id) = _
  rw [awake.1, writes]
  rfl

theorem dbgWrite_access {s : State} (on : s.dev.domOn 4 = true) (opened : s.dev.debugOpen = true) {a : Nat} {w : Word} {refused : Bool} (why : (s.dev.dbgRefused a || isLcRequest a w) = refused) :
    dbgAccess (fun d => (d, none, s.dev.dbgRefused a || isLcRequest a w)) s.dev
      = modLc (fun l => { l with jtagIr := 0x8, dbgUsed := true, dbgDone := true, dbgErr := refused }) s.dev := by
  rw [dbgAccess_open on opened, why]
  rfl

section
variable {s : State} (awake : s.awake) (on : s.dev.domOn 4 = true)
include awake on

theorem exec_select {i : Instr} {op : BitVec 4} (command : exec i s = onDev (jtagSelect op false) s) :
    ∃ t, exec i s = .next t ∧ SameShell s t ∧ Keeps [.lc] s.dev t.dev ∧ t.dev.lc = { s.dev.lc with jtagIr := op } :=
  answers_lc awake (command.trans (onDev_to awake (jtagSelect_on on op false)))

theorem exec_scan {i : Instr} {op : BitVec 4} {open_ : Bool} (command : exec i s = onDev (jtagScan op open_) s)
    (avail : (open_ && !s.dev.debugOpen) = false) (ne : op ≠ 0xF) :
    ∃ t bits, exec i s = .next t ∧ SameShell s t ∧ Keeps [.lc] s.dev t.dev
      ∧ t.dev.lc = { s.dev.lc with
        jtagIr := op, scan := if op = 0xF then s.dev.lc.scan else bits % 2 ^ Config.scanLen } := by
  refine ⟨_, Config.scanIn s.dev.ctr, command.trans (onDev_to awake (jtagScan_available on avail)), same_const awake rfl,
    keeps_const (fun q hq _ => ?_), ?_⟩
  · cases q <;> simp [Part.same] at hq ⊢
  · rw [through_lc, bump_lc, modLc_lc, if_neg ne]

theorem exec_scan_bypass {i : Instr} {op : BitVec 4} (command : exec i s = onDev (jtagScan op true) s)
    (closed : s.dev.debugOpen = false) (ne : op ≠ 0xF) :
    ∃ t, exec i s = .next t ∧ SameShell s t ∧ Keeps [.lc] s.dev t.dev ∧ t.dev.lc = { s.dev.lc with jtagIr := 0xF } :=
  answers_lc awake (command.trans (onDev_to awake (jtagScan_unavailable on (by rw [closed]; rfl) ne)))

theorem exec_control {i : Instr} {f : LifeCycle → LifeCycle} (command : exec i s = onDev (dbgControl f) s) :
    (s.dev.debugOpen = true → ∃ t, exec i s = .next t ∧ SameShell s t ∧ Keeps [.lc] s.dev t.dev
      ∧ t.dev.lc = { f s.dev.lc with jtagIr := 0x8, dbgUsed := true, dbgDone := true, dbgErr := false })
    ∧ (s.dev.debugOpen = false → ∃ t, exec i s = .next t ∧ SameShell s t ∧ Keeps [.lc] s.dev t.dev
      ∧ t.dev.lc = { s.dev.lc with jtagIr := 0xF }) :=
  ⟨fun opened => answers_lc awake (command.trans (onDev_to awake (dbgControl_open on opened f))),
    fun closed => answers_lc awake (command.trans (onDev_to awake (dbgAccess_closed on closed _)))⟩

variable (opened : s.dev.debugOpen = true)
include opened

/-- A read that leaves the core: what it answers is in DBGDATA, or it is refused with ERR. -/
theorem exec_dbgaccRead {a : Nat} {w : Option Word} {err : Bool} (reads : dbgRead s a s.dev = (s.dev, w, err)) :
    ∃ t, exec (.dbgaccRead a) s = .next t ∧ SameShell s t ∧ Keeps [.lc] s.dev t.dev
      ∧ t.dev.lc = { s.dev.lc with
        jtagIr := 0x8, dbgUsed := true, dbgDone := true, dbgErr := err, dbgData := w.getD s.dev.lc.dbgData } := by
  have access := dbgAccess_open on opened (dbgRead s a)
  rw [reads] at access
  exact answers_lc (f := fun l => { l with
    jtagIr := 0x8, dbgUsed := true, dbgDone := true, dbgErr := err, dbgData := w.getD l.dbgData }) awake (onDev_to awake access)

theorem exec_dbgaccWrite_refused {a : Nat} {w : Word} (why : (s.dev.dbgRefused a || isLcRequest a w) = true) :
    ∃ t, exec (.dbgaccWrite a w) s = .next t ∧ SameShell s t ∧ Keeps [.lc] s.dev t.dev
      ∧ t.dev.lc = { s.dev.lc with jtagIr := 0x8, dbgUsed := true, dbgDone := true, dbgErr := true } := by
  refine answers_lc (f := fun l => { l with jtagIr := 0x8, dbgUsed := true, dbgDone := true, dbgErr := true }) awake
    (exec_dbgaccWrite awake ?_)
  simp only [dbgWrite, dbgWrite_access on opened why]
  rw [why]
  rfl

theorem exec_dbgaccWrite_sram {a : Nat} (w : Word) (reached : s.dev.dbgRefused a = false) (sram : inSram a = true) :
    ∃ t, exec (.dbgaccWrite a w) s = .next t ∧ SameShell s t ∧ Keeps [.lc, .boot] s.dev t.dev
      ∧ t.dev.boot = { s.dev.boot with sram := s.dev.boot.sram.setWord 0 (a - 0xC00000) w } ∧ t.dev.lc.dbgErr = false := by
  have high : 0xC00000 ≤ a := by
    simp only [inSram, Bool.and_eq_true, decide_eq_true_eq] at sram
    exact sram.1
  have free : (s.dev.dbgRefused a || isLcRequest a w) = false := by
    have other : (a == 0x080) = false := beq_eq_false_iff_ne.2 (by omega)
    rw [reached, isLcRequest, other]
    rfl
  have writes : dbgWrite a w s = s.setDev (modBoot (fun b => { b with sram := b.sram.setWord 0 (a - 0xC00000) w })
      (modLc (fun l => { l with jtagIr := 0x8, dbgUsed := true, dbgDone := true, dbgErr := false }) s.dev)) := by
    simp only [dbgWrite, dbgWrite_access on opened free]
    rw [free, on, opened, sram]
    rfl
  refine ⟨_, exec_dbgaccWrite awake writes, same_const awake rfl, keeps_const (fun q hq _ => ?_), rfl, rfl⟩
  cases q <;> simp [Part.same] at hq ⊢

end

/-- Settles O52: an instruction that is not available selects BYPASS; an access in an open state is made or refused. That a step
changes USED and DONE alone, that a transition request and BLOCK give ERR, and the bits of the boundary scan are the model's
choices (log entries 39, 56, 76). -/
theorem jtagAndDebugAccesses : Obligations.JtagAndDebugAccesses := by
  intro s awake on
  refine ⟨fun i op hi => ?_, fun i op hi => ?_, fun i h hi => ?_, fun a opened => ⟨fun i hi => ?_, fun reached sram win => ?_,
    fun reached sram => ⟨?_, fun w => exec_dbgaccWrite_sram awake on opened w reached sram⟩⟩⟩
  · simp only [List.mem_cons, Prod.mk.injEq, List.not_mem_nil, or_false] at hi
    obtain ⟨rfl, rfl⟩ | ⟨rfl, rfl⟩ | ⟨rfl, rfl⟩ := hi
    all_goals exact exec_select awake on rfl
  · simp only [List.mem_cons, Prod.mk.injEq, List.not_mem_nil, or_false] at hi
    obtain ⟨rfl, rfl⟩ | ⟨rfl, rfl⟩ := hi
    · exact exec_scan (i := .jtagSamplePreload) (op := 0x2) (open_ := false) awake on rfl rfl (by decide)
    · cases opened : s.dev.debugOpen with
      | true => exact exec_scan (i := .jtagExtest) (op := 0x3) (open_ := true) awake on rfl (by rw [opened]; rfl) (by decide)
      | false =>
        obtain ⟨t, answers⟩ := exec_scan_bypass (i := .jtagExtest) (op := 0x3) awake on rfl opened (by decide)
        exact ⟨t, 0, answers⟩
  · simp only [List.mem_cons, Prod.mk.injEq, List.not_mem_nil, or_false] at hi
    obtain ⟨rfl, rfl⟩ | ⟨rfl, rfl⟩ | ⟨rfl, rfl⟩ := hi
    · exact exec_control (f := fun l => { l with dbgHalt := true }) awake on rfl
    · exact exec_control (f := fun l => { l with dbgHalt := false }) awake on rfl
    · exact exec_control (f := id) awake on rfl
  · obtain ⟨refused, rfl | ⟨w, rfl⟩⟩ | ⟨w, rfl, request⟩ := hi
    · exact exec_dbgaccRead (w := none) awake on opened (by rw [dbgRead, if_pos refused])
    · exact exec_dbgaccWrite_refused awake on opened (by rw [refused]; rfl)
    · exact exec_dbgaccWrite_refused awake on opened (by rw [request, Bool.or_true])
  · exact exec_dbgaccRead (w := some (s.ctlWord none a)) awake on opened (by simp [dbgRead, reached, sram, win])
  · obtain ⟨t, answers, same, keeps, lc⟩ := exec_dbgaccRead (a := a) (w := some (s.dev.boot.sram.word 0 (a - 0xC00000)))
      (err := false) awake on opened (by simp [dbgRead, reached, sram])
    exact ⟨t, answers, same, keeps, by rw [lc]; rfl, by rw [lc]⟩

end Sys2Proof.Machine
end
section
/-!
What the ROM's steps leave alone until the program starts (14 R323): the reset, STOP, the END fuse, the life-cycle state
shown, GSTAT.BOOT, the confirm watchdog, the loader's answer.
-/

namespace Sys2Proof.Machine

/-- What the ROM's steps leave alone: the reset, STOP's state, the END fuse, whether the flash is known; the life-cycle
registers shown; GSTAT.BOOT, the confirm watchdog, the loader's answer. -/
structure RomView where
  rst : Rst
  st : RunState
  ended : Bool
  known : Bool
  shown : Bool
  lcstate : Nat
  dbgOpen : Bool
  boot : Nat
  confirmRun : Bool
  loaderOut : Bytes

/-- The view of a core. -/
def Dev.romView (d : Dev) : RomView :=
  ⟨d.rst, d.power.st, d.otp.endFuse, d.flash.known, d.lc.shown, d.lc.lcstate, d.lc.dbgOpen, d.boot.boot, d.boot.confirmRun, d.boot.loaderOut⟩

/-! ### The state's operations -/

@[simp] theorem bump_romView (d : Dev) : (bump d).romView = d.romView := rfl
@[simp] theorem modKs_romView (f : KeyStore → KeyStore) (d : Dev) : (modKs f d).romView = d.romView := rfl
@[simp] theorem modEng_romView (e : Eng) (f : Engine → Engine) (d : Dev) : (modEng e f d).romView = d.romView := rfl
@[simp] theorem modEnt_romView (f : Entropy → Entropy) (d : Dev) : (modEnt f d).romView = d.romView := rfl
@[simp] theorem modClk_romView (f : Clocks → Clocks) (d : Dev) : (modClk f d).romView = d.romView := rfl
@[simp] theorem modSup_romView (f : Supply → Supply) (d : Dev) : (modSup f d).romView = d.romView := rfl
@[simp] theorem modGate_romView (f : Gate → Gate) (d : Dev) : (modGate f d).romView = d.romView := rfl
@[simp] theorem modPhr_romView (f : Phrases → Phrases) (d : Dev) : (modPhr f d).romView = d.romView := rfl
@[simp] theorem modJ_romView (f : Journal → Journal) (d : Dev) : (modJ f d).romView = d.romView := rfl
@[simp] theorem modDom_romView (x : Nat) (f : Dom → Dom) (d : Dev) : (modDom x f d).romView = d.romView := rfl
@[simp] theorem modRow_romView (f : EpochRow → EpochRow) (d : Dev) : (modRow f d).romView = d.romView := rfl
theorem withTrouble_romView (d : Dev) (t : Trouble) : Dev.romView { d with trouble := t } = d.romView := rfl
theorem modPow_romView {f : Power → Power} {d : Dev} (h : (f d.power).st = d.power.st) : (modPow f d).romView = d.romView := by
  simp only [Dev.romView, modPow_rst, modPow_lc, modPow_boot, modPow_otp, modPow_flash, modPow_power, h]
@[simp] theorem queueEntry_romView (e : JEntry) (d : Dev) : (queueEntry e d).romView = d.romView := by simp [Dev.romView]
@[simp] theorem noteGx_romView (k b e : Nat) (w : Word) (d : Dev) : (noteGx k b e w d).romView = d.romView := by
  simp [Dev.romView]
@[simp] theorem noteG_romView (k b : Nat) (d : Dev) : (noteG k b d).romView = d.romView := by simp [Dev.romView]
@[simp] theorem raiseWhy_romView (b e : Nat) (d : Dev) : (raiseWhy b e d).romView = d.romView := by simp [Dev.romView]
@[simp] theorem noteOtpErr_romView (d : Dev) : (noteOtpErr d).romView = d.romView := by simp [Dev.romView]
@[simp] theorem noteSlotFail_romView (d : Dev) : (noteSlotFail d).romView = d.romView := by simp [Dev.romView]
@[simp] theorem bootBit_romView (i : Nat) (b : Bool) (d : Dev) : (bootBit i b d).romView = d.romView := rfl

theorem foldl_romView {α : Type} {f : Dev → α → Dev} (h : ∀ d a, (f d a).romView = d.romView) (l : List α) (d : Dev) :
    (l.foldl f d).romView = d.romView :=
  List.foldlRecOn (motive := fun e : Dev => e.romView = d.romView) _ _ rfl (fun e he a _ => (h e a).trans he)

theorem ite_romView {c : Prop} [Decidable c] {a b d : Dev} (ha : a.romView = d.romView) (hb : b.romView = d.romView) :
    (if c then a else b).romView = d.romView := by
  split
  · exact ha
  · exact hb

/-! ### The flash, the counter log and the header -/

@[simp] theorem flashErase_romView (a k : Nat) (d : Dev) : (flashErase a k d).romView = d.romView := ite_romView rfl rfl

@[simp] theorem flashProgram_romView (a : Nat) (bs : Bytes) (ok : Bool) (d : Dev) :
    (flashProgram a bs ok d).romView = d.romView := ite_romView rfl (ite_romView rfl rfl)

@[simp] theorem writeCopy_romView (r : TwoCopies) (mk : Nat → Nat → Bytes) (ok : Bool) (d : Dev) :
    (writeCopy r mk ok d).romView = d.romView := by simp [writeCopy]

@[simp] theorem logRecord_romView (slot v flags : Nat) (ok : Bool) (d : Dev) :
    (logRecord slot v flags ok d).romView = d.romView := by simp [logRecord]

theorem logCopyOne_romView (r : CtrRec) (t : Nat) (vs : List Bool) (d : Dev) : (logCopyOne r t vs d).1.romView = d.romView := by
  induction t generalizing vs d with
  | zero => rfl
  | succ t ih =>
    simp only [logCopyOne]
    split_ifs
    · rfl
    · exact logRecord_romView ..
    · exact (ih _ _).trans (logRecord_romView ..)

theorem logCopy_romView (rs : List CtrRec) (vs : List Bool) (d : Dev) : (logCopy rs vs d).1.romView = d.romView := by
  induction rs generalizing vs d with
  | nil => rfl
  | cons r rs ih => exact (ih _ _).trans (logCopyOne_romView ..)

theorem logMove_romView (d : Dev) : (logMove d).romView = d.romView := by
  simp only [logMove]
  split <;> simp

theorem logRoom_romView (vs : List Bool) (d : Dev) : (logRoom vs d).1.romView = d.romView := by
  unfold logRoom
  split
  · rfl
  · exact (logMove_romView _).trans (logCopy_romView ..)

@[simp] theorem logAppend_romView (slot v flags t : Nat) (vs : List Bool) (d : Dev) :
    (logAppend slot v flags t vs d).2.1.romView = d.romView := by
  induction t generalizing vs d with
  | zero => rfl
  | succ t ih =>
    have record (ok : Bool) : (logRecord slot v flags ok (logRoom vs d).1).romView = d.romView :=
      (logRecord_romView ..).trans (logRoom_romView vs d)
    simp only [logAppend]
    split
    · exact record _
    · exact (ih _ _).trans (record _)

@[simp] theorem putHeader_romView (b : Bool) (h : Header) (kek : Bytes) (ok : Bool) (d : Dev) :
    (putHeader b h kek ok d).romView = d.romView := by
  simp only [putHeader]
  split <;> simp

@[simp] theorem writeHeader_romView (f : Header → Header) (vs : List Bool) (d : Dev) :
    (writeHeader f vs d).2.1.romView = d.romView := putHeader_romView ..

@[simp] theorem firstHeader_romView (kek : Bytes) (h : Header) (bs vs : List Bool) (d : Dev) :
    (firstHeader kek h bs vs d).2.1.romView = d.romView := by
  induction bs generalizing vs d with
  | nil => rfl
  | cons b bs ih =>
    simp only [firstHeader]
    split
    · exact putHeader_romView ..
    · exact (ih _ _).trans (putHeader_romView ..)

@[simp] theorem openStore_romView (kek : Bytes) (d : Dev) : (openStore kek d).romView = d.romView := by
  simp only [openStore]
  split <;> simp

@[simp] theorem lockStore_romView (r : Nat) (d : Dev) : (lockStore r d).romView = d.romView := by simp [lockStore]

@[simp] theorem unlockFor_romView (meas : Bytes) (ver want : Nat) (d : Dev) : (unlockFor meas ver want d).romView = d.romView := by
  unfold unlockFor
  split
  · exact lockStore_romView ..
  · split
    · exact openStore_romView ..
    · exact lockStore_romView ..

@[simp] theorem createHeader_romView (meas : Bytes) (ver : Nat) (vs burns : List Bool) (d : Dev) :
    (createHeader meas ver vs burns d).1.romView = d.romView := by
  simp only [createHeader]
  split
  · simp
  · rw [openStore_romView]
    change (if _ then modRow _ _ else noteOtpErr _).romView = _
    split <;> simp

/-! ### Erasing the area -/

@[simp] theorem judgeWear_romView (d : Dev) : (judgeWear d).romView = d.romView := by
  unfold judgeWear
  split <;> simp

@[simp] theorem eraseSectors_romView (is : List Nat) (d : Dev) : (eraseSectors is d).romView = d.romView :=
  foldl_romView (fun e x => by simp [eraseKsSector]) _ d

@[simp] theorem eraseArea_romView (d : Dev) : (eraseArea d).romView = d.romView :=
  by simp [eraseArea]

@[simp] theorem finishErase_romView (d : Dev) : (finishErase d).romView = d.romView :=
  ite_romView rfl ((judgeWear_romView _).trans (eraseSectors_romView ..))

/-! ### Engines and entropy (08 R189, 18 R426) -/

@[simp] theorem recordFailures_romView (vs : List Bool) (d : Dev) : (recordFailures vs d).romView = d.romView :=
  ite_romView rfl (writeCopy_romView ..)

@[simp] theorem countFailure_romView (e : Eng) (cause : Nat) (burns vfy : List Bool) (d : Dev) :
    (countFailure e cause burns vfy d).romView = d.romView := by
  unfold countFailure
  split
  · rfl
  · refine (recordFailures_romView ..).trans ((modEng_romView ..).trans (ite_romView rfl ?_))
    exact (noteOtpErr_romView _).trans (modEng_romView ..)

@[simp] theorem failTest_romView (e : Eng) (burns vfy : List Bool) (d : Dev) : (failTest e burns vfy d).romView = d.romView := by
  simp only [failTest, quarantine]
  split <;> simp

theorem bootKat_romView (env : RomEnv) (d : Dev) (e : Eng) : (bootKat env d e).romView = d.romView := by
  unfold bootKat
  split_ifs <;> simp

theorem blockFails_romView (t : Bool × Bool) (d : Dev) : (blockFails t d).2.romView = d.romView := by
  simp only [blockFails]
  split
  · simp only [raiseWhy_romView, noteG_romView]
    rfl
  · simp only [noteG_romView]
    rfl

theorem nextBlock_romView (before : List Bool) (bs : List (List Bool)) (d : Dev) :
    (nextBlock before bs d).2.2.2.romView = d.romView := by cases bs <;> rfl

theorem drawBlocks_romView (fuel need : Nat) (before : List Bool) (bs : List (List Bool)) (d : Dev) :
    (drawBlocks fuel need before bs d).2.2.2.romView = d.romView := by
  induction fuel generalizing need before bs d with
  | zero => cases need <;> rfl
  | succ f ih =>
    cases need with
    | zero => rfl
    | succ need =>
      have drawn := nextBlock_romView before bs d
      simp only [drawBlocks]
      split
      · rfl
      · split
        · split
          · exact (blockFails_romView ..).trans drawn
          · exact (ih ..).trans ((blockFails_romView ..).trans drawn)
        · exact (ih ..).trans drawn

theorem startUp_romView (bs : List (List Bool)) (d : Dev) : (startUp bs d).2.2.romView = d.romView := by
  simp only [startUp]
  split <;> exact drawBlocks_romView ..

theorem bootDrbg_romView (bs : List (List Bool)) (d : Dev) : (bootDrbg bs d).2.romView = d.romView := by
  simp only [bootDrbg]
  split <;> exact drawBlocks_romView ..

theorem firstStart_romView (bs : List (List Bool)) (burns : List Bool) (d : Dev) :
    (firstStart bs burns d).2.2.romView = d.romView := by
  have drawn : (occasion 2 bs d).2.2.2.romView = d.romView := drawBlocks_romView ..
  simp only [firstStart]
  generalize occasion 2 bs d = r at drawn ⊢
  split_ifs
  · rfl
  · exact drawn
  · exact (noteOtpErr_romView _).trans drawn
  · rw [eraseArea_romView]
    exact drawn
  · exact drawn

/-! ### The choice of the program (R324) -/

@[simp] theorem rewriteBoot_romView (f : BootRec → BootRec) (vs : List Bool) (d : Dev) :
    (rewriteBoot f vs d).1.romView = d.romView := writeCopy_romView ..

@[simp] theorem burnRatchet_romView (burns : List Bool) (d : Dev) : (burnRatchet burns d).1.romView = d.romView := by
  unfold burnRatchet
  split
  · rfl
  · exact ite_romView (modRow_romView ..) (noteOtpErr_romView d)

theorem chooseNormal_romView (vs : List Bool) (d : Dev) : (chooseNormal vs d).d.romView = d.romView := by
  simp only [chooseNormal]
  split
  · rfl
  · split
    · rfl
    · simp

theorem chooseNormal_kind (vs : List Bool) (d : Dev) {k : Nat} (h : (chooseNormal vs d).slot = some k) :
    (chooseNormal vs d).kind = 2 := by
  simp only [chooseNormal] at h ⊢
  split at h
  · cases h
  · split <;> rfl

@[simp] theorem revert_romView (vs : List Bool) (d : Dev) : (revert vs d).1.romView = d.romView := by simp [revert]

@[simp] theorem finishConfirm_romView (k : Nat) (h : Header) (vs burns : List Bool) (d : Dev) :
    (finishConfirm k h vs burns d).1.romView = d.romView := by
  simp only [finishConfirm, noteMgmt, queueEntry_romView, rewriteBoot_romView]
  split
  · exact burnRatchet_romView burns d
  · rfl

theorem choose_romView (vs burns : List Bool) (d : Dev) : (choose vs burns d).1.d.romView = d.romView := by
  simp only [choose]
  split
  · split <;> simp [chooseNormal_romView]
  · split
    · split <;> simp [chooseNormal_romView]
    · exact chooseNormal_romView vs d

/-- A slot chosen starts a trial or a normal boot. -/
theorem choose_kind (vs burns : List Bool) (d : Dev) {k : Nat} (h : (choose vs burns d).1.slot = some k) :
    (choose vs burns d).1.kind = 1 ∨ (choose vs burns d).1.kind = 2 := by
  revert h
  simp only [choose]
  split
  · split <;> exact fun h => .inr (chooseNormal_kind _ _ h)
  · split
    · split
      · exact fun _ => .inl rfl
      · exact fun h => .inr (chooseNormal_kind _ _ h)
    · exact fun h => .inr (chooseNormal_kind _ _ h)

/-! ### Steps 9 to 13 -/

@[simp] theorem recalcLevel_romView (d : Dev) : (recalcLevel d).romView = d.romView := by
  simp only [recalcLevel]
  split_ifs <;> simp

theorem loadCal_romView (b : Bytes) (d : Dev) : (loadCal b d).romView = d.romView := by
  simp only [loadCal, recalcLevel_romView, modClk_romView, modSup_romView]
  exact modPow_romView rfl

theorem loadCalibration_romView (d : Dev) : (loadCalibration d).romView = d.romView := by
  simp only [loadCalibration]
  rw [modClk_romView, loadCal_romView, modClk_romView]

theorem loadConfig_romView (d : Dev) : (loadConfig d).romView = d.romView := by
  simp only [loadConfig]
  split
  · rfl
  · exact ite_romView rfl ((noteG_romView ..).trans rfl)

theorem loadPhrases_romView (d : Dev) : (loadPhrases d).romView = d.romView := by
  unfold loadPhrases
  split <;> rfl

theorem recomputeWhy_romView (d : Dev) : (recomputeWhy d).romView = d.romView := by
  simp only [recomputeWhy]
  refine (ite_romView (noteG_romView ..) rfl).trans ((ite_romView (noteG_romView ..) rfl).trans ?_)
  exact withTrouble_romView d _

theorem restoreSeconds_romView (d : Dev) : (restoreSeconds d).romView = d.romView := ite_romView rfl rfl

theorem romTables_romView (d : Dev) : (romTables d).romView = d.romView := by
  simp only [romTables, recomputeWhy_romView, loadPhrases_romView, loadCalibration_romView, loadConfig_romView]
  exact ite_romView (restoreSeconds_romView _) (restoreSeconds_romView _)

theorem reviewMark_romView (vs : List Bool) (d : Dev) : (reviewMark vs d).1.romView = d.romView := by
  simp only [reviewMark]
  split
  · rfl
  · split <;> simp

theorem dropCandidates_romView (vs : List Bool) (d : Dev) : (dropCandidates vs d).1.romView = d.romView := by
  unfold dropCandidates
  split
  · split
    · exact writeHeader_romView ..
    · rfl
  · rfl

theorem romStore_romView (meas : Bytes) (ver kind : Nat) (vs burns : List Bool) (d : Dev) :
    (romStore meas ver kind vs burns d).romView = d.romView := by
  simp only [romStore]
  split_ifs <;> simp only [reviewMark_romView, dropCandidates_romView, unlockFor_romView, lockStore_romView] <;>
    exact createHeader_romView ..

theorem romKeys_romView (meas : Bytes) (ver : Nat) (d : Dev) : (romKeys meas ver d).romView = d.romView := by
  simp only [romKeys]
  split <;> rfl

theorem reviewTamper_romView (d : Dev) (i : Fin 2) : (reviewTamper d i).romView = d.romView := ite_romView rfl rfl

end Sys2Proof.Machine
end
section
/-!
The recovery loader's packets (O53) and the program it starts.
-/

namespace Sys2Proof.Machine

/-! ### The program started (14 R323, R329) -/

/-- The view once a program has started. -/
def RomView.started (v : RomView) (kind : Nat) : RomView := { v with boot := kind, confirmRun := kind == 1 || v.confirmRun }

/-- The program's start sets GSTAT.BOOT, runs a trial's watchdog and leaves the rest the ROM's steps leave. -/
theorem romStart_romView (meas : Bytes) (ver kind path : Nat) (d : Dev) : (romStart meas ver kind path d).romView
    = d.romView.started kind := by
  have gate (e : Dev) : (gateStart e).romView = e.romView := ite_romView rfl rfl
  simp only [romStart, gate, queueEntry_romView, modDom_romView, RomView.started]
  cases kind == 1 <;> rfl

/-- The gate starts with the program, outside END. -/
theorem romStart_gate {d : Dev} (h : d.otp.endFuse = false) (meas : Bytes) (ver kind path : Nat) :
    (romStart meas ver kind path d).gate.starting = true := by
  have gate (e : Dev) (he : e.otp.endFuse = false) : (gateStart e).gate.starting = true := by
    rw [gateStart, he]
    rfl
  refine gate _ ?_
  rw [queueEntry_otp, modDom_otp]
  cases kind == 1 <;> exact h

theorem romFinish_romView (slot kind path : Nat) (vs burns : List Bool) (d : Dev) :
    (romFinish slot kind path vs burns d).romView
      = d.romView.started kind := by
  have before (meas : Bytes) (ver : Nat) : (romKeys meas ver (romStore meas ver kind vs burns
      ([(0 : Fin 2), 1].foldl reviewTamper (romTables (bootBit 16 (slot == 1) d))))).romView = d.romView := by
    rw [romKeys_romView, romStore_romView, foldl_romView reviewTamper_romView, romTables_romView, bootBit_romView]
  exact (romStart_romView ..).trans (congrArg (RomView.started · kind) (before ..))

theorem loadImage_romView (slot : Nat) (d : Dev) : (loadImage slot d).romView = d.romView := rfl

theorem view_rst {d e : Dev} (h : e.romView = d.romView) : e.rst = d.rst := congrArg RomView.rst h

/-! ### Packets (14 R328, R329) -/

section
variable {s : State} (awake : s.awake)
include awake

/-- A packet that stays in RUN is what the loader makes of it: U_RXD wakes nothing there. -/
theorem onUart_to {f : Dev → Dev} {D : Dev} (acts : f s.dev = D) (still : D.power.st = .run) :
    onUart f s = .next (s.through (fun _ => D)) :=
  onDev_to awake (by rw [acts, wakes_run still])

/-- A packet that changes the loader's own registers. -/
theorem uart_boot (run : s.dev.power.st = .run) {i : Instr} {f : Dev → Dev} (command : exec i s = onUart f s) {g : Boot → Boot}
    (acts : f s.dev = modBoot g s.dev) :
    ∃ t, exec i s = .next t ∧ SameShell s t ∧ Keeps [.boot] s.dev t.dev ∧ t.dev.boot = g s.dev.boot :=
  ⟨_, command.trans (onUart_to awake acts run), same_const awake rfl,
    keeps_const (fun q hq _ => by cases q <;> simp [Part.same] at hq ⊢), rfl⟩

/-- A packet that is answered and changes nothing else. -/
theorem uart_respond (run : s.dev.power.st = .run) {i : Instr} {f : Dev → Dev} (command : exec i s = onUart f s) {cmd : Nat}
    {payload : Bytes} (acts : f s.dev = respond cmd payload s.dev) :
    ∃ t, exec i s = .next t ∧ SameShell s t ∧ Keeps [.boot] s.dev t.dev
      ∧ t.dev.boot = { s.dev.boot with loaderOut := loaderPacket cmd payload } :=
  uart_boot awake run command (g := fun b => { b with loaderOut := loaderPacket cmd payload }) acts

end

theorem onLoader_rated {d : Dev} (loading : d.loading = true) (rated : d.boot.loaderBaud.isSome = true) (f : Dev → Dev) :
    onLoader f d = f d := by
  simp only [onLoader, loading, rated]
  rfl

theorem loaderData_taken {off : Word} {data : Bytes} (whole : data.length % 4 = 0) (some_ : 0 < data.length)
    (small : data.length ≤ 4092) (inside : off.toNat + data.length ≤ 262144) (d : Dev) : loaderData off data d
      = modBoot (fun b => { b with sram := b.sram.write 0 off.toNat data, loaderOut := loaderPacket 0x82 [0] }) d := by
  have taken : (data.length % 4 != 0 || decide (262144 < off.toNat + data.length) || data.length == 0
      || decide (4092 < data.length)) = false := by
    simp only [Bool.or_eq_false_iff, decide_eq_false_iff_not, beq_eq_false_iff_ne, bne_eq_false_iff_eq]
    omega
  rw [loaderData, taken]
  rfl

theorem loaderData_refused {off : Word} {data : Bytes} (h : data.length % 4 ≠ 0 ∨ 262144 < off.toNat + data.length) (d : Dev) :
    loaderData off data d = respond 0x82 [2] d := by
  have refused : (data.length % 4 != 0 || decide (262144 < off.toNat + data.length) || data.length == 0
      || decide (4092 < data.length)) = true := by
    simp only [Bool.or_eq_true, decide_eq_true_eq, beq_iff_eq, bne_iff_ne]
    omega
  rw [loaderData, refused]
  rfl

theorem loaderCommit_malformed {len : Word} {d : Dev} {img : Bytes} (himg : img = d.boot.sram.read 0 0 (min len.toNat 262144))
    (bad : imgValid (img.take 64) = false ∨ len.toNat ≠ 64 + imgLen img) (vfy burns : List Bool) :
    loaderCommit len vfy burns d = respond 0x83 [3] d := by
  have malformed : (!imgValid (img.take 64) || len.toNat != 64 + imgLen img) = true := by simpa using bad
  simp only [loaderCommit, ← himg, malformed, if_true]

section
variable {len : Word} {d : Dev} {img : Bytes} (himg : img = d.boot.sram.read 0 0 (min len.toNat 262144))
  (valid : imgValid (img.take 64) = true) (whole : len.toNat = 64 + imgLen img)
include himg valid whole

theorem loaderCommit_whole (vfy burns : List Bool) : loaderCommit len vfy burns d
    = if d.accepts (sha384 img) (imgVer img) then loaderAccept img vfy burns d else respond 0x83 [4] (bootBit 0 true d) := by
  have wellFormed : (!imgValid (img.take 64) || len.toNat != 64 + imgLen img) = false := by simp [valid, whole]
  simp only [loaderCommit, ← himg, wellFormed]
  cases d.accepts (sha384 img) (imgVer img) <;> rfl

end

theorem flashErase_up (a k : Nat) (d : Dev) : (flashErase a k d).flashUp = d.flashUp := by
  unfold flashErase
  split <;> rfl

theorem flashProgram_up (a : Nat) (bs : Bytes) (d : Dev) : (flashProgram a bs true d).flashUp = d.flashUp := by
  unfold flashProgram
  split <;> rfl

/-- An accepted image whose writes verify is the program, started as in a normal boot. -/
theorem loaderAccept_verified {d : Dev} (up : d.flashUp = true) (img : Bytes) : (loaderAccept img [] [] d).romView
    = { d.romView with boot := 2, loaderOut := loaderPacket 0x83 [0] } := by
  have good : (d.outcome []).1 = true := up
  have written : (flashProgram (progBase d.loaderSlot) img true (flashErase (progBase d.loaderSlot) 64 d)).romView
      = d.romView := (flashProgram_romView ..).trans (flashErase_romView ..)
  have still : (flashProgram (progBase d.loaderSlot) img true (flashErase (progBase d.loaderSlot) 64 d)).flashUp = true := by
    rw [flashProgram_up, flashErase_up, up]
  simp only [loaderAccept, good]
  generalize flashProgram _ img true _ = e at written still ⊢
  have recorded (r : BootRec) (vs : List Bool) : (writeBootRec r vs e).2.1.romView = d.romView :=
    (writeCopy_romView ..).trans written
  have verified (r : BootRec) : (writeBootRec r (d.outcome []).2 e).1 = true := still
  rw [verified]
  refine (romFinish_romView ..).trans ?_
  have loaded (k : Nat) (f : Dev) (h : f.romView = d.romView) : (loadImage k (respond 0x83 [0] f)).romView
      = { d.romView with loaderOut := loaderPacket 0x83 [0] } := congrArg (fun v => { v with loaderOut := loaderPacket 0x83 [0] }) h
  rw [loaded _ _ (recorded ..)]
  rfl

/-- RESET answers, then makes a SOFT reset. -/
theorem loaderReset_idle {d : Dev} (mgmt : d.boot.mgmt = none) (calm : d.supply.fired = false) :
    loaderReset d = respond 0x84 [0] (d.afterReset true) := by rw [loaderReset, softReset_idle mgmt calm]

/-- Settles O53: each packet is one change of the loader's registers; an accepted COMMIT runs the ROM's steps from 9 on, which
leave the answer, RESET a SOFT reset, which it is given after. -/
theorem loaderAnswersItsPackets : Obligations.LoaderAnswersItsPackets := by
  intro s awake loading run
  refine ⟨fun baud none_ low high => ?_, fun rated => ?_⟩
  · have taken : autobaud baud s.dev = modBoot (fun b => { b with loaderBaud := some baud }) s.dev := by
      simp [autobaud, loading, none_, low, high]
    exact uart_boot awake run rfl taken
  have rate := fun f => onLoader_rated loading rated f
  refine ⟨uart_respond awake run rfl (rate loaderInfo), fun off data => ⟨fun whole pos small inside => ?_, fun bad => ?_⟩,
    fun len img himg => ⟨fun bad vfy burns => ?_, fun valid whole => ⟨fun refused vfy burns => ?_, fun accepted up => ?_⟩⟩,
    fun mgmt calm => ?_, fun good => uart_respond awake run rfl (rate (loaderBad good)), ?_⟩
  · exact uart_boot awake run rfl ((rate _).trans (loaderData_taken whole pos small inside s.dev))
  · exact uart_respond awake run rfl ((rate _).trans (loaderData_refused bad s.dev))
  · exact uart_respond awake run rfl ((rate _).trans (loaderCommit_malformed himg bad vfy burns))
  · have answer : loaderCommit len vfy burns s.dev = respond 0x83 [4] (bootBit 0 true s.dev) := by
      rw [loaderCommit_whole himg valid whole, refused]
      rfl
    obtain ⟨t, answers, same, keeps, boot⟩ := uart_boot awake run
      (i := .loaderCommit len vfy burns) (g := fun b => { b with
        bootStat := putBit b.bootStat 0 true, loaderOut := loaderPacket 0x83 [4] }) rfl ((rate _).trans answer)
    exact ⟨t, answers, same, keeps, by rw [boot], by rw [boot]; exact bit_setBit (b := 0) (by decide)⟩
  · have view : (loaderCommit len [] [] s.dev).romView = { s.dev.romView with boot := 2, loaderOut := loaderPacket 0x83 [0] } := by
      rw [loaderCommit_whole himg valid whole, accepted]
      exact loaderAccept_verified up img
    refine ⟨_, onUart_to awake (rate _) ((congrArg RomView.st view).trans run),
      through_same ((congrArg RomView.rst view).trans awake.2), ?_, ?_⟩
    · exact congrArg RomView.loaderOut view
    · exact congrArg RomView.boot view
  · have acts : onLoader loaderReset s.dev = respond 0x84 [0] (s.dev.afterReset true) :=
      (rate _).trans (loaderReset_idle mgmt calm)
    refine ⟨_, onUart_to awake acts rfl, ?_, rfl⟩
    exact resetKept_afterReset s true s.dev
  · exact ⟨_, onDev_to awake (rate _), same_const awake rfl, keeps_const (Keeps.refl _ _)⟩

end Sys2Proof.Machine
end
section
/-!
The ROM's run, the core clock, the temperature, the entropy blocks (O56).
-/

namespace Sys2Proof.Machine

/-! ### The ROM's run (14 R323, R328) -/

theorem loadCal_keeps (b : Bytes) (d : Dev) : Keeps [.power, .supply, .clocks, .trouble, .journal] d (loadCal b d) := by
  intro q hq _
  simp only [loadCal, recalcLevel]
  split_ifs <;> cases q <;> simp [Part.same] at hq ⊢

/-- Step 2 shows the life-cycle state, opens debug in BLANK and RETURN, and touches neither the boot registers nor the
flash nor OTP. -/
theorem romOtp_keeps (d : Dev) : Keeps [.lc, .power, .supply, .clocks, .trouble, .journal] d (romOtp d) := by
  have shown (c : Bool) : Keeps [.lc, .clocks] d (modClk (fun x => { x with calib := d.otp.calf, clkStat := 3 })
      (modLc (fun l => { l with lcstate := d.otp.lcCode, shown := true, dbgOpen := c, transit := d.unfinished }) d)) := by
    intro q hq _
    cases q <;> simp [Part.same] at hq ⊢
  exact (keeps_up (shown (d.otp.lcCode == 0 || d.otp.lcCode == 3))).trans (keeps_up (loadCal_keeps _ _))

theorem romOtp_romView (d : Dev) : (romOtp d).romView = { d.romView with
    shown := true, lcstate := d.otp.lcCode, dbgOpen := d.otp.lcCode == 0 || d.otp.lcCode == 3 } := by
  simp only [romOtp]
  rw [loadCal_romView, modClk_romView]
  rfl

/-- The view after steps 3 to 8: the loader's, or that of a chosen program. -/
theorem startLoader_romView (d : Dev) : (startLoader d).romView = { d.romView with boot := 3 } := rfl

theorem dom_modDom (x : Nat) (hx : x < 140) (f : Dom → Dom) (d : Dev) : (modDom x f d).dom x = f (d.dom x) := by
  unfold modDom Dev.dom
  exact vget_vmod d.power.doms hx f _

theorem romStart_dom (meas : Bytes) (ver kind path : Nat) (d : Dev) : ((romStart meas ver kind path d).dom 4).phase = .on := by
  have gate (e : Dev) : (gateStart e).power = e.power := by
    unfold gateStart
    split <;> rfl
  have on (e : Dev) : ((modDom 4 (fun x => { x with phase := .on }) e).dom 4).phase = .on := by
    rw [dom_modDom 4 (by decide)]
  simp only [romStart]
  refine (congrArg (fun p : Power => (vget p.doms 4 ⟨.off, false, false⟩).phase) ((gate _).trans (queueEntry_power ..))).trans ?_
  exact on _

/-- The core `e` has the loader running, or, with the flash known and RECOV low, a program with the gate; for the rest the view
is that of `d`. -/
def RomStarts (env : RomEnv) (d e : Dev) : Prop :=
  (e.dom 4).phase = .on
    ∧ (e.romView = { d.romView with boot := 3 }
      ∨ (env.recov = false ∧ d.flash.known = true) ∧ e.gate.starting = true
        ∧ ∃ kind, (kind = 1 ∨ kind = 2) ∧ e.romView = d.romView.started kind)

theorem startLoader_starts (env : RomEnv) {d e : Dev} (h : e.romView = d.romView) : RomStarts env d (startLoader e) :=
  ⟨congrArg Dom.phase (dom_modDom 4 (by decide) _ _), .inl ((startLoader_romView e).trans (by rw [h]))⟩

theorem romFinish_starts {env : RomEnv} {d e : Dev} (h : e.romView = d.romView) (going : d.otp.endFuse = false)
    (go : env.recov = false ∧ d.flash.known = true) {kind : Nat} (hk : kind = 1 ∨ kind = 2) (slot path : Nat)
    (vs burns : List Bool) : RomStarts env d (romFinish slot kind path vs burns e) := by
  refine ⟨romStart_dom .., .inr ⟨go, romStart_gate ?_ .., kind, hk, (romFinish_romView ..).trans (by rw [h])⟩⟩
  have fuse (f : Dev) (hf : f.romView = d.romView) : f.otp.endFuse = false := (congrArg RomView.ended hf).trans going
  refine fuse _ ?_
  rw [romKeys_romView, romStore_romView, foldl_romView reviewTamper_romView, romTables_romView, bootBit_romView, h]

theorem romRun_starts (env : RomEnv) {d : Dev} (h : d.otp.endFuse = false) : RomStarts env d (romRun env d) := by
  simp only [romRun]
  have tested := foldl_romView (bootKat_romView env) allEngs d
  generalize allEngs.foldl (bootKat env) d = d1 at tested ⊢
  have started := (startUp_romView env.blocks d1).trans tested
  generalize startUp env.blocks d1 = u at started ⊢
  have read : (if u.2.2.flashUp then readErases u.2.2 else u.2.2).romView = d.romView :=
    (ite_romView (show (readErases u.2.2).romView = u.2.2.romView from rfl) rfl).trans started
  generalize (if u.2.2.flashUp then readErases u.2.2 else u.2.2) = d2 at read ⊢
  have first := (firstStart_romView u.2.1 env.burns (finishErase d2)).trans ((finishErase_romView d2).trans read)
  generalize firstStart u.2.1 env.burns (finishErase d2) = f at first ⊢
  have seeded : (if u.1 then (bootDrbg f.1 f.2.2).2 else f.2.2).romView = d.romView :=
    (ite_romView (bootDrbg_romView ..) rfl).trans first
  generalize (if u.1 then (bootDrbg f.1 f.2.2).2 else f.2.2) = d3 at seeded ⊢
  have locked : (if d3.otp.rooted then d3 else modKs (fun k => { k with lock := 1 }) d3).romView = d.romView :=
    (ite_romView rfl (modKs_romView ..)).trans seeded
  generalize (if d3.otp.rooted then d3 else modKs (fun k => { k with lock := 1 }) d3) = d4 at locked ⊢
  have known : d4.flash.known = d.flash.known := congrArg RomView.known locked
  generalize ready : showSlot _ = d5
  have noted : d5.romView = d.romView := by
    rw [← ready]
    exact locked
  split
  · exact startLoader_starts env noted
  · next go =>
    have chosen := (choose_romView env.vfy f.2.1 d5).trans noted
    have kinds := fun k => choose_kind env.vfy f.2.1 d5 (k := k)
    generalize choose env.vfy f.2.1 d5 = c at chosen kinds ⊢
    split
    · exact startLoader_starts env chosen
    · next k slot =>
      exact romFinish_starts ((loadImage_romView k c.1.d).trans chosen) h (by simpa [known] using go) (kinds k slot) ..

/-- Once the life-cycle state is shown the ROM has run. -/
theorem romBoot_ran {d : Dev} (h : d.lc.shown = true) (env : RomEnv) : romBoot env d = d := if_pos h

theorem romBoot_end {d : Dev} (h : d.lc.shown = false) (ended : d.otp.endFuse = true) (env : RomEnv) :
    romBoot env d = modDom 4 (fun x => { x with phase := .on }) (romOtp d) := by
  have still : (romOtp d).otp.endFuse = true := (congrArg Otp.endFuse (romOtp_keeps d .otp (by decide) (by decide))).trans ended
  simp only [romBoot, h, still]
  rfl

theorem romBoot_runs {d : Dev} (h : d.lc.shown = false) (going : d.otp.endFuse = false) (env : RomEnv) :
    romBoot env d = romRun env (romOtp d) := by
  have still : (romOtp d).otp.endFuse = false := (congrArg Otp.endFuse (romOtp_keeps d .otp (by decide) (by decide))).trans going
  simp only [romBoot, h, still]
  rfl

/-! ### Entropy (18 R426) -/

theorem queueEntry_counts (e : JEntry) (d : Dev) :
    (queueEntry e d).trouble.entRun = d.trouble.entRun ∧ (queueEntry e d).trouble.why = d.trouble.why := by
  rcases queueEntry_g e d with h | h <;> rw [h] <;> exact ⟨rfl, rfl⟩

theorem setG_counts (t : Trouble) (k : Nat) (w : Word) : (t.setG k w).entRun = t.entRun ∧ (t.setG k w).why = t.why := by
  unfold Trouble.setG
  split <;> exact ⟨rfl, rfl⟩

theorem noteG_counts (k b : Nat) (d : Dev) :
    (noteG k b d).trouble.entRun = d.trouble.entRun ∧ (noteG k b d).trouble.why = d.trouble.why := by
  simp only [noteG, noteGx]
  split
  · exact ⟨rfl, rfl⟩
  · obtain ⟨run, why⟩ := setG_counts d.trouble k (setBit (d.trouble.g k) b)
    exact ⟨(queueEntry_counts _ _).1.trans run, (queueEntry_counts _ _).2.trans why⟩

theorem raiseWhy_entRun (b e : Nat) (d : Dev) : (raiseWhy b e d).trouble.entRun = d.trouble.entRun := by
  unfold raiseWhy
  split
  · rfl
  · exact (queueEntry_counts _ _).1

theorem bit_putBit {i : Nat} (h : i < 32) (w : Word) (b : Bool) : bit (putBit w i b) i = b := by
  cases b <;> simp [bit, putBit, setBit, clrBit, h]

theorem bit_putBit_other {i j : Nat} (h : j ≠ i) (hj : j < 32) (w : Word) (b : Bool) : bit (putBit w i b) j = bit w j := by
  cases b <;> simp [bit, putBit, setBit, clrBit, hj] <;> omega

/-- ENTSTAT after a block that failed: which tests failed, one failure more. -/
def failStat (t : Bool × Bool) (w : Word) : Word :=
  putFld (putBit (putBit w 30 t.1) 29 t.2) (at_ (min 255 (fld w 23 16 + 1)) 16) 23 16

theorem failStat_bits (t : Bool × Bool) (w : Word) : bit (failStat t w) 30 = t.1 ∧ bit (failStat t w) 29 = t.2 := by
  have kept (i : Nat) (hi : i < 32) (above : 23 < i) : bit (failStat t w) i = bit (putBit (putBit w 30 t.1) 29 t.2) i :=
    (putFld_bit _ _ (by decide) i hi).trans (if_neg (by omega))
  refine ⟨(kept 30 (by decide) (by decide)).trans ?_, (kept 29 (by decide) (by decide)).trans (bit_putBit (by decide) ..)⟩
  rw [bit_putBit_other (by decide) (by decide), bit_putBit (by decide)]

/-- A failing block is counted and recorded. -/
def blockNoted (t : Bool × Bool) (d : Dev) : Dev :=
  noteG 2 5 { modEnt (fun e => { e with stat := failStat t e.stat }) d with
    trouble := { d.trouble with entRun := min 3 (d.trouble.entRun + 1) } }

theorem blockFails_noted (t : Bool × Bool) (d : Dev) : blockFails t d
    = if (blockNoted t d).trouble.entRun = 3 then (true, raiseWhy 1 0 (noteG 2 6 (blockNoted t d))) else (false, blockNoted t d) :=
  rfl

theorem blockNoted_entRun (t : Bool × Bool) (d : Dev) : (blockNoted t d).trouble.entRun = min 3 (d.trouble.entRun + 1) :=
  (noteG_counts ..).1

theorem blockNoted_entropy (t : Bool × Bool) (d : Dev) :
    (blockNoted t d).entropy = { d.entropy with stat := failStat t d.entropy.stat } := noteG_entropy ..

theorem blockNoted_keeps (t : Bool × Bool) (d : Dev) : Keeps [.entropy, .trouble, .journal] d (blockNoted t d) := by
  intro q hq _
  cases q <;> simp [Part.same, blockNoted] at hq ⊢

/-- The core once a third failing block in a row has raised WHY.ENTROPY. -/
def entropyOut (t : Bool × Bool) (d : Dev) : Dev := raiseWhy 1 0 (noteG 2 6 (blockNoted t d))

theorem entropyOut_keeps (t : Bool × Bool) (d : Dev) : Keeps [.entropy, .trouble, .journal] d (entropyOut t d) :=
  ((blockNoted_keeps t d).trans (keeps_up (keeps_noteG 2 6 _))).trans (keeps_up (keeps_raiseWhy 1 0 _))

theorem entropyOut_rst (t : Bool × Bool) (d : Dev) : (entropyOut t d).rst = d.rst := by simp [entropyOut, blockNoted]

theorem entropyOut_entropy (t : Bool × Bool) (d : Dev) :
    (entropyOut t d).entropy = { d.entropy with stat := failStat t d.entropy.stat } :=
  (raiseWhy_entropy ..).trans ((noteG_entropy ..).trans (blockNoted_entropy t d))

theorem keeps_modEnt (f : Entropy → Entropy) (d : Dev) : Keeps [.entropy] d (modEnt f d) := by
  intro q hq _
  cases q <;> simp [Part.same] at hq ⊢

/-- The core with a passing block kept. -/
def blockKept (bits : List Bool) (d : Dev) : Dev :=
  modEnt (fun e => { e with bits := e.bits ++ bits, passed := e.passed + 1 }) (blockPasses d)

theorem blockKept_fields (bits : List Bool) (d : Dev) : (blockKept bits d).drbg = d.drbg
    ∧ (blockKept bits d).entropy = { d.entropy with bits := d.entropy.bits ++ bits, passed := d.entropy.passed + 1 }
    ∧ (blockKept bits d).trouble = { d.trouble with entRun := 0 } ∧ (blockKept bits d).rst = d.rst
    ∧ Keeps [.entropy, .trouble] d (blockKept bits d) := by
  refine ⟨rfl, rfl, rfl, rfl, fun q hq _ => ?_⟩
  cases q <;> simp [Part.same, blockKept, blockPasses] at hq ⊢

section
variable {d : Dev} {bits : List Bool} (busy : d.entropy.busy = true) (long : bits.length = 1024) (runs : d.gRun = true)
include busy long runs

theorem entropyBlock_fails (bad : rctRuns d.rctc d.drawn bits = true ∨ aptFails d.aptc bits = true) : entropyBlock bits d
    = if (blockFails (d.blockTest d.drawn bits) d).1 then occasionFails (blockFails (d.blockTest d.drawn bits) d).2
      else (blockFails (d.blockTest d.drawn bits) d).2 := by
  have fails : ((d.blockTest d.drawn bits).1 || (d.blockTest d.drawn bits).2) = true := by simpa [Dev.blockTest] using bad
  have drawn : (!d.entropy.busy || bits.length != 1024 || !d.gRun) = false := by simp [busy, long, runs]
  simp only [entropyBlock, drawn, fails]
  rfl

/-- A failing block that is not the third in a row is noted. -/
theorem entropyBlock_noted (bad : rctRuns d.rctc d.drawn bits = true ∨ aptFails d.aptc bits = true)
    (few : d.trouble.entRun < 2) : entropyBlock bits d = blockNoted (d.blockTest d.drawn bits) d := by
  have more : ¬ (blockNoted (d.blockTest d.drawn bits) d).trouble.entRun = 3 := by rw [blockNoted_entRun]; omega
  rw [entropyBlock_fails busy long runs bad, blockFails_noted, if_neg more]
  rfl

/-- The third in a row fails the occasion. -/
theorem entropyBlock_out (bad : rctRuns d.rctc d.drawn bits = true ∨ aptFails d.aptc bits = true)
    (two : 2 ≤ d.trouble.entRun) : entropyBlock bits d = occasionFails (entropyOut (d.blockTest d.drawn bits) d) := by
  have third : (blockNoted (d.blockTest d.drawn bits) d).trouble.entRun = 3 := by rw [blockNoted_entRun]; omega
  rw [entropyBlock_fails busy long runs bad, blockFails_noted, if_pos third]
  rfl

/-- A passing block is kept; the second ends the occasion. -/
theorem entropyBlock_passes (rct : rctRuns d.rctc d.drawn bits = false) (apt : aptFails d.aptc bits = false) :
    entropyBlock bits d = if 2 ≤ d.entropy.passed + 1
      then occasionEnds (blockKept bits d) else blockKept bits d := by
  have passes : ((d.blockTest d.drawn bits).1 || (d.blockTest d.drawn bits).2) = false := by simp [Dev.blockTest, rct, apt]
  have drawn : (!d.entropy.busy || bits.length != 1024 || !d.gRun) = false := by simp [busy, long, runs]
  simp only [entropyBlock, drawn, passes]
  rfl

end

/-- The core once the request `who` has the bytes of `g` and the source is at rest. -/
def servedOne (who : DrawFor) (g : Bytes × Drbg) (d : Dev) : Dev :=
  modEnt (fun e => { e with busy := false, bits := [], passed := 0, queue := [] }) (deliver who g.1 { d with drbg := g.2 })

/-- With one request waiting the occasion's end serves it and leaves the source at rest. -/
theorem occasionEnds_one {d : Dev} {who : DrawFor} {q : DrawReq} (waits : d.entropy.queue = [(who, q)]) {g : Bytes × Drbg}
    (hg : g = (d.drbg.reseed (sha384 (bitBytes d.entropy.bits))).generate q.len q.add) :
    occasionEnds d = servedOne who g d := by
  subst hg
  simp only [occasionEnds, waits]
  rfl

/-- What a request is given changes its channel or the life-cycle registers alone. -/
theorem deliver_frame (who : DrawFor) (x : Bytes) (d : Dev) :
    (deliver who x d).rst = d.rst ∧ Keeps [.lc, .chans] d (deliver who x d) := by
  have settles (v : VerbSpec) (n : Chn) (sid : Nat) (c : Clause) (j : Job) :
      (settleResult v n sid c j d d).rst = d.rst ∧ Keeps [.lc, .chans] d (settleResult v n sid c j d d) := by
    unfold settleResult
    split
    · exact ⟨rfl, fun q hq _ => by cases q <;> simp [Part.same] at hq ⊢⟩
    · exact ⟨rfl, fun q hq _ => by cases q <;> simp [Part.same] at hq ⊢⟩
  cases who with
  | clause n sid =>
    simp only [deliver]
    split
    · exact ⟨rfl, Keeps.refl _ _⟩
    · split
      · split
        · exact settles ..
        · exact ⟨rfl, Keeps.refl _ _⟩
      · exact ⟨rfl, Keeps.refl _ _⟩
  | nonce n =>
    simp only [deliver]
    split
    · exact ⟨rfl, keeps_up (keeps_modChan n _ d)⟩
    · exact ⟨rfl, Keeps.refl _ _⟩
  | lcNonce => exact ⟨rfl, keeps_up (keeps_modLc _ _)⟩

/-- A request for a nonce that is being drawn has it. -/
theorem deliver_nonce {n : Chn} {d : Dev} (h : (d.chan n).phase = .drawing) (x : Bytes) :
    deliver (.nonce n) x d = modChan n (fun c => { c with phase := .drawn x }) d := by
  simp [deliver, h]

/-- A clause that waits for its draw goes on with it. -/
theorem deliver_clause {n : Chn} {x : Sentence} {j : Job} {c : Clause} {d : Dev} (sent : d.sent n x.sid = some x)
    (job : x.job = some j) (clause : x.clauses[x.idx]? = some c) (drawing : j.drawing = true) (b : Bytes) :
    deliver (.clause n x.sid) b d
      = settleResult (specOf c.verb (par8 j.params 0)) n x.sid c { j with rnd := b, drawing := false } d d := by
  simp only [deliver, sent, job, clause, drawing, if_true]

theorem settled_draw (j : Job) (v : VerbSpec) (n : Chn) (c : Clause) (pre : Dev) :
    (j.settled v n c pre).rnd = j.rnd ∧ (j.settled v n c pre).drawing = j.drawing := by
  unfold Job.settled
  split <;> exact ⟨rfl, rfl⟩

/-- Serving a request puts the generator's state forward and the source at rest. -/
theorem servedOne_fields (who : DrawFor) (g : Bytes × Drbg) (d : Dev) : (servedOne who g d).rst = d.rst
    ∧ (servedOne who g d).drbg = g.2
    ∧ (servedOne who g d).entropy = { d.entropy with busy := false, bits := [], passed := 0, queue := [] }
    ∧ (servedOne who g d).trouble = d.trouble ∧ Keeps [.entropy, .drbg, .lc, .chans] d (servedOne who g d) := by
  obtain ⟨rst, frame⟩ := deliver_frame who g.1 { d with drbg := g.2 }
  have drawn : Keeps [.drbg] d { d with drbg := g.2 } := fun p hp _ => by cases p <;> simp [Part.same] at hp ⊢
  rw [servedOne]
  generalize deliver who g.1 { d with drbg := g.2 } = e at rst frame ⊢
  have before : e.entropy = d.entropy := frame .entropy (by decide) (by decide)
  exact ⟨rst, frame .drbg (by decide) (by decide),
    congrArg (fun y : Entropy => { y with busy := false, bits := [], passed := 0, queue := [] }) before,
    frame .trouble (by decide) (by decide), ((keeps_up drawn).trans (keeps_up frame)).trans (keeps_up (keeps_modEnt _ _))⟩

theorem servedOne_lcNonce (g : Bytes × Drbg) (d : Dev) : (servedOne .lcNonce g d).chans = d.chans
    ∧ (servedOne .lcNonce g d).lc = { d.lc with nonce := g.1, nonceValid := true } := ⟨rfl, rfl⟩

/-- A channel whose nonce was being drawn has it. -/
theorem servedOne_nonce {n : Chn} {d : Dev} (h : (d.chan n).phase = .drawing) (g : Bytes × Drbg) :
    (servedOne (.nonce n) g d).lc = d.lc ∧ ChanIs n (fun c => { c with phase := .drawn g.1 }) d (servedOne (.nonce n) g d) := by
  have drawing : (Dev.chan { d with drbg := g.2 } n).phase = .drawing := h
  obtain ⟨same, others⟩ : ChanIs n (fun c => { c with phase := .drawn g.1 }) { d with drbg := g.2 }
      (modChan n (fun c => { c with phase := .drawn g.1 }) { d with drbg := g.2 }) :=
    ⟨chan_modChan_same .., fun m hm => chan_modChan_other hm ..⟩
  rw [servedOne, deliver_nonce drawing]
  exact ⟨rfl, same, others⟩

/-- A clause that waited for its draw has it and waits no more. -/
theorem servedOne_clause {n : Chn} {x : Sentence} {j : Job} {c : Clause} {d : Dev} (sent : d.sent n x.sid = some x)
    (job : x.job = some j) (clause : x.clauses[x.idx]? = some c) (drawing : j.drawing = true) (g : Bytes × Drbg) :
    ∃ y, (servedOne (.clause n x.sid) g d).lc = d.lc
      ∧ (servedOne (.clause n x.sid) g d).sent n x.sid = some { x with job := some y } ∧ y.rnd = g.1 ∧ y.drawing = false := by
  have there : Dev.sent { d with drbg := g.2 } n x.sid = some x := sent
  obtain ⟨frame, settled, -⟩ := settleResult_spec (c := c) (j := { j with rnd := g.1, drawing := false })
    (specOf c.verb (par8 j.params 0)) { d with drbg := g.2 } there
  obtain ⟨rnd, done⟩ := settled_draw { j with rnd := g.1, drawing := false } (specOf c.verb (par8 j.params 0)) n c
    { d with drbg := g.2 }
  have same := frame.keeps .lc (by decide) (by decide)
  rw [servedOne, deliver_clause there job clause drawing]
  generalize settleResult _ n x.sid c _ _ _ = f at same settled ⊢
  exact ⟨_, same, settled, rnd, done⟩

/-- A clause that is no phrase and has no result ends ENTROPY with no output and no effect. -/
theorem endEarly_entropy {n : Chn} {x : Sentence} {j : Job} {d : Dev} (active : (d.chan n).state.active = true)
    (root : x.parent = none) (noPhrase : j.phrase = none) (noResult : j.result = none) :
    endEarly n x j .entropy d = finishRoot n x j .entropy [] j.input.length [] d := by
  have open_ : ((d.chan n).state == .resetting) = false := by
    cases hs : (d.chan n).state <;> simp [hs, ChanState.active] at active ⊢
  simp [endEarly, open_, root, noPhrase, finishClause, earlyEffects, earlyZero, noResult]

/-! ### The commands -/

/-- The ROM's first run after a reset. -/
theorem romBoot_first {s : State} (awake : s.awake) (env : RomEnv) (hidden : s.dev.lc.shown = false)
    (still : s.dev.boot.confirmRun = false) :
    ∃ t, exec (.romBoot env) s = .next t ∧ SameShell s t ∧ t.dev.lc.shown = true
      ∧ (t.dev.dom 4).phase = .on ∧ t.dev.lc.lcstate = s.dev.otp.lcCode
      ∧ t.dev.lc.dbgOpen = (s.dev.otp.lcCode == 0 || s.dev.otp.lcCode == 3)
      ∧ (s.dev.otp.endFuse = true → t.dev.boot = s.dev.boot ∧ t.dev.otp = s.dev.otp ∧ t.dev.flash = s.dev.flash)
      ∧ (s.dev.otp.endFuse = false → env.recov = true ∨ s.dev.flash.known = false → t.dev.boot.boot = 3)
      ∧ (s.dev.otp.endFuse = false → t.dev.boot.boot = 3 ∨ (t.dev.boot.boot = 1 ∨ t.dev.boot.boot = 2)
        ∧ t.dev.boot.confirmRun = (t.dev.boot.boot == 1) ∧ t.dev.gate.starting = true) := by
  have kept := romOtp_keeps s.dev
  have view := romOtp_romView s.dev
  have ends := fun fuse => romBoot_end hidden fuse env
  have runs := fun fuse => romBoot_runs hidden fuse env
  generalize romOtp s.dev = o at kept view ends runs
  cases fuse : s.dev.otp.endFuse with
  | true =>
    have on : ((modDom 4 (fun x => { x with phase := .on }) o).dom 4).phase = .on :=
      congrArg Dom.phase (dom_modDom 4 (by decide) _ _)
    refine ⟨_, onDev_to awake (ends fuse), same_const awake (congrArg RomView.rst view), ?_⟩
    simp only [through_lc, through_boot, through_otp, through_flash, through_gate, Dev.dom, through_power] at on ⊢
    exact ⟨congrArg RomView.shown view, on, congrArg RomView.lcstate view, congrArg RomView.dbgOpen view,
      fun _ => ⟨kept .boot (by decide) (by decide), kept .otp (by decide) (by decide),
        kept .flash (by decide) (by decide)⟩, nofun, nofun⟩
  | false =>
    have going : o.otp.endFuse = false := (congrArg RomView.ended view).trans fuse
    obtain ⟨on, starts⟩ := romRun_starts env going
    rw [view] at starts
    have acts := runs fuse
    generalize romRun env o = e at on starts acts
    have rst : e.rst = s.dev.rst := by
      obtain loader | ⟨-, -, kind, -, program⟩ := starts
      · exact congrArg RomView.rst loader
      · exact congrArg RomView.rst program
    refine ⟨_, onDev_to awake acts, same_const awake rst, ?_⟩
    simp only [through_lc, through_boot, through_otp, through_flash, through_gate, Dev.dom, through_power] at on ⊢
    obtain loader | ⟨⟨recov, known⟩, gate, kind, kinds, program⟩ := starts
    · exact ⟨congrArg RomView.shown loader, on, congrArg RomView.lcstate loader, congrArg RomView.dbgOpen loader, nofun,
        fun _ _ => congrArg RomView.boot loader, fun _ => .inl (congrArg RomView.boot loader)⟩
    · have boot : e.boot.boot = kind := congrArg RomView.boot program
      have watchdog : e.boot.confirmRun = (kind == 1 || s.dev.boot.confirmRun) := congrArg RomView.confirmRun program
      refine ⟨congrArg RomView.shown program, on, congrArg RomView.lcstate program, congrArg RomView.dbgOpen program,
        nofun, fun _ none_ => ?_, fun _ => .inr ?_⟩
      · have same : s.dev.flash.known = true := (congrArg RomView.known view).symm.trans known
        rw [recov, same] at none_
        exact absurd none_ (by decide)
      · rw [boot, watchdog, still, Bool.or_false]
        exact ⟨kinds, rfl, gate⟩

section
variable {s : State} {bits : List Bool} (awake : s.awake)
include awake

/-- The second passing block serves the one request that waits. -/
theorem entropyBlock_serves {who : DrawFor} {q : DrawReq} {g : Bytes × Drbg} (one : s.dev.entropy.passed = 1)
    (passes : entropyBlock bits s.dev
      = if 2 ≤ s.dev.entropy.passed + 1 then occasionEnds (blockKept bits s.dev) else blockKept bits s.dev)
    (waits : s.dev.entropy.queue = [(who, q)])
    (hg : g = (s.dev.drbg.reseed (sha384 (bitBytes (s.dev.entropy.bits ++ bits)))).generate q.len q.add) :
    ∃ t, exec (.entropyBlockDone bits) s = .next t ∧ SameShell s t
      ∧ Keeps [.entropy, .trouble, .drbg, .lc, .chans] s.dev t.dev ∧ t.dev.drbg = g.2
      ∧ t.dev.entropy = { s.dev.entropy with busy := false, bits := [], passed := 0, queue := [] }
      ∧ t.dev.trouble = { s.dev.trouble with entRun := 0 }
      ∧ (who = .lcNonce → t.dev.chans = s.dev.chans
        ∧ t.dev.lc = { s.dev.lc with nonce := g.1, nonceValid := true })
      ∧ (∀ n, who = .nonce n → (s.dev.chan n).phase = .drawing →
        t.dev.lc = s.dev.lc ∧ ChanIs n (fun c => { c with phase := .drawn g.1 }) s.dev t.dev)
      ∧ (∀ n x j c, who = .clause n x.sid → s.dev.sent n x.sid = some x → x.job = some j →
        x.clauses[x.idx]? = some c → j.drawing = true →
        ∃ y, t.dev.lc = s.dev.lc ∧ t.dev.sent n x.sid = some { x with job := some y } ∧ y.rnd = g.1
          ∧ y.drawing = false) := by
  obtain ⟨drbg, ent, trouble, rst, kept⟩ := blockKept_fields bits s.dev
  have acts : entropyBlock bits s.dev = servedOne who g (blockKept bits s.dev) := by
    rw [passes, one, if_pos (by decide)]
    exact occasionEnds_one (by rw [ent]; exact waits) (by rw [drbg, ent]; exact hg)
  generalize blockKept bits s.dev = e at drbg ent trouble rst kept acts
  have chans : e.chans = s.dev.chans := kept .chans (by decide) (by decide)
  have lc : e.lc = s.dev.lc := kept .lc (by decide) (by decide)
  obtain ⟨still, drawn, rested, noted, frame⟩ := servedOne_fields who g e
  have nonce := servedOne_lcNonce g e
  have drawing := fun n phase => servedOne_nonce (n := n) (d := e) phase g
  have clauses := fun n x j c sent job clause draws =>
    servedOne_clause (n := n) (x := x) (j := j) (c := c) (d := e) sent job clause draws g
  generalize hf : servedOne who g e = f at acts still drawn rested noted frame
  refine ⟨_, onDev_to awake acts, same_const awake (still.trans rst), keeps_const ((keeps_up kept).trans (keeps_up frame)),
    drawn, ?_, noted.trans trouble, ?_, ?_, ?_⟩
  · rw [through_entropy, rested, ent]
  · rintro rfl
    rw [through_chans, through_lc, ← hf, ← chans, ← lc]
    exact nonce
  · rintro n rfl phase
    obtain ⟨same, put⟩ := drawing n (by rw [chan_of chans, phase])
    obtain ⟨here, others⟩ := hf ▸ put
    rw [chan_of chans] at here
    rw [through_lc]
    exact ⟨((congrArg Dev.lc hf).symm.trans same).trans lc, chanIs_const ⟨here, fun m hm => (others m hm).trans (chan_of chans m)⟩⟩
  · rintro n x j c rfl sent job clause draws
    obtain ⟨y, same, given, rnd, done⟩ := clauses n x j c (by rw [Dev.sent, chan_of chans]; exact sent) job clause draws
    rw [through_lc, ← lc]
    refine ⟨y, (congrArg Dev.lc hf).symm.trans same, ?_, rnd, done⟩
    rw [sent_through, ← given, hf]

/-- The core with a third failing block recorded, every request dropped. -/
def occasionOver (d : Dev) : Dev := modEnt (fun e => { e with busy := false, bits := [], passed := 0, queue := [] }) d

/-- A third failing block raises WHY.ENTROPY; a request for the life-cycle nonce that waits is refused. -/
theorem entropyBlock_refuses {t : Bool × Bool} (acts : entropyBlock bits s.dev = occasionFails (entropyOut t s.dev))
    (two : 2 ≤ s.dev.trouble.entRun)
    (waits : s.dev.entropy.queue = [] ∨ ∃ q, s.dev.entropy.queue = [(DrawFor.lcNonce, q)]) :
    ∃ t, exec (.entropyBlockDone bits) s = .next t ∧ SameShell s t
      ∧ Keeps [.entropy, .trouble, .journal, .lc] s.dev t.dev
      ∧ t.dev.trouble.entRun = 3 ∧ bit t.dev.trouble.g2 6 = true ∧ bit t.dev.trouble.why 1 = true
      ∧ t.dev.entropy.busy = false ∧ t.dev.entropy.queue = []
      ∧ t.dev.lc = (if s.dev.entropy.queue = [] then s.dev.lc else
        { s.dev.lc with lcreq := putFld s.dev.lc.lcreq (at_ 9 16) 23 16 }) := by
  have kept := entropyOut_keeps t s.dev
  have rst := entropyOut_rst t s.dev
  have queue := congrArg Entropy.queue (entropyOut_entropy t s.dev)
  have run : (entropyOut t s.dev).trouble.entRun = 3 := by
    rw [entropyOut, raiseWhy_entRun, (noteG_counts ..).1, blockNoted_entRun]
    omega
  have noted : bit (entropyOut t s.dev).trouble.g2 6 = true := raiseWhy_stays 1 0 2 6 (noteG_bit 2 (by decide) _)
  have why : bit (entropyOut t s.dev).trouble.why 1 = true := raiseWhy_bit 0 (by decide) _
  generalize entropyOut t s.dev = e at acts kept rst queue run noted why
  have lc : e.lc = s.dev.lc := kept .lc (by decide) (by decide)
  obtain none_ | ⟨q, one⟩ := waits
  · have fails : occasionFails e = occasionOver e := by
      simp only [occasionFails, queue.trans none_]
      rfl
    refine ⟨_, onDev_to awake (acts.trans fails), same_const awake rst,
      keeps_const ((keeps_up kept).trans (keeps_up (keeps_modEnt _ _))), run, noted, why, rfl, rfl, ?_⟩
    rw [if_pos none_]
    exact lc
  · have fails : occasionFails e = noNonce (occasionOver e) := by
      simp only [occasionFails, queue.trans one]
      rfl
    refine ⟨_, onDev_to awake (acts.trans fails), same_const awake rst, keeps_const (((keeps_up kept).trans
      (keeps_up (keeps_modEnt _ _))).trans (keeps_up (keeps_modLc _ _))), run, noted, why, rfl, rfl, ?_⟩
    rw [one, if_neg (by simp)]
    exact congrArg (fun l : LifeCycle => { l with lcreq := putFld l.lcreq (at_ 9 16) 23 16 }) lc

/-- A clause that waits for its draw ends ENTROPY with the third failing block. -/
theorem entropyBlock_ends {t : Bool × Bool} (acts : entropyBlock bits s.dev = occasionFails (entropyOut t s.dev)) {n : Chn}
    {x : Sentence} {j : Job} {c : Clause} {q : DrawReq} (waits : s.dev.entropy.queue = [(DrawFor.clause n x.sid, q)])
    (sent : s.dev.sent n x.sid = some x) (root : x.parent = none) (job : x.job = some j) (clause : x.clauses[x.idx]? = some c)
    (drawing : j.drawing = true) (noPhrase : j.phrase = none) (noResult : j.result = none) (kept : j.outGone = false)
    (noAppend : ∀ a, j.dst ≠ .append a) (active : (s.dev.chan n).state.active = true)
    (good : ∀ k, ((s.dev.chan n).rings.ring k).good = true) :
    ∃ t, exec (.entropyBlockDone bits) s = .next t ∧ SameShell s t ∧ OthersKept n s.dev t.dev
      ∧ t.dev.sent n x.sid = none ∧ bit t.dev.trouble.why 1 = true ∧ t.dev.entropy.queue = []
      ∧ (t.dev.chan n).rings = Rings.skipped (x.clauses.drop (x.idx + 1)) (x.idx + 1)
        (j.ringsAfter c .entropy x.idx j.written j.input.length
          (match j.dst with
            | .alloc _ => 0xFFFC
            | _ => c.w3hi) (lenWord false true j.written) (zeros j.written) (s.dev.chan n).rings) := by
  have frame := entropyOut_keeps t s.dev
  have rst := entropyOut_rst t s.dev
  have queue := congrArg Entropy.queue (entropyOut_entropy t s.dev)
  have why : bit (entropyOut t s.dev).trouble.why 1 = true := raiseWhy_bit 0 (by decide) _
  generalize entropyOut t s.dev = e at acts frame rst queue why
  have chan (m : Chn) : (occasionOver e).chan m = s.dev.chan m := chan_of (frame .chans (by decide) (by decide)) m
  have there : (occasionOver e).sent n x.sid = some x := by
    rw [Dev.sent, chan]
    exact sent
  have ends : occasionFails e = finishRoot n x j .entropy [] j.input.length [] (occasionOver e) := by
    rw [← endEarly_entropy (by rw [chan, active]) root noPhrase noResult]
    simp only [occasionFails, queue.trans waits]
    change refuseDraw (occasionOver e) (.clause n x.sid) = _
    simp only [refuseDraw, there, job, drawing, if_true]
  obtain ⟨ended, -⟩ := finishRoot_fails there job clause (st := .entropy) rfl kept noAppend (by rw [chan]; exact good .out)
    (by rw [chan]; exact good .cpl) [] j.input.length (w1 := j.written) (by simp)
  refine ⟨_, onDev_to awake (acts.trans ends), same_const awake ((finishRoot_rst ..).trans rst),
    others_const fun m hm => (ended.others m hm).trans (chan m), sent_filtered ended.sents, ?_, ?_, ?_⟩
  · rw [through_trouble, ended.keeps .trouble (by decide) (by decide)]
    exact why
  · rw [through_entropy, ended.keeps .entropy (by decide) (by decide)]
    rfl
  · rw [through_chan, ended.rings, w3hi_failed rfl, chan]
    rfl

end

/-- Settles O56: the ROM's steps leave what they have shown, up to the start of the loader or of a program; a block that passes
is kept, and with the second the request at the head is served; one that fails is noted, and the third in a row refuses what
waits. The tests run on over the samples drawn before (log entry 66). -/
theorem romClocksAndEntropy : Obligations.RomClocksAndEntropy := by
  refine ⟨fun env s awake => ⟨fun shown => ?_, fun hidden _ still => romBoot_first awake env hidden still⟩,
    fun s w takes => ⟨fun ok => ?_, fun bad => ?_⟩, fun s deg awake run => ?_, fun s bits awake busy long runs =>
      ⟨fun rct apt => ⟨fun first => ?_, fun who q g one waits hg => ?_⟩, fun bad => ⟨fun few => ?_, fun two =>
        ⟨fun waits => ?_, fun n x j c q waits sent root job clause drawing noPhrase noResult kept noAppend active good => ?_⟩⟩⟩⟩
  · exact ⟨_, onDev_to awake (romBoot_ran shown env), same_const awake rfl, keeps_const (Keeps.refl _ _)⟩
  · have acts : writeFsel w s.dev = modClk (fun c => { c with clkCfg := w &&& 3 }) s.dev := by simp [writeFsel, noteIf, ok]
    exact ⟨_, onA_to takes acts, same_const takes.1 rfl,
      keeps_const (fun q hq _ => by cases q <;> simp [Part.same] at hq ⊢), rfl⟩
  · have acts : writeFsel w s.dev = noteLink .A 12 s.dev := by simp [writeFsel, noteIf, bad]
    refine ⟨_, onA_to takes acts, same_const takes.1 (noteLink_rst ..), keeps_const (keeps_noteLink .A 12 s.dev), ?_⟩
    rw [through_trouble]
    exact noteLink_bit .A (by decide) s.dev
  · have acts : tempSample deg s.dev = modClk (fun c => { c with
        temp := (deg + (vget c.calib 4 0).setWidth 16).setWidth 32 }) s.dev := by simp [tempSample, run]
    exact ⟨_, onDev_to awake acts, same_const awake rfl,
      keeps_const (fun q hq _ => by cases q <;> simp [Part.same] at hq ⊢), rfl⟩
  · obtain ⟨-, ent, trouble, rst, frame⟩ := blockKept_fields bits s.dev
    have acts : entropyBlock bits s.dev = blockKept bits s.dev := by
      rw [entropyBlock_passes busy long runs rct apt, first]
      rfl
    refine ⟨_, onDev_to awake acts, same_const awake rst, keeps_const frame, ?_, trouble⟩
    rw [through_entropy, ent, first]
  · exact entropyBlock_serves awake one (entropyBlock_passes busy long runs rct apt) waits hg
  · have noted := entropyBlock_noted busy long runs bad few
    obtain ⟨rct, apt⟩ := failStat_bits (s.dev.blockTest s.dev.drawn bits) s.dev.entropy.stat
    refine ⟨_, onDev_to awake noted, same_const awake (by simp [blockNoted]), keeps_const (blockNoted_keeps _ s.dev), ?_,
      noteG_bit 2 (by decide) _, ?_, ?_, ?_⟩
    · rw [through_trouble, blockNoted_entRun]
      omega
    all_goals rw [through_entropy, blockNoted_entropy]
    · exact rct
    · exact apt
  · exact entropyBlock_refuses awake (entropyBlock_out busy long runs bad two) two waits
  · exact entropyBlock_ends awake (entropyBlock_out busy long runs bad two) waits sent root job clause drawing noPhrase noResult
      kept noAppend active good

end Sys2Proof.Machine
end
section
/-!
The management commands (O54): what their writes change, and their ends.
-/

namespace Sys2Proof.Machine

/-! ### The flash's bytes -/

/-- A byte outside the wiped ones is as before. -/
theorem Mem.get_wipe_other {dflt : Byte} {m : Mem} (h : m.wf dflt = true) {a n x : Nat} (hx : x < a ∨ a + n ≤ x) :
    Mem.get dflt (m.wipe a n) x = Mem.get dflt m x := by
  refine Mem.get_ext (Mem.wipe_wf h a n) h (fun v _ => ?_)
  simp only [Mem.wipe, List.mem_filter, Bool.or_eq_true, decide_eq_true_eq]
  exact ⟨And.left, fun hm => ⟨hm, hx⟩⟩

theorem Mem.get_dropWhile {dflt : Byte} {a x : Nat} (h : a ≤ x) (m : Mem) :
    Mem.get dflt (m.dropWhile (fun c => c.1 < a)) x = Mem.get dflt m x := by
  induction m with
  | nil => rfl
  | cons c m ih =>
    by_cases below : c.1 < a
    · rw [List.dropWhile_cons_of_pos (by simpa using below), ih, Mem.get, if_neg (by omega), if_neg (by omega)]
    · rw [List.dropWhile_cons_of_neg (by simpa using below)]

theorem Mem.wfFrom_dropWhile {dflt : Byte} {a : Nat} {m : Mem} :
    ∀ {lo : Nat}, Mem.wfFrom dflt lo m = true → Mem.wfFrom dflt a (m.dropWhile (fun c => c.1 < a)) = true := by
  induction m with
  | nil => exact fun _ => rfl
  | cons c m ih =>
    intro lo h
    simp only [Mem.wfFrom, Bool.and_eq_true, decide_eq_true_eq] at h
    by_cases below : c.1 < a
    · rw [List.dropWhile_cons_of_pos (by simpa using below)]
      exact ih h.2
    · rw [List.dropWhile_cons_of_neg (by simpa using below)]
      simp only [Mem.wfFrom, Bool.and_eq_true, decide_eq_true_eq]
      exact ⟨⟨by omega, h.1.2⟩, h.2⟩

theorem Mem.readFrom_eq {dflt : Byte} {bs : Bytes} : ∀ {a : Nat} {m : Mem}, Mem.wfFrom dflt a m = true →
    (∀ i b, bs[i]? = some b → Mem.get dflt m (a + i) = b) → Mem.readFrom dflt bs.length a m = bs := by
  induction bs with
  | nil => exact fun _ _ => rfl
  | cons b bs ih =>
    intro a m h bytes
    have first : Mem.get dflt m a = b := bytes 0 b rfl
    have rest (i : Nat) (c : Byte) (hc : bs[i]? = some c) : Mem.get dflt m (a + 1 + i) = c := by
      rw [Nat.add_assoc, Nat.add_comm 1]
      exact bytes (i + 1) c hc
    cases m with
    | nil => exact congrArg₂ _ first (ih rfl rest)
    | cons c m =>
      obtain ⟨k, v⟩ := c
      simp only [Mem.wfFrom, Bool.and_eq_true, decide_eq_true_eq] at h
      rw [List.length_cons, Mem.readFrom]
      split
      · next here =>
        subst here
        rw [Mem.get, if_pos rfl] at first
        refine congrArg₂ _ first (ih h.2 fun i c hc => ?_)
        rw [← rest i c hc, Mem.get, if_neg (by omega), if_neg (by omega)]
      · next later =>
        rw [Mem.get, if_neg later, if_pos (by omega)] at first
        refine congrArg₂ _ first (ih ?_ rest)
        simp only [Mem.wfFrom, Bool.and_eq_true, decide_eq_true_eq]
        exact ⟨⟨by omega, h.1.2⟩, h.2⟩

/-- A memory that holds a byte string at an address reads it there. -/
theorem Mem.read_eq {dflt : Byte} {m : Mem} (h : m.wf dflt = true) {a : Nat} {bs : Bytes}
    (bytes : ∀ i b, bs[i]? = some b → Mem.get dflt m (a + i) = b) : m.read dflt a bs.length = bs :=
  Mem.readFrom_eq (Mem.wfFrom_dropWhile h) fun i b hb => (Mem.get_dropWhile (Nat.le_add_right a i) m).trans (bytes i b hb)

theorem Mem.length_readFrom (dflt : Byte) (n : Nat) : ∀ (a : Nat) (m : Mem), (Mem.readFrom dflt n a m).length = n := by
  induction n with
  | zero => exact fun _ _ => rfl
  | succ n ih =>
    intro a m
    cases m with
    | nil => rw [Mem.readFrom, List.length_cons, ih]
    | cons c m =>
      rw [Mem.readFrom]
      split <;> rw [List.length_cons, ih]

/-! ### Writes of the flash and of the header -/

theorem flashProgram_move (a : Nat) (bs : Bytes) (ok : Bool) (d : Dev) :
    (flashProgram a bs ok d).rst = d.rst ∧ Keeps [.flash] d (flashProgram a bs ok d) := by
  cases ok with
  | true => exact flashProgram_frame a bs d
  | false =>
    unfold flashProgram
    split
    · exact ⟨rfl, Keeps.refl _ _⟩
    · exact ⟨rfl, fun q hq _ => by cases q <;> simp [Part.same] at hq ⊢⟩

theorem putHeader_move (b : Bool) (h : Header) (kek : Bytes) (ok : Bool) (d : Dev) :
    (putHeader b h kek ok d).rst = d.rst ∧ Keeps [.flash, .ks, .trouble, .journal] d (putHeader b h kek ok d) := by
  obtain ⟨erst, erased⟩ := flashErase_frame (hdrAddr b) 1 d
  obtain ⟨prst, programmed⟩ := flashProgram_move (hdrAddr b) (sectorHeader (d.nextErase (flag b)) 0 ++ h.bytes kek) ok
    (flashErase (hdrAddr b) 1 d)
  have written : Keeps [.flash, .ks] d (modKs (fun k => { k with erases := k.erases.set (flag b) (d.nextErase (flag b)) })
      (flashProgram (hdrAddr b) (sectorHeader (d.nextErase (flag b)) 0 ++ h.bytes kek) ok (flashErase (hdrAddr b) 1 d))) :=
    ((keeps_up erased).trans (keeps_up programmed)).trans (keeps_up (keeps_modKs _ _))
  have same := prst.trans erst
  simp only [putHeader]
  split
  · exact ⟨by rw [raiseWhy_rst, noteG_rst]; exact same,
      ((keeps_up written).trans (keeps_up (keeps_noteG 3 8 _))).trans (keeps_up (keeps_raiseWhy 3 0 _))⟩
  · exact ⟨same, keeps_up written⟩

theorem putHeader_up {b : Bool} {h : Header} {kek : Bytes} {d : Dev} (up : d.flashUp = true) :
    (putHeader b h kek true d).flashUp = true := by
  have known := congrArg RomView.known (putHeader_romView b h kek true d)
  have power := (putHeader_move b h kek true d).2 .power (by decide) (by decide)
  unfold Dev.flashUp at up ⊢
  rw [power]
  exact (congrArg (· && _) known).trans up

/-! ### The ends of commands (14 R332) -/

/-- A command that ends with a result after the core `D`, which differs in other parts than the boot registers. -/
theorem mgmt_ends {s : State} (awake : s.awake) {vfy burns : List Bool} {cmd r : Nat} {D : Dev} {ps : List Part}
    (ends : mgmtCmdEnds vfy burns s.dev = mgmtEnds cmd r D) (rst : D.rst = s.dev.rst) (frame : Keeps ps s.dev D)
    (boot : Part.boot ∉ ps := by decide) : ∃ t, exec (.mgmtCmdDone vfy burns) s = .next t ∧ SameShell s t
      ∧ Keeps (.boot :: ps) s.dev t.dev
      ∧ t.dev.boot = { s.dev.boot with mgmt := none, mgmtRes := mgmtDone cmd r s.dev.boot.mgmtRes }
      ∧ Keeps [.boot] D t.dev := by
  have ended : Keeps [.boot] D (s.through (fun _ => mgmtEnds cmd r D)).dev :=
    Keeps.through (s := { s with dev := D }) (f := fun _ => mgmtEnds cmd r D) (keeps_modBoot _ D)
  have same : D.boot = s.dev.boot := frame .boot boot (by decide)
  refine ⟨_, onDev_to awake ends, same_const awake rst, (frame.mono (List.subset_cons_self _ _)).trans
    (ended.mono (List.cons_subset_cons _ (List.nil_subset _))), ?_, ended⟩
  rw [← same]
  rfl

section
variable {d : Dev} {m : MgmtRun} (free : d.flashFree = true) (runs : d.boot.mgmt = some m) (vfy burns : List Bool)
include free runs

theorem mgmtCmdEnds_endorse (h : m.cmd = 1) : mgmtCmdEnds vfy burns d = endorseEnds m vfy d := by
  simp only [mgmtCmdEnds, free, runs, h]
  rfl

theorem mgmtCmdEnds_confirm (h : m.cmd = 2) : mgmtCmdEnds vfy burns d = confirmEnds vfy burns d := by
  simp only [mgmtCmdEnds, free, runs, h]
  rfl

theorem mgmtCmdEnds_restore (h : m.cmd = 4) : mgmtCmdEnds vfy burns d = restoreEnds m vfy d := by
  simp only [mgmtCmdEnds, free, runs, h]
  rfl

theorem mgmtCmdEnds_calsave (h : m.cmd = 5) : mgmtCmdEnds vfy burns d = calsaveEnds m vfy d := by
  simp only [mgmtCmdEnds, free, runs, h]
  rfl

theorem mgmtCmdEnds_stage (h : m.cmd = 6) : mgmtCmdEnds vfy burns d = stageEnds m vfy d := by
  simp only [mgmtCmdEnds, free, runs, h]
  rfl

theorem mgmtCmdEnds_activate (h : m.cmd = 7) : mgmtCmdEnds vfy burns d = activateEnds vfy d := by
  simp only [mgmtCmdEnds, free, runs, h]
  rfl

theorem mgmtCmdEnds_checkpoint (h : m.cmd = 9) : mgmtCmdEnds vfy burns d = checkpointEnds m vfy d := by
  simp only [mgmtCmdEnds, free, runs, h]
  rfl

end

/-! ### Commits (14 R331) -/

/-- A command is taken: its arguments kept, BUSY set. -/
theorem mgmtCommit_taken {d : Dev} (idle : d.mgmtBusy = false) (quiet : d.lcBusy = false) (program : d.boot.boot ≠ 3)
    (cmd : Nat) (take : Dev → MgmtRun → Dev × MgmtRun) : mgmtCommit cmd take d
      = let r := take (modBoot (fun b => { b with mgmtRes := clrBit b.mgmtRes 30 }) d) ⟨cmd, d.boot.mgmtArg, [], []⟩
        modBoot (fun b => { b with mgmtRes := setBit b.mgmtRes 31, mgmt := some r.2 }) r.1 := by
  have kept : (modBoot (fun b => { b with mgmtRes := clrBit b.mgmtRes 30 }) d).boot.boot ≠ 3 := program
  simp only [mgmtCommit, idle, quiet, if_neg kept]
  rfl

/-- A command that keeps something at its commit and does nothing else. -/
theorem commit_kept {s : State} (takes : s.takes .A) {i : Instr} {cmd : Nat} {take : Dev → MgmtRun → Dev × MgmtRun}
    (command : exec i s = onWrite .A (mgmtCommit cmd take) s) {snap : Bytes} {slots : List Nat}
    (idle : s.dev.mgmtBusy = false) (quiet : s.dev.lcBusy = false) (program : s.dev.boot.boot ≠ 3)
    (keeps : ∀ w : Word, take (modBoot (fun b => { b with mgmtRes := w }) s.dev) ⟨cmd, s.dev.boot.mgmtArg, [], []⟩
      = (modBoot (fun b => { b with mgmtRes := w }) s.dev, ⟨cmd, s.dev.boot.mgmtArg, snap, slots⟩)) :
    ∃ t, exec i s = .next t ∧ SameShell s t ∧ Keeps [.boot] s.dev t.dev ∧ t.dev.mgmtBusy = true
      ∧ t.dev.boot = { s.dev.boot with
        mgmt := some ⟨cmd, s.dev.boot.mgmtArg, snap, slots⟩, mgmtRes := setBit (clrBit s.dev.boot.mgmtRes 30) 31 } := by
  have acts : mgmtCommit cmd take s.dev = modBoot (fun b => { b with
      mgmt := some ⟨cmd, s.dev.boot.mgmtArg, snap, slots⟩, mgmtRes := setBit (clrBit b.mgmtRes 30) 31 }) s.dev := by
    have taken := keeps (clrBit s.dev.boot.mgmtRes 30)
    rw [mgmtCommit_taken idle quiet program]
    simp only
    exact (congrArg (fun r : Dev × MgmtRun => modBoot (fun b => { b with
      mgmtRes := setBit b.mgmtRes 31, mgmt := some r.2 }) r.1) taken)
  exact ⟨_, command.trans (onWrite_to takes acts), same_const takes.1 rfl, keeps_const (keeps_modBoot _ _),
    bit_setBit (by decide), rfl⟩

/-! ### Header and boot record (14 R335, R337) -/

theorem writeHeader_verified {d : Dev} (up : d.flashUp = true) (f : Header → Header) :
    ∃ e, writeHeader f [] d = (true, e, []) ∧ e.rst = d.rst ∧ Keeps [.flash, .ks, .trouble, .journal] d e
      ∧ e.flashUp = true := by
  simp only [writeHeader, outcome_nil up]
  exact ⟨_, rfl, (putHeader_move ..).1, (putHeader_move ..).2, putHeader_up up⟩

theorem writeBootRec_verified {d : Dev} (up : d.flashUp = true) (r : BootRec) :
    writeBootRec r [] d = (true, writeCopy bootCopies r.bytes true d, []) := by
  simp only [writeBootRec, outcome_nil up]

theorem writeCopy_rst (r : TwoCopies) (mk : Nat → Nat → Bytes) (d : Dev) : (writeCopy r mk true d).rst = d.rst :=
  (writeCopy_frame r mk d).1

theorem endorseEnds_bad {m : MgmtRun} {d : Dev} {r : Nat} (h : endorseBad m d = some r) (vs : List Bool) :
    endorseEnds m vs d = mgmtEnds 1 r d := by simp only [endorseEnds, h]

/-- ENDORSE whose checks pass writes the header and the boot record. -/
theorem endorseEnds_good {m : MgmtRun} {d : Dev} (h : endorseBad m d = none) (up : d.flashUp = true) :
    ∃ D, endorseEnds m [] d = mgmtEnds 1 1 D ∧ D.rst = d.rst ∧ Keeps [.flash, .ks, .trouble, .journal] d D := by
  obtain ⟨e, header, rst, frame, still⟩ := writeHeader_verified up
    (addCandidate (d.mkEntry (sha384 (d.slotImage d.otherSlot)) (imgVer (d.imgHeader d.otherSlot)) 2))
  obtain ⟨crst, copied⟩ := writeCopy_frame bootCopies
    { e.bootRec with trial := 1, period := (endorsePeriod m.arg[0]).getD 2000 }.bytes e
  simp only [endorseEnds, h, endorseHeader, header, endorseArm, writeBootRec_verified still]
  exact ⟨_, rfl, (queueEntry_rst ..).trans (crst.trans rst),
    (frame.trans (keeps_up copied)).trans (keeps_up (keeps_queueEntry _ _))⟩

/-- The RATCHET bit of a confirmation burnt, where the row has one left. -/
theorem burnRatchet_nil (d : Dev) : burnRatchet [] d
    = (if 64 ≤ d.otp.row.ratchet then d else modRow (fun r => { r with ratchet := r.ratchet + 1 }) d, []) := by
  unfold burnRatchet
  split <;> rfl

/-- The burn of a confirmation raises the row's RATCHET by one where fewer than 64 bits are burnt. -/
theorem burnRatchet_burns {d : Dev} (up : d.flashUp = true) : (burnRatchet [] d).1.rst = d.rst
    ∧ Keeps [.otp] d (burnRatchet [] d).1 ∧ (burnRatchet [] d).1.flashUp = true
    ∧ (burnRatchet [] d).1.otp = if 64 ≤ d.otp.row.ratchet then d.otp else { d.otp with
      rows := d.otp.rows.set d.otp.rowIdx { d.otp.row with ratchet := d.otp.row.ratchet + 1 } } := by
  rw [burnRatchet_nil]
  split
  · exact ⟨rfl, Keeps.refl _ _, up, rfl⟩
  · exact ⟨rfl, keeps_modRow _ d, up, rfl⟩

theorem confirmEnds_untried {d : Dev} (h : d.boot.boot ≠ 1) (vs burns : List Bool) :
    confirmEnds vs burns d = mgmtEnds 2 2 d := if_pos (bne_iff_ne.2 h)

section
variable {d : Dev} (trial : d.boot.boot = 1) (ready : d.ks.ready = true) (up : d.flashUp = true)
include trial ready up

/-- CONFIRM whose header verifies: the header, the ratchet, the boot record, the trial the normal program. -/
theorem confirmEnds_verified : ∃ D, confirmEnds [] [] d
      = mgmtEnds 2 (if 64 ≤ d.otp.row.ratchet then 0xB else 1) D ∧ D.rst = d.rst
    ∧ Keeps [.boot, .flash, .ks, .otp, .trouble, .journal] d D ∧ D.boot = { d.boot with boot := 2 }
    ∧ D.otp = if 64 ≤ d.otp.row.ratchet then d.otp else { d.otp with
        rows := d.otp.rows.set d.otp.rowIdx { d.otp.row with ratchet := d.otp.row.ratchet + 1 } } := by
  obtain ⟨e, header, rst, frame, still⟩ := writeHeader_verified up (fun h => { h with
    ratchet := if d.otp.row.ratchet < 64 then d.otp.row.ratchet + 1 else h.ratchet
    entries := [d.mkEntry d.boot.progMeas d.boot.progVer.toNat 1] })
  obtain ⟨brst, burnt, bup, otp⟩ := burnRatchet_burns still
  rw [frame .otp (by decide) (by decide)] at otp
  generalize hb : (burnRatchet [] e).1 = b at brst burnt bup otp
  obtain ⟨crst, copied⟩ := writeCopy_frame bootCopies { b.bootRec with active := b.otherSlot, trial := 0 }.bytes b
  have boot : b.boot = d.boot :=
    (burnt .boot (by decide) (by decide)).trans (frame .boot (by decide) (by decide))
  have unready : (!d.ks.ready) = false := by rw [ready]; rfl
  have onTrial : (d.boot.boot != 1) = false := by rw [trial]; rfl
  simp only [confirmEnds, onTrial, unready, confirmHeader, header, confirmRecord, hb, writeBootRec_verified bup]
  refine ⟨_, rfl, ?_, ?_, ?_, ?_⟩
  · exact (queueEntry_rst ..).trans (crst.trans (brst.trans rst))
  · exact ((((keeps_up frame).trans (keeps_up burnt)).trans (keeps_up copied)).trans (keeps_up (keeps_modBoot _ _))).trans
      (keeps_up (keeps_queueEntry _ _))
  · refine (queueEntry_boot ..).trans ?_
    have kept := (copied .boot (by decide) (by decide)).trans boot
    exact congrArg (fun x : Boot => { x with boot := 2 }) kept
  · exact (queueEntry_otp ..).trans ((copied .otp (by decide) (by decide)).trans otp)

end

/-- CONFIRM whose header fails its verify: the trial goes on, its watchdog started again. -/
theorem confirmEnds_failed {d : Dev} (trial : d.boot.boot = 1) (ready : d.ks.ready = true) : ∃ D, confirmEnds [false] [] d = mgmtEnds 2 8 (startWatchdog d.bootRec.period D)
    ∧ D.rst = d.rst ∧ Keeps [.flash, .ks, .trouble, .journal] d D := by
  have unready : (!d.ks.ready) = false := by rw [ready]; rfl
  have onTrial : (d.boot.boot != 1) = false := by rw [trial]; rfl
  have fails : (d.outcome [false]).1 = false := rfl
  simp only [confirmEnds, onTrial, unready, confirmHeader, writeHeader, fails]
  exact ⟨_, rfl, (putHeader_move ..).1, (putHeader_move ..).2⟩

/-! ### Calibration (18 R429, R430) -/

/-- RESTORE_FACTORY whose record verifies: the factory values are active and in force. -/
theorem restoreEnds_verified {m : MgmtRun} {d : Dev} (up : d.flashUp = true) : restoreEnds m [] d
    = mgmtEnds 4 1 (modClk (fun c => { c with calStat := clrBit c.calStat 31 })
      (loadCal d.calFactory (writeCopy calCopies (calRecord true m.snap) true d))) := by
  have otp := (writeCopy_frame calCopies (calRecord true m.snap) d).2 .otp (by decide) (by decide)
  have factory : (writeCopy calCopies (calRecord true m.snap) true d).calFactory = d.calFactory :=
    congrArg (fun o : Otp => wordsBytes factoryTable.toList ++ wordsBytes ((List.range 16).map factoryRide)
      ++ wordsBytes (o.calf.toList.drop 1)) otp
  simp only [restoreEnds, outcome_nil up, factory]
  rfl

theorem loadCal_rst (b : Bytes) (d : Dev) : (loadCal b d).rst = d.rst := congrArg RomView.rst (loadCal_romView b d)

/-- The values a record body makes active. -/
theorem loadCal_values (b : Bytes) (d : Dev) :
    (loadCal b d).power = { d.power with seq := Vector.ofFn (fun i => calWord b i.val) }
      ∧ (loadCal b d).supply.ride = Vector.ofFn (fun i => ⟨calWord b (32 + i.val), .idle, 0⟩) := by
  simp only [loadCal, recalcLevel]
  split_ifs <;> exact ⟨by simp, by simp⟩

/-- CALSAVE whose record verifies: the values taken are in force as the user's. -/
theorem calsaveEnds_verified {m : MgmtRun} {d : Dev} (up : d.flashUp = true) : calsaveEnds m [] d
    = mgmtEnds 5 1 (modClk (fun c => { c with calStat := setBit c.calStat 31, calRec := m.snap })
      (writeCopy calCopies (calRecord false m.snap) true d)) := by
  simp only [calsaveEnds, outcome_nil up]
  rfl

/-! ### Staging (14 R333) -/

/-- What lies outside `k + 1` sectors lies outside the first one, and outside the `k` others. -/
theorem outside_sectors {n a k x : Nat} (h : x < a ∨ a + n * (k + 1) ≤ x) :
    (x < a ∨ a + n ≤ x) ∧ (x < a + n ∨ a + n + n * k ≤ x) := by
  rw [Nat.mul_succ] at h
  omega

/-- Staged sectors that verify hold the bytes; the rest of the flash is as before. -/
theorem stageSectors_verified (k : Nat) : ∀ (a : Nat) (bs : Bytes) {d : Dev}, d.flashUp = true →
    Mem.wf 0xFF d.flash.mem = true → ∃ e, stageSectors a bs k [] d = (true, e) ∧ e.rst = d.rst ∧ Keeps [.flash] d e
      ∧ Mem.wf 0xFF e.flash.mem = true
      ∧ (∀ x, (x < a ∨ a + 4096 * k ≤ x) → Mem.get 0xFF e.flash.mem x = Mem.get 0xFF d.flash.mem x)
      ∧ (∀ i b, i < 4096 * k → bs[i]? = some b → Mem.get 0xFF e.flash.mem (a + i) = b) := by
  induction k with
  | zero => exact fun a bs d _ wf => ⟨d, rfl, rfl, Keeps.refl _ _, wf, fun _ _ => rfl, fun _ _ h => absurd h (by omega)⟩
  | succ k ih =>
    intro a bs d up wf
    have first : flashProgram a (bs.take 4096) true (flashErase a 1 d)
        = { d with flash := { d.flash with mem := (d.flash.mem.wipe a 4096).write 0xFF a (bs.take 4096) } } := by
      have erases : flashErase a 1 d = { d with flash := { d.flash with mem := d.flash.mem.wipe a 4096 } } := by
        simp [flashErase, up]
      have still : Dev.flashUp { d with flash := { d.flash with mem := d.flash.mem.wipe a 4096 } } = true := up
      rw [erases, flashProgram_ok still]
    have wiped := Mem.wipe_wf wf a 4096
    obtain ⟨e, rest, rst, frame, wf', outside, inside⟩ := ih (a + 4096) (bs.drop 4096)
      (d := { d with flash := { d.flash with mem := (d.flash.mem.wipe a 4096).write 0xFF a (bs.take 4096) } }) up
      (Mem.write_wf wiped a _)
    have short : (bs.take 4096).length ≤ 4096 := List.length_take_le _ _
    refine ⟨e, ?_, rst, Keeps.trans (fun q hq _ => by cases q <;> simp [Part.same] at hq ⊢) frame, wf', fun x hx => ?_,
      fun i b hi hb => ?_⟩
    · simp only [stageSectors, outcome_nil up, first]
      exact rest
    · obtain ⟨apart, beyond⟩ := outside_sectors hx
      rw [outside x beyond, Mem.get_write_other wiped (apart.imp_right fun h => Nat.le_trans (Nat.add_le_add_left short a) h),
        Mem.get_wipe_other wf apart]
    · by_cases early : i < 4096
      · rw [outside (a + i) (by omega)]
        exact Mem.get_write_same wiped (by rw [List.getElem?_take, if_pos early]; exact hb)
      · have later := inside (i - 4096) b (by omega) (by rw [List.getElem?_drop]; rwa [Nat.add_sub_cancel' (by omega)])
        rwa [Nat.add_assoc, Nat.add_sub_cancel' (by omega)] at later

theorem stageEnds_bad {m : MgmtRun} {d : Dev} {r : Nat} (h : stageBad m d = some r) (vs : List Bool) :
    stageEnds m vs d = mgmtEnds 6 r d := by simp only [stageEnds, h]

/-- A staging whose checks pass has a length of whole sectors. -/
theorem stageBad_whole {m : MgmtRun} {d : Dev} (h : stageBad m d = none) : m.stage.len % 4096 = 0 := by
  by_contra odd
  have refused : (m.stage.len % 4096 != 0) = true := bne_iff_ne.2 odd
  simp only [stageBad, refused, Bool.or_true, Bool.true_or, if_true] at h
  split at h <;> cases h

/-- HOSTIMG_STAGE whose checks pass puts the buffer's bytes into the slot and touches nothing else of the flash. -/
theorem stageEnds_good {m : MgmtRun} {d : Dev} (h : stageBad m d = none) (up : d.flashUp = true)
    (wf : Mem.wf 0xFF d.flash.mem = true) : ∃ D, stageEnds m [] d = mgmtEnds 6 1 D ∧ D.rst = d.rst ∧ Keeps [.flash] d D
      ∧ D.flashRead ((d.stageSlot m.stage.target).1 + m.stage.off) m.stage.len = d.readBuf m.stage.handle 0 m.stage.len
      ∧ (∀ x, (x < (d.stageSlot m.stage.target).1 + m.stage.off
          ∨ (d.stageSlot m.stage.target).1 + m.stage.off + m.stage.len ≤ x) →
        Mem.get 0xFF D.flash.mem x = Mem.get 0xFF d.flash.mem x) := by
  have whole : 4096 * (m.stage.len / 4096) = m.stage.len := Nat.mul_div_cancel' (Nat.dvd_of_mod_eq_zero (stageBad_whole h))
  have long : (d.readBuf m.stage.handle 0 m.stage.len).length = m.stage.len := Mem.length_readFrom ..
  obtain ⟨e, staged, rst, frame, wf', outside, inside⟩ := stageSectors_verified (m.stage.len / 4096)
    ((d.stageSlot m.stage.target).1 + m.stage.off) (d.readBuf m.stage.handle 0 m.stage.len) up wf
  rw [whole] at outside inside
  refine ⟨e, by simp only [stageEnds, h, staged, if_true], rst, frame, ?_, outside⟩
  have read := Mem.read_eq wf' (bs := d.readBuf m.stage.handle 0 m.stage.len)
    (fun i b hb => inside i b (long ▸ (List.getElem?_eq_some_iff.1 hb).1) hb)
  rwa [long] at read

/-! ### Activation (14 R344) -/

/-- The gate starts again from rest. -/
theorem gateStart_starts {d : Dev} (h : d.otp.endFuse = false) : Keeps [.gate] d (gateStart d)
    ∧ (gateStart d).gate.starting = true ∧ (gateStart d).hig = false := by
  have starts : gateStart d = modGate (fun g => { g with starting := true }) (gateStop d) := by rw [gateStart, h]; rfl
  rw [starts]
  refine ⟨fun q hq _ => by cases q <;> simp [Part.same, gateStop] at hq ⊢, rfl, ?_⟩
  simp [Dev.hig, gateStop, modGate, bit, clrBit]

theorem gateStart_rst (d : Dev) : (gateStart d).rst = d.rst := ite_rst rfl rfl

theorem activateEnds_none {d : Dev} (lc : d.otp.lcCode ≠ 0xF) (program : d.boot.boot ≠ 3)
    (noTable : d.hostTable (1 - d.bootRec.hostAct) = none) (vs : List Bool) :
    activateEnds vs d = mgmtEnds 7 9 (gateStart d) := by
  simp only [activateEnds, lc, program, noTable]
  rfl

theorem activateEnds_good {d : Dev} {tb : HostTable} (lc : d.otp.lcCode ≠ 0xF) (program : d.boot.boot ≠ 3)
    (table : d.hostTable (1 - d.bootRec.hostAct) = some tb)
    (newer : ∀ u, d.hostTable d.bootRec.hostAct = some u → u.ver ≤ tb.ver)
    (pages : d.badPage (1 - d.bootRec.hostAct) tb = none) (up : d.flashUp = true) : activateEnds [] d
      = mgmtEnds 7 1 (gateStart (showSlot (writeCopy bootCopies
        { d.bootRec with hostAct := 1 - d.bootRec.hostAct }.bytes true d))) := by
  cases running : d.hostTable d.bootRec.hostAct with
  | none =>
    simp only [activateEnds, lc, program, table, running, pages, writeBootRec_verified up]
    rfl
  | some u =>
    have fresh : decide (tb.ver < u.ver) = false := decide_eq_false (Nat.not_lt.2 (newer u running))
    simp only [activateEnds, lc, program, table, running, fresh, pages, writeBootRec_verified up]
    rfl

/-! ### The checkpoint (14 R334) -/

section
variable {d : Dev} {m : MgmtRun} (normal : d.otp.lcCode ≠ 3) (lc : d.otp.lcCode ≠ 0xF) (program : d.boot.boot ≠ 3)
  (ready : d.ks.ready = true)
include normal lc program ready

/-- A checkpoint whose checks pass and whose records verify writes the journal's queue after them. -/
theorem checkpointEnds_writes {vs : List Bool} {D : Dev} (clean : cleanInOrder m.slots [] d = (true, D, vs)) :
    checkpointEnds m [] d = mgmtEnds 9 1 (writeQueue D.journal.queue.length vs D).1 := by
  simp only [checkpointEnds, normal, lc, program, ready, clean]
  rfl

/-- A checkpoint with no slot to write and no entry queued writes nothing. -/
theorem checkpointEnds_nothing (slots : m.slots = []) (queue : d.journal.queue = []) :
    checkpointEnds m [] d = mgmtEnds 9 1 d := by
  rw [checkpointEnds_writes normal lc program ready (D := d) (vs := []) (by rw [slots]; rfl), queue]
  rfl

/-- A checkpoint of one live slot writes its clean record. -/
theorem checkpointEnds_one {slot : Nat} {x : KeySlot} (slots : m.slots = [slot]) (queue : d.journal.queue = [])
    (up : d.flashUp = true) (key : d.ks.slot slot = some x) (live : x.st = .live)
    (places : d.ks.logPos + d.ks.inNext.length < 127) :
    checkpointEnds m [] d = mgmtEnds 9 1 (logRecord slot x.ctr 1 true d) := by
  have living : (x.st != .live) = false := by rw [live]; rfl
  have clean : cleanInOrder m.slots [] d = (true, logRecord slot x.ctr 1 true d, []) := by
    simp only [slots, cleanInOrder, key, living, logAppend_first up places]
    rfl
  have same : (logRecord slot x.ctr 1 true d).journal = d.journal :=
    (logRecord_keeps up slot x.ctr 1).1 .journal (by decide) (by decide)
  rw [checkpointEnds_writes normal lc program ready clean, same, queue]
  rfl

end

/-- A record that verifies is its slot's newest. -/
theorem logRecord_newest {d : Dev} (up : d.flashUp = true) (slot v flags : Nat) :
    (logRecord slot v flags true d).ks.newest slot = some ⟨slot, v, flags, logAddr d.ks.logSec d.ks.logPos⟩ := by
  rw [logRecord_ok up]
  exact List.find?_cons_of_pos (by simp)

/-! ### The commands as the obligation states them -/

section
variable {s : State} (takes : s.takes .A) (idle : s.dev.mgmtBusy = false) (quiet : s.dev.lcBusy = false)
  (program : s.dev.boot.boot ≠ 3)
include takes idle quiet program

/-- CONFIRM's commit stops the watchdog of a trial whose store is ready. -/
theorem confirm_taken : ∃ t, exec .confirm s = .next t ∧ SameShell s t ∧ Keeps [.boot] s.dev t.dev
    ∧ t.dev.mgmtBusy = true ∧ t.dev.boot.mgmt = some ⟨2, s.dev.boot.mgmtArg, [], []⟩
    ∧ t.dev.boot.confirmRun = (s.dev.boot.confirmRun && !(s.dev.boot.boot == 1 && s.dev.ks.ready)) := by
  by_cases trial : s.dev.confirmable = true
  · have acts : confirm s.dev = modBoot (fun b => { b with
        mgmtRes := setBit (clrBit b.mgmtRes 30) 31, mgmt := some ⟨2, b.mgmtArg, [], []⟩
        confirmRun := false, confirmRemain := 0 }) s.dev := by
      rw [confirm, mgmtCommit_taken idle quiet program]
      simp only
      rw [if_pos]
      · rfl
      · exact trial
    have stops : (s.dev.boot.boot == 1 && s.dev.ks.ready) = true := trial
    exact ⟨_, onWrite_to takes acts, same_const takes.1 rfl, keeps_const (keeps_modBoot _ _), bit_setBit (by decide), rfl,
      by rw [stops, Bool.not_true, Bool.and_false]; rfl⟩
  · have acts : confirm s.dev = modBoot (fun b => { b with
        mgmtRes := setBit (clrBit b.mgmtRes 30) 31, mgmt := some ⟨2, b.mgmtArg, [], []⟩ }) s.dev := by
      rw [confirm, mgmtCommit_taken idle quiet program]
      simp only
      rw [if_neg]
      · rfl
      · exact trial
    have goes : (s.dev.boot.boot == 1 && s.dev.ks.ready) = false := Bool.eq_false_iff.2 trial
    exact ⟨_, onWrite_to takes acts, same_const takes.1 rfl, keeps_const (keeps_modBoot _ _), bit_setBit (by decide), rfl,
      by rw [goes, Bool.not_false, Bool.and_true]; rfl⟩

/-- HOSTIMG_ACTIVATE's commit stops the gate. -/
theorem hostimgActivate_taken : ∃ t, exec .hostimgActivate s = .next t ∧ SameShell s t
    ∧ Keeps [.boot, .gate] s.dev t.dev ∧ t.dev.mgmtBusy = true
    ∧ t.dev.boot.mgmt = some ⟨7, s.dev.boot.mgmtArg, [], []⟩ ∧ t.dev.hig = false ∧ t.dev.gate.pages = [] := by
  have acts : hostimgActivate s.dev = modBoot (fun b => { b with
      mgmtRes := setBit (clrBit b.mgmtRes 30) 31, mgmt := some ⟨7, b.mgmtArg, [], []⟩ }) (gateStop s.dev) := by
    rw [hostimgActivate, mgmtCommit_taken idle quiet program]
    rfl
  have stops : Keeps [.boot, .gate] s.dev (modBoot (fun b => { b with
      mgmtRes := setBit (clrBit b.mgmtRes 30) 31, mgmt := some ⟨7, b.mgmtArg, [], []⟩ }) (gateStop s.dev)) :=
    fun q hq _ => by cases q <;> simp [Part.same, gateStop] at hq ⊢
  refine ⟨_, onWrite_to takes acts, same_const takes.1 rfl, keeps_const stops, bit_setBit (by decide), rfl, ?_, rfl⟩
  simp [Dev.hig, gateStop, modGate, bit, clrBit]

end

/-! ### The ends as the obligation states them -/

section
variable {s : State} {m : MgmtRun} (awake : s.awake) (free : s.dev.flashFree = true) (runs : s.dev.boot.mgmt = some m)
include awake free runs

/-- CONFIRM verified: the trial's program is the normal one, the ratchet raised. -/
theorem confirm_done_verified (cmd : m.cmd = 2) (trial : s.dev.boot.boot = 1) (ready : s.dev.ks.ready = true)
    (up : s.dev.flashUp = true) : ∃ t, exec (.mgmtCmdDone [] []) s = .next t ∧ SameShell s t
    ∧ Keeps [.boot, .flash, .ks, .otp, .trouble, .journal] s.dev t.dev
    ∧ t.dev.boot = { s.dev.boot with
      boot := 2, mgmt := none
      mgmtRes := mgmtDone 2 (if 64 ≤ s.dev.otp.row.ratchet then 0xB else 1) s.dev.boot.mgmtRes }
    ∧ (64 ≤ s.dev.otp.row.ratchet → t.dev.otp = s.dev.otp)
    ∧ (s.dev.otp.row.ratchet < 64 → t.dev.otp = { s.dev.otp with
      rows := s.dev.otp.rows.set s.dev.otp.rowIdx { s.dev.otp.row with ratchet := s.dev.otp.row.ratchet + 1 } }) := by
  obtain ⟨D, ends, rst, frame, boot, otp⟩ := confirmEnds_verified trial ready up
  have moved := frame.trans (keeps_up (keeps_modBoot (fun b => { b with
    mgmtRes := mgmtDone 2 (if 64 ≤ s.dev.otp.row.ratchet then 0xB else 1) b.mgmtRes, mgmt := none }) D))
  have registers : (mgmtEnds 2 (if 64 ≤ s.dev.otp.row.ratchet then 0xB else 1) D).boot = { s.dev.boot with
      boot := 2, mgmt := none
      mgmtRes := mgmtDone 2 (if 64 ≤ s.dev.otp.row.ratchet then 0xB else 1) s.dev.boot.mgmtRes } := by
    simp only [mgmtEnds, modBoot, boot]
  exact ⟨_, onDev_to awake ((mgmtCmdEnds_confirm free runs [] [] cmd).trans ends), same_const awake rst,
    keeps_const moved, registers, fun full => otp.trans (if_pos full), fun room => otp.trans (if_neg (by omega))⟩

/-- CONFIRM whose header fails: the trial's watchdog runs again. -/
theorem confirm_done_failed (cmd : m.cmd = 2) (trial : s.dev.boot.boot = 1) (ready : s.dev.ks.ready = true) :
    ∃ t, exec (.mgmtCmdDone [false] []) s = .next t ∧ SameShell s t
    ∧ Keeps [.boot, .flash, .ks, .trouble, .journal] s.dev t.dev ∧ t.dev.boot.boot = 1 ∧ t.dev.boot.mgmt = none
    ∧ t.dev.boot.mgmtRes = mgmtDone 2 8 s.dev.boot.mgmtRes ∧ t.dev.boot.confirmRun = true
    ∧ 1 ≤ t.dev.boot.confirmLeft ∧ t.dev.boot.confirmLeft ≤ 1000 := by
  obtain ⟨D, ends, rst, frame⟩ := confirmEnds_failed trial ready
  have boot : D.boot = s.dev.boot := frame .boot (by decide) (by decide)
  have starts : Keeps [.boot] D (mgmtEnds 2 8 (startWatchdog s.dev.bootRec.period D)) :=
    fun q hq _ => by cases q <;> simp [Part.same, startWatchdog, mgmtEnds, bump] at hq ⊢
  have left : Config.freeNat D.ctr % 1000 < 1000 := Nat.mod_lt _ (by decide)
  refine ⟨_, onDev_to awake ((mgmtCmdEnds_confirm free runs [false] [] cmd).trans ends), same_const awake rst,
    keeps_const ((keeps_up frame).trans (keeps_up starts)), (congrArg Boot.boot boot).trans trial, rfl,
    (congrArg (fun b : Boot => mgmtDone 2 8 b.mgmtRes) boot :), rfl, Nat.le_add_left 1 _, left⟩

/-- RESTORE_FACTORY verified: the factory values are in force. -/
theorem restore_done_verified (cmd : m.cmd = 4) (up : s.dev.flashUp = true) :
    ∃ t, exec (.mgmtCmdDone [] []) s = .next t ∧ SameShell s t
    ∧ Keeps [.boot, .flash, .power, .supply, .clocks, .trouble, .journal] s.dev t.dev
    ∧ t.dev.boot = { s.dev.boot with mgmt := none, mgmtRes := mgmtDone 4 1 s.dev.boot.mgmtRes }
    ∧ t.dev.power = { s.dev.power with seq := Vector.ofFn (fun i => calWord s.dev.calFactory i.val) }
    ∧ (∀ i : Fin 16, t.dev.supply.ride[i] = ⟨calWord s.dev.calFactory (32 + i.val), .idle, 0⟩)
    ∧ bit t.dev.clocks.calStat 31 = false := by
  obtain ⟨crst, copied⟩ := writeCopy_frame calCopies (calRecord true m.snap) s.dev
  have ends := (mgmtCmdEnds_restore free runs [] [] cmd).trans (restoreEnds_verified up)
  obtain ⟨power, ride⟩ := loadCal_values s.dev.calFactory (writeCopy calCopies (calRecord true m.snap) true s.dev)
  have loaded := (keeps_up copied).trans (keeps_up (loadCal_keeps s.dev.calFactory _)
    (qs := [.flash, .power, .supply, .clocks, .trouble, .journal]))
  have lrst := (loadCal_rst s.dev.calFactory _).trans crst
  rw [copied .power (by decide) (by decide)] at power
  generalize loadCal s.dev.calFactory (writeCopy calCopies (calRecord true m.snap) true s.dev) = D at *
  obtain ⟨t, run, same, kept, boot, rest⟩ := mgmt_ends awake ends lrst (loaded.trans (fun q hq _ => by
    cases q <;> simp [Part.same] at hq ⊢))
  refine ⟨t, run, same, kept, boot, (rest .power (by decide) (by decide)).trans power, fun i => ?_, ?_⟩
  · rw [rest .supply (by decide) (by decide)]
    simp [modClk, ride]
  · rw [rest .clocks (by decide) (by decide)]
    simp [modClk, bit, clrBit]

/-- HOSTIMG_ACTIVATE whose checks pass: the other slot is active and the gate starts. -/
theorem activate_done {tb : HostTable} (cmd : m.cmd = 7) (lc : s.dev.otp.lcCode ≠ 0xF) (program : s.dev.boot.boot ≠ 3)
    (fuse : s.dev.otp.endFuse = false) (up : s.dev.flashUp = true)
    (table : s.dev.hostTable (1 - s.dev.bootRec.hostAct) = some tb)
    (newer : ∀ u, s.dev.hostTable s.dev.bootRec.hostAct = some u → u.ver ≤ tb.ver)
    (pages : s.dev.badPage (1 - s.dev.bootRec.hostAct) tb = none) :
    ∃ t, exec (.mgmtCmdDone [] []) s = .next t ∧ SameShell s t ∧ Keeps [.boot, .gate, .flash] s.dev t.dev
    ∧ t.dev.boot = { s.dev.boot with mgmt := none, mgmtRes := mgmtDone 7 1 s.dev.boot.mgmtRes }
    ∧ t.dev.flash = (writeCopy bootCopies
      { s.dev.bootRec with hostAct := 1 - s.dev.bootRec.hostAct }.bytes true s.dev).flash
    ∧ t.dev.gate.starting = true ∧ t.dev.hig = false := by
  obtain ⟨crst, copied⟩ := writeCopy_frame bootCopies { s.dev.bootRec with hostAct := 1 - s.dev.bootRec.hostAct }.bytes s.dev
  have ends := (mgmtCmdEnds_activate free runs [] [] cmd).trans (activateEnds_good lc program table newer pages up)
  have otp : _ = s.dev.otp := copied .otp (by decide) (by decide)
  generalize hD : writeCopy bootCopies { s.dev.bootRec with hostAct := 1 - s.dev.bootRec.hostAct }.bytes true s.dev = D at *
  obtain ⟨started, starting, hig⟩ := gateStart_starts (d := showSlot D) (by rw [← fuse, ← otp]; rfl)
  have shown : Keeps [.gate] D (showSlot D) := fun q hq _ => by cases q <;> simp [Part.same, showSlot] at hq ⊢
  have frame : Keeps [.gate, .flash] s.dev (gateStart (showSlot D)) :=
    ((keeps_up copied).trans (keeps_up shown)).trans (keeps_up started)
  obtain ⟨t, run, same, kept, boot, rest⟩ := mgmt_ends awake ends ((gateStart_rst _).trans crst) frame
  have gate : t.dev.gate = (gateStart (showSlot D)).gate := rest .gate (by decide) (by decide)
  have flash := (rest .flash (by decide) (by decide)).trans ((started .flash (by decide) (by decide)).trans
    (shown .flash (by decide) (by decide)))
  refine ⟨t, run, same, kept, boot, flash, gate ▸ starting, ?_⟩
  rwa [Dev.hig, gate]

end

/-- Settles O54: each command by its end. -/
theorem managementCommandsRunAndEnd : Obligations.ManagementCommandsRunAndEnd := by
  refine ⟨fun s takes idle quiet program => ⟨?_, confirm_taken takes idle quiet program,
    hostimgActivate_taken takes idle quiet program⟩, fun s m awake free runs => ⟨?_, ?_, ?_, ?_, ?_, ?_, ?_, ?_, ?_, ?_, ?_, ?_⟩⟩
  · intro i cmd snap slots command
    simp only [List.mem_cons, Prod.mk.injEq, List.not_mem_nil, or_false] at command
    obtain ⟨rfl, rfl, rfl, rfl⟩ | ⟨rfl, rfl, rfl, rfl⟩ | ⟨rfl, rfl, rfl, rfl⟩ | ⟨rfl, rfl, rfl, rfl⟩
      | ⟨rfl, rfl, rfl, rfl⟩ := command
    · exact commit_kept takes (take := fun d m => (d, m)) rfl idle quiet program fun _ => rfl
    · exact commit_kept takes (take := fun d m => (d, { m with snap := d.calBody })) rfl idle quiet program fun _ => rfl
    · exact commit_kept takes (take := fun d m => (d, { m with snap := d.calBody })) rfl idle quiet program fun _ => rfl
    · exact commit_kept takes (take := fun d m => (d, m)) rfl idle quiet program fun _ => rfl
    · exact commit_kept takes (take := fun d m => (d, { m with slots := sortSlots (d.needsClean.map (·.slot)) })) rfl
        idle quiet program fun _ => rfl
  · rintro (cmd | cmd) r bad
    · rw [if_pos cmd] at bad
      obtain ⟨t, run, same, kept, boot, -⟩ := mgmt_ends awake ((mgmtCmdEnds_endorse free runs [] [] cmd).trans
        (endorseEnds_bad bad [])) rfl (Keeps.refl [] _)
      exact ⟨t, run, same, kept, cmd ▸ boot⟩
    · rw [if_neg (by omega)] at bad
      obtain ⟨t, run, same, kept, boot, -⟩ := mgmt_ends awake ((mgmtCmdEnds_stage free runs [] [] cmd).trans
        (stageEnds_bad bad [])) rfl (Keeps.refl [] _)
      exact ⟨t, run, same, kept, cmd ▸ boot⟩
  · intro cmd good up
    obtain ⟨D, ends, rst, frame⟩ := endorseEnds_good good up
    obtain ⟨t, run, same, kept, boot, -⟩ :=
      mgmt_ends awake ((mgmtCmdEnds_endorse free runs [] [] cmd).trans ends) rst frame
    exact ⟨t, run, same, kept, boot⟩
  · exact fun cmd trial ready up => confirm_done_verified awake free runs cmd trial ready up
  · exact fun cmd trial ready _ => confirm_done_failed awake free runs cmd trial ready
  · intro cmd untried
    obtain ⟨t, run, same, kept, boot, -⟩ := mgmt_ends awake ((mgmtCmdEnds_confirm free runs [] [] cmd).trans
      (confirmEnds_untried untried [] [])) rfl (Keeps.refl [] _)
    exact ⟨t, run, same, kept, boot⟩
  · exact fun cmd up => restore_done_verified awake free runs cmd up
  · intro cmd up
    obtain ⟨crst, copied⟩ := writeCopy_frame calCopies (calRecord false m.snap) s.dev
    have ends := (mgmtCmdEnds_calsave free runs [] [] cmd).trans (calsaveEnds_verified up)
    have clocks : _ = s.dev.clocks := copied .clocks (by decide) (by decide)
    generalize writeCopy calCopies (calRecord false m.snap) true s.dev = D at *
    obtain ⟨t, run, same, kept, boot, rest⟩ := mgmt_ends awake ends crst ((keeps_up copied).trans
      (fun q hq _ => by cases q <;> simp [Part.same] at hq ⊢) : Keeps [.flash, .clocks] _ _)
    refine ⟨t, run, same, keeps_up kept, boot, rest .flash (by decide) (by decide), ?_⟩
    rw [rest .clocks (by decide) (by decide), ← clocks]
    rfl
  · intro cmd good up wf
    obtain ⟨D, ends, rst, frame, inside, outside⟩ := stageEnds_good good up wf
    obtain ⟨t, run, same, kept, boot, rest⟩ :=
      mgmt_ends awake ((mgmtCmdEnds_stage free runs [] [] cmd).trans ends) rst frame
    have flash : t.dev.flash = D.flash := rest .flash (by decide) (by decide)
    refine ⟨t, _, rfl, run, same, kept, boot, ?_, ?_⟩
    · rw [Dev.flashRead, flash]
      exact inside
    · rw [flash]
      exact outside
  · intro cmd lc program fuse noTable
    obtain ⟨frame, starting, hig⟩ := gateStart_starts fuse
    have ends := (mgmtCmdEnds_activate free runs [] [] cmd).trans (activateEnds_none lc program noTable [])
    obtain ⟨t, run, same, kept, boot, rest⟩ := mgmt_ends awake ends (gateStart_rst _) frame
    have gate : t.dev.gate = (gateStart s.dev).gate := rest .gate (by decide) (by decide)
    refine ⟨t, run, same, kept, boot, gate ▸ starting, ?_⟩
    rwa [Dev.hig, gate]
  · exact fun tb cmd lc program fuse up table newer pages =>
      activate_done awake free runs cmd lc program fuse up table newer pages
  · intro cmd normal lc program ready _ slots queue
    obtain ⟨t, run, same, kept, boot, -⟩ := mgmt_ends awake ((mgmtCmdEnds_checkpoint free runs [] [] cmd).trans
      (checkpointEnds_nothing normal lc program ready slots queue)) rfl (Keeps.refl [] _)
    exact ⟨t, run, same, kept, boot⟩
  · intro slot x cmd normal lc program ready up slots queue key live places
    have ends := (mgmtCmdEnds_checkpoint free runs [] [] cmd).trans
      (checkpointEnds_one normal lc program ready slots queue up key live places)
    obtain ⟨frame, rst⟩ := logRecord_keeps up slot x.ctr 1
    obtain ⟨t, run, same, kept, boot, rest⟩ := mgmt_ends awake ends rst frame
    refine ⟨t, run, same, keeps_up kept, boot, ?_, ?_⟩
    · rw [rest .flash (by decide) (by decide)]
      exact logRecord_mem up slot x.ctr 1
    · rw [rest .ks (by decide) (by decide)]
      exact logRecord_newest up slot x.ctr 1

end Sys2Proof.Machine
end
section
/-!
The gate's table and pages, and a phrase table's load (O55).
-/

namespace Sys2Proof.Machine

/-! ### Words -/

/-- A bit of a word in which another bit is set. -/
theorem bit_setBit_other {w : Word} {b c : Nat} (h : b ≠ c) : bit (setBit w b) c = bit w c := by
  by_cases small : c < 32
  · simp only [bit, setBit, BitVec.getLsbD_or, BitVec.getLsbD_shiftLeft, BitVec.getLsbD_one]
    simp
    omega
  · simp only [bit, BitVec.getLsbD_of_ge _ _ (Nat.le_of_not_lt small)]

theorem bit_clrBit_same (w : Word) (b : Nat) (h : b < 32) : bit (clrBit w b) b = false := by
  simp [bit, clrBit, h]

/-- A field outside which a bit is set is as before. -/
theorem fld_setBit_above (w : Word) {hi lo b : Nat} (h : hi < b) : fld (setBit w b) hi lo = fld w hi lo := by
  refine Nat.eq_of_testBit_eq fun i => ?_
  rw [fld_testBit, fld_testBit]
  by_cases inside : i < hi + 1 - lo
  · have other := bit_setBit_other (w := w) (b := b) (c := lo + i) (by omega)
    simp only [bit] at other
    rw [other]
  · simp [inside]

theorem lo16_setBit_above (w : Word) {b : Nat} (h : 15 < b) : lo16 (setBit w b) = lo16 w := by
  have same := fld_setBit_above w (lo := 0) h
  simpa [fld, lo16] using same

/-- A field put to a number. -/
theorem fld_putFld (w : Word) (v : Nat) {hi lo : Nat} (order : lo ≤ hi) (inWord : hi < 32) :
    fld (putFld w (at_ v lo) hi lo) hi lo = v % 2 ^ (hi + 1 - lo) := by
  refine Nat.eq_of_testBit_eq fun i => ?_
  rw [fld_testBit, Nat.testBit_mod_two_pow]
  by_cases inside : i < hi + 1 - lo
  · rw [putFld_bit _ _ order _ (by omega), if_pos (by omega), at_, BitVec.getLsbD_ofNat, Nat.testBit_mul_two_pow]
    simp [inside]
    omega
  · simp [inside]

/-! ### The gate (14 R341, R343) -/

theorem keeps_modGate (f : Gate → Gate) (d : Dev) : Keeps [.gate] d (modGate f d) := by
  intro q hq _
  cases q <;> simp [Part.same] at hq ⊢

/-- A command that changes the gate alone. -/
theorem gate_to {s : State} (awake : s.awake) {i : Instr} {f : Dev → Dev} (runs : exec i s = onDev f s) {g : Gate → Gate}
    (acts : f s.dev = modGate g s.dev) :
    ∃ t, exec i s = .next t ∧ SameShell s t ∧ Keeps [.gate] s.dev t.dev ∧ t.dev.gate = g s.dev.gate :=
  ⟨_, runs.trans (onDev_to awake acts), same_const awake rfl, keeps_const (keeps_modGate _ _), rfl⟩

section
variable {d : Dev} (on : d.domOn 3 = true) (free : d.flashFree = true)
include on free

theorem gateLoaded_table (starting : d.gate.starting = true) {tb : HostTable}
    (table : d.hostTable d.bootRec.hostAct = some tb) : gateLoaded d = modGate (fun g => { g with
      starting := false, stat := setBit (clrBit g.stat 28) 31, digests := tb.digests
      info := at_ d.bootRec.hostAct 31 ||| (g.info &&& 0xFFF), ver := BitVec.ofNat 32 tb.ver }) d := by
  simp only [gateLoaded, starting, on, free, table]
  rfl

theorem gateLoaded_bad (starting : d.gate.starting = true) (table : d.hostTable d.bootRec.hostAct = none) :
    gateLoaded d = modGate (fun g => { g with
      starting := false, stat := setBit g.stat 28, info := at_ d.bootRec.hostAct 31 ||| (g.info &&& 0xFFF), ver := 0 }) d := by
  simp only [gateLoaded, starting, on, free, table]
  rfl

/-- The gate with a fetched page that matched its digest resident. -/
def Gate.fetched (g : Gate) (p : Nat) (bs : Bytes) : Gate :=
  { g with
    fetch := g.queued, queued := none, pages := ((p, bs) :: g.pages.filter (fun x => x.1 != p)).take 16
    stat := if fld g.page 11 0 = p then setBit (putBit g.stat 26 g.queued.isSome) 30 else putBit g.stat 26 g.queued.isSome }

/-- The gate with a fetched page that did not match its digest refused. -/
def Gate.pageBad (g : Gate) (p : Nat) : Gate :=
  { g with
    fetch := g.queued, queued := none, stat := setBit (putBit g.stat 26 g.queued.isSome) 29
    info := putFld g.info (at_ p 0) 11 0 }

theorem fetchDone_ends {p : Nat} (fetch : d.gate.fetch = some p) {bs : Bytes}
    (page : bs = d.hostPage (fld d.gate.info 31 31) (ceilDiv (352 + 32 * d.npages) 4096) p) : fetchDone d
      = modGate (fun g => if sha256 bs = d.gate.digests.getD p [] then g.fetched p bs else g.pageBad p) d := by
  subst page
  simp only [fetchDone, fetch, on, free]
  split <;> simp_all [modGate, Gate.fetched, Gate.pageBad]

end

theorem requestPage_idle {d : Dev} (idle : d.gate.fetch = none) (p : Nat) :
    requestPage p d = modGate (fun g => { g with fetch := some p, stat := setBit g.stat 26 }) d := by
  simp only [requestPage, modGate, idle]

theorem requestPage_busy {d : Dev} {q : Nat} (busy : d.gate.fetch = some q) (p : Nat) :
    requestPage p d = modGate (fun g => { g with queued := some p }) d := by
  simp only [requestPage, modGate, busy]

/-- A write of a page in the table names it and asks for it. -/
theorem higpage_asks {s : State} (takes : s.takes .A) {w : Word} (inTable : fld w 11 0 < s.dev.npages) :
    ∃ t, exec (.higpageWrite .A w) s = .next t ∧ SameShell s t ∧ Keeps [.gate] s.dev t.dev
      ∧ t.dev.gate.page = at_ (fld w 11 0) 0 ∧ bit t.dev.gate.stat 30 = false ∧ bit t.dev.gate.stat 29 = false
      ∧ (s.dev.gate.fetch = none → t.dev.gate.fetch = some (fld w 11 0) ∧ bit t.dev.gate.stat 26 = true)
      ∧ (∀ p, s.dev.gate.fetch = some p → t.dev.gate.fetch = some p ∧ t.dev.gate.queued = some (fld w 11 0)) := by
  have asks : writeHigPage w s.dev = requestPage (fld w 11 0) (modGate (fun g => { g with
      page := at_ (fld w 11 0) 0, stat := clrBit (clrBit g.stat 30) 29 }) s.dev) := by
    rw [writeHigPage, if_neg (Nat.not_le.2 inTable)]
  have named := keeps_modGate (fun g => { g with page := at_ (fld w 11 0) 0, stat := clrBit (clrBit g.stat 30) 29 }) s.dev
  cases fetch : s.dev.gate.fetch with
  | none =>
    rw [requestPage_idle (by exact fetch)] at asks
    refine ⟨_, onA_to takes asks, same_const takes.1 rfl, keeps_const (named.trans (keeps_modGate _ _)), rfl, ?_, ?_,
      fun _ => ⟨rfl, bit_setBit (by decide)⟩, nofun⟩
    · simp [modGate, bit, setBit, clrBit]
    · simp [modGate, bit, setBit, clrBit]
  | some q =>
    rw [requestPage_busy (by exact fetch)] at asks
    refine ⟨_, onA_to takes asks, same_const takes.1 rfl, keeps_const (named.trans (keeps_modGate _ _)), rfl, ?_, ?_,
      nofun, fun p hp => ⟨fetch.trans hp, rfl⟩⟩
    · simp [modGate, bit, clrBit]
    · simp [modGate, bit, clrBit]

theorem higpage_reserved {s : State} (takes : s.takes .A) {w : Word} (beyond : s.dev.npages ≤ fld w 11 0) :
    ∃ t, exec (.higpageWrite .A w) s = .next t ∧ SameShell s t ∧ Keeps [.trouble, .journal] s.dev t.dev
      ∧ bit t.dev.trouble.g0 12 = true := by
  have acts : writeHigPage w s.dev = noteLink .A 12 s.dev := if_pos beyond
  refine ⟨_, onA_to takes acts, same_const takes.1 (noteLink_rst ..), keeps_const (keeps_noteLink .A 12 s.dev), ?_⟩
  rw [through_trouble]
  exact noteLink_bit .A (by decide) s.dev

/-! ### Phrase tables (15 R368) -/

theorem keeps_modPhr (f : Phrases → Phrases) (d : Dev) : Keeps [.phrases] d (modPhr f d) := by
  intro q hq _
  cases q <;> simp [Part.same] at hq ⊢

/-- A load begins with the channel and the handle the write names. -/
theorem ptLoad_begins {s : State} (takes : s.takes .A) (idle : s.dev.ptBusy = false) (w : Word) :
    ∃ t, exec (.ptLoad .A w) s = .next t ∧ SameShell s t ∧ Keeps [.phrases] s.dev t.dev
      ∧ t.dev.phrases = { s.dev.phrases with load := some (fld w 19 16, lo16 w, 0) } := by
  have acts : ptLoad (setBit w 31) s.dev = modPhr (fun p => { p with load := some (fld w 19 16, lo16 w, 0) }) s.dev := by
    have named : bit (setBit w 31) 31 = true := bit_setBit (by decide)
    simp only [ptLoad, idle, named, fld_setBit_above w (show 19 < 31 by decide), lo16_setBit_above w (show 15 < 31 by decide)]
    rfl
  exact ⟨_, onA_to takes acts, same_const takes.1 rfl, keeps_const (keeps_modPhr _ _), rfl⟩

section
variable {d : Dev} {ch h k : Nat} (load : d.phrases.load = some (ch, h, k)) (free : d.flashFree = true)
include load free

/-- A load whose checks fail ends with the first one's result. -/
theorem ptLoadEnds_refused {r : Nat} (bad : 2 ≤ d.otp.lcCode ∧ r = 2 ∨ d.otp.lcCode < 2 ∧ d.ptSource ch h = none ∧ r = 3
    ∨ d.otp.lcCode < 2 ∧ (∃ tb, d.ptSource ch h = some tb ∧ ptValid tb = false) ∧ r = 4) (vfy : List Bool) :
    ptLoadEnds vfy d = ptEnds r d := by
  obtain ⟨closed, rfl⟩ | ⟨early, none_, rfl⟩ | ⟨early, ⟨tb, source, invalid⟩, rfl⟩ := bad
  · simp only [ptLoadEnds, load, free, if_pos closed]
    rfl
  · simp only [ptLoadEnds, load, free, if_neg (Nat.not_le.2 early), none_]
    rfl
  · simp only [ptLoadEnds, load, free, if_neg (Nat.not_le.2 early), source, invalid]
    rfl

/-- A load whose checks pass and whose copy verifies adopts the copy that counts. -/
theorem ptLoadEnds_adopts {tb : Bytes} (early : d.otp.lcCode < 2) (source : d.ptSource ch h = some tb)
    (valid : ptValid tb = true) (up : d.flashUp = true) : ptLoadEnds [] d
      = modPhr (fun p => { p with
          load := none, table := ((writeCopy phraseCopies (phraseRecord tb) true d).copyNow phraseCopies).getD tb
          stat := putFld p.stat (at_ 1 16) 23 16 }) (writeCopy phraseCopies (phraseRecord tb) true d) := by
  simp only [ptLoadEnds, load, free, if_neg (Nat.not_le.2 early), source, valid, outcome_nil up]
  rfl

end

/-- A load that ends by changing the phrase memory of the core `e`. -/
theorem phrases_to {s : State} (awake : s.awake) {vfy : List Bool} {e : Dev} {g : Phrases → Phrases} {ps : List Part}
    (acts : ptLoadEnds vfy s.dev = modPhr g e) (rst : e.rst = s.dev.rst) (frame : Keeps ps s.dev e) :
    ∃ t, exec (.ptLoadDone vfy) s = .next t ∧ SameShell s t ∧ Keeps (.phrases :: ps) s.dev t.dev
      ∧ t.dev.phrases = g e.phrases ∧ Keeps [.phrases] e t.dev := by
  have put : Keeps [.phrases] e (s.through (fun _ => modPhr g e)).dev :=
    Keeps.through (s := { s with dev := e }) (f := fun _ => modPhr g e) (keeps_modPhr g e)
  exact ⟨_, onDev_to awake acts, same_const awake rst, (frame.mono (List.subset_cons_self _ _)).trans
    (put.mono (List.cons_subset_cons _ (List.nil_subset _))), rfl, put⟩

/-- The copy that counts is what the flash holds. -/
theorem copyNow_of {d e : Dev} (flash : e.flash = d.flash) (up : e.flashUp = d.flashUp) (r : TwoCopies) :
    e.copyNow r = d.copyNow r := by
  unfold Dev.copyNow Dev.copySeq Dev.copyBytes Dev.flashRead
  rw [flash, up]

theorem flashUp_of {d e : Dev} (flash : e.flash = d.flash) (power : e.power = d.power) : e.flashUp = d.flashUp := by
  simp only [Dev.flashUp, flash, power]

/-- Settles O55: the gate by what its table and its page are, a load by its first failing check. -/
theorem gateAndPhraseTablesLoad : Obligations.GateAndPhraseTablesLoad := by
  refine ⟨fun s awake starting on free => ⟨fun tb table => ?_, fun table => ?_⟩,
    fun s w takes => ⟨higpage_asks takes, higpage_reserved takes⟩, fun s p bs awake fetch on free page => ?_,
    fun s w takes idle => ptLoad_begins takes idle w, fun s ch h k awake load free => ⟨fun r bad => ?_,
      fun tb early source valid up => ?_⟩⟩
  · obtain ⟨t, run, same, kept, gate⟩ := gate_to awake (i := .higTableLoaded) rfl (gateLoaded_table on free starting table)
    refine ⟨t, run, same, kept, ?_⟩
    rw [Dev.hig, gate]
    exact ⟨bit_setBit (by decide), rfl, rfl, rfl, by simp [bit, setBit, clrBit], rfl⟩
  · obtain ⟨t, run, same, kept, gate⟩ := gate_to awake (i := .higTableLoaded) rfl (gateLoaded_bad on free starting table)
    refine ⟨t, run, same, kept, ?_⟩
    rw [Dev.hig, gate]
    exact ⟨bit_setBit (by decide), bit_setBit_other (by decide), rfl⟩
  · obtain ⟨t, run, same, kept, gate⟩ := gate_to awake (i := .higFetchDone) rfl (fetchDone_ends on free fetch page)
    refine ⟨t, run, same, kept, ?_⟩
    rw [gate]
    by_cases matched : sha256 bs = s.dev.gate.digests.getD p []
    · rw [if_pos matched]
      refine ⟨rfl, rfl, fun _ => ⟨rfl, fun shown => ?_⟩, fun other => absurd matched other⟩
      rw [Gate.fetched, if_pos shown]
      exact bit_setBit (by decide)
    · rw [if_neg matched]
      exact ⟨rfl, rfl, fun other => absurd other matched, fun _ => ⟨rfl, bit_setBit (by decide), fld_putFld _ _ (by decide) (by decide)⟩⟩
  · exact ⟨_, onDev_to awake (ptLoadEnds_refused load free bad []), same_const awake rfl, keeps_const (keeps_modPhr _ _), rfl⟩
  · have acts := ptLoadEnds_adopts load free early source valid up
    obtain ⟨rst, copied⟩ := writeCopy_frame phraseCopies (phraseRecord tb) s.dev
    have phrases := copied .phrases (by decide) (by decide)
    generalize writeCopy phraseCopies (phraseRecord tb) true s.dev = e at acts rst copied phrases ⊢
    obtain ⟨t, run, same, kept, adopted, rest⟩ := phrases_to awake acts rst copied
    have flash : t.dev.flash = e.flash := rest .flash (by decide) (by decide)
    refine ⟨t, run, same, keeps_up kept, flash, ?_⟩
    rw [copyNow_of flash (flashUp_of flash (rest .power (by decide) (by decide))), ← phrases]
    exact adopted

end Sys2Proof.Machine
end
section
/-!
Power domains (O57): the control words, the sequences and the missed ready signals.
-/

namespace Sys2Proof.Machine

/-! ### The control words (16 R370, R393) -/

theorem keeps_modPow (f : Power → Power) (d : Dev) : Keeps [.power] d (modPow f d) := by
  intro q hq _
  cases q <;> simp [Part.same] at hq ⊢

section
variable {k : Nat} (h : k < 5) (w : Word) (d : Dev)
include h

theorem domainControl_req : domainControl (0x420 + 4 * k) w d = writeReq k w d := by
  have word : (0x420 + 4 * k - 0x420) / 4 = k := by omega
  rw [domainControl, if_pos (by simp; omega), word]

theorem domainControl_deny : domainControl (0x440 + 4 * k) w d = writeDeny k w d := by
  have word : (0x440 + 4 * k - 0x440) / 4 = k := by omega
  rw [domainControl, if_neg (by simp; omega), if_pos (by simp; omega), word]

theorem domainControl_keep : domainControl (0x460 + 4 * k) w d = writeKeep k w d := by
  have word : (0x460 + 4 * k - 0x460) / 4 = k := by omega
  rw [domainControl, if_neg (by simp; omega), if_neg (by simp; omega), if_pos (by simp; omega), word]

end

/-- Selections given up on some engines change the channels alone, and nothing where there are none. -/
theorem dropSelsOn_all (es : List Nat) (d : Dev) : Keeps [.chans] d (es.foldl (fun d e => dropSelsOn e d) d)
    ∧ (es.foldl (fun d e => dropSelsOn e d) d).rst = d.rst
    ∧ (d.sels = [] → (es.foldl (fun d e => dropSelsOn e d) d).chans = d.chans) := by
  refine List.foldlRecOn (motive := fun u : Dev => Keeps [.chans] d u ∧ u.rst = d.rst ∧ (d.sels = [] → u.chans = d.chans))
    _ _ ⟨Keeps.refl _ d, rfl, fun _ => rfl⟩ (fun u hu e _ => ?_)
  obtain ⟨kept, rst, chans⟩ := hu
  refine ⟨kept.trans (dropSelsOn_keeps e u), (dropSelsOn_rst e u).trans rst, fun none_ => ?_⟩
  have still : u.engSel e = false := by
    have empty : u.sels = [] := by simpa only [Dev.sels, Dev.chan, chans none_] using none_
    rw [Dev.engSel, empty, List.any_nil]
  exact (dropSelsOn_chans still).trans (chans none_)

/-! ### Domains -/

theorem dom_modDom_other {x y : Nat} (h : y ≠ x) (f : Dom → Dom) (d : Dev) : (modDom x f d).dom y = d.dom y :=
  vget_vmod_other d.power.doms h f _

theorem keeps_modDom (x : Nat) (f : Dom → Dom) (d : Dev) : Keeps [.power] d (modDom x f d) := keeps_modPow _ d

theorem dom_of {d e : Dev} (h : e.power = d.power) (x : Nat) : e.dom x = d.dom x := by rw [Dev.dom, h, Dev.dom]

/-- The class-2 domains that were off begin to switch on, every other is as it was. -/
theorem logicUp_dom (d : Dev) (y : Nat) : (logicUp d).dom y
    = if 5 ≤ y ∧ y ≤ 10 ∧ (d.dom y).phase = .off then { d.dom y with phase := .up 0 } else d.dom y := by
  by_cases small : y < 140
  · rw [Dev.dom, Dev.dom, vget_of_lt _ small, vget_of_lt _ small]
    simp [logicUp, modPow, and_assoc]
  · have beyond (v : Vector Dom 140) (z : Dom) : vget v y z = z := by
      simp [vget, List.getD_eq_getElem?_getD, Nat.not_lt.1 small]
    rw [if_neg (by omega), Dev.dom, Dev.dom, beyond, beyond]

/-! ### Sequences (16 R372) -/

theorem sequenceStart_begins {x : Nat} {d : Dev} {q : DomPhase} (low : 1 ≤ x) (high : x < 140) (runs : d.gRun = true)
    (moves : (d.dom x).phase = .off ∧ d.target x = true ∧ q = .up 0
      ∨ (d.dom x).phase = .on ∧ d.target x = false ∧ q = .down 3) :
    sequenceStart x d = modDom x (fun y => { y with phase := q }) (if x = 3 ∧ q = .down 3 then gateStop d else d) := by
  have there : (decide (x = 0) || decide (140 ≤ x) || !d.gRun) = false := by simp [runs]; omega
  obtain ⟨phase, target, rfl⟩ | ⟨phase, target, rfl⟩ := moves
  · simp only [sequenceStart, there, phase, target]
    simp
  · simp only [sequenceStart, there, phase, target]
    simp

/-- What follows a step that leaves its domain in the phase `q`. -/
def stepAfter (x : Nat) (q : DomPhase) (d : Dev) : Dev :=
  if x = 11 then handshake q d
  else if q == .on then domArrives x d
  else if q == .down 0 then powerLost x d
  else if q == .up 2 then domReset x d
  else if q == .off && 12 ≤ x && x < 28 then demandOff x d
  else d

theorem stepDone_moves {x : Nat} {d : Dev} (stepping : (d.dom x).phase.stepping = true) : stepDone x d
    = stepAfter x (nextPhase (d.target x) (d.dom x).phase)
      (modDom x (fun y => { y with phase := nextPhase (d.target x) (d.dom x).phase }) d) := by
  simp only [stepDone, stepping]
  rfl

/-- The parts other than the power state that a step of a domain may change. -/
def stepParts (x : Nat) : List Part :=
  if 60 ≤ x ∧ x < 92 then [.pool] else if x = 3 then [.gate] else if x = 4 then [.lc]
  else if x = 6 then [.pool, .sched] else if x = 7 then [.entropy] else if x = 11 then [.clocks] else []

section
variable (x : Nat) (q : DomPhase) (d : Dev)

theorem handshake_keeps : Keeps [.power, .clocks] d (handshake q d) := by
  unfold handshake logicUp
  split
  · exact fun q hq _ => by cases q <;> simp [Part.same] at hq ⊢
  · split
    · exact fun q hq _ => by cases q <;> simp [Part.same] at hq ⊢
    · split
      · exact keeps_up (keeps_modPow _ d)
      · exact Keeps.refl _ d

theorem domArrives_keeps : Keeps (.power :: stepParts x) d (domArrives x d) := by
  unfold domArrives
  split
  · next bank =>
    simp only [Bool.and_eq_true, decide_eq_true_eq] at bank
    rw [stepParts, if_pos bank]
    exact fun q hq _ => by cases q <;> simp [Part.same] at hq ⊢
  · next bank =>
    simp only [Bool.and_eq_true, decide_eq_true_eq] at bank
    split
    · next gate =>
      rw [stepParts, if_neg bank, if_pos gate, gateStart]
      split
      · exact Keeps.refl _ d
      · exact fun q hq _ => by cases q <;> simp [Part.same, gateStop] at hq ⊢
    · split
      · exact Keeps.mono (keeps_modDom x _ d) (by simp)
      · exact Keeps.refl _ d

theorem powerLost_keeps : Keeps (.power :: stepParts x) d (powerLost x d) := by
  unfold powerLost
  split
  · next bank =>
    simp only [Bool.and_eq_true, decide_eq_true_eq] at bank
    rw [stepParts, if_pos bank]
    exact fun q hq _ => by cases q <;> simp [Part.same] at hq ⊢
  · exact Keeps.refl _ d

theorem domReset_keeps : Keeps (.power :: stepParts x) d (domReset x d) := by
  unfold domReset
  split
  · exact fun q hq _ => by cases q <;> simp [Part.same] at hq ⊢
  · split
    · next jtag =>
      subst jtag
      exact fun q hq _ => by cases q <;> simp [Part.same, stepParts] at hq ⊢
    · split
      · next tags =>
        subst tags
        exact fun q hq ht => by cases q <;> simp [Part.same, stepParts] at hq ht ⊢
      · split
        · next source =>
          subst source
          exact fun q hq _ => by cases q <;> simp [Part.same, stepParts] at hq ⊢
        · exact Keeps.refl _ d

theorem stepAfter_keeps : Keeps (.power :: stepParts x) d (stepAfter x q d) := by
  unfold stepAfter
  split
  · next clocks =>
    subst clocks
    exact handshake_keeps q d
  · next other =>
    split_ifs
    · exact domArrives_keeps x d
    · exact powerLost_keeps x d
    · exact domReset_keeps x d
    · exact Keeps.mono (keeps_modDom x _ d) (by simp)
    · exact Keeps.refl _ d

theorem handshake_rst : (handshake q d).rst = d.rst := by
  have logic : (logicUp d).rst = d.rst := modPow_rst _ d
  rw [handshake]
  exact ite_rst rfl (ite_rst rfl (ite_rst logic rfl))

theorem domArrives_rst : (domArrives x d).rst = d.rst := ite_rst rfl (ite_rst (gateStart_rst d) (ite_rst rfl rfl))

theorem powerLost_rst : (powerLost x d).rst = d.rst := ite_rst rfl rfl

theorem domReset_rst : (domReset x d).rst = if x = 1 then .shellB else d.rst := by
  unfold domReset
  split
  · rfl
  · exact ite_rst rfl (ite_rst rfl (ite_rst rfl rfl))

/-- Only up-step 2 of D1 makes a reset, that of port B's shell (03 R70). -/
theorem stepAfter_rst : (stepAfter x q d).rst = if x = 1 ∧ q = .up 2 then .shellB else d.rst := by
  unfold stepAfter
  split_ifs with clocks made on made down made up two off made
  · omega
  · exact handshake_rst q d
  · simp [made.2] at on
  · exact domArrives_rst x d
  · simp [made.2] at down
  · exact powerLost_rst x d
  · rw [domReset_rst, if_pos two.1]
  · rw [domReset_rst, if_neg fun first => two ⟨first, eq_of_beq up⟩]
  · exact absurd (by simp [‹x = 1 ∧ q = .up 2›.2]) up
  · rfl
  · exact absurd (by simp [‹x = 1 ∧ q = .up 2›.2]) up
  · rfl

theorem gateStart_power : (gateStart d).power = d.power := by
  unfold gateStart
  split <;> rfl

theorem powerLost_power : (powerLost x d).power = d.power := by
  unfold powerLost
  split <;> rfl

theorem domReset_power : (domReset x d).power = d.power := by
  unfold domReset
  split_ifs <;> rfl

/-- A use demanding a domain, or no longer, leaves every phase. -/
theorem demand_phase (b : Bool) (y : Nat) : ((modDom x (fun z => { z with demand := b }) d).dom y).phase = (d.dom y).phase := by
  by_cases same : y = x
  · subst same
    by_cases small : y < 140
    · rw [dom_modDom y small]
    · simp [modDom, modPow, Dev.dom, vmod, small]
  · rw [dom_modDom_other same]

/-- What follows a step of another domain than D11 leaves every phase, and of the other domains everything. -/
theorem stepAfter_dom (h : x ≠ 11) (y : Nat) : ((stepAfter x q d).dom y).phase = (d.dom y).phase
    ∧ (y ≠ x → (stepAfter x q d).dom y = d.dom y) := by
  have demanded (b : Bool) : ((modDom x (fun z => { z with demand := b }) d).dom y).phase = (d.dom y).phase
      ∧ (y ≠ x → (modDom x (fun z => { z with demand := b }) d).dom y = d.dom y) :=
    ⟨demand_phase x d b y, fun other => dom_modDom_other other _ d⟩
  have same {e : Dev} (power : e.power = d.power) : (e.dom y).phase = (d.dom y).phase ∧ (y ≠ x → e.dom y = d.dom y) :=
    ⟨congrArg Dom.phase (dom_of power y), fun _ => dom_of power y⟩
  unfold stepAfter
  rw [if_neg h]
  split_ifs
  · unfold domArrives
    split_ifs
    · exact same rfl
    · exact same (gateStart_power d)
    · exact demanded true
    · exact same rfl
  · exact same (powerLost_power x d)
  · exact same (domReset_power x d)
  · exact demanded false
  · exact same rfl

/-- The end of D11's switch-on begins those of the other class-2 domains; its other steps leave every domain. -/
theorem handshake_dom (y : Nat) : (handshake q d).dom y
    = if q = .on ∧ 5 ≤ y ∧ y ≤ 10 ∧ (d.dom y).phase = .off then { d.dom y with phase := .up 0 } else d.dom y := by
  unfold handshake
  split
  · next two =>
    rw [eq_of_beq two, if_neg (by simp)]
    rfl
  · split
    · next three =>
      rw [eq_of_beq three, if_neg (by simp)]
      rfl
    · split
      · next on =>
        rw [logicUp_dom, eq_of_beq on]
        simp
      · next stays => rw [if_neg (by rintro ⟨rfl, -⟩; exact stays rfl)]

/-- The lock bits that D11's up-steps 1 and 2 leave (log entry 40). -/
theorem handshake_locks : (q = .up 2 → bit (handshake q d).clocks.clkStat 0 = true)
    ∧ (q = .up 3 → bit (handshake q d).clocks.clkStat 1 = true) := by
  constructor <;> rintro rfl <;> exact bit_setBit (by decide)

/-- A pool bank: dirty when it arrives, without content once its power is open. -/
theorem stepAfter_bank (low : 60 ≤ x) (high : x < 92) :
    (q = .on → ∀ g, g / 128 = x - 60 → g ∈ (stepAfter x q d).pool.dirty)
    ∧ (q = .down 0 → (stepAfter x q d).pool.mem = d.pool.mem.wipe ((x - 60) * 65536) 65536)
    ∧ (q ≠ .down 0 → (stepAfter x q d).pool.mem = d.pool.mem) := by
  have bank : (decide (60 ≤ x) && decide (x < 92)) = true := by simp [low, high]
  have clocks : x ≠ 11 := by omega
  refine ⟨?_, ?_, fun keeps => ?_⟩
  · rintro rfl g here
    rw [stepAfter, if_neg clocks, if_pos (beq_self_eq_true _), domArrives, if_pos bank]
    refine List.mem_append_left _ (List.mem_map.2 ⟨g % 128, List.mem_range.2 (Nat.mod_lt _ (by decide)), ?_⟩)
    rw [← here]
    exact Nat.div_add_mod g 128
  · rintro rfl
    rw [stepAfter, if_neg clocks, if_neg (by decide), if_pos (beq_self_eq_true _), powerLost, if_pos bank]
  · rw [stepAfter, if_neg clocks, if_neg (c := (q == .down 0) = true) (by simpa using keeps)]
    split
    · rw [domArrives, if_pos bank]
    · split
      · rw [domReset, if_neg (by omega), if_neg (by omega), if_neg (by omega), if_neg (by omega)]
      · rw [if_neg (by simp; omega)]

end

/-- A reset of port B's shell puts it to its reset value but for HLCFG and leaves port A's (03 R70). -/
theorem through_shell_b {f : Dev → Dev} {s : State} (h : (f s.dev).rst = .shellB) :
    (s.through f).shell.a = s.shell.a ∧ (s.through f).shell.b = { PortShell.fresh with hlcfg := s.shell.b.hlcfg } := by
  simp only [State.through, State.withDev, settle_rst, h]
  exact ⟨rfl, rfl⟩

/-- A step of a sequence ends in the next step toward its target, with what follows it. -/
theorem domainStep_done {x : Nat} {s : State} (awake : s.awake) (high : x < 140) {q : DomPhase}
    (stepping : (s.dev.dom x).phase.stepping = true) (next : q = nextPhase (s.dev.target x) (s.dev.dom x).phase) :
    ∃ t, exec (.domainStepDone x) s = .next t ∧ t.pending = s.pending ∧ t.shell.a = s.shell.a
      ∧ t.shell.b = (if x = 1 ∧ q = .up 2 then { PortShell.fresh with hlcfg := s.shell.b.hlcfg } else s.shell.b)
      ∧ Keeps (.power :: stepParts x) s.dev t.dev ∧ (t.dev.dom x).phase = q
      ∧ (∀ y, y ≠ x → x ≠ 11 ∨ q ≠ .on ∨ y < 5 ∨ 10 < y → t.dev.dom y = s.dev.dom y)
      ∧ (x = 11 → q = .on → ∀ y, 5 ≤ y → y ≤ 10 → (s.dev.dom y).phase = .off → (t.dev.dom y).phase = .up 0)
      ∧ (x = 11 → (q = .up 2 → bit t.dev.clocks.clkStat 0 = true) ∧ (q = .up 3 → bit t.dev.clocks.clkStat 1 = true))
      ∧ (x = 4 → q = .up 2 → t.dev.lc.jtagIr = 0x1)
      ∧ (x = 6 → q = .up 2 → t.dev.sched.rot = Sched.fresh.rot ∧ t.dev.sched.cfg = s.dev.sched.cfg)
      ∧ (60 ≤ x → x < 92 →
        (q = .on → ∀ g, g / 128 = x - 60 → g ∈ t.dev.pool.dirty)
        ∧ (q = .down 0 → t.dev.pool.mem = s.dev.pool.mem.wipe ((x - 60) * 65536) 65536)
        ∧ (q ≠ .down 0 → t.dev.pool.mem = s.dev.pool.mem)) := by
  have acts := stepDone_moves stepping
  rw [← next] at acts
  have moved := keeps_modDom x (fun y => { y with phase := q }) s.dev
  have here : ((modDom x (fun y => { y with phase := q }) s.dev).dom x).phase = q :=
    congrArg Dom.phase (dom_modDom x high _ s.dev)
  have there (y : Nat) (other : y ≠ x) : (modDom x (fun y => { y with phase := q }) s.dev).dom y = s.dev.dom y :=
    dom_modDom_other other _ s.dev
  have rst : (modDom x (fun y => { y with phase := q }) s.dev).rst = .none := awake.2
  generalize modDom x (fun y => { y with phase := q }) s.dev = d at acts moved here there rst
  have pool : d.pool = s.dev.pool := moved .pool (by decide) (by decide)
  refine ⟨_, onDev_to awake acts, rfl, ?_, ?_, keeps_const ((Keeps.mono moved (by simp)).trans (stepAfter_keeps x q d)),
    ?_, fun y other stays => ?_, ?_, ?_, ?_, ?_, fun low bank => ?_⟩
  · by_cases first : x = 1 ∧ q = .up 2
    · exact (through_shell_b ((stepAfter_rst x q d).trans (if_pos first))).1
    · rw [through_shell ((stepAfter_rst x q d).trans ((if_neg first).trans rst))]
  · by_cases first : x = 1 ∧ q = .up 2
    · rw [if_pos first]
      exact (through_shell_b ((stepAfter_rst x q d).trans (if_pos first))).2
    · rw [if_neg first, through_shell ((stepAfter_rst x q d).trans ((if_neg first).trans rst))]
  · rw [dom_of (through_power _ _)]
    by_cases clocks : x = 11
    · rw [stepAfter, if_pos clocks, handshake_dom, if_neg (by omega), here]
    · rw [(stepAfter_dom x q d clocks x).1, here]
  · rw [dom_of (through_power _ _), ← there y other]
    by_cases clocks : x = 11
    · rw [stepAfter, if_pos clocks, handshake_dom, if_neg]
      rintro ⟨on, low, high, -⟩
      obtain h | h | h | h := stays
      · exact h clocks
      · exact h on
      all_goals omega
    · exact (stepAfter_dom x q d clocks y).2 other
  · rintro clocks on y low high off
    rw [dom_of (through_power _ _), stepAfter, if_pos clocks, handshake_dom, if_pos]
    rw [there y (by omega)]
    exact ⟨on, low, high, off⟩
  · intro clocks
    rw [through_clocks, stepAfter, if_pos clocks]
    exact handshake_locks q d
  · rintro rfl rfl
    rfl
  · rintro rfl rfl
    rw [through_rot, through_schedCfg]
    exact ⟨rfl, (moved .sched (by decide) (by decide)).1⟩
  · rw [through_pool, ← pool]
    exact stepAfter_bank x q d low bank

/-! ### What a failed domain leaves (16 R375)

`Undisturbed d t`: from `d` to `t` no reset is made, the power state and the ride-through table stay, and a bit of a
sticky register, once set, stays set. -/

structure Undisturbed (d t : Dev) : Prop where
  rst : t.rst = d.rst
  power : t.power = d.power
  ride : t.supply.ride = d.supply.ride
  stays : ∀ k b, bit (d.trouble.g k) b = true → bit (t.trouble.g k) b = true

theorem Undisturbed.refl (d : Dev) : Undisturbed d d := ⟨rfl, rfl, rfl, fun _ _ => id⟩

theorem Undisturbed.trans {d e t : Dev} (h : Undisturbed d e) (h' : Undisturbed e t) : Undisturbed d t :=
  ⟨h'.rst.trans h.rst, h'.power.trans h.power, h'.ride.trans h.ride, fun k b => h'.stays k b ∘ h.stays k b⟩

/-- What keeps the power state, the supply monitor and the trouble registers and makes no reset. -/
theorem Undisturbed.of {ps : List Part} {d t : Dev} (rst : t.rst = d.rst) (keeps : Keeps ps d t)
    (power : Part.power ∉ ps := by decide) (supply : Part.supply ∉ ps := by decide)
    (trouble : Part.trouble ∉ ps := by decide) : Undisturbed d t := by
  have same : t.trouble = d.trouble := keeps .trouble trouble (by decide)
  exact ⟨rst, keeps .power power (by decide), congrArg Supply.ride (keeps .supply supply (by decide)),
    fun k b h => by rwa [same]⟩

theorem Undisturbed.foldl {α : Type} {f : Dev → α → Dev} (h : ∀ d a, Undisturbed d (f d a)) (l : List α) (d : Dev) :
    Undisturbed d (l.foldl f d) :=
  List.foldlRecOn (motive := Undisturbed d) _ _ (Undisturbed.refl d) (fun e he a _ => he.trans (h e a))

theorem Undisturbed.ite {c : Prop} [Decidable c] {d t u : Dev} (h : Undisturbed d t) (h' : Undisturbed d u) :
    Undisturbed d (if c then t else u) := by
  split
  · exact h
  · exact h'

theorem setG_stays (t : Trouble) (k b j c : Nat) (h : bit (t.g j) c = true) :
    bit ((t.setG k (setBit (t.g k) b)).g j) c = true := by
  rcases k with _ | _ | _ | k <;> rcases j with _ | _ | _ | j <;> first | exact h | exact bit_setBit_of h

/-- A bit of a sticky register stays when a bit of any of them is set. -/
theorem noteGx_kept (k b e : Nat) (w : Word) (j c : Nat) {d : Dev} (h : bit (d.trouble.g j) c = true) :
    bit ((noteGx k b e w d).trouble.g j) c = true := by
  unfold noteGx
  split
  · exact h
  · exact queueEntry_bit _ (setG_stays _ k b j c h)

theorem undisturbed_noteGx (k b e : Nat) (w : Word) (d : Dev) : Undisturbed d (noteGx k b e w d) :=
  ⟨noteGx_rst .., noteGx_power .., congrArg Supply.ride (noteGx_supply ..), fun i c => noteGx_kept k b e w i c⟩

theorem undisturbed_noteG (k b : Nat) (d : Dev) : Undisturbed d (noteG k b d) := undisturbed_noteGx k b 0 0 d

theorem undisturbed_raiseWhy (b e : Nat) (d : Dev) : Undisturbed d (raiseWhy b e d) :=
  ⟨raiseWhy_rst .., raiseWhy_power .., congrArg Supply.ride (raiseWhy_supply ..), fun k c => raiseWhy_stays b e k c⟩

theorem undisturbed_modKs (f : KeyStore → KeyStore) (d : Dev) : Undisturbed d (modKs f d) := .of rfl (keeps_modKs f d)

theorem undisturbed_modChan (n : Chn) (f : Chan → Chan) (d : Dev) : Undisturbed d (modChan n f d) :=
  .of rfl (keeps_modChan n f d)

/-! #### Writes of the key store that are cut (12 R280, R289) -/

theorem undisturbed_flashErase (a k : Nat) (d : Dev) : Undisturbed d (flashErase a k d) :=
  .of (flashErase_frame a k d).1 (flashErase_frame a k d).2

theorem undisturbed_flashProgram (a : Nat) (bs : Bytes) (ok : Bool) (d : Dev) : Undisturbed d (flashProgram a bs ok d) :=
  .of (flashProgram_move a bs ok d).1 (flashProgram_move a bs ok d).2

theorem undisturbed_writeCopy (r : TwoCopies) (mk : Nat → Nat → Bytes) (ok : Bool) (d : Dev) :
    Undisturbed d (writeCopy r mk ok d) :=
  (undisturbed_flashErase _ _ d).trans (undisturbed_flashProgram _ _ ok _)

/-- What a record of the counter log leaves: the volatile slots too. -/
structure LogFrame (d t : Dev) : Prop extends Undisturbed d t where
  keeps : Keeps [.flash, .ks, .trouble, .journal] d t
  vol : t.ks.vol = d.ks.vol

theorem LogFrame.refl (d : Dev) : LogFrame d d := ⟨Undisturbed.refl d, Keeps.refl _ d, rfl⟩

theorem LogFrame.trans {d e t : Dev} (h : LogFrame d e) (h' : LogFrame e t) : LogFrame d t :=
  ⟨h.toUndisturbed.trans h'.toUndisturbed, h.keeps.trans h'.keeps, h'.vol.trans h.vol⟩

theorem LogFrame.ite {c : Prop} [Decidable c] {d t u : Dev} (h : LogFrame d t) (h' : LogFrame d u) :
    LogFrame d (if c then t else u) := by
  split
  · exact h
  · exact h'

theorem LogFrame.flashErase (a k : Nat) (d : Dev) : LogFrame d (flashErase a k d) :=
  ⟨undisturbed_flashErase a k d, keeps_up (flashErase_frame a k d).2,
    congrArg KeyStore.vol ((flashErase_frame a k d).2 .ks (by decide) (by decide))⟩

theorem LogFrame.flashProgram (a : Nat) (bs : Bytes) (ok : Bool) (d : Dev) : LogFrame d (flashProgram a bs ok d) :=
  ⟨undisturbed_flashProgram a bs ok d, keeps_up (flashProgram_move a bs ok d).2,
    congrArg KeyStore.vol ((flashProgram_move a bs ok d).2 .ks (by decide) (by decide))⟩

theorem LogFrame.modKs {f : KeyStore → KeyStore} {d : Dev} (vol : (f d.ks).vol = d.ks.vol) : LogFrame d (modKs f d) :=
  ⟨undisturbed_modKs f d, keeps_up (keeps_modKs f d), vol⟩

theorem LogFrame.noteG (k b : Nat) (d : Dev) : LogFrame d (noteG k b d) :=
  ⟨undisturbed_noteG k b d, keeps_up (keeps_noteG k b d),
    congrArg KeyStore.vol (keeps_noteG k b d .ks (by decide) (by decide))⟩

theorem LogFrame.raiseWhy (b e : Nat) (d : Dev) : LogFrame d (raiseWhy b e d) :=
  ⟨undisturbed_raiseWhy b e d, keeps_up (keeps_raiseWhy b e d),
    congrArg KeyStore.vol (keeps_raiseWhy b e d .ks (by decide) (by decide))⟩

theorem logRecord_frame (slot v flags : Nat) (ok : Bool) (d : Dev) : LogFrame d (logRecord slot v flags ok d) := by
  unfold logRecord
  exact (LogFrame.flashProgram _ _ ok d).trans (LogFrame.modKs rfl)

theorem logCopyOne_frame (r : CtrRec) : ∀ (t : Nat) (vs : List Bool) (d : Dev), LogFrame d (logCopyOne r t vs d).1
  | 0, _, d => LogFrame.refl d
  | t + 1, vs, d => by
    rw [logCopyOne]
    split
    · exact LogFrame.refl d
    · have recorded := logRecord_frame r.slot r.v r.flags (d.outcome vs).1 d
      simp only
      split
      · exact recorded
      · exact recorded.trans (logCopyOne_frame r t _ _)

theorem logCopy_frame : ∀ (rs : List CtrRec) (vs : List Bool) (d : Dev), LogFrame d (logCopy rs vs d).1
  | [], _, d => LogFrame.refl d
  | r :: rs, vs, d => (logCopyOne_frame r 2 vs d).trans (logCopy_frame rs _ _)

theorem logMove_frame (d : Dev) : LogFrame d (logMove d) := by
  have written (a : Nat) (bs : Bytes) : LogFrame d (flashProgram a bs true (flashErase a 1 d)) :=
    (LogFrame.flashErase a 1 d).trans (LogFrame.flashProgram a bs true _)
  have moved := written (ksBase + (20 + d.ks.nextSec) * 4096)
    (sectorHeader (d.nextErase (20 + d.ks.nextSec)) (d.ks.logSeq + 1))
  simp only [logMove]
  generalize flashProgram _ _ true (flashErase _ 1 d) = e at moved ⊢
  split
  · exact ((moved.trans (LogFrame.modKs rfl)).trans (LogFrame.noteG 3 8 _)).trans (LogFrame.raiseWhy 3 0 _)
  · exact moved.trans (LogFrame.modKs rfl)

theorem logRoom_frame (vs : List Bool) (d : Dev) : LogFrame d (logRoom vs d).1 := by
  unfold logRoom
  split
  · exact LogFrame.refl d
  · exact (logCopy_frame d.ks.inNext vs d).trans (logMove_frame _)

theorem logAppend_frame (slot v flags : Nat) : ∀ (t : Nat) (vs : List Bool) (d : Dev),
    LogFrame d (logAppend slot v flags t vs d).2.1
  | 0, _, d => LogFrame.refl d
  | t + 1, vs, d => by
    have recorded := (logRoom_frame vs d).trans
      (logRecord_frame slot v flags ((logRoom vs d).1.outcome (logRoom vs d).2).1 (logRoom vs d).1)
    simp only [logAppend]
    split
    · exact recorded
    · exact recorded.trans (logAppend_frame slot v flags t _ _)

theorem undisturbed_writeSlotRecord (owner : Nat) (dk : DestKey) (value : Bytes) : ∀ (t : Nat) (vs : List Bool) (d : Dev),
    Undisturbed d (writeSlotRecord owner dk value t vs d).2.1
  | 0, _, d => Undisturbed.refl d
  | t + 1, vs, d => by
    simp only [writeSlotRecord]
    split
    · exact Undisturbed.refl d
    · have written (a : Nat) (bs : Bytes) (ok : Bool) (f : KeyStore → KeyStore) :
          Undisturbed d (modKs f (flashProgram a bs ok d)) :=
        (undisturbed_flashProgram a bs ok d).trans (undisturbed_modKs f _)
      split
      · dsimp only
        apply written
      · exact (written ..).trans (undisturbed_writeSlotRecord owner dk value t _ _)

theorem undisturbed_modRow (f : EpochRow → EpochRow) (d : Dev) : Undisturbed d (modRow f d) := .of rfl (keeps_modRow f d)

theorem undisturbed_persistSteps (k owner : Nat) (dk : DestKey) (value : Bytes) (vs burns : List Bool) (d : Dev) :
    Undisturbed d (persistSteps k owner dk value vs burns d).2 := by
  have first := undisturbed_writeSlotRecord owner dk value 2 vs d
  unfold persistSteps
  split
  · exact Undisturbed.refl d
  · split
    · next e _ hw =>
      rw [hw] at first
      exact first
    · next a e vs' hw =>
      rw [hw] at first
      have second := first.trans (logAppend_frame dk.slot 0 1 2 vs' e).toUndisturbed
      simp only
      split_ifs
      · exact first
      · exact second
      · dsimp only [putPersistent]
        exact second.trans ((undisturbed_modRow _ _).trans (undisturbed_modKs _ _))
      · exact second.trans (undisturbed_noteG 3 9 _)

theorem undisturbed_cutPersist (n : Chn) (j : Job) (vfy burns : List Bool) (d : Dev) :
    Undisturbed d (cutPersist n j vfy burns d) := by
  unfold cutPersist
  split
  · have bumped : Undisturbed d (bump d) := ⟨rfl, rfl, rfl, fun _ _ => id⟩
    exact bumped.trans (undisturbed_persistSteps ..)
  · exact Undisturbed.refl d

/-! #### Channels, cores and banks -/

theorem undisturbed_dropSents (n : Chn) (d : Dev) : Undisturbed d (dropSents n d) := by
  refine Undisturbed.foldl (fun e s => ?_) _ d
  have dropped (u : Dev) : Undisturbed u (dropOne n s u) := .of (DropFrame.dropOne n s u).r (DropFrame.dropOne n s u).k
  split
  · exact (undisturbed_cutPersist n _ [] [] e).trans (dropped _)
  · exact dropped e

theorem emptyVolOf_ride (n : Chn) (d : Dev) : (emptyVolOf n d).supply.ride = d.supply.ride := by
  simp only [emptyVolOf, dropArm]
  split
  · split <;> rfl
  · rfl

theorem freeAll_supply (n : Chn) (d : Dev) : (freeAll n d).supply = d.supply := by
  have freed : Freed d (freeAll n d) := by
    refine Freed.foldl (fun e b => ?_) _ d
    split
    · exact freed_dropBuf _ e
    · exact freed_freeBuf _ e
  exact freed.keeps .supply (by decide) (by decide)

/-- A channel cleared may lose the arm of the last gasp, never the table. -/
theorem undisturbed_clearChan (n : Chn) (d : Dev) : Undisturbed d (clearChan n d) := by
  obtain ⟨-, keeps, -, rst, -, -⟩ := HoldsNothing.clearChan n d
  have same : (clearChan n d).trouble = d.trouble := keeps .trouble (by decide) (by decide)
  exact ⟨rst, keeps .power (by decide) (by decide),
    (emptyVolOf_ride n _).trans (congrArg Supply.ride (freeAll_supply n d)), fun k b h => by rwa [same]⟩

theorem undisturbed_openFails (n : Chn) (err : Nat) (d : Dev) : Undisturbed d (openFails n err d) := by
  obtain ⟨-, -, keeps, rst⟩ := openFails_frame n err d
  exact .of rst keeps

theorem undisturbed_abandonOpen (n : Chn) (d : Dev) : Undisturbed d (abandonOpen n d) :=
  .of (abandonOpen_rst n d) (abandonOpen_frame n d).2.2

theorem undisturbed_resetChan (n : Chn) (d : Dev) : Undisturbed d (resetChan n d) := by
  unfold resetChan
  split
  · exact Undisturbed.ite (Undisturbed.refl d) (undisturbed_abandonOpen n d)
  · exact undisturbed_abandonOpen n d
  · exact (undisturbed_dropSents n d).trans (undisturbed_clearChan n _)

theorem undisturbed_chanFails (n : Chn) (d : Dev) : Undisturbed d (chanFails n d) :=
  Undisturbed.ite ((undisturbed_resetChan n d).trans (undisturbed_openFails n 1 _)) (undisturbed_resetChan n d)

theorem undisturbed_repick (b : Nat) (d : Dev) (n : Chn) : Undisturbed d (repick b d n) := by
  unfold repick
  split
  · exact Undisturbed.ite ((undisturbed_modChan n _ d).trans (undisturbed_modChan n _ _)) (Undisturbed.refl d)
  · exact Undisturbed.refl d

theorem undisturbed_pool (p : Pool) (d : Dev) : Undisturbed d { d with pool := p } := ⟨rfl, rfl, rfl, fun _ _ => id⟩

theorem undisturbed_engines (v : Vector Engine 16) (d : Dev) : Undisturbed d { d with engines := v } := ⟨rfl, rfl, rfl, fun _ _ => id⟩

theorem undisturbed_otp (o : Otp) (d : Dev) : Undisturbed d { d with otp := o } := ⟨rfl, rfl, rfl, fun _ _ => id⟩

theorem undisturbed_bankFails (b : Nat) (d : Dev) : Undisturbed d (bankFails b d) :=
  (undisturbed_pool _ d).trans (Undisturbed.foldl (undisturbed_repick b) allChns _)

theorem undisturbed_dropSelsOn (e : Nat) (d : Dev) : Undisturbed d (dropSelsOn e d) :=
  .of (dropSelsOn_rst e d) (dropSelsOn_keeps e d)

theorem undisturbed_coreFails (c : Nat) (d : Dev) : Undisturbed d (coreFails c d) :=
  (undisturbed_dropSelsOn (12 + c) d).trans (undisturbed_engines _ _)

/-! #### Engines -/

theorem undisturbed_modEng (e : Eng) (f : Engine → Engine) (d : Dev) : Undisturbed d (modEng e f d) :=
  .of rfl (keeps_modEng e f d)

theorem undisturbed_recordFailures (vfy : List Bool) (d : Dev) : Undisturbed d (recordFailures vfy d) :=
  Undisturbed.ite (Undisturbed.refl d) ((undisturbed_writeCopy _ _ _ d).trans (undisturbed_engines _ _))

theorem undisturbed_countFailure (e : Eng) (cause : Nat) (burns vfy : List Bool) (d : Dev) :
    Undisturbed d (countFailure e cause burns vfy d) := by
  have burnt : Undisturbed d (if (burnBit burns).1 then
      { d with otp := { d.otp with quar := d.otp.quar.set e.val (d.otp.quar[e.val] + 1) e.isLt } }
      else noteOtpErr (modEng e (fun x => { x with raised := x.raised + 1 }) d)) :=
    Undisturbed.ite (undisturbed_otp _ d) ((undisturbed_modEng e _ d).trans (undisturbed_noteG 3 9 _))
  exact Undisturbed.ite (Undisturbed.refl d) ((burnt.trans (undisturbed_modEng e _ _)).trans (undisturbed_recordFailures vfy _))

theorem undisturbed_quarantine (e : Eng) (d : Dev) : Undisturbed d (quarantine e d) :=
  ((undisturbed_modEng e _ d).trans (undisturbed_noteGx 2 4 _ 0 _)).trans (undisturbed_raiseWhy 0 _ _)

theorem undisturbed_engineFails (e : Eng) (vfy burns : List Bool) (d : Dev) : Undisturbed d (engineFails e vfy burns d) := by
  have counted := (undisturbed_dropSelsOn e.val d).trans (undisturbed_countFailure e 2 burns vfy _)
  simp only [engineFails]
  split
  · exact counted.trans (undisturbed_quarantine e _)
  · exact counted.trans (undisturbed_modEng e _ _)

theorem undisturbed_domFails (x : Nat) (vfy burns : List Bool) (d : Dev) : Undisturbed d (domFails x vfy burns d) := by
  unfold domFails
  split
  · exact undisturbed_engineFails _ vfy burns d
  · refine Undisturbed.ite (undisturbed_coreFails _ d) (Undisturbed.ite (undisturbed_bankFails _ d) ?_)
    split
    · exact undisturbed_chanFails _ d
    · exact Undisturbed.refl d

/-! ### Missed ready signals (16 R375) -/

/-- The core with a domain marked failed and PDFAIL set. -/
def domMarked (x : Nat) (d : Dev) : Dev :=
  noteGx 1 1 (if 12 ≤ x && x < 28 then engId (x - 12) else 0) 0
    (modDom x (fun y => { y with failed := true, demand := false, phase := .down 0 }) d)

theorem readyTimeout_fails {x : Nat} {d : Dev} (own : x < 5 ∨ 11 < x) (waits : (d.dom x).phase = .up 0)
    (vfy burns : List Bool) : readyTimeout x vfy burns d = domFails x vfy burns (domMarked x d) := by
  have clocks : ¬ (decide (5 ≤ x) && decide (x ≤ 11)) = true := by simp; omega
  rw [readyTimeout, if_neg clocks, if_neg (by simp [waits])]
  rfl

/-- A domain whose ready signal does not arrive is marked, PDFAIL set. -/
theorem domMarked_marks {x : Nat} (high : x < 140) (d : Dev) : (domMarked x d).rst = d.rst
    ∧ Keeps [.power, .trouble, .journal] d (domMarked x d) ∧ bit ((domMarked x d).trouble.g 1) 1 = true
    ∧ (domMarked x d).dom x = { d.dom x with failed := true, demand := false, phase := .down 0 } := by
  refine ⟨noteGx_rst .., (keeps_up (keeps_modDom x _ d)).trans (keeps_up (keeps_noteGx _ _ _ _ _)), noteGx_bit 1 _ (by decide) 0 _, ?_⟩
  rw [domMarked, dom_of (noteGx_power ..), dom_modDom x high]

theorem readyTimeout_missed {x : Nat} {s : State} (awake : s.awake) (high : x < 140) (own : x < 5 ∨ 11 < x)
    (waits : (s.dev.dom x).phase = .up 0) (vfy burns : List Bool) :
    ∃ t, exec (.domainReadyTimeout x vfy burns) s = .next t ∧ SameShell s t ∧ bit t.dev.trouble.g1 1 = true
      ∧ (t.dev.dom x).failed = true ∧ (t.dev.dom x).phase = .down 0 := by
  obtain ⟨rst, -, noted, marked⟩ := domMarked_marks high s.dev
  obtain ⟨rst', power, -, stays⟩ := undisturbed_domFails x vfy burns (domMarked x s.dev)
  refine ⟨_, onDev_to awake (readyTimeout_fails own waits vfy burns), same_const awake (rst'.trans rst), ?_, ?_⟩
  · rw [through_trouble]
    exact stays 1 1 noted
  · rw [dom_of (through_power _ _), dom_of power, marked]
    exact ⟨rfl, rfl⟩

/-- A class-2 domain of a STOP exit, or of the power-on handshake, makes a PIN reset. -/
theorem readyTimeout_resets {x : Nat} {s : State} (awake : s.awake) (low : 5 ≤ x) (high : x ≤ 11)
    (handshake : s.dev.power.st = .exit ∨ s.dev.lc.shown = false) (idle : s.dev.boot.mgmt = none)
    (unfired : s.dev.supply.fired = false) (vfy burns : List Bool) :
    ∃ t, exec (.domainReadyTimeout x vfy burns) s = .next t ∧ t.shell = ⟨.fresh, .fresh⟩ ∧ t.pending = s.pending
      ∧ bit t.dev.trouble.g1 1 = true ∧ t.dev.flash = s.dev.flash ∧ t.dev.otp = s.dev.otp := by
  have clocks : (decide (5 ≤ x) && decide (x ≤ 11)) = true := by simp [low, high]
  have shaking : (s.dev.power.st == .exit || !s.dev.lc.shown) = true := by
    obtain exits | hidden := handshake
    · rw [exits]; rfl
    · rw [hidden, Bool.not_false, Bool.or_true]
  have noted : bit ((noteG 1 1 s.dev).trouble.g 1) 1 = true := noteG_bit 1 (by decide) s.dev
  have kept := keeps_noteG 1 1 s.dev
  have acts : readyTimeout x vfy burns s.dev = pinReset (noteG 1 1 s.dev) := by
    rw [readyTimeout, if_pos clocks, if_pos shaking]
  generalize noteG 1 1 s.dev = d at noted kept acts
  have boot : d.boot = s.dev.boot := kept .boot (by decide) (by decide)
  have supply : d.supply = s.dev.supply := kept .supply (by decide) (by decide)
  rw [pinReset_idle (boot ▸ idle) (supply ▸ unfired)] at acts
  refine ⟨_, onDev_to awake acts, through_shell_fresh (.inl rfl), rfl, ?_, kept .flash (by decide) (by decide),
    kept .otp (by decide) (by decide)⟩
  rw [through_trouble]
  exact noted

/-- An engine that fails is counted and out of service. -/
theorem engineFails_counted {e : Eng} {d : Dev} (room : d.katf e < 3) :
    ((engineFails e [] [] d).eng e).svc = .quar ∧ (engineFails e [] [] d).katf e = d.katf e + 1 := by
  have kept := dropSelsOn_keeps e.val d
  have engines : (dropSelsOn e.val d).engines = d.engines := kept .engines (by decide) (by decide)
  have before : (dropSelsOn e.val d).katf e = d.katf e :=
    katf_of (kept .otp (by decide) (by decide)) (by rw [eng_of engines])
  obtain ⟨-, -, counted, -⟩ := countFailure_counts (d := dropSelsOn e.val d) (by rw [before]; exact room) 2
  simp only [engineFails]
  rw [before] at counted
  generalize countFailure e 2 [] [] (dropSelsOn e.val d) = u at counted ⊢
  split
  · refine ⟨by rw [quarantine_eng, if_pos rfl], ?_⟩
    rw [← counted]
    exact katf_of (quarantine_keeps e u .otp (by decide) (by decide)) (by rw [quarantine_eng, if_pos rfl])
  · refine ⟨by rw [modEng_eng, if_pos rfl], ?_⟩
    rw [← counted]
    exact katf_of (keeps_modEng e _ u .otp (by decide) (by decide)) (by rw [modEng_eng, if_pos rfl])

theorem readyTimeout_engine {e : Eng} {s : State} (awake : s.awake) (waits : (s.dev.dom (12 + e.val)).phase = .up 0)
    (room : s.dev.katf e < 3) : ∃ t, exec (.domainReadyTimeout (12 + e.val) [] []) s = .next t
      ∧ (t.dev.eng e).svc = .quar ∧ t.dev.katf e = s.dev.katf e + 1 := by
  have small := e.isLt
  have acts := readyTimeout_fails (by omega) waits [] []
  obtain ⟨-, kept, -, -⟩ := domMarked_marks (x := 12 + e.val) (by omega) s.dev
  generalize domMarked (12 + e.val) s.dev = d at acts kept
  have before : d.katf e = s.dev.katf e :=
    katf_of (kept .otp (by decide) (by decide)) (by rw [eng_of (kept .engines (by decide) (by decide))])
  have own : domFails (12 + e.val) [] [] d = engineFails e [] [] d := by
    rw [domFails, dif_pos ⟨by omega, by omega⟩]
    congr 1
    exact Fin.ext (Nat.add_sub_cancel_left 12 e.val)
  obtain ⟨svc, counted⟩ := engineFails_counted (before ▸ room)
  rw [own] at acts
  refine ⟨_, onDev_to awake acts, ?_, ?_⟩
  · rw [eng_of (through_engines _ _)]
    exact svc
  · rw [katf_of (through_otp _ _) (by rw [eng_of (through_engines _ _)]), counted, before]

/-- A domain at rest whose target differs starts its sequence; the gate stops with D3's. -/
theorem domainSequence_started {x : Nat} {s : State} {q : DomPhase} (awake : s.awake) (low : 1 ≤ x) (high : x < 140)
    (runs : s.dev.gRun = true) (moves : (s.dev.dom x).phase = .off ∧ s.dev.target x = true ∧ q = .up 0
      ∨ (s.dev.dom x).phase = .on ∧ s.dev.target x = false ∧ q = .down 3) :
    ∃ t, exec (.domainSequenceStart x) s = .next t ∧ SameShell s t
      ∧ Keeps (if x = 3 then [.power, .gate] else [.power]) s.dev t.dev ∧ (x = 3 → q = .down 3 → t.dev.hig = false)
      ∧ (t.dev.dom x) = { s.dev.dom x with phase := q } ∧ ∀ y, y ≠ x → t.dev.dom y = s.dev.dom y := by
  have acts := sequenceStart_begins low high runs moves
  have gate : (if x = 3 ∧ q = .down 3 then gateStop s.dev else s.dev).rst = s.dev.rst
      ∧ Keeps (if x = 3 then [.power, .gate] else [.power]) s.dev (if x = 3 ∧ q = .down 3 then gateStop s.dev else s.dev)
      ∧ (x = 3 → q = .down 3 → (if x = 3 ∧ q = .down 3 then gateStop s.dev else s.dev).hig = false)
      ∧ (if x = 3 ∧ q = .down 3 then gateStop s.dev else s.dev).power = s.dev.power := by
    by_cases stops : x = 3 ∧ q = .down 3
    · rw [if_pos stops, if_pos stops.1]
      refine ⟨rfl, fun p hp _ => by cases p <;> simp [Part.same, gateStop] at hp ⊢, fun _ _ => ?_, rfl⟩
      simp [Dev.hig, gateStop, modGate, bit, clrBit]
    · rw [if_neg stops]
      exact ⟨rfl, Keeps.refl _ _, fun hx hq => absurd ⟨hx, hq⟩ stops, rfl⟩
  obtain ⟨rst, kept, hig, power⟩ := gate
  generalize (if x = 3 ∧ q = .down 3 then gateStop s.dev else s.dev) = d at acts rst kept hig power
  have moved : Keeps (if x = 3 then [.power, .gate] else [.power]) d (modDom x (fun y => { y with phase := q }) d) :=
    Keeps.mono (keeps_modDom x _ d) (by split <;> simp)
  refine ⟨_, onDev_to awake acts, same_const awake rst, keeps_const (kept.trans moved), hig, ?_, fun y other => ?_⟩
  · rw [dom_of (through_power _ _), dom_modDom x high, dom_of power]
  · rw [dom_of (through_power _ _), dom_modDom_other other, dom_of power]

/-- Settles O57: the control words by their bits; a sequence by its start and by the end of a step, whatever the phase; a
missed ready signal by the class of its domain. D11's steps stand for the handshake (log entry 40), and before the ROM
runs a missed signal of the handshake makes a PIN reset (log entry 41). -/
theorem domainsAreSequenced : Obligations.DomainsAreSequenced := by
  refine ⟨fun k w s takes hk => ⟨?_, ?_, ?_⟩, fun x s awake low high => ⟨fun runs q moves => ?_, fun q stepping next =>
    domainStep_done awake high stepping next, fun vfy burns waits => ⟨fun class2 top handshake idle unfired =>
      readyTimeout_resets awake class2 top handshake idle unfired vfy burns, fun own =>
      readyTimeout_missed awake high own waits vfy burns, fun e he room => ?_⟩⟩⟩
  · exact ⟨_, onA_to takes (domainControl_req hk w s.dev), same_const takes.1 rfl, keeps_const (keeps_modPow _ _), rfl⟩
  · obtain ⟨kept, rst, chans⟩ := dropSelsOn_all ((List.range 16).filter (fun e => Dev.denied (modPow (fun p => { p with
      deny := vset p.deny k (w &&& domWord denyBit k) }) s.dev) (12 + e))) (modPow (fun p => { p with
      deny := vset p.deny k (w &&& domWord denyBit k) }) s.dev)
    refine ⟨_, onA_to takes (domainControl_deny hk w s.dev), same_const takes.1 rst,
      keeps_const ((keeps_up (keeps_modPow _ s.dev)).trans (keeps_up kept)), fun none_ => ?_, ?_⟩
    · rw [through_chans]
      exact chans none_
    · rw [through_power]
      exact kept .power (by decide) (by decide)
  · exact ⟨_, onA_to takes (domainControl_keep hk w s.dev), same_const takes.1 rfl, keeps_const (keeps_modPow _ _), rfl⟩
  · exact domainSequence_started awake low high runs moves
  · subst he
    exact readyTimeout_engine awake waits room

end Sys2Proof.Machine
end
section
/-!
STOP (O58): its request, its entry, its wakes and its exit.
-/

namespace Sys2Proof.Machine

/-! ### Wakes recorded (16 R385) -/

theorem bit_foldl_setBit_of {q : Nat} (l : List Nat) : ∀ {w : Word}, bit w q = true → bit (l.foldl setBit w) q = true := by
  induction l with
  | nil => exact id
  | cons a l ih => exact fun h => ih (bit_setBit_of h)

theorem bit_foldl_setBit {q : Nat} (small : q < 32) : ∀ {l : List Nat} {w : Word}, q ∈ l →
    bit (l.foldl setBit w) q = true
  | a :: l, w, h => by
    obtain rfl | later := List.mem_cons.1 h
    · exact bit_foldl_setBit_of l (bit_setBit small)
    · exact bit_foldl_setBit (l := l) small later

/-- A bit below a field that is put stays. -/
theorem bit_putFld_below (w x : Word) {hi lo q : Nat} (order : lo ≤ hi) (below : q < lo) (inWord : q < 32) :
    bit (putFld w x hi lo) q = bit w q := by
  rw [bit, putFld_bit _ _ order q inWord, if_neg (by omega), bit]

theorem foldl_min_le (l : List Nat) : ∀ b, l.foldl min b ≤ b := by
  induction l with
  | nil => exact fun b => Nat.le_refl b
  | cons a l ih => exact fun b => Nat.le_trans (ih _) (Nat.min_le_left b a)

/-- The sources that fire are all recorded, the lowest as LAST. -/
theorem noteWake_records {b : Nat} {bs : List Nat} (small : ∀ q ∈ b :: bs, q ≤ 7) (d : Dev) :
    (∀ q ∈ b :: bs, bit (noteWake (b :: bs) d).power.wakeStat q = true)
      ∧ fld (noteWake (b :: bs) d).power.wakeStat 19 16 = bs.foldl min b + 1 := by
  refine ⟨fun q hq => ?_, ?_⟩
  · have low := small q hq
    exact (bit_putFld_below _ _ (by decide) (by omega) (by omega)).trans (bit_foldl_setBit (by omega) hq)
  · have low : bs.foldl min b ≤ 7 := Nat.le_trans (foldl_min_le bs b) (small b List.mem_cons_self)
    exact (fld_putFld _ _ (by decide) (by decide)).trans (Nat.mod_eq_of_lt (by omega))

/-- Only the sources 0 to 7 can be armed (Table 16.6). -/
theorem armed_le {d : Dev} {cfg tmr : Word} {ks : List Nat} {q : Nat} (h : d.armed cfg tmr ks q = true) : q ≤ 7 := by
  unfold Dev.armed at h
  split at h <;> first | omega | cases h

theorem noteWake_keeps (srcs : List Nat) (d : Dev) : Keeps [.power] d (noteWake srcs d) := by
  obtain ⟨w, same⟩ := noteWake_power srcs d
  rw [same]
  exact keeps_modPow _ d

/-- Beside WAKESTAT the power state stays. -/
theorem noteWake_rest (srcs : List Nat) (d : Dev) : (noteWake srcs d).power.st = d.power.st
    ∧ (noteWake srcs d).power.doms = d.power.doms := by
  obtain ⟨w, same⟩ := noteWake_power srcs d
  rw [same]
  exact ⟨rfl, rfl⟩

theorem keeps_exitBegins (d : Dev) : Keeps [.power] d (exitBegins d) :=
  (keeps_modPow _ d).trans (keeps_modDom 11 _ _)

theorem exitBegins_spec (d : Dev) : (exitBegins d).power.st = .exit ∧ ((exitBegins d).dom 11).phase = .up 0
    ∧ (exitBegins d).power.wakeStat = d.power.wakeStat ∧ (exitBegins d).power.wakeLeft = d.power.wakeLeft :=
  ⟨rfl, congrArg Dom.phase (dom_modDom 11 (by decide) _ _), rfl, rfl⟩

section
variable {d : Dev} {srcs fs : List Nat} {src : Nat}
  (fire : src :: fs = srcs.filter (d.armed d.power.latchedWake d.power.latchedTmr d.power.latched))
include fire

theorem fires_small : ∀ q ∈ src :: fs, q ≤ 7 := fun q hq => by
  rw [fire] at hq
  exact armed_le (List.mem_filter.1 hq).2

/-- In STOP an armed source begins the exit. -/
theorem wakes_stop (stop : d.power.st = .stop) : wakes srcs d = exitBegins (noteWake (src :: fs) d) := by
  simp only [wakes, ← fire, stop]
  rfl

/-- During entry an armed source is remembered. -/
theorem wakes_entry (entry : d.power.st = .entry) :
    wakes srcs d = modPow (fun p => { p with woken := true }) (noteWake (src :: fs) d) := by
  simp only [wakes, ← fire, entry]
  rfl

end

theorem wakes_awake {d : Dev} (runs : d.power.st = .run ∨ d.power.st = .exit) (srcs : List Nat) : wakes srcs d = d := by
  obtain h | h := runs <;> simp [wakes, h]

/-- Armed pin sources: at once in STOP, after entry during it, not otherwise. -/
theorem wake_fires {s : State} (awake : s.awake) {srcs fs : List Nat} {src : Nat} (pins : ∀ q ∈ srcs, q ≤ 5)
    (fire : src :: fs = srcs.filter (s.dev.armed s.dev.power.latchedWake s.dev.power.latchedTmr s.dev.power.latched)) :
    ∃ t, exec (.wake srcs) s = .next t ∧ SameShell s t ∧ Keeps [.power] s.dev t.dev
      ∧ (s.dev.power.st = .stop → t.dev.power.st = .exit ∧ (t.dev.dom 11).phase = .up 0)
      ∧ (s.dev.power.st = .entry → t.dev.power.st = .entry ∧ t.dev.power.woken = true)
      ∧ (s.dev.power.st = .stop ∨ s.dev.power.st = .entry → (∀ q ∈ src :: fs, bit t.dev.power.wakeStat q = true)
        ∧ fld t.dev.power.wakeStat 19 16 = fs.foldl min src + 1)
      ∧ (s.dev.power.st = .run ∨ s.dev.power.st = .exit → t.dev.power = s.dev.power) := by
  have all : srcs.filter (· ≤ 5) = srcs := List.filter_eq_self.2 (by simpa using pins)
  have records := noteWake_records (fires_small fire) s.dev
  have noted := noteWake_keeps (src :: fs) s.dev
  obtain ⟨st, -⟩ := noteWake_rest (src :: fs) s.dev
  have rst := noteWake_rst (src :: fs) s.dev
  have stops := wakes_stop fire
  have enters := wakes_entry fire
  generalize noteWake (src :: fs) s.dev = e at records noted st rst stops enters
  cases phase : s.dev.power.st with
  | run =>
    refine ⟨_, onDev_to awake ((congrArg (wakes · s.dev) all).trans (wakes_awake (.inl phase) srcs)), same_const awake rfl,
      keeps_const (Keeps.refl _ _), nofun, nofun, by simp, fun _ => through_power _ _⟩
  | exit =>
    refine ⟨_, onDev_to awake ((congrArg (wakes · s.dev) all).trans (wakes_awake (.inr phase) srcs)), same_const awake rfl,
      keeps_const (Keeps.refl _ _), nofun, nofun, by simp, fun _ => through_power _ _⟩
  | stop =>
    obtain ⟨exits, up, stat, -⟩ := exitBegins_spec e
    refine ⟨_, onDev_to awake ((congrArg (wakes · s.dev) all).trans (stops phase)), same_const awake rst,
      keeps_const (noted.trans (keeps_exitBegins e)), fun _ => ?_, nofun, fun _ => ?_, by simp⟩
    · rw [dom_of (through_power _ _), through_power]
      exact ⟨exits, up⟩
    · rw [through_power, stat]
      exact records
  | entry =>
    refine ⟨_, onDev_to awake ((congrArg (wakes · s.dev) all).trans (enters phase)), same_const awake rst,
      keeps_const (noted.trans (keeps_modPow _ e)), nofun, fun _ => ?_, fun _ => ?_, by simp⟩
    · rw [through_power]
      exact ⟨st.trans phase, rfl⟩
    · rw [through_power]
      exact records

/-- In STOP one armed source alone begins the exit, and is LAST. -/
theorem wakes_one {d : Dev} (stop : d.power.st = .stop) {q : Nat}
    (armed : d.armed d.power.latchedWake d.power.latchedTmr d.power.latched q = true) :
    (wakes [q] d).rst = d.rst ∧ Keeps [.power] d (wakes [q] d) ∧ (wakes [q] d).power.st = .exit
      ∧ (wakes [q] d).power.wakeLeft = d.power.wakeLeft ∧ bit (wakes [q] d).power.wakeStat q = true
      ∧ fld (wakes [q] d).power.wakeStat 19 16 = q + 1 := by
  have fire : q :: [] = [q].filter (d.armed d.power.latchedWake d.power.latchedTmr d.power.latched) := by
    rw [List.filter_cons_of_pos armed, List.filter_nil]
  obtain ⟨bits, last⟩ := noteWake_records (fires_small fire) d
  obtain ⟨exits, -, stat, left⟩ := exitBegins_spec (noteWake [q] d)
  rw [wakes_stop fire stop, stat, left]
  exact ⟨noteWake_rst .., (noteWake_keeps [q] d).trans (keeps_exitBegins _), exits, rfl, bits q List.mem_cons_self, last⟩

/-- The wake timer's expiry is source 6. -/
theorem wakeTimer_expires {s : State} (awake : s.awake) (stop : s.dev.power.st = .stop)
    (armed : s.dev.armed s.dev.power.latchedWake s.dev.power.latchedTmr s.dev.power.latched 6 = true) :
    ∃ t, exec .wakeTimerExpiry s = .next t ∧ SameShell s t ∧ Keeps [.power] s.dev t.dev ∧ t.dev.power.st = .exit
      ∧ t.dev.power.wakeLeft = 0 ∧ bit t.dev.power.wakeStat 6 = true ∧ fld t.dev.power.wakeStat 19 16 = 7 := by
  have left := keeps_modPow (fun p => { p with wakeLeft := 0 }) s.dev
  obtain ⟨rst, kept, exits, timer, fired, last⟩ := wakes_one (q := 6)
    (d := modPow (fun p => { p with wakeLeft := 0 }) s.dev) stop armed
  refine ⟨_, onDev_to awake (if_pos (by rw [stop]; rfl)), same_const awake rst, keeps_const (left.trans kept), ?_⟩
  rw [through_power]
  exact ⟨exits, timer, fired, last⟩

/-- Bytes at U_RXD in STOP do nothing but wake: the loader does not run there. -/
theorem uart_wakes {s : State} (awake : s.awake) (stop : s.dev.power.st = .stop)
    (armed : s.dev.armed s.dev.power.latchedWake s.dev.power.latchedTmr s.dev.power.latched 2 = true) {i : Instr}
    (uart : i = .loaderInfo ∨ i = .loaderReset ∨ ∃ baud, i = .loaderAutobaud baud) :
    ∃ t, exec i s = .next t ∧ SameShell s t ∧ Keeps [.power] s.dev t.dev ∧ t.dev.power.st = .exit
      ∧ bit t.dev.power.wakeStat 2 = true ∧ fld t.dev.power.wakeStat 19 16 = 3 := by
  have asleep : s.dev.loading = false := by simp [Dev.loading, Dev.gRun, stop]
  have quiet (f : Dev → Dev) : onLoader f s.dev = s.dev := by rw [onLoader, asleep]; rfl
  obtain ⟨rst, kept, exits, -, fired, last⟩ := wakes_one stop armed
  have acts : exec i s = .next (s.through (fun _ => wakes [2] s.dev)) := by
    obtain rfl | rfl | ⟨baud, rfl⟩ := uart
    · exact onDev_to awake (congrArg (wakes [2]) (quiet _))
    · exact onDev_to awake (congrArg (wakes [2]) (quiet _))
    · exact onDev_to awake (congrArg (wakes [2]) (by rw [autobaud, asleep]; rfl))
  refine ⟨_, acts, same_const awake rst, keeps_const kept, ?_⟩
  rw [through_power]
  exact ⟨exits, fired, last⟩

/-! ### STOP requested (16 R379, R380) -/

theorem recalcLevel_keeps (d : Dev) : Keeps [.supply, .trouble, .journal] d (recalcLevel d) := by
  intro q hq _
  simp only [recalcLevel]
  split_ifs <;> cases q <;> simp [Part.same] at hq ⊢

theorem ridesIdle_keeps (d : Dev) : Keeps [.supply, .trouble, .journal] d (ridesIdle d) :=
  (keeps_up (keeps_modSup _ d)).trans (recalcLevel_keeps _)

theorem DropFrame.abandonOpen (n : Chn) (d : Dev) : DropFrame n d (abandonOpen n d) := by
  obtain ⟨⟨p, chan⟩, others, keeps⟩ := abandonOpen_frame n d
  exact ⟨keeps_up keeps, others, by rw [chan]; exact ⟨rfl, rfl⟩, abandonOpen_rst n d⟩

/-- What STOP entry does to one channel. -/
theorem DropFrame.stopChan (ks : List Nat) (d : Dev) (n : Chn) : DropFrame n d (stopChan ks d n) := by
  unfold Machine.stopChan
  split
  · exact DropFrame.refl n d
  · split
    · split
      · exact DropFrame.refl n d
      · exact DropFrame.abandonOpen n d
    · exact DropFrame.abandonOpen n d
    · exact DropFrame.refl n d
    · exact DropFrame.beginReset n d

/-- Whether a channel is kept depends on its own state alone. -/
theorem keeps_of {d e : Dev} {n : Chn} (h : e.chan n = d.chan n) (ks : List Nat) : e.keeps ks n = d.keeps ks n := by
  rw [Dev.keeps, h, Dev.keeps]

theorem stopChan_kept {ks : List Nat} {d : Dev} {n : Chn} (h : d.keeps ks n = true) : stopChan ks d n = d := if_pos h

theorem stopChan_active {ks : List Nat} {d : Dev} {n : Chn} (h : d.keeps ks n = false)
    (active : (d.chan n).state.active = true) : stopChan ks d n = beginReset n d := by
  rw [stopChan, h, if_neg (by decide)]
  cases state : (d.chan n).state <;> rw [state] at active <;> first | rfl | cases active

/-- A fold over distinct channels that acts on each channel alone acts on channel `n` once. -/
theorem foldl_chans_once {f : Dev → Chn → Dev} (others : ∀ d n m, m ≠ n → (f d n).chan m = d.chan m) {n : Chn} :
    ∀ {l : List Chn}, n ∈ l → l.Nodup → ∀ d : Dev, ∃ u : Dev, u.chan n = d.chan n ∧ (l.foldl f d).chan n = (f u n).chan n
  | a :: l, there, distinct, d => by
    obtain ⟨fresh, distinct⟩ := List.nodup_cons.1 distinct
    rw [List.foldl_cons]
    by_cases same : n = a
    · subst same
      have rest (l : List Chn) (h : n ∉ l) (u : Dev) : (l.foldl f u).chan n = u.chan n := by
        induction l generalizing u with
        | nil => rfl
        | cons b l ih =>
          obtain ⟨hb, hl⟩ := not_or.1 (mt List.mem_cons.2 h)
          exact (ih hl (f u b)).trans (others u b n hb)
      exact ⟨d, rfl, rest l fresh (f d n)⟩
    · obtain ⟨u, before, after⟩ := foldl_chans_once others ((List.mem_cons.1 there).resolve_left same) distinct (f d a)
      exact ⟨u, before.trans (others d a n same), after⟩

/-- STOP entry begun: the latches, the channels by whether they are kept. -/
theorem stopBegins_host (d : Dev) : (stopBegins false d).rst = d.rst ∧ (stopBegins false d).flash = d.flash
    ∧ (stopBegins false d).power = { d.power with
      st := .entry, latched := d.power.keepList, latchedKeys := d.power.keepKeys, latchedWake := d.power.wakeCfg
      latchedTmr := d.power.wakeTmr, supplyStop := false, woken := false, held := [] }
    ∧ ∀ n, (d.keeps d.power.keepList n = true → (stopBegins false d).chan n = d.chan n)
      ∧ (d.keeps d.power.keepList n = false → (d.chan n).state.active = true →
        ((stopBegins false d).chan n).state = .resetting
        ∧ ((∀ y ∈ (d.chan n).sents, y.job = none ∧ y.parent = none) → ((stopBegins false d).chan n).sents = [])) := by
  have idled := ridesIdle_keeps (modPow (fun p => { p with
    st := .entry, latched := d.power.keepList, latchedKeys := p.keepKeys, latchedWake := p.wakeCfg
    latchedTmr := p.wakeTmr, supplyStop := false, woken := false, held := [] }) d)
  have begun : stopBegins false d = allChns.foldl (stopChan d.power.keepList) (ridesIdle (modPow (fun p => { p with
    st := .entry, latched := d.power.keepList, latchedKeys := p.keepKeys, latchedWake := p.wakeCfg
    latchedTmr := p.wakeTmr, supplyStop := false, woken := false, held := [] }) d)) := rfl
  refine ⟨stopBegins_rst false d, ?_⟩
  rw [begun]
  generalize ridesIdle (modPow (fun p => { p with
    st := .entry, latched := d.power.keepList, latchedKeys := p.keepKeys, latchedWake := p.wakeCfg
    latchedTmr := p.wakeTmr, supplyStop := false, woken := false, held := [] }) d) = e at idled
  have chan (n : Chn) : e.chan n = d.chan n := chan_of (idled .chans (by decide) (by decide)) n
  have folded : Keeps [.chans, .cores, .presig, .ks, .pool] e (allChns.foldl (stopChan d.power.keepList) e) :=
    List.foldlRecOn (motive := Keeps _ e) _ _ (Keeps.refl _ e)
      (fun u hu n _ => hu.trans (DropFrame.stopChan d.power.keepList u n).k)
  refine ⟨(folded .flash (by decide) (by decide)).trans (idled .flash (by decide) (by decide)),
    (folded .power (by decide) (by decide)).trans (idled .power (by decide) (by decide)), fun n => ?_⟩
  obtain ⟨u, before, after⟩ := foldl_chans_once (f := stopChan d.power.keepList)
    (fun u m k other => (DropFrame.stopChan d.power.keepList u m).o k other) (List.mem_finRange n) (List.nodup_finRange 16) e
  have same : u.chan n = d.chan n := before.trans (chan n)
  rw [show allChns.foldl (stopChan d.power.keepList) e = (List.finRange 16).foldl (stopChan d.power.keepList) e from rfl, after]
  refine ⟨fun kept => ?_, fun dropped active => ?_⟩
  · rw [stopChan_kept (by rw [keeps_of same, kept]), same]
  · rw [stopChan_active (by rw [keeps_of same, dropped]) (by rw [same, active])]
    refine ⟨(beginReset_chan n u).1, fun waiting => beginReset_drops fun y hy => ?_⟩
    rw [same] at hy
    obtain ⟨job, parent⟩ := waiting y hy
    exact ⟨parent, fun j hj => by rw [job] at hj; cases hj⟩

/-- A core in which a STOP request's refusal reason and KEEPKEYS stand. -/
def stopAsked (w : Word) (d : Dev) : Dev :=
  modPow (fun p => { p with keepKeys := bit w 8, pwrStat := putFld p.pwrStat (at_ d.stopRefused 24) 26 24 }) d

section
variable {d : Dev} (run : d.power.st = .run) (w : Word) (srcs : List Nat)
include run

theorem writePwrctl_refused (refused : d.stopRefused ≠ 0) : writePwrctl srcs (setBit w 31) d = stopAsked w d := by
  have asks : bit (setBit w 31) 31 = true := bit_setBit (by decide)
  have keeps : bit (setBit w 31) 8 = bit w 8 := bit_setBit_other (by decide)
  have reason (b : Bool) : (modPow (fun p => { p with keepKeys := b }) d).stopRefused = d.stopRefused := rfl
  have runs : ((modPow (fun p => { p with keepKeys := bit w 8 }) d).power.st != .run) = false := by
    rw [show (modPow (fun p => { p with keepKeys := bit w 8 }) d).power.st = d.power.st from rfl, run]
    rfl
  simp only [writePwrctl, asks, keeps, stopRequest, runs, reason, bne_iff_ne.2 refused]
  rfl

theorem writePwrctl_accepted (accepted : d.stopRefused = 0) :
    writePwrctl srcs (setBit w 31) d = stopOrAbandon srcs (stopBegins false) (stopAsked w d) := by
  have asks : bit (setBit w 31) 31 = true := bit_setBit (by decide)
  have keeps : bit (setBit w 31) 8 = bit w 8 := bit_setBit_other (by decide)
  have reason (b : Bool) : (modPow (fun p => { p with keepKeys := b }) d).stopRefused = d.stopRefused := rfl
  have runs : ((modPow (fun p => { p with keepKeys := bit w 8 }) d).power.st != .run) = false := by
    rw [show (modPow (fun p => { p with keepKeys := bit w 8 }) d).power.st = d.power.st from rfl, run]
    rfl
  have none_ : ((0 : Nat) != 0) = false := rfl
  simp only [writePwrctl, asks, keeps, stopRequest, runs, reason, accepted, none_, stopAsked]
  rfl

end

theorem stopAsked_wakes (w : Word) (srcs : List Nat) (d : Dev) : (stopAsked w d).wakePending srcs = d.wakePending srcs := rfl

section
variable {s : State} (takes : s.takes .A) (run : s.dev.power.st = .run) (accepted : s.dev.stopRefused = 0) (w : Word)
  {srcs : List Nat}
include takes run

theorem stopRequest_refused (refused : s.dev.stopRefused ≠ 0) : ∃ t, exec (.stopRequest .A w srcs) s = .next t
    ∧ SameShell s t ∧ Keeps [.power] s.dev t.dev ∧ t.dev.power = { s.dev.power with
      keepKeys := bit w 8, pwrStat := putFld s.dev.power.pwrStat (at_ s.dev.stopRefused 24) 26 24 } :=
  ⟨_, onA_to takes (writePwrctl_refused run w srcs refused), same_const takes.1 rfl, keeps_const (keeps_modPow _ _), rfl⟩

include accepted

theorem stopRequest_enters (quiet : s.dev.wakePending srcs = []) : ∃ t, exec (.stopRequest .A w srcs) s = .next t
    ∧ SameShell s t ∧ t.dev.power.st = .entry
    ∧ t.dev.power.latched = s.dev.power.keepList ∧ t.dev.power.latchedKeys = bit w 8
    ∧ t.dev.power.latchedWake = s.dev.power.wakeCfg ∧ t.dev.power.latchedTmr = s.dev.power.wakeTmr
    ∧ t.dev.power.supplyStop = false ∧ t.dev.power.woken = false ∧ t.dev.flash = s.dev.flash
    ∧ (∀ n, s.dev.keeps s.dev.power.keepList n = true → t.dev.chan n = s.dev.chan n)
    ∧ (∀ n, s.dev.keeps s.dev.power.keepList n = false → (s.dev.chan n).state.active = true →
      (t.dev.chan n).state = .resetting
      ∧ ((∀ y ∈ (s.dev.chan n).sents, y.job = none ∧ y.parent = none) → (t.dev.chan n).sents = [])) := by
  have begins : writePwrctl srcs (setBit w 31) s.dev = stopBegins false (stopAsked w s.dev) := by
    rw [writePwrctl_accepted run w srcs accepted, stopOrAbandon, stopAsked_wakes, quiet]
    rfl
  obtain ⟨rst, flash, power, chans⟩ := stopBegins_host (stopAsked w s.dev)
  generalize stopBegins false (stopAsked w s.dev) = e at begins rst flash power chans
  refine ⟨_, onA_to takes begins, same_const takes.1 rst, ?_⟩
  simp only [through_power, through_flash, through_chan, power]
  exact ⟨trivial, rfl, rfl, rfl, rfl, trivial, trivial, flash, fun n => (chans n).1, fun n => (chans n).2⟩

theorem stopRequest_abandoned {b : Nat} {bs : List Nat} (fire : s.dev.wakePending srcs = b :: bs) :
    ∃ t, exec (.stopRequest .A w srcs) s = .next t ∧ SameShell s t
      ∧ Keeps [.power, .trouble, .journal] s.dev t.dev ∧ t.dev.power.st = .run
      ∧ t.dev.power.doms = s.dev.power.doms ∧ bit t.dev.trouble.g1 0 = true
      ∧ (∀ q ∈ b :: bs, bit t.dev.power.wakeStat q = true)
      ∧ fld t.dev.power.wakeStat 19 16 = bs.foldl min b + 1 := by
  have small : ∀ q ∈ b :: bs, q ≤ 7 := fun q hq => by
    rw [← fire, Dev.wakePending] at hq
    exact armed_le (List.mem_filter.1 hq).2
  have goes : writePwrctl srcs (setBit w 31) s.dev = noteWake (b :: bs) (noteG 1 0 (stopAsked w s.dev)) := by
    rw [writePwrctl_accepted run w srcs accepted, stopOrAbandon, stopAsked_wakes, fire]
    rfl
  have asked : Keeps [.power] s.dev (stopAsked w s.dev) := keeps_modPow _ _
  have noted := keeps_noteG 1 0 (stopAsked w s.dev)
  have rst := noteG_rst 1 0 (stopAsked w s.dev)
  have set : bit ((noteG 1 0 (stopAsked w s.dev)).trouble.g 1) 0 = true := noteG_bit 1 (by decide) _
  have power := noteG_power 1 0 (stopAsked w s.dev)
  generalize noteG 1 0 (stopAsked w s.dev) = e at goes noted rst set power
  obtain ⟨bits, last⟩ := noteWake_records small e
  obtain ⟨st, doms⟩ := noteWake_rest (b :: bs) e
  refine ⟨_, onA_to takes goes, same_const takes.1 ((noteWake_rst ..).trans rst), keeps_const (((keeps_up asked).trans
    (keeps_up noted)).trans (keeps_up (noteWake_keeps (b :: bs) e))), ?_⟩
  simp only [through_power, through_trouble]
  rw [noteWake_keeps (b :: bs) e .trouble (by decide) (by decide), st, doms, power]
  exact ⟨run, rfl, set, bits, last⟩

end

/-! ### The writes of entry (16 R381, step 4) -/

theorem LogFrame.modJ (f : Journal → Journal) (d : Dev) : LogFrame d (modJ f d) :=
  ⟨.of rfl (keeps_modJ f d), keeps_up (keeps_modJ f d), rfl⟩

theorem LogFrame.flashEraseTorn (a : Nat) (d : Dev) : LogFrame d (flashEraseTorn a d) := by
  unfold Machine.flashEraseTorn
  split
  · exact LogFrame.refl d
  · refine ⟨⟨rfl, rfl, rfl, fun _ _ => id⟩, fun q hq _ => ?_, rfl⟩
    cases q <;> simp [Part.same] at hq ⊢

theorem eraseSector_frame (a : Nat) : ∀ (t : Nat) (vs : List Bool) (d : Dev), LogFrame d (eraseSector a t vs d).2.1
  | 0, _, d => LogFrame.refl d
  | t + 1, vs, d => by
    simp only [eraseSector]
    split
    · exact LogFrame.flashErase a 1 d
    · exact (LogFrame.flashEraseTorn a d).trans (eraseSector_frame a t _ _)

theorem prepPlace_frame : ∀ (f : Nat) (vs : List Bool) (d : Dev), LogFrame d (prepPlace f vs d).2.1
  | 0, _, d => LogFrame.refl d
  | f + 1, vs, d => by
    have erased : LogFrame d (eraseSector (0x2000 + 4096 * (d.journal.place / 128)) 3 vs
        (dropSector (d.journal.place / 128) d)).2.1 := (LogFrame.modJ _ d).trans (eraseSector_frame _ 3 vs _)
    simp only [prepPlace]
    split
    · exact LogFrame.refl d
    · split
      · exact LogFrame.refl d
      · by_cases done : (eraseSector (0x2000 + 4096 * (d.journal.place / 128)) 3 vs
            (dropSector (d.journal.place / 128) d)).1 = true
        · rw [if_pos done]
          exact erased
        · rw [if_neg done]
          exact ((erased.trans (LogFrame.noteG 2 12 _)).trans (LogFrame.modJ _ _)).trans (prepPlace_frame f _ _)

theorem programEntry_frame (e : JEntry) : ∀ (t : Nat) (vs : List Bool) (d : Dev), LogFrame d (programEntry e t vs d).2.1
  | 0, _, d => LogFrame.refl d
  | t + 1, vs, d => by
    have room := prepPlace_frame 5 vs d
    have programmed (a : Nat) (bs : Bytes) (ok : Bool) (f : Journal → Journal) :=
      (room.trans (LogFrame.flashProgram a bs ok _)).trans (LogFrame.modJ f _)
    simp only [programEntry]
    split
    · exact room
    · split
      · dsimp only
        exact (programmed _ _ _ _).trans (LogFrame.modJ _ _)
      · exact (programmed _ _ _ _).trans (programEntry_frame e t _ _)

theorem writeEntry_frame (vs : List Bool) (d : Dev) : LogFrame d (writeEntry vs d).1 := by
  unfold writeEntry
  split
  · exact LogFrame.refl d
  · next e q _ =>
    split
    · exact LogFrame.refl d
    · have written := (LogFrame.modJ (fun j => { j with queue := q }) d).trans (programEntry_frame e 3 vs _)
      simp only
      split
      · exact written
      · exact (written.trans (LogFrame.modJ _ _)).trans (LogFrame.noteG 2 12 _)

theorem writeQueue_frame : ∀ (k : Nat) (vs : List Bool) (d : Dev), LogFrame d (writeQueue k vs d).1
  | 0, _, d => LogFrame.refl d
  | k + 1, vs, d => (writeEntry_frame vs d).trans (writeQueue_frame k _ _)

theorem writeClean_frame : ∀ (xs : List KeySlot) (vs : List Bool) (d : Dev), LogFrame d (writeClean xs vs d).2.1
  | [], _, d => LogFrame.refl d
  | x :: xs, vs, d => by
    have recorded := logAppend_frame x.slot x.ctr 1 3 vs d
    exact (LogFrame.ite recorded (recorded.trans (LogFrame.noteG 3 5 _))).trans (writeClean_frame xs _ _)

theorem entryWrites_frame (vfy : List Bool) (d : Dev) : LogFrame d (entryWrites vfy d) := by
  have queued := writeQueue_frame d.journal.queue.length vfy d
  simp only [entryWrites]
  split
  · exact queued.trans (writeClean_frame ..)
  · exact queued

/-! ### STOP reached (16 R381–R384) -/

/-- The domains outside the keep set go off, the others stay as they are. -/
theorem switchOff_phase (d : Dev) (x : Fin 140) : ((switchOff d).dom x.val).phase
    = if (d.dom x.val).phase = .on ∧ d.stays x.val = true then .on else .off := by
  rw [Dev.dom, Dev.dom, vget_of_lt _ x.isLt, vget_of_lt _ x.isLt]
  simp [switchOff, modPow]

theorem banksLost_frame (d : Dev) : Keeps [.pool] d (banksLost d) ∧ (banksLost d).rst = d.rst := by
  refine List.foldlRecOn (motive := fun u : Dev => Keeps [.pool] d u ∧ u.rst = d.rst) _ _ ⟨Keeps.refl _ d, rfl⟩
    (fun u hu b _ => ?_)
  obtain ⟨kept, rst⟩ := hu
  split
  · exact ⟨kept, rst⟩
  · have lost : Keeps [.pool] u (powerLost (60 + b) u) ∧ (powerLost (60 + b) u).rst = u.rst := by
      unfold powerLost
      split
      · exact ⟨fun q hq _ => by cases q <;> simp [Part.same] at hq ⊢, rfl⟩
      · exact ⟨Keeps.refl _ u, rfl⟩
    refine ⟨(kept.trans lost.1).trans ?_, lost.2.trans rst⟩
    exact fun q hq _ => by cases q <;> simp [Part.same] at hq ⊢

/-- Without D9 the keys are gone, and a clause that waited for a checkpoint waits for the store (R383, R384). -/
structure KeysLost (d t : Dev) : Prop where
  rst : t.rst = d.rst
  keeps : Keeps [.ks, .presig, .supply, .chans] d t
  ks : t.ks.vol = [] ∧ t.ks.per = [] ∧ t.ks.ready = false
  arm : t.supply.arm = none
  presig : t.presig.avail = []
  chan : ∀ n, (t.chan n).rings = (d.chan n).rings ∧ (t.chan n).sents = (d.chan n).sents.map (fun y =>
    if y.holds then { y with wait := .ksready, judged := false } else y)

theorem emptyKeys_keeps (d : Dev) : (emptyKeys d).rst = d.rst ∧ Keeps [.ks, .presig, .supply, .chans] d (emptyKeys d)
    ∧ (emptyKeys d).ks.vol = [] ∧ (emptyKeys d).supply.arm = none ∧ (emptyKeys d).presig.avail = []
    ∧ ∀ n, (emptyKeys d).chan n = { d.chan n with recs := Vector.replicate 8 none } := by
  have keys : emptyKeys d = freeRecs (modSup (fun s => { s with arm := none })
      (clearPresig (modKs (fun k => { k with vol := [], cache := [] }) d))) := by rw [emptyKeys, dropArm_all]
  rw [keys]
  refine ⟨rfl, fun q hq _ => ?_, rfl, rfl, rfl, freeRecs_chan _⟩
  cases q <;> simp [Part.same, freeRecs, clearPresig] at hq ⊢

theorem keysLost_spec (d : Dev) : KeysLost d (keysLost d) := by
  obtain ⟨rst, kept, vol, arm, presig, chan⟩ := emptyKeys_keeps d
  rw [keysLost, emptyStore]
  generalize emptyKeys d = e at rst kept vol arm presig chan
  refine ⟨rst, kept.trans fun q hq _ => ?_, ⟨vol, rfl, rfl⟩, arm, presig, fun n => ?_⟩
  · cases q <;> simp [Part.same] at hq ⊢
  · have same : e.chans[n.val] = { d.chan n with recs := Vector.replicate 8 none } := chan n
    simp [Dev.chan, modKs, same]

/-- What stays on depends on the keep set, the channels, the buffers, the operand cells and the seal. -/
theorem stays_of {d e : Dev} (power : e.power = d.power) (chans : e.chans = d.chans) (pool : e.pool = d.pool)
    (cores : e.cores = d.cores) (supply : e.supply = d.supply) (x : Nat) : e.stays x = d.stays x := by
  have kept : e.keeps = d.keeps := funext fun ks => funext fun n => keeps_of (chan_of chans n) ks
  have picked : e.picked = d.picked := funext fun n => by rw [Dev.picked, chan_of chans, Dev.picked]
  simp only [Dev.stays, Dev.mailboxKept, Dev.taken, Dev.cellWritten, power, pool, cores, supply, kept, picked]

/-- The clocks off and the run state STOP, or EXIT where a source fired during entry. -/
def clocksOff (mailbox : Bool) (d : Dev) : Dev :=
  let d := modClk (fun c => { c with clkStat := 0 }) d
  let d := modPow (fun p => { p with
    st := .stop, wakeLeft := p.latchedTmr.toNat, latched := if mailbox then 1 :: p.latched else p.latched }) d
  if d.power.woken then exitBegins d else d

theorem clocksOff_spec (mailbox : Bool) (d : Dev) : (clocksOff mailbox d).rst = d.rst
    ∧ Keeps [.power, .clocks] d (clocksOff mailbox d)
    ∧ (clocksOff mailbox d).power.st = (if d.power.woken then .exit else .stop)
    ∧ (clocksOff mailbox d).power.wakeLeft = d.power.latchedTmr.toNat ∧ (clocksOff mailbox d).clocks.clkStat = 0
    ∧ ∀ x, ((clocksOff mailbox d).dom x).phase = if d.power.woken ∧ x = 11 then .up 0 else (d.dom x).phase := by
  have stopped : Keeps [.power, .clocks] d (modPow (fun p => { p with
      st := .stop, wakeLeft := p.latchedTmr.toNat, latched := if mailbox then 1 :: p.latched else p.latched })
      (modClk (fun c => { c with clkStat := 0 }) d)) := fun q hq _ => by cases q <;> simp [Part.same] at hq ⊢
  cases woken : d.power.woken with
  | false =>
    have stays : clocksOff mailbox d = modPow (fun p => { p with
        st := .stop, wakeLeft := p.latchedTmr.toNat, latched := if mailbox then 1 :: p.latched else p.latched })
        (modClk (fun c => { c with clkStat := 0 }) d) := by
      rw [clocksOff]
      exact if_neg (by rw [modPow_power, modClk_power, woken]; decide)
    rw [stays]
    exact ⟨rfl, stopped, rfl, rfl, rfl, fun x => by simp [Dev.dom]⟩
  | true =>
    have leaves : clocksOff mailbox d = exitBegins (modPow (fun p => { p with
        st := .stop, wakeLeft := p.latchedTmr.toNat, latched := if mailbox then 1 :: p.latched else p.latched })
        (modClk (fun c => { c with clkStat := 0 }) d)) := by
      rw [clocksOff]
      exact if_pos (by rw [modPow_power, modClk_power, woken])
    rw [leaves]
    refine ⟨rfl, stopped.trans (keeps_up (keeps_exitBegins _)), rfl, rfl, rfl, fun x => ?_⟩
    by_cases core : x = 11
    · rw [core, (exitBegins_spec _).2.1, if_pos ⟨rfl, rfl⟩]
    · rw [exitBegins, dom_modDom_other core, if_neg fun h => core h.2]
      simp [Dev.dom]

/-- The core once the domains are off (R381, steps 5 and 6). -/
def entryReached (mailbox : Bool) (d : Dev) : Dev :=
  let d := banksLost (switchOff d)
  clocksOff mailbox (if d.power.latchedKeys then d else keysLost d)

/-- Entry, its work over, stops the gate where D3 goes off and reaches STOP. -/
theorem entryDone_reaches {d : Dev} (entry : d.power.st = .entry) (idle : d.entryBusy = false)
    (closed : ∀ n, (d.chan n).state ≠ .resetting) (vfy : List Bool) :
    ∃ e : Dev, e.rst = d.rst ∧ Keeps [.flash, .ks, .trouble, .journal, .gate] d e ∧ e.ks.vol = d.ks.vol
      ∧ entryDone vfy d = entryReached d.mailboxKept e := by
  have resets : allChns.foldl (fun d n => if (d.chan n).state == .resetting then clearChan n (dropSents n d) else d) d = d :=
    List.foldl_fixed' (fun n => if_neg (by simpa using closed n)) allChns
  have wrote : LogFrame d (if d.power.supplyStop then d else entryWrites vfy d) :=
    LogFrame.ite (LogFrame.refl d) (entryWrites_frame vfy d)
  have enters : (d.power.st != .entry || d.entryBusy) = false := by rw [entry, idle]; rfl
  have runs : entryDone vfy d = entryReached d.mailboxKept (
      if (if d.power.supplyStop then d else entryWrites vfy d).power.latched.contains 3
      then (if d.power.supplyStop then d else entryWrites vfy d)
      else gateStop (if d.power.supplyStop then d else entryWrites vfy d)) := by
    simp only [entryDone, enters, resets, Bool.false_eq_true, if_false, entryReached, clocksOff]
  generalize (if d.power.supplyStop then d else entryWrites vfy d) = u at wrote runs
  refine ⟨_, ?_, ?_, ?_, runs⟩
  · split
    · exact wrote.rst
    · exact wrote.rst
  · split
    · exact keeps_up wrote.keeps
    · exact (keeps_up wrote.keeps).trans (keeps_up (keeps_modGate _ u))
  · split
    · exact wrote.vol
    · exact wrote.vol

/-- The keys as latched KEEPKEYS leaves them. -/
theorem keysBy_spec (d : Dev) : (if d.power.latchedKeys then d else keysLost d).rst = d.rst
    ∧ (if d.power.latchedKeys then d else keysLost d).power = d.power
    ∧ (d.power.latchedKeys = false → KeysLost d (if d.power.latchedKeys then d else keysLost d))
    ∧ (d.power.latchedKeys = true → (if d.power.latchedKeys then d else keysLost d) = d)
    ∧ ∀ n, ((if d.power.latchedKeys then d else keysLost d).chan n).rings = (d.chan n).rings := by
  have lost := keysLost_spec d
  cases d.power.latchedKeys with
  | true => exact ⟨rfl, rfl, nofun, fun _ => rfl, fun _ => rfl⟩
  | false => exact ⟨lost.rst, lost.keeps .power (by decide) (by decide), fun _ => lost, nofun, fun n => (lost.chan n).1⟩

/-- The core with the domains of the keep set on alone and, without D9, the keys gone. -/
theorem entryReached_spec (mailbox : Bool) (d : Dev) : (entryReached mailbox d).rst = d.rst
    ∧ (entryReached mailbox d).power.st = (if d.power.woken then .exit else .stop)
    ∧ (entryReached mailbox d).power.wakeLeft = d.power.latchedTmr.toNat ∧ (entryReached mailbox d).clocks.clkStat = 0
    ∧ (∀ x : Fin 140, ((entryReached mailbox d).dom x.val).phase = if d.power.woken ∧ x.val = 11 then .up 0
      else if (d.dom x.val).phase = .on ∧ d.stays x.val = true then .on else .off)
    ∧ (d.power.latchedKeys = false → (entryReached mailbox d).ks.vol = [] ∧ (entryReached mailbox d).ks.per = []
      ∧ (entryReached mailbox d).ks.ready = false ∧ (entryReached mailbox d).supply.arm = none
      ∧ (entryReached mailbox d).presig.avail = [] ∧ ∀ n, ((entryReached mailbox d).chan n).sents
        = (d.chan n).sents.map (fun y => if y.holds then { y with wait := .ksready, judged := false } else y))
    ∧ (d.power.latchedKeys = true → (entryReached mailbox d).ks = d.ks
      ∧ ∀ n, ((entryReached mailbox d).chan n).sents = (d.chan n).sents)
    ∧ ∀ n, ((entryReached mailbox d).chan n).rings = (d.chan n).rings := by
  have off : Keeps [.power] d (switchOff d) := keeps_modPow _ d
  obtain ⟨lost, rst⟩ := banksLost_frame (switchOff d)
  have phases (x : Fin 140) : ((banksLost (switchOff d)).dom x.val).phase
      = if (d.dom x.val).phase = .on ∧ d.stays x.val = true then .on else .off := by
    rw [dom_of (lost .power (by decide) (by decide)), switchOff_phase]
  have power : (banksLost (switchOff d)).power = (switchOff d).power := lost .power (by decide) (by decide)
  have ks : (banksLost (switchOff d)).ks = d.ks :=
    (lost .ks (by decide) (by decide)).trans (off .ks (by decide) (by decide))
  have chan (n : Chn) : (banksLost (switchOff d)).chan n = d.chan n :=
    chan_of ((lost .chans (by decide) (by decide)).trans (off .chans (by decide) (by decide))) n
  have woken : (banksLost (switchOff d)).power.woken = d.power.woken := by rw [power]; simp only [switchOff, modPow]
  have keys : (banksLost (switchOff d)).power.latchedKeys = d.power.latchedKeys := by
    rw [power]; simp only [switchOff, modPow]
  have timer : (banksLost (switchOff d)).power.latchedTmr = d.power.latchedTmr := by
    rw [power]; simp only [switchOff, modPow]
  have still : (banksLost (switchOff d)).rst = d.rst := rst.trans (modPow_rst _ d)
  rw [entryReached]
  generalize banksLost (switchOff d) = e at phases ks chan woken keys timer still
  obtain ⟨rst, power, lockedOut, kept, rings⟩ := keysBy_spec e
  generalize (if e.power.latchedKeys then e else keysLost e) = u at rst power lockedOut kept rings ⊢
  obtain ⟨crst, frame, st, left, clk, doms⟩ := clocksOff_spec mailbox u
  generalize clocksOff mailbox u = t at crst frame st left clk doms ⊢
  rw [power, woken] at st doms
  rw [power, timer] at left
  rw [keys] at lockedOut kept
  have tks : t.ks = u.ks := frame .ks (by decide) (by decide)
  have tchan (n : Chn) : t.chan n = u.chan n := chan_of (frame .chans (by decide) (by decide)) n
  refine ⟨crst.trans (rst.trans still), st, left, clk, fun x => ?_, fun gone => ?_, fun stays => ?_, fun n => ?_⟩
  · rw [doms, dom_of power, phases]
  · obtain ⟨-, -, ⟨vol, per, ready⟩, arm, presig, chans⟩ := lockedOut gone
    rw [tks, frame .supply (by decide) (by decide), frame .presig (by decide) (by decide)]
    exact ⟨vol, per, ready, arm, presig, fun n => by rw [tchan, (chans n).2, chan]⟩
  · rw [tks]
    have same := kept stays
    exact ⟨by rw [same, ks], fun n => by rw [tchan, same, chan]⟩
  · rw [tchan, rings, chan]

/-- STOP_ENTRY_DONE once the work of entry is over. -/
theorem stopEntry_ends {s : State} (awake : s.awake) (entry : s.dev.power.st = .entry) (idle : s.dev.entryBusy = false)
    (closed : ∀ n, (s.dev.chan n).state ≠ .resetting) (vfy : List Bool) :
    ∃ t, exec (.stopEntryDone vfy) s = .next t ∧ SameShell s t
      ∧ t.dev.power.st = (if s.dev.power.woken then .exit else .stop)
      ∧ t.dev.power.wakeLeft = s.dev.power.latchedTmr.toNat ∧ t.dev.clocks.clkStat = 0
      ∧ (∀ x : Fin 140, (t.dev.dom x.val).phase
        = if s.dev.power.woken ∧ x.val = 11 then .up 0
          else if (s.dev.dom x.val).phase = .on ∧ s.dev.stays x.val = true then .on else .off)
      ∧ (s.dev.power.latchedKeys = false → t.dev.ks.vol = [] ∧ t.dev.ks.per = [] ∧ t.dev.ks.ready = false
        ∧ t.dev.supply.arm = none ∧ t.dev.presig.avail = []
        ∧ ∀ n, (t.dev.chan n).sents = (s.dev.chan n).sents.map (fun y =>
          if y.holds then { y with wait := .ksready, judged := false } else y))
      ∧ (s.dev.power.latchedKeys = true → t.dev.ks.vol = s.dev.ks.vol
        ∧ ∀ n, (t.dev.chan n).sents = (s.dev.chan n).sents)
      ∧ (∀ n, (t.dev.chan n).rings = (s.dev.chan n).rings) := by
  obtain ⟨e, rst, frame, vol, reaches⟩ := entryDone_reaches entry idle closed vfy
  have power : e.power = s.dev.power := frame .power (by decide) (by decide)
  have chan (n : Chn) : e.chan n = s.dev.chan n := chan_of (frame .chans (by decide) (by decide)) n
  have stays (x : Nat) : e.stays x = s.dev.stays x := stays_of power (frame .chans (by decide) (by decide))
    (frame .pool (by decide) (by decide)) (frame .cores (by decide) (by decide)) (frame .supply (by decide) (by decide)) x
  obtain ⟨erst, st, left, clk, doms, gone, kept, rings⟩ := entryReached_spec s.dev.mailboxKept e
  generalize entryReached s.dev.mailboxKept e = t at reaches erst st left clk doms gone kept rings
  simp only [power, stays, dom_of power, chan] at st left doms gone kept rings
  refine ⟨_, onDev_to awake reaches, same_const awake (erst.trans rst), ?_⟩
  simp only [through_power, through_clocks, through_ks, through_supply, through_presig, through_chan,
    dom_of (through_power _ _)]
  exact ⟨st, left, clk, doms, gone, fun keys => ⟨(congrArg KeyStore.vol (kept keys).1).trans vol, (kept keys).2⟩, rings⟩

/-! ### STOP left (16 R388) -/

/-- From `d` to `t` the domains `xs` of the handshake have been finished, and what lay in them reset. -/
structure Finished (xs : List Nat) (d t : Dev) : Prop where
  rst : t.rst = d.rst
  keeps : Keeps [.power, .pool, .sched, .entropy] d t
  power : ∃ v, t.power = { d.power with doms := v }
  mem : t.pool.mem = d.pool.mem
  on : ∀ x ∈ xs, (t.dom x).phase = .on
  others : ∀ y, y ∉ xs → t.dom y = d.dom y
  tags : 6 ∈ xs → (d.dom 6).phase = .off → t.pool.gens = []
  pool : 6 ∉ xs → t.pool = d.pool

theorem Finished.refl (d : Dev) : Finished [] d d :=
  ⟨rfl, Keeps.refl _ d, ⟨_, rfl⟩, rfl, fun _ h => absurd h List.not_mem_nil, fun _ _ => rfl,
    fun h => absurd h List.not_mem_nil, fun _ => rfl⟩

theorem Finished.cons {x : Nat} {xs : List Nat} {d e t : Dev} (fresh : x ∉ xs) (h : Finished [x] d e) (h' : Finished xs e t) :
    Finished (x :: xs) d t := by
  refine ⟨h'.rst.trans h.rst, h.keeps.trans h'.keeps, ?_, h'.mem.trans h.mem, fun y hy => ?_, fun y hy => ?_,
    fun there off => ?_, fun absent => ?_⟩
  · obtain ⟨v, hv⟩ := h.power
    obtain ⟨w, hw⟩ := h'.power
    exact ⟨w, by rw [hw, hv]⟩
  · by_cases later : y ∈ xs
    · exact h'.on y later
    · obtain rfl := (List.mem_cons.1 hy).resolve_right later
      rw [h'.others y later]
      exact h.on y (List.mem_singleton_self y)
  · obtain ⟨first, later⟩ := not_or.1 (mt List.mem_cons.2 hy)
    exact (h'.others y later).trans (h.others y (mt List.mem_singleton.1 first))
  · by_cases later : 6 ∈ xs
    · refine h'.tags later ?_
      rw [h.others 6 (fun first => fresh (List.mem_singleton.1 first ▸ later)), off]
    · rw [h'.pool later]
      obtain rfl := (List.mem_cons.1 there).resolve_right later
      exact h.tags (List.mem_singleton_self 6) off
  · obtain ⟨first, later⟩ := not_or.1 (mt List.mem_cons.2 absent)
    exact (h'.pool later).trans (h.pool (mt List.mem_singleton.1 first))

/-- A class-2 domain put on, whatever its reset had to do before. -/
theorem Finished.put {x : Nat} (high : x < 140) {d e : Dev} (rst : e.rst = d.rst)
    (keeps : Keeps [.pool, .sched, .entropy] d e) (mem : e.pool.mem = d.pool.mem)
    (tags : x = 6 → (d.dom 6).phase = .off → e.pool.gens = []) (pool : x ≠ 6 → e.pool = d.pool) :
    Finished [x] d (modDom x (fun y => { y with phase := .on }) e) := by
  have power : e.power = d.power := keeps .power (by decide) (by decide)
  refine ⟨rst, (keeps_up keeps).trans (keeps_up (keeps_modDom x _ e)), ⟨_, by rw [modDom, modPow_power, power]⟩, mem,
    fun y hy => ?_, fun y hy => ?_, fun there => tags (List.mem_singleton.1 there).symm,
    fun absent => pool fun same => absent (List.mem_singleton.2 same.symm)⟩
  · obtain rfl := List.mem_singleton.1 hy
    rw [dom_modDom y high]
  · rw [dom_modDom_other (mt List.mem_singleton.2 hy), dom_of power]

theorem finishOn_finished {x : Nat} (low : 5 ≤ x) (high : x ≤ 11) (d : Dev) : Finished [x] d (finishOn d x) := by
  have stays {q : DomPhase} (phase : (d.dom x).phase = q) (up : q ≠ .off) :
      Finished [x] d (modDom x (fun y => { y with phase := .on }) d) :=
    Finished.put (by omega) rfl (Keeps.refl _ d) rfl (fun same off => by subst same; exact absurd (phase.symm.trans off) up)
      (fun _ => rfl)
  have resets : Finished [x] d (modDom x (fun y => { y with phase := .on }) (domReset x d)) := by
    have frame : (domReset x d).rst = d.rst ∧ Keeps [.pool, .sched, .entropy] d (domReset x d)
        ∧ (domReset x d).pool.mem = d.pool.mem ∧ (x = 6 → (domReset x d).pool.gens = [])
        ∧ (x ≠ 6 → (domReset x d).pool = d.pool) := by
      rw [domReset, if_neg (by omega), if_neg (by omega)]
      split
      · next tags =>
        exact ⟨rfl, fun q hq ht => by cases q <;> simp [Part.same] at hq ht ⊢, rfl, fun _ => rfl, fun other => absurd tags other⟩
      · next other =>
        split
        · exact ⟨rfl, fun q hq _ => by cases q <;> simp [Part.same] at hq ⊢, rfl, fun same => absurd same other, fun _ => rfl⟩
        · exact ⟨rfl, Keeps.refl _ d, rfl, fun same => absurd same other, fun _ => rfl⟩
    obtain ⟨rst, keeps, mem, tags, pool⟩ := frame
    exact Finished.put (by omega) rst keeps mem (fun same _ => tags same) pool
  unfold finishOn
  split
  · next phase =>
    refine ⟨rfl, Keeps.refl _ d, ⟨_, rfl⟩, rfl, fun y hy => ?_, fun _ _ => rfl, fun there off => ?_, fun _ => rfl⟩
    · rw [List.mem_singleton.1 hy, phase]
    · rw [List.mem_singleton.1 there, phase] at off
      cases off
  · next phase => exact stays phase (by simp)
  · next phase => exact stays phase (by simp)
  · exact resets

theorem finishAll (xs : List Nat) : ∀ (d : Dev), (∀ x ∈ xs, 5 ≤ x ∧ x ≤ 11) → xs.Nodup → Finished xs d (xs.foldl finishOn d) := by
  induction xs with
  | nil => exact fun d _ _ => Finished.refl d
  | cons x xs ih =>
    intro d range distinct
    obtain ⟨fresh, distinct⟩ := List.nodup_cons.1 distinct
    obtain ⟨⟨low, high⟩, range⟩ := List.forall_mem_cons.1 range
    exact (finishOn_finished low high d).cons fresh (ih (finishOn d x) range distinct)

theorem domOn_of {d : Dev} {x : Nat} (h : (d.dom x).phase = .on) : d.domOn x = true := by
  rw [Dev.dom] at h
  rw [Dev.domOn, h]

/-- Reread OTP that fails its check is recorded (log entry 1). -/
theorem otpReread_noted (d : Dev) : (bump (if Config.otpReread d.ctr then d else noteOtpErr d)).rst = d.rst
    ∧ Keeps [.trouble, .journal] d (bump (if Config.otpReread d.ctr then d else noteOtpErr d))
    ∧ ((bump (if Config.otpReread d.ctr then d else noteOtpErr d)).trouble = d.trouble
        ∧ (bump (if Config.otpReread d.ctr then d else noteOtpErr d)).journal = d.journal
      ∨ bit ((bump (if Config.otpReread d.ctr then d else noteOtpErr d)).trouble.g 3) 9 = true) := by
  cases Config.otpReread d.ctr with
  | true => exact ⟨rfl, fun q hq _ => by cases q <;> simp [Part.same] at hq ⊢, .inl ⟨rfl, rfl⟩⟩
  | false =>
    have noted := keeps_noteG 3 9 d
    have set : bit ((noteG 3 9 d).trouble.g 3) 9 = true := noteG_bit 3 (by decide) d
    have rst := noteG_rst 3 9 d
    simp only [Bool.false_eq_true, if_false, noteOtpErr]
    generalize noteG 3 9 d = e at noted set rst
    exact ⟨rst, noted.trans fun q hq _ => by cases q <;> simp [Part.same] at hq ⊢, .inr set⟩

/-- The core in which the unlock without D9 has begun and the clocks have locked. -/
def exitLocked (d : Dev) : Dev :=
  modClk (fun c => { c with clkStat := 3 })
    (if d.power.latchedKeys || d.otp.lcCode = 3 then d else modKs (fun k => { k with unlocking := true }) d)

theorem exitLocked_spec (d : Dev) : (exitLocked d).rst = d.rst ∧ Keeps [.ks, .clocks] d (exitLocked d)
    ∧ (exitLocked d).clocks = { d.clocks with clkStat := 3 }
    ∧ (exitLocked d).ks = (if d.power.latchedKeys = true ∨ d.otp.lcCode = 3 then d.ks else { d.ks with unlocking := true }) := by
  by_cases stays : d.power.latchedKeys = true ∨ d.otp.lcCode = 3
  · rw [exitLocked, if_pos (by simpa using stays), if_pos stays]
    exact ⟨rfl, fun q hq _ => by cases q <;> simp [Part.same] at hq ⊢, rfl, rfl⟩
  · rw [exitLocked, if_neg (by simpa using stays), if_neg stays]
    exact ⟨rfl, fun q hq _ => by cases q <;> simp [Part.same] at hq ⊢, rfl, rfl⟩

/-- OTP reread, RUN, and what was held since entry. -/
def exitEnds (d : Dev) : Dev :=
  let d := bump (if Config.otpReread d.ctr then d else noteOtpErr d)
  d.power.held.foldl applyHeld (modPow (fun p => { p with
    st := .run, held := []
    pwrStat := putFld p.pwrStat (at_ ((fld p.pwrStat 23 16 + 1) % 256) 16) 23 16 }) d)

/-- With no write held, exit ends in RUN once the handshake is over and OTP has been reread. -/
theorem exitDone_runs {d : Dev} (exits : d.power.st = .exit) (none_ : d.power.held = []) : ∃ e t : Dev,
    Finished [11, 5, 6, 7, 8, 9, 10] (exitLocked d) e ∧ t.rst = e.rst ∧ Keeps [.trouble, .journal] e t
      ∧ (t.trouble = e.trouble ∧ t.journal = e.journal ∨ bit (t.trouble.g 3) 9 = true)
      ∧ exitDone d = modPow (fun p => { p with
        st := .run, held := []
        pwrStat := putFld p.pwrStat (at_ ((fld p.pwrStat 23 16 + 1) % 256) 16) 23 16 }) t := by
  have finished := finishAll [11, 5, 6, 7, 8, 9, 10] (exitLocked d) (by decide) (by decide)
  have frame := (exitLocked_spec d).2.1
  have runs : exitDone d = exitEnds ([11, 5, 6, 7, 8, 9, 10].foldl finishOn (exitLocked d)) := by
    rw [exitDone, if_neg (by rw [exits]; decide)]
    rfl
  generalize [11, 5, 6, 7, 8, 9, 10].foldl finishOn (exitLocked d) = e at finished runs
  obtain ⟨rst, kept, otp⟩ := otpReread_noted e
  refine ⟨e, _, finished, rst, kept, otp, ?_⟩
  obtain ⟨v, power⟩ := finished.power
  have held : (bump (if Config.otpReread e.ctr then e else noteOtpErr e)).power.held = [] := by
    rw [kept .power (by decide) (by decide), power, frame .power (by decide) (by decide)]
    exact none_
  rw [runs, exitEnds, held]
  rfl

theorem stopExit_ends {s : State} (awake : s.awake) (exits : s.dev.power.st = .exit) (none_ : s.dev.power.held = []) :
    ∃ t, exec .stopExitDone s = .next t ∧ SameShell s t
      ∧ Keeps [.power, .pool, .ks, .sched, .entropy, .clocks, .trouble, .journal] s.dev t.dev
      ∧ (t.dev.trouble = s.dev.trouble ∧ t.dev.journal = s.dev.journal ∨ bit t.dev.trouble.g3 9 = true)
      ∧ t.dev.power.st = .run
      ∧ (∀ x, 5 ≤ x → x ≤ 11 → t.dev.domOn x = true) ∧ t.dev.clocks = { s.dev.clocks with clkStat := 3 }
      ∧ fld t.dev.power.pwrStat 23 16 = (fld s.dev.power.pwrStat 23 16 + 1) % 256
      ∧ t.dev.pool.mem = s.dev.pool.mem ∧ ((s.dev.dom 6).phase = .off → t.dev.pool.gens = [])
      ∧ t.dev.ks = (if s.dev.power.latchedKeys = true ∨ s.dev.otp.lcCode = 3 then s.dev.ks
        else { s.dev.ks with unlocking := true }) := by
  obtain ⟨lrst, locked, clocks, ks⟩ := exitLocked_spec s.dev
  obtain ⟨e, t, finished, rst, kept, otp, runs⟩ := exitDone_runs exits none_
  obtain ⟨v, power⟩ := finished.power
  have tpower : t.power = { s.dev.power with doms := v } := by
    rw [kept .power (by decide) (by decide), power, locked .power (by decide) (by decide)]
  have on (x : Nat) (low : 5 ≤ x) (high : x ≤ 11) : (t.dom x).phase = .on := by
    rw [dom_of (kept .power (by decide) (by decide))]
    refine finished.on x ?_
    simp only [List.mem_cons, List.not_mem_nil, or_false]
    omega
  have pool : t.pool = e.pool := kept .pool (by decide) (by decide)
  refine ⟨_, onDev_to awake runs, same_const awake (rst.trans (finished.rst.trans lrst)), keeps_const (((keeps_up locked).trans
    (keeps_up finished.keeps)).trans ((keeps_up kept).trans (keeps_up (keeps_modPow _ t)))), ?_, ?_, fun x low high => ?_,
    ?_, ?_, ?_, fun off => ?_, ?_⟩
  · rw [through_trouble, through_journal]
    refine otp.imp_left fun same => ?_
    exact ⟨same.1.trans ((finished.keeps .trouble (by decide) (by decide)).trans (locked .trouble (by decide) (by decide))),
      same.2.trans ((finished.keeps .journal (by decide) (by decide)).trans (locked .journal (by decide) (by decide)))⟩
  · rw [through_power]
    rfl
  · refine domOn_of ?_
    rw [dom_of (through_power _ _)]
    exact on x low high
  · rw [through_clocks, ← clocks, ← finished.keeps .clocks (by decide) (by decide)]
    exact kept .clocks (by decide) (by decide)
  · rw [through_power, modPow_power, tpower]
    exact (fld_putFld _ _ (by decide) (by decide)).trans (Nat.mod_mod _ 256)
  · rw [through_pool, modPow_pool, pool, finished.mem, locked .pool (by decide) (by decide)]
  · rw [through_pool, modPow_pool, pool]
    refine finished.tags (by decide) ?_
    rw [dom_of (locked .power (by decide) (by decide)), off]
  · rw [through_ks, ← ks, ← finished.keeps .ks (by decide) (by decide)]
    exact kept .ks (by decide) (by decide)

/-! ### The unlock without D9 (12 R296, R297) -/

/-- The attributes that an unlock takes are those of slots the row names WRITTEN. -/
theorem selectSlot_written {row : EpochRow} {gone : List Nat} {slots : List KeySlot} {recs : List (Nat × CtrRec)} {i : Nat}
    {x : KeySlot × Bool} (named : ∀ y, slots.find? (fun z => z.slot == i) = some y → y.slot = i)
    (h : selectSlot row gone slots recs i = some x) : x.1.slot = i := by
  unfold selectSlot at h
  split at h
  · cases h
  · split at h
    · cases h; rfl
    · split at h
      · cases h; rfl
      · next y found =>
        split at h <;> cases h <;> exact named y found

theorem openStore_spec (kek : Bytes) (d : Dev) : (openStore kek d).rst = d.rst
    ∧ Keeps [.ks, .trouble, .journal] d (openStore kek d) ∧ (openStore kek d).ks.ready = true
    ∧ (openStore kek d).ks.unlocking = false ∧ (openStore kek d).ks.kek = kek ∧ (openStore kek d).ks.vol = d.ks.vol
    ∧ ∀ k ∈ (openStore kek d).ks.per, k.slot ∈ d.otp.row.written := by
  have written (x : KeySlot × Bool) (hx : x ∈ d.otp.row.written.eraseDups.filterMap (selectSlot d.otp.row d.ks.retiredNow
      (d.readSlots kek) (newestRecs (d.usedLog.filterMap (d.readCtr kek))))) : x.1.slot ∈ d.otp.row.written := by
    obtain ⟨i, hi, selects⟩ := List.mem_filterMap.1 hx
    rw [selectSlot_written (fun y found => by simpa using List.find?_some found) selects]
    exact List.mem_eraseDups.1 hi
  have opened (f : KeyStore → KeyStore) (b : Bool) : (if b then noteSlotFail (modKs f d) else modKs f d).rst = d.rst
      ∧ Keeps [.ks, .trouble, .journal] d (if b then noteSlotFail (modKs f d) else modKs f d)
      ∧ (if b then noteSlotFail (modKs f d) else modKs f d).ks = f d.ks := by
    cases b with
    | false => exact ⟨rfl, keeps_up (keeps_modKs f d), rfl⟩
    | true => exact ⟨noteG_rst .., (keeps_up (keeps_modKs f d)).trans (keeps_up (keeps_noteG 3 4 _)), noteSlotFail_ks _⟩
  simp only [openStore]
  exact ⟨(opened _ _).1, (opened _ _).2.1, congrArg KeyStore.ready (opened _ _).2.2,
    congrArg KeyStore.unlocking (opened _ _).2.2, congrArg KeyStore.kek (opened _ _).2.2,
    (congrArg KeyStore.vol (opened _ _).2.2 :), fun k hk => by
      rw [(opened _ _).2.2] at hk
      obtain ⟨x, hx, rfl⟩ := List.mem_map.1 hk
      exact written x hx⟩

/-- The store's unlock ends: its outcome, and the clauses that waited for it released. -/
theorem storeUnlock_releases {d e : Dev} (unlocks : d.ks.unlocking = true)
    (outcome : unlockFor d.boot.progMeas d.boot.progVer.toNat d.wantState d = e)
    (judged : ∀ n, ∀ y ∈ (e.chan n).sents, y.judged = true ∨ y.job.isSome = true) :
    storeUnlockEnds d = releaseStoreWaits e := by
  have quiet (n : Chn) : judgeFresh n (releaseStoreWaits e) = releaseStoreWaits e := by
    have none_ : ((releaseStoreWaits e).chan n).sents.filter (fun s => !s.judged && s.job.isNone) = [] := by
      rw [List.filter_eq_nil_iff]
      intro y hy
      simp only [releaseStoreWaits, Dev.chan, Vector.getElem_map, List.mem_map] at hy
      obtain ⟨z, hz, rfl⟩ := hy
      have known : (!z.judged && z.job.isNone) = false := by
        obtain h | h := judged n z hz
        · rw [h]; rfl
        · rw [← Option.not_isSome, h]; simp
      split <;> exact Bool.eq_false_iff.1 known
    rw [judgeFresh, none_]
    split <;> rfl
  rw [storeUnlockEnds, if_pos unlocks, outcome, List.foldl_fixed' quiet]

theorem releaseStoreWaits_keeps (d : Dev) : Keeps [.chans] d (releaseStoreWaits d) := by
  intro q hq _
  cases q <;> simp [Part.same, releaseStoreWaits] at hq ⊢

theorem releaseStoreWaits_chan (d : Dev) (n : Chn) : (releaseStoreWaits d).chan n = { d.chan n with
    sents := (d.chan n).sents.map (fun y => if y.wait == .ksready then { y with wait := .none } else y) } := by
  simp [releaseStoreWaits, Dev.chan]

section
variable {s : State} (awake : s.awake) (unlocks : s.dev.ks.unlocking = true) (rooted : s.dev.otp.rooted = true)
  (judged : ∀ n, ∀ y ∈ (s.dev.chan n).sents, y.judged = true ∨ y.job.isSome = true)
include awake unlocks rooted judged

/-- An unlock that finds no key leaves the store locked. -/
theorem keystoreUnlock_locked {r : Nat}
    (found : s.dev.findKek s.dev.boot.progMeas s.dev.boot.progVer.toNat s.dev.wantState = .inr r) :
    ∃ t, exec .keystoreUnlockDone s = .next t ∧ SameShell s t ∧ Keeps [.ks, .trouble, .journal, .chans] s.dev t.dev
      ∧ t.dev.ks = { s.dev.ks with ready := false, unlocking := false, lock := r } ∧ bit t.dev.trouble.g3 2 = true := by
  have outcome : unlockFor s.dev.boot.progMeas s.dev.boot.progVer.toNat s.dev.wantState s.dev
      = noteG 3 2 (modKs (fun k => { k with ready := false, unlocking := false, lock := r }) s.dev) := by
    simp only [unlockFor, rooted, found]
    rfl
  have locked := keeps_modKs (fun k => { k with ready := false, unlocking := false, lock := r }) s.dev
  have noted := keeps_noteG 3 2 (modKs (fun k => { k with ready := false, unlocking := false, lock := r }) s.dev)
  have set : bit ((noteG 3 2 (modKs (fun k => { k with ready := false, unlocking := false, lock := r }) s.dev)).trouble.g 3) 2
    = true := noteG_bit 3 (by decide) _
  have rst := noteG_rst 3 2 (modKs (fun k => { k with ready := false, unlocking := false, lock := r }) s.dev)
  generalize noteG 3 2 (modKs (fun k => { k with ready := false, unlocking := false, lock := r }) s.dev) = e at outcome noted set rst
  have kept := (keeps_up locked).trans (keeps_up noted (qs := [.ks, .trouble, .journal, .chans]))
  have acts := storeUnlock_releases unlocks outcome (fun n y hy => judged n y (by
    rwa [chan_of ((noted .chans (by decide) (by decide)).trans (locked .chans (by decide) (by decide)))] at hy))
  have released := releaseStoreWaits_keeps e
  refine ⟨_, onDev_to awake acts, same_const awake rst, keeps_const (kept.trans (keeps_up released)), ?_, ?_⟩
  · rw [through_ks, released .ks (by decide) (by decide), noted .ks (by decide) (by decide)]
    rfl
  · rw [through_trouble, released .trouble (by decide) (by decide)]
    exact set

/-- An unlock that finds the key opens the store and releases the clauses that waited. -/
theorem keystoreUnlock_opens {x : Bytes × Bool}
    (found : s.dev.findKek s.dev.boot.progMeas s.dev.boot.progVer.toNat s.dev.wantState = .inl x) :
    ∃ t, exec .keystoreUnlockDone s = .next t ∧ SameShell s t ∧ Keeps [.ks, .trouble, .journal, .chans] s.dev t.dev
      ∧ t.dev.ks.ready = true ∧ t.dev.ks.unlocking = false ∧ t.dev.ks.kek = x.1 ∧ t.dev.ks.vol = s.dev.ks.vol
      ∧ (∀ k ∈ t.dev.ks.per, k.slot ∈ s.dev.otp.row.written)
      ∧ ∀ n, t.dev.chan n = { s.dev.chan n with sents := (s.dev.chan n).sents.map (fun y =>
        if y.wait == .ksready then { y with wait := .none } else y) } := by
  have outcome : unlockFor s.dev.boot.progMeas s.dev.boot.progVer.toNat s.dev.wantState s.dev = openStore x.1 s.dev := by
    simp only [unlockFor, rooted, found]
    rfl
  obtain ⟨rst, kept, ready, unlocked, kek, vol, per⟩ := openStore_spec x.1 s.dev
  generalize openStore x.1 s.dev = e at outcome rst kept ready unlocked kek vol per
  have chan (n : Chn) : e.chan n = s.dev.chan n := chan_of (kept .chans (by decide) (by decide)) n
  have acts := storeUnlock_releases unlocks outcome (fun n y hy => judged n y (chan n ▸ hy))
  have released := releaseStoreWaits_keeps e
  refine ⟨_, onDev_to awake acts, same_const awake rst, keeps_const ((keeps_up kept).trans (keeps_up released)), ?_⟩
  simp only [through_ks, through_chan, releaseStoreWaits_chan, chan]
  exact ⟨ready, unlocked, kek, vol, per, fun _ => trivial⟩

end

/-- Settles O58: the request by its refusal and by what fires with it, entry by the work it waits for, the wakes, the exit, the
unlock that follows it. Steps 1 and 2 stand at the request and the rest at STOP_ENTRY_DONE (log entry 47); the clock status
follows entry and exit (log entry 42), and the check of reread OTP is free (log entry 1). -/
theorem stopIsEnteredAndLeft : Obligations.StopIsEnteredAndLeft := by
  refine ⟨fun w srcs s takes run => ⟨stopRequest_refused takes run w, fun accepted => stopRequest_enters takes run accepted w,
      fun b bs accepted => stopRequest_abandoned takes run accepted w⟩,
    fun vfy s awake entry idle closed => stopEntry_ends awake entry idle closed vfy,
    fun srcs fs src s awake fire => ⟨fun pins => wake_fires awake pins fire, fun only stop => ?_, fun i uart only stop => ?_⟩,
    fun s awake exits none_ => stopExit_ends awake exits none_, fun s awake unlocks rooted judged =>
      ⟨fun r => keystoreUnlock_locked awake unlocks rooted judged, fun x => keystoreUnlock_opens awake unlocks rooted judged⟩⟩
  · refine wakeTimer_expires awake stop ?_
    have first : src ∈ src :: fs := List.mem_cons_self
    rw [fire, only, List.mem_filter, List.mem_singleton] at first
    obtain ⟨rfl, armed⟩ := first
    exact armed
  · refine uart_wakes awake stop ?_ uart
    have first : src ∈ src :: fs := List.mem_cons_self
    rw [fire, only, List.mem_filter, List.mem_singleton] at first
    obtain ⟨rfl, armed⟩ := first
    exact armed

end Sys2Proof.Machine
end
section
/-!
The supply monitor and the ride-through table (O59).
-/

namespace Sys2Proof.Machine

/-! ### What the early end of a clause leaves (17 R405) -/

theorem undisturbed_noteCh (n : Chn) (b e : Nat) (w : Word) (d : Dev) : Undisturbed d (noteCh n b e w d) := by
  refine ⟨noteCh_rst .., noteCh_power .., congrArg Supply.ride (noteCh_supply ..), fun k c h => ?_⟩
  unfold noteCh
  split
  · exact h
  · exact queueEntry_bit _ h

theorem undisturbed_modRings (n : Chn) (f : Rings → Rings) (d : Dev) : Undisturbed d (modRings n f d) :=
  undisturbed_modChan n _ d

theorem undisturbed_modJob (n : Chn) (sid : Nat) (f : Job → Job) (d : Dev) : Undisturbed d (modJob n sid f d) := by
  unfold modJob modSent
  exact undisturbed_modChan n _ d

theorem undisturbed_removeSent (n : Chn) (sid : Nat) (d : Dev) : Undisturbed d (removeSent n sid d) :=
  undisturbed_modChan n _ d

theorem undisturbed_scrubRing (n : Chn) (d : Dev) (k : RingK) : Undisturbed d (scrubRing n d k) := by
  refine Undisturbed.ite (Undisturbed.refl d) ?_
  have noted (e : Dev) : Undisturbed e (noteG 2 9 (noteCh n k.num 0 0 e)) :=
    (undisturbed_noteCh n _ 0 0 e).trans (undisturbed_noteG 2 9 _)
  have stamped (e : Dev) : Undisturbed e (stampFault e) :=
    ⟨stampFault_rst e, stampFault_power e, congrArg Supply.ride (stampFault_supply e), fun j c h => stampFault_g j c h⟩
  exact (undisturbed_modChan n _ d).trans ((noted _).trans (stamped _))

theorem undisturbed_noteStatus (n : Chn) (st : Status) (eng : Nat) (c : Clause) (d : Dev) (quiet : st.noted = false) :
    Undisturbed d (noteStatus n st eng c d) := by
  rw [noteStatus_quiet quiet]
  exact Undisturbed.refl d

theorem undisturbed_postRecord (n : Chn) (c : Clause) (idx : Nat) {st : Status} (quiet : st.noted = false)
    (eng w1 w2 h : Nat) (d : Dev) : Undisturbed d (postRecord n c idx st eng w1 w2 h d) :=
  ((undisturbed_scrubRing n d .cpl).trans (undisturbed_modChan n _ _)).trans (undisturbed_noteStatus n st eng c _ quiet)

theorem undisturbed_postSkipped (n : Chn) : ∀ (cs : List Clause) (i : Nat) (d : Dev), Undisturbed d (postSkipped n cs i d)
  | [], _, d => Undisturbed.refl d
  | c :: cs, i, d => (undisturbed_postRecord n c i rfl 0xFF 0 0 c.w3hi d).trans (undisturbed_postSkipped n cs (i + 1) _)

theorem undisturbed_advanceSent (n : Chn) (sid idx : Nat) (failed : Bool) (cs : List Clause) (d : Dev) :
    Undisturbed d (advanceSent n sid idx failed cs d) := by
  have discarded (i : Nat) (e : Dev) : Undisturbed e (discardStream n sid i e) := undisturbed_modChan n _ e
  have skipped (e : Dev) : Undisturbed e (skipRest n sid (idx + 1) (cs.drop (idx + 1)) e) :=
    ((Undisturbed.foldl (fun e i => discarded (idx + 1 + i) e) _ e).trans (undisturbed_postSkipped n _ (idx + 1) _)).trans
      (undisturbed_removeSent n sid _)
  exact (discarded idx d).trans (Undisturbed.ite (skipped _)
    (Undisturbed.ite (undisturbed_modChan n _ _) (undisturbed_modChan n _ _)))

theorem undisturbed_freed {d e : Dev} (rst : e.rst = d.rst) (h : Freed d e) : Undisturbed d e := .of rst h.keeps

theorem undisturbed_leave {n : Chn} {d e : Dev} (h : LeaveFrame n d e) : Undisturbed d e := .of h.r h.k

theorem undisturbed_dropSel (k : Cls) (n : Chn) (x : Sel) (d : Dev) : Undisturbed d (dropSel k n x d) :=
  .of rfl (dropSel_move n k x d).keeps

theorem undisturbed_finishOut (n : Chn) (sid : Nat) (j : Job) (c : Clause) (st : Status) (out : Bytes) (w1 : Nat) (d : Dev) :
    Undisturbed d (finishOut n sid j c st out w1 d).1 := by
  unfold finishOut
  dsimp only
  split
  · exact Undisturbed.refl d
  · split
    · exact Undisturbed.refl d
    · dsimp only
      apply undisturbed_modRings
  · exact undisturbed_modRings n _ d
  · exact undisturbed_pool _ d
  · split
    · exact undisturbed_freed (freeBuf_rst _ d) (freed_freeBuf _ d)
    · exact (undisturbed_pool _ d).trans (undisturbed_pool _ _)

/-- The end of a clause without effects. -/
theorem undisturbed_endWork (n : Chn) (s : Sentence) (j : Job) (c : Clause) (st : Status) (out : Bytes) (w1 : Nat) (d : Dev) :
    Undisturbed d (endWork n s j c st out w1 [] d).1 := by
  rw [endWork_eq]
  have unreserved (e : Dev) : Undisturbed e (unreserveDest j st e) := by
    unfold unreserveDest
    split
    · exact Undisturbed.ite (undisturbed_modKs _ e) (Undisturbed.refl e)
    · exact Undisturbed.refl e
  have unfilled (e : Dev) : Undisturbed e (unfill j.filling e) := ⟨rfl, rfl, rfl, fun _ _ => id⟩
  have given (e : Dev) : Undisturbed e (giveBack n j st e) :=
    ((unreserved e).trans (unfilled _)).trans (undisturbed_leave (giveBack_leaves n j st e))
  have freed (hs : List Nat) (e : Dev) : Undisturbed e (freeScratch hs e) :=
    undisturbed_freed (freeScratch_rst hs e) (freed_freeScratch hs e)
  exact (((undisturbed_leave (LeaveFrame.engine n s j d)).trans (undisturbed_finishOut ..)).trans (given _)).trans (freed _ _)

theorem undisturbed_releaseDying (n : Chn) (d : Dev) : Undisturbed d (releaseDying n d) :=
  undisturbed_freed (releaseDying_rst n d) (freed_releaseDying n d)

theorem undisturbed_checkOut (n : Chn) (s : Sentence) (j : Job) (d : Dev) : Undisturbed d (checkOut n s j d).2 := by
  unfold checkOut
  split
  · exact undisturbed_scrubRing n d .out
  · exact undisturbed_scrubRing n d .out
  · exact Undisturbed.refl d

theorem postedStatus_failure {st : Status} (h : st.failure = true) (j : Job) (s : Sentence) : postedStatus j s st = st :=
  if_pos h

/-- A clause that ends as a supply action or an abort ends it. -/
theorem undisturbed_finishRoot (n : Chn) (s : Sentence) (j : Job) {st : Status} (fails : st.failure = true)
    (quiet : st.noted = false) (out : Bytes) (w2 : Nat) (d : Dev) : Undisturbed d (finishRoot n s j st out w2 [] d) := by
  unfold finishRoot
  split
  · exact Undisturbed.refl d
  · dsimp only
    rw [postedStatus_failure fails]
    exact ((((undisturbed_checkOut n s j d).trans (undisturbed_endWork ..)).trans (undisturbed_postRecord n _ _ quiet ..)).trans
      (undisturbed_advanceSent ..)).trans (undisturbed_releaseDying n _)

theorem undisturbed_phraseFails (n : Chn) (s : Sentence) (r : PhraseRun) (st : Status) (d : Dev) :
    Undisturbed d (phraseFails n s r st d) := undisturbed_modJob ..

theorem undisturbed_templateEnds (n : Chn) (s : Sentence) (p : Parent) {st : Status} (fails : st.failure = true)
    (out : Bytes) (used : Nat) (buf : Option Nat) (d : Dev) : Undisturbed d (templateEnds n s p st out used buf d) := by
  have removed := undisturbed_removeSent n s.sid d
  unfold templateEnds
  dsimp only
  split
  · exact removed
  · split
    · split
      · exact removed
      · have job (f : Job → Job) : Undisturbed d (modJob n p.sid f (removeSent n s.sid d)) :=
          removed.trans (undisturbed_modJob ..)
        rw [if_pos fails]
        split
        · exact (job _).trans (undisturbed_finishRoot n _ _ rfl rfl ..)
        · exact (job _).trans (undisturbed_phraseFails ..)
    · exact removed

theorem undisturbed_finishTemplate (n : Chn) (s : Sentence) (p : Parent) (j : Job) {st : Status} (fails : st.failure = true)
    (out : Bytes) (d : Dev) : Undisturbed d (finishTemplate n s p j st out [] d) := by
  unfold finishTemplate
  split
  · exact Undisturbed.refl d
  · exact (((undisturbed_checkOut n s j d).trans (undisturbed_endWork ..)).trans
      (undisturbed_templateEnds n s p fails ..)).trans (undisturbed_releaseDying n _)

theorem undisturbed_failClause (n : Chn) (s : Sentence) {st : Status} (fails : st.failure = true) (quiet : st.noted = false)
    (eng : Nat) (d : Dev) : Undisturbed d (failClause n s st eng d) := by
  have ended (c : Clause) (e : Dev) : Undisturbed e (match s.parent with
      | none => advanceSent n s.sid s.idx true s.clauses (postRecord n c s.idx st eng 0 0 c.w3hi e)
      | some p => templateEnds n s p st [] 0 none e) := by
    split
    · exact (undisturbed_postRecord n c s.idx quiet ..).trans (undisturbed_advanceSent ..)
    · exact undisturbed_templateEnds n s _ fails ..
  unfold failClause
  split
  · exact Undisturbed.refl d
  · split
    · exact (undisturbed_dropSel ..).trans (ended _ _)
    · exact ended _ d

theorem undisturbed_earlyZero (j : Job) (st : Status) (d : Dev) : Undisturbed d (earlyZero j st d) :=
  have area (k : Nat) (l : List OpSlot) (e : Dev) : Undisturbed e (setArea k l e) := ⟨rfl, rfl, rfl, fun _ _ => id⟩
  Undisturbed.ite (Undisturbed.foldl (fun e _ => area _ _ e) j.touched d) (Undisturbed.refl d)

theorem undisturbed_endTemplate (n : Chn) (sid : Nat) (d : Dev) : Undisturbed d (endTemplate n sid .supply d) := by
  unfold endTemplate
  split
  · exact Undisturbed.refl d
  · split
    · exact (undisturbed_earlyZero ..).trans (undisturbed_finishTemplate n _ _ _ rfl ..)
    · exact undisturbed_failClause n _ rfl rfl _ d
    · exact Undisturbed.refl d

theorem undisturbed_dropSent (n : Chn) (s : Sentence) (d : Dev) : Undisturbed d (dropSent n s d) :=
  .of (DropFrame.dropSent n s d).r (DropFrame.dropSent n s d).k

/-- A job that ends SUPPLY. -/
theorem undisturbed_endEarly (n : Chn) (s : Sentence) (j : Job) (d : Dev) : Undisturbed d (endEarly n s j .supply d) := by
  refine Undisturbed.ite (undisturbed_dropSent n s d) ?_
  split
  · exact ((undisturbed_modJob ..).trans (undisturbed_endTemplate n s.sid _)).trans (undisturbed_finishRoot n s _ rfl rfl ..)
  · refine (undisturbed_earlyZero j .supply d).trans ?_
    unfold finishClause
    split
    · exact undisturbed_finishRoot n s j rfl rfl ..
    · exact undisturbed_finishTemplate n s _ j rfl ..

theorem undisturbed_endAllWork (d : Dev) (n : Chn) : Undisturbed d (endAllWork d n) := by
  refine Undisturbed.foldl (fun e sid => ?_) _ d
  split
  · split
    · exact Undisturbed.ite (Undisturbed.refl e)
        ((undisturbed_cutPersist n _ [] [] e).trans (undisturbed_endEarly n _ _ _))
    · exact Undisturbed.refl e
  · exact Undisturbed.refl e

/-! ### What an abandoned management command leaves (14 R339) -/

theorem undisturbed_bump (d : Dev) : Undisturbed d (bump d) := ⟨rfl, rfl, rfl, fun _ _ => id⟩

theorem undisturbed_stageSectors : ∀ (k a : Nat) (bs : Bytes) (vs : List Bool) (d : Dev),
    Undisturbed d (stageSectors a bs k vs d).2
  | 0, _, _, _, d => Undisturbed.refl d
  | k + 1, a, bs, vs, d => by
    have written (ok : Bool) : Undisturbed d (flashProgram a (bs.take 4096) ok (flashErase a 1 d)) :=
      (undisturbed_flashErase a 1 d).trans (undisturbed_flashProgram ..)
    simp only [stageSectors]
    split
    · exact (written _).trans (undisturbed_stageSectors k ..)
    · exact written _

theorem undisturbed_putHeader (b : Bool) (h : Header) (kek : Bytes) (ok : Bool) (d : Dev) :
    Undisturbed d (putHeader b h kek ok d) :=
  have written := (((undisturbed_flashErase (hdrAddr b) 1 d).trans (undisturbed_flashProgram _ _ ok _)).trans
    (undisturbed_modKs _ _))
  written.trans (Undisturbed.ite ((undisturbed_noteG 3 8 _).trans (undisturbed_raiseWhy 3 0 _)) (Undisturbed.refl _))

theorem undisturbed_burnRatchet (burns : List Bool) (d : Dev) : Undisturbed d (burnRatchet burns d).1 := by
  unfold burnRatchet
  split
  · exact Undisturbed.refl d
  · exact Undisturbed.ite (undisturbed_modRow _ d) (undisturbed_noteG 3 9 d)

theorem undisturbed_cleanInOrder : ∀ (ss : List Nat) (vs : List Bool) (d : Dev), Undisturbed d (cleanInOrder ss vs d).2.1
  | [], _, d => Undisturbed.refl d
  | s :: ss, vs, d => by
    have rest := undisturbed_cleanInOrder ss
    rw [cleanInOrder]
    split
    · exact rest vs d
    · next x _ =>
      have appended := (logAppend_frame s x.ctr 1 3 vs d).toUndisturbed
      split
      · exact rest vs d
      · dsimp only
        split
        · exact appended.trans (rest ..)
        · exact appended.trans (undisturbed_noteG 3 5 _)

theorem undisturbed_endorseLeft (m : MgmtRun) (d : Dev) : Undisturbed d (endorseLeft m d) := by
  have header (e : Dev) : Undisturbed e (endorseHeader [] e).2.1 := undisturbed_putHeader ..
  have armed (e : Dev) : Undisturbed e (endorseArm m [] e).2.1 := undisturbed_writeCopy ..
  exact Undisturbed.ite (Undisturbed.refl d) ((undisturbed_bump d).trans (Undisturbed.ite (Undisturbed.refl _)
    (Undisturbed.ite (header _) ((header _).trans (armed _)))))

theorem undisturbed_confirmLeft (d : Dev) : Undisturbed d (confirmLeft d) := by
  have header (e : Dev) : Undisturbed e (confirmHeader [] e).2.1 := undisturbed_putHeader ..
  have burnt (e : Dev) : Undisturbed e (burnRatchet [] e).1 := undisturbed_burnRatchet [] e
  have recorded (e : Dev) : Undisturbed e (confirmRecord [] e).2.1 := undisturbed_writeCopy ..
  exact Undisturbed.ite (Undisturbed.refl d) ((undisturbed_bump d).trans (Undisturbed.ite (Undisturbed.refl _)
    (Undisturbed.ite (header _) (Undisturbed.ite ((header _).trans (burnt _))
      (((header _).trans (burnt _)).trans (recorded _))))))

theorem undisturbed_activateLeft (d : Dev) : Undisturbed d (activateLeft d) := by
  unfold activateLeft
  dsimp only
  split
  · exact Undisturbed.refl d
  · exact Undisturbed.ite (Undisturbed.refl d) (Undisturbed.ite (undisturbed_bump d)
      ((undisturbed_bump d).trans (undisturbed_writeCopy ..)))

theorem undisturbed_mgmtLeft (d : Dev) : Undisturbed d (mgmtLeft d) := by
  have bumped := undisturbed_bump d
  unfold mgmtLeft
  split
  · exact Undisturbed.refl d
  · split
    · exact undisturbed_endorseLeft _ d
    · exact undisturbed_confirmLeft d
    · exact Undisturbed.ite bumped (bumped.trans (undisturbed_writeCopy ..))
    · exact Undisturbed.ite (Undisturbed.refl d) (bumped.trans (undisturbed_stageSectors ..))
    · exact undisturbed_activateLeft d
    · exact Undisturbed.ite (Undisturbed.refl d) (bumped.trans (undisturbed_cleanInOrder ..))
    · exact Undisturbed.refl d

/-! ### A ride-through STOP (17 R403, R405) -/

/-- The paused work that a ride-through STOP abandons. -/
theorem undisturbed_endPaused (d : Dev) : Undisturbed d (endPaused d) := by
  have ends (cmd res : Nat) (e : Dev) : Undisturbed e (mgmtEnds cmd res e) := ⟨rfl, rfl, rfl, fun _ _ => id⟩
  have managed : Undisturbed d (match d.boot.mgmt with
      | some m => mgmtEnds m.cmd 8 (mgmtLeft d)
      | none => d) := by
    split
    · exact (undisturbed_mgmtLeft d).trans (ends ..)
    · exact Undisturbed.refl d
  have loaded (e : Dev) : Undisturbed e (match e.phrases.load with
      | some _ => { e with phrases := { e.phrases with load := none, stat := putFld e.phrases.stat (at_ 5 16) 23 16 } }
      | none => e) := by
    split
    · exact ⟨rfl, rfl, rfl, fun _ _ => id⟩
    · exact Undisturbed.refl e
  have dropped (e : Dev) : Undisturbed e (dropFetch (dropCkpts { e with
      cfg := { e.cfg with busy := false, again := false }, engines := e.engines.map (fun x => { x with due := none }) })) :=
    ⟨rfl, rfl, rfl, fun _ _ => id⟩
  have transition (e : Dev) : Undisturbed e (dropTransition e) := by
    unfold dropTransition
    split
    · exact ⟨rfl, rfl, rfl, fun _ _ => id⟩
    · exact Undisturbed.refl e
  exact ((managed.trans (loaded _)).trans (dropped _)).trans (transition _)

theorem bit_putFld_above (w x : Word) {hi lo q : Nat} (order : lo ≤ hi) (above : hi < q) (inWord : q < 32) :
    bit (putFld w x hi lo) q = bit w q := by
  rw [bit, putFld_bit _ _ order q inWord, if_neg (by omega), bit]

/-! ### The level (17 R401, R413) -/

/-- A recomputed level stands with its table; at 4 or more nothing else of the supply monitor changes. -/
theorem recalcLevel_supply (d : Dev) : ∃ f m, (recalcLevel d).supply
    = { d.supply with level := d.supply.levelNow, fired := f, marks := m }
    ∧ (4 ≤ d.supply.levelNow → f = d.supply.fired ∧ m = d.supply.marks) := by
  simp only [recalcLevel]
  by_cases back : (d.supply.fired && decide (4 ≤ d.supply.level) && decide (d.supply.levelNow < 4)) = true
  · have low : ¬ 4 ≤ d.supply.levelNow := by
      have := (Bool.and_eq_true _ _ ▸ back).2
      simpa using this
    rw [if_pos back, noteG_supply]
    split
    · exact ⟨_, _, rfl, fun high => absurd high low⟩
    · exact ⟨_, _, rfl, fun high => absurd high low⟩
  · rw [if_neg back]
    exact ⟨_, _, rfl, fun _ => ⟨rfl, rfl⟩⟩

theorem le_foldl_max (l : List Ride) : ∀ b, b ≤ l.foldl (fun m r => max m (rideAction r.reg)) b
    ∧ ∀ r ∈ l, rideAction r.reg ≤ l.foldl (fun m r => max m (rideAction r.reg)) b := by
  induction l with
  | nil => exact fun b => ⟨Nat.le_refl b, fun _ h => by cases h⟩
  | cons a l ih =>
    intro b
    obtain ⟨base, each⟩ := ih (max b (rideAction a.reg))
    refine ⟨(Nat.le_max_left _ _).trans base, fun r hr => ?_⟩
    obtain rfl | there := List.mem_cons.1 hr
    · exact (Nat.le_max_right _ _).trans base
    · exact each r there

/-- The level is at least the action of every entry that is FIRED. -/
theorem action_le_level {x : Supply} {i : Fin 16} (fired : (x.ride[i]).st = .fired) :
    rideAction (x.ride[i]).reg ≤ x.levelNow := by
  refine (le_foldl_max _ 0).2 _ (List.mem_filter.2 ⟨?_, by rw [fired]; rfl⟩)
  exact Vector.mem_toList_iff.2 (Vector.getElem_mem i.isLt)

/-! ### The table at a tick (17 R400) -/

/-- The core once the entries of the table have moved. -/
def tableMoved (dt : Nat) (d : Dev) : Dev :=
  recalcLevel (modSup (fun s => { s with ride := s.ride.map (rideMove d.supply dt) }) d)

/-- The entries that fire, in their order. -/
def firing (dt : Nat) (d : Dev) : List Nat :=
  (List.range 16).filter (fun i => (tableMoved dt d).supply.rideFired i && !d.supply.rideFired i)

theorem ridesTick_acts {dt : Nat} {d u : Dev} {l : List Nat} (fires : firing dt d = l) (wake : List Nat) {vfy vs : List Bool}
    (acts : rideActs (tableMoved dt d).supply.level wake l vfy (tableMoved dt d) = (u, vs)) :
    ridesTick dt wake vfy d = recordFailures vs u := by
  show recordFailures (rideActs (tableMoved dt d).supply.level wake (firing dt d) vfy (tableMoved dt d)).2
    (rideActs (tableMoved dt d).supply.level wake (firing dt d) vfy (tableMoved dt d)).1 = _
  rw [fires, acts]

section
variable (dt : Nat) (d : Dev)

theorem tableMoved_keeps : Keeps [.supply, .trouble, .journal] d (tableMoved dt d) :=
  (keeps_up (keeps_modSup _ d)).trans (recalcLevel_keeps _)

theorem tableMoved_rst : (tableMoved dt d).rst = d.rst := recalcLevel_rst _

/-- What a tick leaves of the supply monitor before the actions. -/
theorem tableMoved_supply : ∃ f m, (tableMoved dt d).supply
    = { d.supply with
        ride := d.supply.ride.map (rideMove d.supply dt), level := (tableMoved dt d).supply.levelNow, fired := f, marks := m }
    ∧ (4 ≤ (tableMoved dt d).supply.levelNow → f = d.supply.fired ∧ m = d.supply.marks) := by
  obtain ⟨f, m, supply, high⟩ := recalcLevel_supply (modSup (fun s => { s with ride := s.ride.map (rideMove d.supply dt) }) d)
  have now : (tableMoved dt d).supply.levelNow
      = (modSup (fun s => { s with ride := s.ride.map (rideMove d.supply dt) }) d).supply.levelNow := by
    rw [tableMoved, supply]
    rfl
  rw [now]
  exact ⟨f, m, supply, high⟩

theorem tableMoved_ride (i : Fin 16) : (tableMoved dt d).supply.ride[i] = rideMove d.supply dt d.supply.ride[i] := by
  obtain ⟨f, m, supply, -⟩ := tableMoved_supply dt d
  rw [supply]
  exact Vector.getElem_map _ i.isLt

theorem tableMoved_level : (tableMoved dt d).supply.level = (tableMoved dt d).supply.levelNow := by
  obtain ⟨f, m, supply, -⟩ := tableMoved_supply dt d
  exact congrArg Supply.level supply

end

theorem rideFired_iff (x : Supply) (i : Fin 16) : x.rideFired i = true ↔ (x.ride[i]).st = .fired := by
  rw [Supply.rideFired, vget_of_lt _ i.isLt, beq_iff_eq]
  rfl

/-- The entries that fire are those newly FIRED. -/
theorem firing_of {dt : Nat} {d : Dev} {p : Nat → Bool}
    (h : ∀ k : Fin 16, p k = true ↔ (d.supply.ride[k]).st ≠ .fired ∧ (rideMove d.supply dt d.supply.ride[k]).st = .fired) :
    firing dt d = (List.range 16).filter p := by
  refine List.filter_congr fun k hk => ?_
  obtain ⟨i, rfl⟩ : ∃ i : Fin 16, i.val = k := ⟨⟨k, List.mem_range.1 hk⟩, rfl⟩
  rw [Bool.eq_iff_iff, Bool.and_eq_true, Bool.not_eq_true', ← Bool.not_eq_true, rideFired_iff, rideFired_iff,
    tableMoved_ride, h i, and_comm]

theorem firing_none {dt : Nat} {d : Dev}
    (h : ∀ k : Fin 16, (d.supply.ride[k]).st = .fired ∨ (rideMove d.supply dt d.supply.ride[k]).st ≠ .fired) :
    firing dt d = [] := by
  rw [firing_of (p := fun _ => false) (fun k => ?_)]
  · rfl
  · have := h k
    simp only [Bool.false_eq_true, false_iff, not_and_or, ne_eq, not_not]
    exact this

theorem filter_range_one : ∀ i : Fin 16, (List.range 16).filter (fun k => k == i.val) = [i.val] := by decide

theorem filter_range_two : ∀ i j : Fin 16, i < j →
    (List.range 16).filter (fun k => k == i.val || k == j.val) = [i.val, j.val] := by decide

section
variable {dt : Nat} {d : Dev} {i : Fin 16} (before : (d.supply.ride[i]).st ≠ .fired)
  (after : (rideMove d.supply dt d.supply.ride[i]).st = .fired)
include before after

theorem firing_one (others : ∀ k : Fin 16, k ≠ i →
      (d.supply.ride[k]).st = .fired ∨ (rideMove d.supply dt d.supply.ride[k]).st ≠ .fired) : firing dt d = [i.val] := by
  rw [firing_of (p := fun k => k == i.val) (fun k => ?_)]
  · exact filter_range_one i
  · rw [beq_iff_eq, ← Fin.ext_iff]
    by_cases same : k = i
    · subst same
      exact iff_of_true rfl ⟨before, after⟩
    · exact iff_of_false same (fun h => (others k same).elim h.1 (fun no => no h.2))

/-- Two entries that fire together act in their order. -/
theorem firing_two {j : Fin 16} (distinct : j ≠ i) (before' : (d.supply.ride[j]).st ≠ .fired)
    (after' : (rideMove d.supply dt d.supply.ride[j]).st = .fired) (others : ∀ k : Fin 16, k ≠ i → k ≠ j →
      (d.supply.ride[k]).st = .fired ∨ (rideMove d.supply dt d.supply.ride[k]).st ≠ .fired) :
    firing dt d = [i.val, j.val] ∨ firing dt d = [j.val, i.val] := by
  have fires (k : Fin 16) : (k = i ∨ k = j)
      ↔ (d.supply.ride[k]).st ≠ .fired ∧ (rideMove d.supply dt d.supply.ride[k]).st = .fired := by
    by_cases first : k = i
    · subst first
      exact iff_of_true (.inl rfl) ⟨before, after⟩
    · by_cases second : k = j
      · subst second
        exact iff_of_true (.inr rfl) ⟨before', after'⟩
      · exact iff_of_false (not_or.2 ⟨first, second⟩) (fun h => (others k first second).elim h.1 (fun no => no h.2))
  obtain less | more := Nat.lt_or_gt_of_ne (mt Fin.ext distinct.symm)
  · left
    rw [firing_of (p := fun k => k == i.val || k == j.val) (fun k => ?_)]
    · exact filter_range_two i j less
    · rw [Bool.or_eq_true, beq_iff_eq, beq_iff_eq, ← Fin.ext_iff, ← Fin.ext_iff, fires]
  · right
    rw [firing_of (p := fun k => k == j.val || k == i.val) (fun k => ?_)]
    · exact filter_range_two j i more
    · rw [Bool.or_eq_true, beq_iff_eq, beq_iff_eq, ← Fin.ext_iff, ← Fin.ext_iff, or_comm, fires]

end

/-! ### Failures recorded after a tick (17 R403) -/

theorem recordFailures_none {d : Dev} (none_ : ∀ e, (d.eng e).due = none) (vfy : List Bool) : recordFailures vfy d = d := by
  refine if_pos ?_
  rw [Bool.or_eq_true]
  right
  rw [List.all_eq_true]
  exact fun e _ => by rw [none_ e]; rfl

theorem writeCopy_move (r : TwoCopies) (mk : Nat → Nat → Bytes) (ok : Bool) (d : Dev) :
    Keeps [.flash] d (writeCopy r mk ok d) :=
  (flashErase_frame _ _ d).2.trans (flashProgram_move _ _ ok _).2

theorem recordFailures_keeps (vfy : List Bool) (d : Dev) : Keeps [.flash, .engines] d (recordFailures vfy d) := by
  unfold recordFailures
  split
  · exact Keeps.refl _ d
  · refine (keeps_up (writeCopy_move quarCopies (quarRecord d.quarBody) (d.outcome vfy).1 d)).trans (fun q hq _ => ?_)
    cases q <;> simp [Part.same] at hq ⊢

/-- Below level 3 no failure stays due. -/
theorem recordFailures_low {d : Dev} (low : d.supply.level < 3) (vfy : List Bool) (e : Eng) :
    ((recordFailures vfy d).eng e).due = none := by
  unfold recordFailures
  split
  · next h =>
    have none_ : (decide (3 ≤ d.supply.level) || allEngs.all (fun e => (d.eng e).due.isNone)) = true := h
    rw [decide_eq_false (by omega), Bool.false_or, List.all_eq_true] at none_
    exact Option.isNone_iff_eq_none.1 (none_ e (List.mem_finRange e))
  · simp [Dev.eng]

/-! ### A tick on which no entry fires (17 R395, R400) -/

section
variable (x : Supply) (dt : Nat) {r : Ride}

theorem rideMove_disabled (off : bit r.reg 31 = false) : rideMove x dt r = { r with st := .idle, timer := 0 } := by
  simp [rideMove, off]

variable (on : bit r.reg 31 = true)
include on

theorem rideMove_idle (idle : r.st = .idle) : rideMove x dt r = if x.rideBelow r.reg then
    { r with st := if rideDue r.reg = 0 then .fired else .below, timer := 0 } else r := by
  simp [rideMove, on, idle]

theorem rideMove_below (below : r.st = .below) : rideMove x dt r = if x.rideBack r.reg then { r with st := .idle, timer := 0 }
    else if rideDue r.reg ≤ r.timer + dt then { r with st := .fired, timer := 0 } else { r with timer := r.timer + dt } := by
  simp [rideMove, on, below]

theorem rideMove_fired (fired : r.st = .fired) :
    rideMove x dt r = if x.rideBack r.reg then { r with st := .idle, timer := 0 } else r := by
  simp [rideMove, on, fired]

end

/-- How one entry moves on a tick on which it does not fire. -/
theorem rideMove_quiet (x : Supply) (r : Ride) (quiet : r.st = .fired ∨ (rideMove x 1 r).st ≠ .fired) :
    (bit r.reg 31 = false → (rideMove x 1 r).st = .idle)
    ∧ (bit r.reg 31 = true → r.st = .idle → (rideMove x 1 r).st = if x.rideBelow r.reg then .below else .idle)
    ∧ (bit r.reg 31 = true → r.st = .below →
      rideMove x 1 r = if x.rideBack r.reg then { r with st := .idle, timer := 0 } else { r with timer := r.timer + 1 })
    ∧ (bit r.reg 31 = true → r.st = .fired → (rideMove x 1 r).st = if x.rideBack r.reg then .idle else .fired) := by
  refine ⟨fun off => ?_, fun on idle => ?_, fun on below => ?_, fun on fired => ?_⟩
  · rw [rideMove_disabled x 1 off]
  · have still : (rideMove x 1 r).st ≠ .fired := quiet.resolve_left (by rw [idle]; decide)
    rw [rideMove_idle x 1 on idle] at still ⊢
    split
    · next low =>
      rw [if_pos low] at still
      split
      · next due => exact absurd (if_pos due) still
      · rfl
    · exact idle
  · have still : (rideMove x 1 r).st ≠ .fired := quiet.resolve_left (by rw [below]; decide)
    rw [rideMove_below x 1 on below] at still ⊢
    split
    · rfl
    · next low =>
      rw [if_neg low] at still
      split
      · next due => exact absurd (congrArg Ride.st (if_pos due)) still
      · rfl
  · rw [rideMove_fired x 1 on fired]
    split
    · rfl
    · exact fired

theorem supplyTick_moves {vin hold : BitVec 10} {wk : List Nat} {vfy : List Bool} {s : State} (awake : s.awake)
    (run : s.dev.power.st = .run)
    (quiet : ∀ i : Fin 16, (s.dev.supply.ride[i]).st = .fired ∨ (rideMove
      (takeSamples (s.dev.adc 2 vin.toNat) (s.dev.adc 3 hold.toNat) s.dev.supply) 1 s.dev.supply.ride[i]).st ≠ .fired) :
    exec (.supplyTick ⟨vin, hold⟩ ⟨wk, vfy⟩) s = .next (s.through (fun _ => recordFailures vfy (tableMoved 1
      (modSup (takeSamples (s.dev.adc 2 vin.toNat) (s.dev.adc 3 hold.toNat)) s.dev)))) := by
  refine onDev_to awake ?_
  rw [supplyTick, if_neg (by rw [run]; decide), ridesTick_acts (firing_none quiet) wk rfl]

/-- A tick of the supply monitor in RUN on which no entry fires. -/
theorem supplyTick_quiet {vin hold : BitVec 10} {wk : List Nat} {vfy : List Bool} {s : State} {u : Supply} (awake : s.awake)
    (run : s.dev.power.st = .run) (sampled : u = takeSamples (s.dev.adc 2 vin.toNat) (s.dev.adc 3 hold.toNat) s.dev.supply)
    (quiet : ∀ i : Fin 16, (s.dev.supply.ride[i]).st = .fired ∨ (rideMove u 1 s.dev.supply.ride[i]).st ≠ .fired) :
    ∃ t, exec (.supplyTick ⟨vin, hold⟩ ⟨wk, vfy⟩) s = .next t ∧ SameShell s t
      ∧ Keeps [.supply, .trouble, .journal, .flash, .engines] s.dev t.dev
      ∧ ((∀ e, (s.dev.eng e).due = none) → t.dev.flash = s.dev.flash ∧ t.dev.engines = s.dev.engines)
      ∧ (t.dev.supply.level < 3 → ∀ e, (t.dev.eng e).due = none)
      ∧ (∃ rs l f m, t.dev.supply = { u with ride := rs, level := l, fired := f, marks := m })
      ∧ (∀ i : Fin 16, t.dev.supply.ride[i] = rideMove u 1 s.dev.supply.ride[i])
      ∧ t.dev.supply.level = t.dev.supply.levelNow := by
  subst sampled
  have sampled := keeps_modSup (takeSamples (s.dev.adc 2 vin.toNat) (s.dev.adc 3 hold.toNat)) s.dev
  have acts := supplyTick_moves (wk := wk) (vfy := vfy) awake run quiet
  generalize e_ : modSup (takeSamples (s.dev.adc 2 vin.toNat) (s.dev.adc 3 hold.toNat)) s.dev = e at sampled acts
  have before : e.supply = takeSamples (s.dev.adc 2 vin.toNat) (s.dev.adc 3 hold.toNat) s.dev.supply := e_ ▸ rfl
  have rst : e.rst = s.dev.rst := e_ ▸ rfl
  obtain ⟨f, m, supply, -⟩ := tableMoved_supply 1 e
  have moved := tableMoved_keeps 1 e
  have moves := tableMoved_ride 1 e
  have level := tableMoved_level 1 e
  have rst' := (tableMoved_rst 1 e).trans rst
  generalize tableMoved 1 e = v at supply moved moves level rst' acts
  have recorded := recordFailures_keeps vfy v
  have same : (recordFailures vfy v).supply = v.supply := recorded .supply (by decide) (by decide)
  have toV : Keeps [.supply, .trouble, .journal] s.dev v := (keeps_up sampled).trans moved
  refine ⟨_, acts, same_const awake ((undisturbed_recordFailures vfy v).rst.trans rst'),
    keeps_const ((keeps_up toV).trans (keeps_up recorded)), fun none_ => ?_, fun low n => ?_, ?_⟩
  · have engines : v.engines = s.dev.engines := toV .engines (by decide) (by decide)
    rw [through_flash, through_engines, recordFailures_none (fun e => by rw [eng_of engines, none_ e])]
    exact ⟨toV .flash (by decide) (by decide), engines⟩
  · rw [through_supply, same] at low
    rw [eng_of (through_engines _ _)]
    exact recordFailures_low low vfy n
  · rw [through_supply, same]
    rw [before] at supply
    refine ⟨⟨_, _, f, m, supply⟩, fun i => ?_, level⟩
    rw [moves, before]
    rfl

/-! ### Entries that fire (17 R400, R402) -/

/-- A core one tick of the table later, before the actions of the entries that fire. -/
structure Ticked (dt : Nat) (d v : Dev) : Prop where
  rst : v.rst = d.rst
  keeps : Keeps [.supply, .trouble, .journal] d v
  ride : ∀ k : Fin 16, v.supply.ride[k] = rideMove d.supply dt d.supply.ride[k]
  level : v.supply.level = v.supply.levelNow
  supply : ∃ rs f m, v.supply = { d.supply with ride := rs, level := v.supply.level, fired := f, marks := m }
    ∧ (4 ≤ v.supply.level → m = d.supply.marks)

theorem tableMoved_ticked (dt : Nat) (d : Dev) : Ticked dt d (tableMoved dt d) := by
  obtain ⟨f, m, supply, high⟩ := tableMoved_supply dt d
  have level := tableMoved_level dt d
  rw [← level] at supply high
  exact ⟨tableMoved_rst dt d, tableMoved_keeps dt d, tableMoved_ride dt d, level, _, f, m, supply, fun h => (high h).2⟩

theorem rideMove_reg (x : Supply) (dt : Nat) (r : Ride) : (rideMove x dt r).reg = r.reg := by
  unfold rideMove
  split
  · rfl
  · split <;> split <;> try rfl
    split <;> rfl

/-- An entry that has been below its threshold for its whole duration fires. -/
theorem rideMove_fires {x : Supply} {r : Ride} {dt : Nat} (below : r.st = .below) (on : bit r.reg 31 = true)
    (low : x.rideBack r.reg = false) (whole : dt = max 1 (rideDue r.reg - r.timer)) : (rideMove x dt r).st = .fired := by
  rw [rideMove_below x dt on below, low, if_neg (by decide), if_pos (by omega)]

section
variable {i : Fin 16} {l : Nat} {wake : List Nat} {vfy : List Bool} {d : Dev}

theorem rideActs_one (i : Nat) : rideActs l wake [i] vfy d = rideAct l wake i vfy d := rfl

theorem rideAct_wakeA (act : rideAction (d.supply.ride[i]).reg = 1) : rideAct l wake i vfy d = (noteG 1 6 d, vfy) := by
  rw [rideAct, vget_of_lt _ i.isLt, show rideAction (d.supply.ride[i.val]).reg = 1 from act]
  rfl

theorem rideAct_checkpoint (act : rideAction (d.supply.ride[i]).reg = 2) (high : 4 ≤ l) :
    rideAct l wake i vfy d = (noteG 1 7 d, vfy) := by
  rw [rideAct, vget_of_lt _ i.isLt, show rideAction (d.supply.ride[i.val]).reg = 2 from act]
  exact if_pos high

theorem rideAct_quiesce (act : rideAction (d.supply.ride[i]).reg = 3) : rideAct l wake i vfy d = (noteG 1 8 d, vfy) := by
  rw [rideAct, vget_of_lt _ i.isLt, show rideAction (d.supply.ride[i.val]).reg = 3 from act]
  rfl

theorem rideAct_lastgasp (act : rideAction (d.supply.ride[i]).reg = 4) :
    rideAct l wake i vfy d = (gaspTrigger i d, vfy) := by
  rw [rideAct, vget_of_lt _ i.isLt, show rideAction (d.supply.ride[i.val]).reg = 4 from act]
  rfl

theorem rideAct_stop (act : rideAction (d.supply.ride[i]).reg = 5) : rideAct l wake i vfy d = (rideStop wake d, vfy) := by
  rw [rideAct, vget_of_lt _ i.isLt, show rideAction (d.supply.ride[i.val]).reg = 5 from act]
  rfl

end

/-! ### The last gasp triggered (17 R409) -/

/-- Without an arm the trigger leaves the path empty. -/
theorem gaspTrigger_unarmed {d : Dev} (idle : bit d.supply.lgStat 30 = false) (arm : d.supply.arm = none) (i : Nat) :
    gaspTrigger i d = modSup (fun s => { s with fired := true, lgStat := gaspPath 3 s.lgStat }) d := by
  simp [gaspTrigger, idle, arm, modSup]

/-- Whatever a trigger without an arm finds, an action has fired. -/
theorem gaspTrigger_fires {d : Dev} (arm : d.supply.arm = none) (i : Nat) :
    ∃ w, gaspTrigger i d = modSup (fun s => { s with fired := true, lgStat := w }) d := by
  cases ran : bit d.supply.lgStat 30 with
  | false => exact ⟨_, gaspTrigger_unarmed ran arm i⟩
  | true => exact ⟨d.supply.lgStat, by simp [gaspTrigger, ran, modSup]⟩

/-- The event that an armed trigger of entry `i` latches for a presignature. -/
def Dev.gaspOf (d : Dev) (a : Arm) (i : Fin 16) (p : Nat × Nat × Nat) : Gasp :=
  { arm := a, event := gaspEvent i (d.supply.ride[i]).reg, sec := d.journal.seconds.toNat, vin := d.supply.vin
    hold := d.supply.hold, low := d.supply.vinLow, jnewest := d.journal.jnewest, full := none, presig := p }

theorem gaspTrigger_armed {d : Dev} {a : Arm} {p : Nat × Nat × Nat} {ps : List (Nat × Nat × Nat)}
    (idle : bit d.supply.lgStat 30 = false) (arm : d.supply.arm = some a) (places : d.presig.avail = p :: ps) (i : Fin 16) :
    gaspTrigger i d = modSup (fun s => { s with
        fired := true, arm := none, gasp := some (d.gaspOf a i p)
        lgStat := gaspPath 1 (putFld (setBit s.lgStat 30) (at_ i 16) 19 16) })
      { d with presig := { d.presig with avail := ps } } := by
  simp only [gaspTrigger, modSup, idle, arm, gaspStart, places, Dev.gaspOf]
  rw [vget_of_lt _ i.isLt]
  rfl

/-! ### The STOP of the table (17 R402, R405; 16 R380) -/

theorem ridesIdle_idle (d : Dev) (i : Fin 16) : ((ridesIdle d).supply.ride[i]).st = .idle := by
  obtain ⟨f, m, supply, -⟩ := recalcLevel_supply
    (modSup (fun s => { s with ride := s.ride.map (fun r => { r with st := .idle, timer := 0 }) }) d)
  rw [ridesIdle, supply]
  exact congrArg Ride.st (Vector.getElem_map _ i.isLt)

theorem undisturbed_stopChan (ks : List Nat) (d : Dev) (n : Chn) : Undisturbed d (stopChan ks d n) :=
  .of (DropFrame.stopChan ks d n).r (DropFrame.stopChan ks d n).k

theorem recalcLevel_stays (k b : Nat) {d : Dev} (h : bit (d.trouble.g k) b = true) :
    bit ((recalcLevel d).trouble.g k) b = true := by
  simp only [recalcLevel]
  split
  · split
    · exact noteGx_kept _ _ _ _ k b h
    · exact noteGx_kept _ _ _ _ k b h
  · exact h

/-- The domains that a STOP of the table keeps: port B's too, where its mailbox holds a sealed record. -/
def Dev.tableKeep (d : Dev) : List Nat :=
  if true && d.supply.sealed && !d.power.keepList.contains 1 then 1 :: d.power.keepList else d.power.keepList

/-- The power state latched by a STOP of the table. -/
def entryLatched (d : Dev) : Dev :=
  modPow (fun p => { p with
    st := .entry, latched := d.tableKeep, latchedKeys := p.keepKeys, latchedWake := p.wakeCfg
    latchedTmr := p.wakeTmr, supplyStop := true, woken := false, held := [] }) d

theorem stopBegins_latches (d : Dev) :
    stopBegins true d = allChns.foldl (stopChan d.tableKeep) (ridesIdle (entryLatched d)) := rfl

/-- STOP entry begun by the table: its entries idle, and what was noted stays noted. -/
theorem stopBegins_table (d : Dev) : (stopBegins true d).power.st = .entry ∧ (stopBegins true d).power.supplyStop = true
    ∧ (∀ i : Fin 16, ((stopBegins true d).supply.ride[i]).st = .idle)
    ∧ ∀ k b, bit (d.trouble.g k) b = true → bit ((stopBegins true d).trouble.g k) b = true := by
  rw [stopBegins_latches]
  obtain ⟨entry, stops, trouble⟩ : (entryLatched d).power.st = .entry ∧ (entryLatched d).power.supplyStop = true
      ∧ (entryLatched d).trouble = d.trouble := ⟨rfl, rfl, rfl⟩
  generalize entryLatched d = e at entry stops trouble
  have power : (ridesIdle e).power = e.power := ridesIdle_keeps e .power (by decide) (by decide)
  obtain ⟨-, power', ride, stays⟩ := Undisturbed.foldl (undisturbed_stopChan d.tableKeep) allChns (ridesIdle e)
  rw [power', power]
  refine ⟨entry, stops, fun i => ?_, fun k b noted => stays k b (recalcLevel_stays k b ?_)⟩
  · rw [ride]
    exact ridesIdle_idle e i
  · rwa [show (modSup _ e).trouble = e.trouble from rfl, trouble]

/-- Which sources are armed depends on the power state, the pins, PFWCFG, the tamper inputs and the watchdog alone. -/
theorem wakePending_of {d e : Dev} (kept : Keeps [.supply, .trouble, .journal] d e)
    (pfw : e.supply.pfwCfg = d.supply.pfwCfg) (wake : List Nat) : e.wakePending wake = d.wakePending wake := by
  have power : e.power = d.power := kept .power (by decide) (by decide)
  have pins : e.pins = d.pins := kept .pins (by decide) (by decide)
  have cfg : e.cfg = d.cfg := kept .cfg (by decide) (by decide)
  have boot : e.boot = d.boot := kept .boot (by decide) (by decide)
  have armed (cfg' tmr : Word) (ks : List Nat) (q : Nat) : e.armed cfg' tmr ks q = d.armed cfg' tmr ks q := by
    simp only [Dev.armed, Dev.tamperByte, pins, cfg, boot, pfw]
  rw [Dev.wakePending, Dev.wakePending, power]
  exact List.filter_congr fun q _ => armed _ _ _ q

theorem wakePending_noted (k b : Nat) (d : Dev) (wake : List Nat) : (noteG k b d).wakePending wake = d.wakePending wake :=
  wakePending_of (keeps_up (keeps_noteG k b d)) (congrArg Supply.pfwCfg (noteG_supply ..)) wake

/-- Where no armed source fires with it, the STOP of the table begins entry: every job ends, every entry is idle. -/
theorem rideStop_enters {d : Dev} (run : d.power.st = .run) {wake : List Nat} (quiet : d.wakePending wake = []) :
    (rideStop wake d).rst = d.rst ∧ (rideStop wake d).power.st = .entry ∧ (rideStop wake d).power.supplyStop = true
      ∧ (∀ i : Fin 16, ((rideStop wake d).supply.ride[i]).st = .idle) ∧ bit ((rideStop wake d).trouble.g 1) 10 = true := by
  have noted : bit ((noteG 1 10 d).trouble.g 1) 10 = true := noteG_bit 1 (by decide) d
  have rst : (noteG 1 10 d).rst = d.rst := noteG_rst ..
  have runs : ((noteG 1 10 d).power.st != .run) = false := by rw [noteG_power, run]; rfl
  have same : (noteG 1 10 d).wakePending wake = [] :=
    (wakePending_noted 1 10 d wake).trans quiet
  have acts : rideStop wake d = allChns.foldl endAllWork (stopBegins true (endPaused (noteG 1 10 d))) := by
    rw [rideStop, if_neg (by rw [runs]; decide), stopOrAbandon, same]
    rfl
  rw [acts]
  have paused := undisturbed_endPaused (noteG 1 10 d)
  obtain ⟨entry, stops, idle, stays⟩ := stopBegins_table (endPaused (noteG 1 10 d))
  obtain ⟨rst', power, ride, stays'⟩ := Undisturbed.foldl undisturbed_endAllWork allChns
    (stopBegins true (endPaused (noteG 1 10 d)))
  refine ⟨rst'.trans ((stopBegins_rst ..).trans (paused.rst.trans rst)), by rw [power, entry], by rw [power, stops], fun i => ?_,
    stays' 1 10 (stays 1 10 (paused.stays 1 10 noted))⟩
  rw [ride]
  exact idle i

/-- Where armed sources fire with it, RUN goes on. -/
theorem rideStop_abandoned {d : Dev} (run : d.power.st = .run) {wake : List Nat} (fire : d.wakePending wake ≠ []) :
    (rideStop wake d).rst = d.rst ∧ (rideStop wake d).power.st = .run ∧ (rideStop wake d).supply = d.supply
      ∧ bit ((rideStop wake d).trouble.g 1) 10 = true ∧ bit ((rideStop wake d).trouble.g 1) 0 = true := by
  obtain ⟨b, bs, fires⟩ := List.exists_cons_of_ne_nil fire
  have noted : bit ((noteG 1 0 (noteG 1 10 d)).trouble.g 1) 10 = true :=
    noteGx_kept 1 0 0 0 1 10 (noteG_bit 1 (by decide) d)
  have noted' : bit ((noteG 1 0 (noteG 1 10 d)).trouble.g 1) 0 = true := noteG_bit 1 (by decide) _
  have runs : ((noteG 1 10 d).power.st != .run) = false := by rw [noteG_power, run]; rfl
  have acts : rideStop wake d = noteWake (d.wakePending wake) (noteG 1 0 (noteG 1 10 d)) := by
    rw [rideStop, if_neg (by rw [runs]; decide), stopOrAbandon, wakePending_noted, fires]
    rfl
  obtain ⟨w, woken⟩ := noteWake_power (d.wakePending wake) (noteG 1 0 (noteG 1 10 d))
  rw [acts, woken]
  refine ⟨?_, ?_, ?_, noted, noted'⟩
  · rw [modPow_rst, noteG_rst, noteG_rst]
  · show (noteG 1 0 (noteG 1 10 d)).power.st = .run
    rw [noteG_power, noteG_power, run]
  · rw [modPow_supply, noteG_supply, noteG_supply]

/-! ### The tick on which an entry's timer reaches its duration (17 R400, R402) -/

/-- The state before the tick on which entry `i`, in RUN and below its threshold, reaches its duration after `dt` ticks. -/
structure FiresAt (i : Fin 16) (s : State) (r : Ride) (dt : Nat) : Prop where
  awake : s.awake
  run : s.dev.power.st = .run
  entry : r = s.dev.supply.ride[i]
  below : r.st = .below
  on : bit r.reg 31 = true
  low : s.dev.supply.rideBack r.reg = false
  whole : dt = max 1 (rideDue r.reg - r.timer)

section
variable {i : Fin 16} {s : State} {r : Ride} {dt : Nat} (h : FiresAt i s r dt)
include h

theorem FiresAt.before : (s.dev.supply.ride[i]).st ≠ .fired := by
  rw [← h.entry, h.below]
  decide

theorem FiresAt.after : (rideMove s.dev.supply dt s.dev.supply.ride[i]).st = .fired := by
  rw [← h.entry]
  exact rideMove_fires h.below h.on h.low h.whole

/-- The tick itself, and that what it makes of the core are the actions of the entries that fire, then the failures due. -/
theorem FiresAt.ticks (wk : List Nat) (vfy : List Bool) : ∃ v, Ticked dt s.dev v
    ∧ ∀ {l u vs}, firing dt s.dev = l → rideActs v.supply.level wk l vfy v = (u, vs) →
      exec (.rideEntryFire i ⟨wk, vfy⟩) s = .next (s.through (fun _ => recordFailures vs u)) := by
  refine ⟨tableMoved dt s.dev, tableMoved_ticked dt s.dev, fun fires acts => onDev_to h.awake ?_⟩
  have state : s.dev.supply.ride[i.val] = r := h.entry.symm
  have waits : ¬ (s.dev.power.st != .run || r.st != .below || !bit r.reg 31) = true := by
    rw [h.run, h.below, h.on]
    decide
  simp only [rideFire, state]
  rw [if_neg waits, ← h.whole, ridesTick_acts fires wk acts]

/-- The entry is FIRED after the tick, its action at most the level. -/
theorem FiresAt.fired {v : Dev} (ticked : Ticked dt s.dev v) : (v.supply.ride[i]).reg = r.reg
    ∧ (v.supply.ride[i]).st = .fired ∧ rideAction r.reg ≤ v.supply.level := by
  have reg : (v.supply.ride[i]).reg = r.reg := by rw [ticked.ride, rideMove_reg, h.entry]
  have fired : (v.supply.ride[i]).st = .fired := by rw [ticked.ride, h.after]
  refine ⟨reg, fired, ?_⟩
  rw [ticked.level, ← reg]
  exact action_le_level fired

variable {wk : List Nat} {vfy : List Bool}

section
variable (others : ∀ j : Fin 16, j ≠ i →
  (s.dev.supply.ride[j]).st = .fired ∨ (rideMove s.dev.supply dt s.dev.supply.ride[j]).st ≠ .fired)
include others

/-- The entry fires alone: its action, then the failures due. -/
theorem FiresAt.alone (wk : List Nat) (vfy : List Bool) : ∃ v, Ticked dt s.dev v
    ∧ ∀ {u vs}, rideAct v.supply.level wk i vfy v = (u, vs) →
      exec (.rideEntryFire i ⟨wk, vfy⟩) s = .next (s.through (fun _ => recordFailures vs u)) := by
  obtain ⟨v, ticked, goes⟩ := h.ticks wk vfy
  exact ⟨v, ticked, fun acts => goes (firing_one h.before h.after others) ((rideActs_one i.val).trans acts)⟩

theorem fires_notes (none_ : ∀ e, (s.dev.eng e).due = none) {act b : Nat} (known : (act, b) ∈ [(1, 6), (3, 8)])
    (acts : rideAction r.reg = act) :
    ∃ t, exec (.rideEntryFire i ⟨wk, vfy⟩) s = .next t ∧ SameShell s t ∧ Keeps [.supply, .trouble, .journal] s.dev t.dev
      ∧ (t.dev.supply.ride[i]).st = .fired ∧ act ≤ t.dev.supply.level ∧ bit t.dev.trouble.g1 b = true := by
  obtain ⟨v, ticked, goes⟩ := h.alone others wk vfy
  obtain ⟨reg, fired, level⟩ := h.fired ticked
  rw [acts] at level
  have noted : b < 32 ∧ rideAct v.supply.level wk i.val vfy v = (noteG 1 b v, vfy) := by
    rw [← reg] at acts
    simp only [List.mem_cons, Prod.mk.injEq, List.not_mem_nil, or_false] at known
    obtain ⟨rfl, rfl⟩ | ⟨rfl, rfl⟩ := known
    · exact ⟨by decide, rideAct_wakeA acts⟩
    · exact ⟨by decide, rideAct_quiesce acts⟩
  have kept : Keeps [.supply, .trouble, .journal] s.dev (noteG 1 b v) := ticked.keeps.trans (keeps_up (keeps_noteG 1 b v))
  have goes := goes noted.2
  rw [recordFailures_none fun e => by rw [eng_of (kept .engines (by decide) (by decide)), none_ e]] at goes
  refine ⟨_, goes, same_const h.awake ((noteG_rst ..).trans ticked.rst), keeps_const kept, ?_, ?_, ?_⟩
  · rwa [through_supply, noteG_supply]
  · rwa [through_supply, noteG_supply]
  · rw [through_trouble]
    exact noteG_bit 1 noted.1 v

section
variable (none_ : ∀ e, (s.dev.eng e).due = none) (acts : rideAction r.reg = 4) (idle : bit s.dev.supply.lgStat 30 = false)
include none_ acts idle

theorem fires_unarmed (arm : s.dev.supply.arm = none) :
    ∃ t, exec (.rideEntryFire i ⟨wk, vfy⟩) s = .next t ∧ SameShell s t ∧ Keeps [.supply, .trouble, .journal] s.dev t.dev
      ∧ fld t.dev.supply.lgStat 29 28 = 3 ∧ t.dev.supply.gasp = s.dev.supply.gasp ∧ t.dev.supply.fired = true
      ∧ t.dev.supply.marks = s.dev.supply.marks := by
  obtain ⟨v, ticked, goes⟩ := h.alone others wk vfy
  obtain ⟨reg, -, level⟩ := h.fired ticked
  obtain ⟨rs, f, m, supply, high⟩ := ticked.supply
  have marks := high (acts ▸ level)
  have trigger := gaspTrigger_unarmed (d := v) (by rw [supply]; exact idle) (by rw [supply]; exact arm) i.val
  have kept : Keeps [.supply, .trouble, .journal] s.dev
      (modSup (fun s => { s with fired := true, lgStat := gaspPath 3 s.lgStat }) v) :=
    ticked.keeps.trans (keeps_up (keeps_modSup _ v))
  have goes := goes ((rideAct_lastgasp (reg ▸ acts)).trans (by rw [trigger]))
  rw [recordFailures_none fun e => by rw [eng_of (kept .engines (by decide) (by decide)), none_ e]] at goes
  refine ⟨_, goes, same_const h.awake ticked.rst, keeps_const kept, ?_⟩
  rw [through_supply, modSup_supply, supply]
  exact ⟨fld_putFld _ 3 (by decide) (by decide), rfl, rfl, marks⟩

theorem fires_armed {a : Arm} {p : Nat × Nat × Nat} {ps : List (Nat × Nat × Nat)} (arm : s.dev.supply.arm = some a)
    (places : s.dev.presig.avail = p :: ps) :
    ∃ t g, exec (.rideEntryFire i ⟨wk, vfy⟩) s = .next t ∧ SameShell s t
      ∧ Keeps [.supply, .presig, .trouble, .journal] s.dev t.dev ∧ t.dev.supply.gasp = some g ∧ g.arm = a ∧ g.presig = p
      ∧ g.full = none ∧ g.vin = s.dev.supply.vin ∧ g.hold = s.dev.supply.hold
      ∧ g.event = fld r.reg 27 26 * 64 + i.val ∧ t.dev.supply.arm = none
      ∧ t.dev.presig.avail = ps ∧ fld t.dev.supply.lgStat 29 28 = 1 ∧ bit t.dev.supply.lgStat 30 = true
      ∧ t.dev.supply.fired = true := by
  obtain ⟨v, ticked, goes⟩ := h.alone others wk vfy
  obtain ⟨reg, -, -⟩ := h.fired ticked
  obtain ⟨rs, f, m, supply, -⟩ := ticked.supply
  have presig : v.presig = s.dev.presig := ticked.keeps .presig (by decide) (by decide)
  have trigger := gaspTrigger_armed (d := v) (by rw [supply]; exact idle) (by rw [supply]; exact arm)
    (by rw [presig]; exact places) i
  have vin : v.supply.vin = s.dev.supply.vin := by rw [supply]
  have hold : v.supply.hold = s.dev.supply.hold := by rw [supply]
  have event : (v.gaspOf a i p).event = fld r.reg 27 26 * 64 + i.val := by rw [← reg]; rfl
  have taken : Keeps [.presig] v { v with presig := { v.presig with avail := ps } } := by
    intro q hq _
    cases q <;> simp [Part.same] at hq ⊢
  have kept : Keeps [.supply, .presig, .trouble, .journal] s.dev (modSup (fun s => { s with
      fired := true, arm := none, gasp := some (v.gaspOf a i p)
      lgStat := gaspPath 1 (putFld (setBit s.lgStat 30) (at_ i 16) 19 16) })
      { v with presig := { v.presig with avail := ps } }) :=
    ((keeps_up ticked.keeps).trans (keeps_up taken)).trans (keeps_up (keeps_modSup _ _))
  have goes := goes ((rideAct_lastgasp (reg ▸ acts)).trans (by rw [trigger]))
  rw [recordFailures_none fun e => by rw [eng_of (kept .engines (by decide) (by decide)), none_ e]] at goes
  refine ⟨_, v.gaspOf a i p, goes, same_const h.awake ticked.rst, keeps_const kept, ?_⟩
  rw [through_supply, through_presig]
  have ran : bit (gaspPath 1 (putFld (setBit v.supply.lgStat 30) (at_ i 16) 19 16)) 30 = true := by
    rw [gaspPath, bit_putFld_above _ _ (by decide) (by decide) (by decide),
      bit_putFld_above _ _ (by decide) (by decide) (by decide), bit_setBit (by decide)]
  exact ⟨rfl, rfl, rfl, rfl, vin, hold, event, rfl, rfl, fld_putFld _ 1 (by decide) (by decide), ran, rfl⟩

end

/-- The entry's action is STOP. -/
theorem fires_stop (acts : rideAction r.reg = 5) :
    ∃ t, exec (.rideEntryFire i ⟨wk, vfy⟩) s = .next t ∧ SameShell s t ∧ bit t.dev.trouble.g1 10 = true
      ∧ (t.dev.supply.ride[i]).st = (if s.dev.wakePending wk = [] then .idle else .fired)
      ∧ (s.dev.wakePending wk = [] → t.dev.power.st = .entry ∧ t.dev.power.supplyStop = true)
      ∧ (s.dev.wakePending wk ≠ [] → t.dev.power.st = .run ∧ bit t.dev.trouble.g1 0 = true) := by
  obtain ⟨v, ticked, goes⟩ := h.alone others wk vfy
  obtain ⟨reg, fired, -⟩ := h.fired ticked
  obtain ⟨rs, f, m, supply, -⟩ := ticked.supply
  have power : v.power = s.dev.power := ticked.keeps .power (by decide) (by decide)
  have runs : v.power.st = .run := by rw [power, h.run]
  have pending : v.wakePending wk = s.dev.wakePending wk := wakePending_of ticked.keeps (by rw [supply]) wk
  obtain ⟨rst, power', ride, stays⟩ := undisturbed_recordFailures vfy (rideStop wk v)
  refine ⟨_, goes (rideAct_stop (reg ▸ acts)), ?_⟩
  rw [through_trouble, through_supply, through_power, power', ride, ← pending]
  by_cases quiet : v.wakePending wk = []
  · obtain ⟨rst', enters, stops, idle, noted⟩ := rideStop_enters runs quiet
    exact ⟨same_const h.awake (rst.trans (rst'.trans ticked.rst)), stays 1 10 noted, by rw [if_pos quiet]; exact idle i,
      fun _ => ⟨enters, stops⟩, fun fire => absurd quiet fire⟩
  · obtain ⟨rst', goesOn, same, noted, abandoned⟩ := rideStop_abandoned runs quiet
    exact ⟨same_const h.awake (rst.trans (rst'.trans ticked.rst)), stays 1 10 noted, by rw [if_neg quiet, same]; exact fired,
      fun h => absurd h quiet, fun _ => ⟨goesOn, stays 1 0 abandoned⟩⟩

end

omit h in
/-- A CHECKPOINT and a LASTGASP without an arm in one update, at level 4 or more: in either order nothing is written. -/
theorem checkpoint_with_lastgasp {j : Fin 16} {v : Dev} {l : Nat} (level : 4 ≤ l) (acts : rideAction (v.supply.ride[i]).reg = 2)
    (acts' : rideAction (v.supply.ride[j]).reg = 4) (arm : v.supply.arm = none) {order : List Nat}
    (either : order = [i.val, j.val] ∨ order = [j.val, i.val]) :
    ∃ u w, rideActs l wk order vfy v = (u, vfy) ∧ u.rst = v.rst ∧ Keeps [.supply, .trouble, .journal] v u
      ∧ u.supply = { v.supply with fired := true, lgStat := w } ∧ bit (u.trouble.g 1) 7 = true := by
  have order_ (a b : Nat) : rideActs l wk [a, b] vfy v = rideAct l wk b (rideAct l wk a vfy v).2 (rideAct l wk a vfy v).1 := rfl
  have supply : (noteG 1 7 v).supply = v.supply := noteG_supply ..
  obtain rfl | rfl := either
  · obtain ⟨w, trigger⟩ := gaspTrigger_fires (d := noteG 1 7 v) (supply ▸ arm) j.val
    refine ⟨modSup (fun s => { s with fired := true, lgStat := w }) (noteG 1 7 v), w, ?_, noteG_rst ..,
      (keeps_up (keeps_noteG 1 7 v)).trans (keeps_up (keeps_modSup _ _)), ?_, noteG_bit 1 (by decide) v⟩
    · rw [order_, rideAct_checkpoint acts level, ← trigger]
      exact rideAct_lastgasp (d := noteG 1 7 v) (by rw [supply]; exact acts')
    · rw [modSup_supply, supply]
  · obtain ⟨w, trigger⟩ := gaspTrigger_fires (d := v) arm j.val
    refine ⟨noteG 1 7 (modSup (fun s => { s with fired := true, lgStat := w }) v), w, ?_, noteG_rst ..,
      (keeps_up (keeps_modSup _ v)).trans (keeps_up (keeps_noteG 1 7 _)), noteG_supply .., noteG_bit 1 (by decide) _⟩
    rw [order_, rideAct_lastgasp acts', ← trigger]
    exact rideAct_checkpoint (by rw [trigger]; exact acts) level

/-- A CHECKPOINT that fires with a LASTGASP writes nothing. -/
theorem fires_together (none_ : ∀ e, (s.dev.eng e).due = none) {j : Fin 16} (distinct : j ≠ i) (acts : rideAction r.reg = 2)
    (before : (s.dev.supply.ride[j]).st ≠ .fired) (after : (rideMove s.dev.supply dt s.dev.supply.ride[j]).st = .fired)
    (acts' : rideAction (s.dev.supply.ride[j]).reg = 4) (arm : s.dev.supply.arm = none)
    (others : ∀ k : Fin 16, k ≠ i → k ≠ j →
      (s.dev.supply.ride[k]).st = .fired ∨ (rideMove s.dev.supply dt s.dev.supply.ride[k]).st ≠ .fired) :
    ∃ t, exec (.rideEntryFire i ⟨wk, vfy⟩) s = .next t ∧ SameShell s t ∧ Keeps [.supply, .trouble, .journal] s.dev t.dev
      ∧ (t.dev.supply.ride[i]).st = .fired ∧ (t.dev.supply.ride[j]).st = .fired ∧ 4 ≤ t.dev.supply.level
      ∧ bit t.dev.trouble.g1 7 = true ∧ t.dev.supply.fired = true := by
  obtain ⟨v, ticked, goes⟩ := h.ticks wk vfy
  obtain ⟨reg, fired, -⟩ := h.fired ticked
  have fired' : (v.supply.ride[j]).st = .fired := by rw [ticked.ride, after]
  have reg' : rideAction (v.supply.ride[j]).reg = 4 := by rw [ticked.ride, rideMove_reg, acts']
  have level : 4 ≤ v.supply.level := by
    rw [ticked.level, ← reg']
    exact action_le_level fired'
  obtain ⟨rs, f, m, supply, -⟩ := ticked.supply
  obtain ⟨u, w, both, rst, keeps, after_, noted⟩ := checkpoint_with_lastgasp (wk := wk) (vfy := vfy) (v := v) level
    (reg ▸ acts) reg' (by rw [supply]; exact arm) (firing_two h.before h.after distinct before after others)
  have kept : Keeps [.supply, .trouble, .journal] s.dev u := ticked.keeps.trans keeps
  have goes := goes rfl both
  rw [recordFailures_none fun e => by rw [eng_of (kept .engines (by decide) (by decide)), none_ e]] at goes
  refine ⟨_, goes, same_const h.awake (rst.trans ticked.rst), keeps_const kept, ?_⟩
  rw [through_supply, through_trouble, after_]
  exact ⟨fired, fired', level, noted, rfl⟩

end

/-! ### RIDE, PFW and LOWCLR (17 R395, R397, R399) -/

/-- A RIDE write whose fields are not reserved is taken whole. -/
theorem rideMerge_legal {w : Word} (act : rideAction w < 6) (src : fld w 27 26 ≠ 3) (unit : fld w 25 24 ≠ 3) (old : Word) :
    rideMerge old w = (w, false) := by
  simp [rideMerge, keepIf, src, unit, Nat.not_le.2 act]

theorem vset_getElem {α : Type} {n i j : Nat} (v : Vector α n) (x : α) (low : j < n) :
    (vset v i x)[j] = if j = i then x else v[j] := by
  unfold vset
  split
  · rw [Vector.getElem_set]
    simp only [eq_comm]
  · rw [if_neg (by omega)]

theorem rideWrite_loads {i : Fin 16} {w : Word} {s : State} (takes : s.takes .A) (act : rideAction w < 6)
    (src : fld w 27 26 ≠ 3) (unit : fld w 25 24 ≠ 3) :
    ∃ t, exec (.rideWrite .A i w) s = .next t ∧ SameShell s t ∧ Keeps [.supply, .trouble, .journal] s.dev t.dev
      ∧ t.dev.supply.ride[i] = ⟨w, .idle, 0⟩ ∧ (∀ j : Fin 16, j ≠ i → t.dev.supply.ride[j] = s.dev.supply.ride[j])
      ∧ t.dev.supply.level = t.dev.supply.levelNow := by
  have writes : writeRide i w s.dev = recalcLevel (loadRide i.val w s.dev) := by
    simp only [writeRide]
    rw [rideMerge_legal act src unit]
    rfl
  obtain ⟨f, m, supply, -⟩ := recalcLevel_supply (loadRide i.val w s.dev)
  have kept : Keeps [.supply, .trouble, .journal] s.dev (recalcLevel (loadRide i.val w s.dev)) :=
    (keeps_up (keeps_modSup _ s.dev)).trans (recalcLevel_keeps _)
  refine ⟨_, onA_to takes writes, same_const takes.1 (recalcLevel_rst _), keeps_const kept, ?_⟩
  have load (j : Fin 16) : (loadRide i.val w s.dev).supply.ride[j]
      = if j = i then ⟨w, .idle, 0⟩ else s.dev.supply.ride[j] := by
    simp only [Fin.ext_iff]
    exact vset_getElem s.dev.supply.ride _ j.isLt
  rw [through_supply, supply]
  exact ⟨(load i).trans (if_pos rfl), fun j other => (load j).trans (if_neg other), rfl⟩

theorem pfwAssert_noted {s : State} (awake : s.awake) (armed : bit s.dev.supply.pfwCfg 31 = true)
    (high : s.dev.supply.pfw = false) :
    ∃ t, exec .pfwAssert s = .next t ∧ SameShell s t ∧ Keeps [.supply, .trouble, .journal, .power] s.dev t.dev
      ∧ t.dev.supply = { s.dev.supply with pfw := true } ∧ bit t.dev.trouble.g1 5 = true
      ∧ (s.dev.power.st = .run → t.dev.power = s.dev.power) := by
  have acts : exec .pfwAssert s
      = .next (s.through (fun _ => wakes [3] (noteG 1 5 (modSup (fun s => { s with pfw := true }) s.dev)))) :=
    onDev_to awake (by rw [armed, high]; rfl)
  have noted : Keeps [.supply, .trouble, .journal] s.dev (noteG 1 5 (modSup (fun s => { s with pfw := true }) s.dev)) :=
    (keeps_up (keeps_modSup _ s.dev)).trans (keeps_up (keeps_noteG 1 5 _))
  have set : bit ((noteG 1 5 (modSup (fun s => { s with pfw := true }) s.dev)).trouble.g 1) 5 = true :=
    noteG_bit 1 (by decide) _
  have supply : (noteG 1 5 (modSup (fun s => { s with pfw := true }) s.dev)).supply = { s.dev.supply with pfw := true } :=
    noteG_supply ..
  have rst : (noteG 1 5 (modSup (fun s => { s with pfw := true }) s.dev)).rst = s.dev.rst := noteG_rst ..
  generalize noteG 1 5 (modSup (fun s => { s with pfw := true }) s.dev) = d at acts noted set supply rst
  have power : d.power = s.dev.power := noted .power (by decide) (by decide)
  have woken := keeps_wakes [3] d
  refine ⟨_, acts, same_const awake ((wakes_rst ..).trans rst),
    keeps_const ((keeps_up noted).trans (keeps_up woken)), ?_, ?_, fun run => ?_⟩
  · rw [through_supply, woken .supply (by decide) (by decide), supply]
  · rw [through_trouble, woken .trouble (by decide) (by decide)]
    exact set
  · rw [through_power, wakes_run (by rw [power, run]), power]

/-- Settles O59. The entries move by `rideMove`; those that are newly FIRED act in entry order at the level recomputed with
the table, and a failure held back is recorded last. That an entry fires on the tick on which its timer reaches DUR is the
model's choice (log entry 49). -/
theorem rideThroughTableActs : Obligations.RideThroughTableActs := by
  refine ⟨fun vin hold wk vfy s u awake run sampled quiet => ?_,
    fun i wk vfy s r dt awake run entry below on low whole none_ => ?_,
    fun i w s takes act src unit => rideWrite_loads takes act src unit,
    fun s awake => ⟨pfwAssert_noted awake, _, onDev_to awake rfl, same_const awake rfl, keeps_const (keeps_modSup _ _), rfl⟩,
    fun s takes => ⟨_, onA_to takes rfl, same_const takes.1 rfl, keeps_const (keeps_modSup _ _), rfl⟩⟩
  · obtain ⟨t, next, shell, keeps, nothing, recorded, ⟨rs, l, f, m, supply⟩, ride, level⟩ :=
      supplyTick_quiet (wk := wk) (vfy := vfy) awake run sampled quiet
    refine ⟨t, next, shell, keeps, nothing, recorded, ?_, ?_, ?_, fun i q entry => ?_, level, ?_⟩
    · rw [supply, sampled]; rfl
    · rw [supply, sampled]; rfl
    · rw [supply, sampled]; rfl
    · rw [ride, ← entry]
      exact rideMove_quiet u q (entry ▸ quiet i)
    · rw [supply, sampled]; rfl
  · have fires : FiresAt i s r dt := ⟨awake, run, entry, below, on, low, whole⟩
    exact ⟨fun others => ⟨fun act b known acts => fires_notes fires others none_ known acts,
      fun acts idle => ⟨fires_unarmed fires others none_ acts idle,
        fun a p ps => fires_armed fires others none_ acts idle⟩, fires_stop fires others⟩,
      fun j distinct acts before after acts' arm others =>
        fires_together fires none_ distinct acts before after acts' arm others⟩

end Sys2Proof.Machine
end
section
/-!
The record of the last gasp and its mark (O60).
-/

namespace Sys2Proof.Machine

/-! ### Bytes of the mailbox -/

/-- Four bytes are the bytes of the word they spell. -/
theorem wordBytes_bytesWord {bs : Bytes} (four : bs.length = 4) : wordBytes (bytesWord bs) = bs := by
  match bs, four with
  | [a, b, c, e], _ =>
    have spelt : beNat [a, b, c, e] = ((a.toNat * 256 + b.toNat) * 256 + c.toNat) * 256 + e.toNat := by simp [beNat]
    have ha := a.isLt
    have hb := b.isLt
    have hc := c.isLt
    have he := e.isLt
    have small : beNat [a, b, c, e] < 2 ^ 32 := by omega
    rw [wordBytes, bytesWord, BitVec.toNat_ofNat, Nat.mod_eq_of_lt small, natBE_succ, natBE_succ, natBE_succ, natBE_succ]
    have byte (x : Byte) {n : Nat} (h : n % 256 = x.toNat) : BitVec.ofNat 8 n = x := by
      apply BitVec.eq_of_toNat_eq
      rw [BitVec.toNat_ofNat]
      exact h
    rw [byte a (by omega), byte b (by omega), byte c (by omega), byte e (by omega)]
    rfl

/-- A string of whole words is the bytes of its words. -/
theorem wordsBytes_bytesWords : ∀ {n : Nat} {bs : Bytes}, bs.length = 4 * n → wordsBytes (bytesWords n bs) = bs
  | 0, bs, h => (List.length_eq_zero_iff.1 h).symm
  | n + 1, bs, h => by
    have first : (bs ++ List.replicate 4 0).take 4 = bs.take 4 := List.take_append_of_le_length (by omega)
    have rest : wordsBytes (bytesWords n (bs.drop 4)) = bs.drop 4 :=
      wordsBytes_bytesWords (by rw [List.length_drop]; omega)
    rw [wordsBytes] at rest ⊢
    rw [bytesWords, List.flatMap_cons, rest, first, wordBytes_bytesWord (by rw [List.length_take]; omega),
      List.take_append_drop]

theorem length_bytesWords : ∀ (n : Nat) (bs : Bytes), (bytesWords n bs).length = n
  | 0, _ => rfl
  | n + 1, bs => by rw [bytesWords, List.length_cons, length_bytesWords n]

theorem padTo_take {n : Nat} {bs : Bytes} (fits : bs.length ≤ n) : (padTo n bs).take bs.length = bs := by
  rw [padTo, List.take_of_length_le fits]
  exact List.take_left

theorem at_bit (v lo k : Nat) : (at_ v lo).getLsbD k = (decide (k < 32) && (decide (lo ≤ k) && v.testBit (k - lo))) := by
  rw [at_, BitVec.getLsbD_ofNat, Nat.testBit_mul_two_pow]

section
variable (full : Bool) (msg : Bytes)

theorem gaspMailbox_head : (gaspMailbox full msg)[0]
    = at_ 1 31 ||| at_ (flag full) 30 ||| at_ 1 16 ||| at_ msg.length 0 := by
  simp [gaspMailbox]

/-- The words after the first carry the message. -/
theorem gaspMailbox_tail : (gaspMailbox full msg).toList.drop 1 = bytesWords 63 (padTo 252 msg) := by
  have long := length_bytesWords 63 (padTo 252 msg)
  refine List.ext_getElem (by simp [long]) fun k hk hk' => ?_
  simp [gaspMailbox, List.getD_eq_getElem?_getD, List.getElem?_eq_getElem hk']

theorem gaspMailbox_sealed : bit (gaspMailbox full msg)[0] 31 = true := by
  rw [gaspMailbox_head]
  simp [bit, at_]

theorem gaspMailbox_message (fits : msg.length ≤ 252) : bit (gaspMailbox full msg)[0] 30 = full
    ∧ fld (gaspMailbox full msg)[0] 15 0 = msg.length
    ∧ (wordsBytes ((gaspMailbox full msg).toList.drop 1)).take msg.length = msg := by
  refine ⟨?_, ?_, ?_⟩
  · have none_ : msg.length.testBit 30 = false := Nat.testBit_lt_two_pow (by omega)
    rw [gaspMailbox_head, bit]
    simp only [BitVec.getLsbD_or, at_bit]
    have tag : (1 : Nat).testBit 14 = false := by decide
    cases full <;> simp [flag, none_, tag]
  · rw [gaspMailbox_head]
    refine Nat.eq_of_testBit_eq fun k => ?_
    rw [fld_testBit]
    by_cases low : k < 16
    · have high (v lo : Nat) (above : 16 ≤ lo) : (at_ v lo).getLsbD k = false := by simp [at_bit]; omega
      have own : (at_ msg.length 0).getLsbD k = msg.length.testBit k := by simp [at_bit]; omega
      simp [low, own, high]
    · have none_ : msg.length.testBit k = false :=
        Nat.testBit_lt_two_pow (Nat.lt_of_lt_of_le (by omega : msg.length < 2 ^ 16) (Nat.pow_le_pow_right (by decide) (by omega)))
      simp [low, none_]
  · rw [gaspMailbox_tail, wordsBytes_bytesWords (length_padTo 252 msg), padTo_take fits]

end

/-! ### The end of a path (17 R409, R410) -/

theorem gaspEnds_seals {d : Dev} {g : Gasp} {p : Nat × Nat} (runs : d.supply.gasp = some g) (signs : g.sign = some p) :
    gaspEnds false d = gaspSealed g p d := by
  simp [gaspEnds, runs, signs]

theorem gaspEnds_fails {d : Dev} {g : Gasp} {c : Fin 4 × Bytes} (runs : d.supply.gasp = some g) (core : g.full = some c) :
    gaspEnds true d = gaspNothing g (noteInvar (engId (12 + c.1.val)) 0 d) := by
  simp [gaspEnds, runs, core]

/-- A presignature that fails gives way to the next. -/
theorem gaspEnds_next {d : Dev} {g : Gasp} (runs : d.supply.gasp = some g) (light : g.full = none) :
    gaspEnds true d = gaspStart g (noteInvar 0 0 (modSup (fun s => { s with gasp := none }) d)) := by
  simp [gaspEnds, runs, light]

theorem gaspStart_presig {d : Dev} {g : Gasp} {p : Nat × Nat × Nat} {ps : List (Nat × Nat × Nat)}
    (light : g.full = none) (places : d.presig.avail = p :: ps) : gaspStart g d
      = modSup (fun s => { s with gasp := some { g with presig := p }, lgStat := gaspPath 1 s.lgStat })
        { d with presig := { d.presig with avail := ps } } := by
  cases g
  subst light
  simp [gaspStart, places, modSup]

theorem keeps_noteInvar (eng : Nat) (w : Word) (d : Dev) : Keeps [.trouble, .journal] d (noteInvar eng w d) := by
  intro q hq _
  cases q <;> simp [Part.same] at hq ⊢

section
variable {g : Gasp} {s : State} (awake : s.awake) (runs : s.dev.supply.gasp = some g)
include awake runs

theorem seal_holds {p : Nat × Nat} (signs : g.sign = some p) :
    ∃ t msg, exec (.lastgaspSeal false) s = .next t ∧ SameShell s t ∧ Keeps [.supply] s.dev t.dev
      ∧ msg = coseSign1 g.header g.payload (natBE 32 p.1 ++ natBE 32 p.2)
      ∧ t.dev.supply = { s.dev.supply with
        gasp := none, sealed := true, mailbox := t.dev.supply.mailbox
        fired := s.dev.supply.fired && 4 ≤ s.dev.supply.level
        marks := s.dev.supply.marks ++ s.dev.supply.endMarks (1 + 4 * flag g.full.isSome) (markV g.sec g.event) }
      ∧ bit t.dev.supply.mailbox[0] 31 = true
      ∧ (msg.length ≤ 252 → bit t.dev.supply.mailbox[0] 30 = g.full.isSome ∧ fld t.dev.supply.mailbox[0] 15 0 = msg.length
        ∧ (wordsBytes (t.dev.supply.mailbox.toList.drop 1)).take msg.length = msg) := by
  refine ⟨_, _, onDev_to awake (gaspEnds_seals runs signs), same_const awake rfl, keeps_const (keeps_modSup _ _), rfl, ?_⟩
  rw [through_supply]
  exact ⟨rfl, gaspMailbox_sealed _ _, gaspMailbox_message _ _⟩

/-- The full path whose check fails ends without a record. -/
theorem seal_fails {c : Fin 4 × Bytes} (core : g.full = some c) :
    ∃ t, exec (.lastgaspSeal true) s = .next t ∧ SameShell s t ∧ Keeps [.supply, .trouble, .journal] s.dev t.dev
      ∧ t.dev.supply.gasp = none ∧ fld t.dev.supply.lgStat 29 28 = 3 ∧ t.dev.supply.sealed = s.dev.supply.sealed
      ∧ t.dev.supply.marks = s.dev.supply.marks ++ s.dev.supply.endMarks 0 (markV g.sec g.event) := by
  have noted := keeps_noteInvar (engId (12 + c.1.val)) 0 s.dev
  have supply : (noteInvar (engId (12 + c.1.val)) 0 s.dev).supply = s.dev.supply := noteInvar_supply ..
  have rst : (noteInvar (engId (12 + c.1.val)) 0 s.dev).rst = s.dev.rst := noteInvar_rst ..
  have acts := gaspEnds_fails runs core
  generalize noteInvar (engId (12 + c.1.val)) 0 s.dev = d at noted supply rst acts
  refine ⟨_, onDev_to awake acts, same_const awake rst, keeps_const ((keeps_up noted).trans (keeps_up (keeps_modSup _ d))), ?_⟩
  rw [through_supply, gaspNothing, modSup_supply, supply]
  exact ⟨rfl, fld_putFld _ 3 (by decide) (by decide), rfl, rfl⟩

theorem seal_retries {p : Nat × Nat × Nat} {ps : List (Nat × Nat × Nat)} (light : g.full = none)
    (places : s.dev.presig.avail = p :: ps) :
    ∃ t, exec (.lastgaspSeal true) s = .next t ∧ SameShell s t
      ∧ Keeps [.supply, .presig, .trouble, .journal] s.dev t.dev
      ∧ t.dev.supply.gasp = some { g with presig := p } ∧ t.dev.presig.avail = ps := by
  have noted : Keeps [.supply, .trouble, .journal] s.dev (noteInvar 0 0 (modSup (fun s => { s with gasp := none }) s.dev)) :=
    (keeps_up (keeps_modSup _ s.dev)).trans (keeps_up (keeps_noteInvar 0 0 _))
  have rst : (noteInvar 0 0 (modSup (fun s => { s with gasp := none }) s.dev)).rst = s.dev.rst := noteInvar_rst ..
  have acts := gaspEnds_next runs light
  generalize noteInvar 0 0 (modSup (fun s => { s with gasp := none }) s.dev) = d at noted rst acts
  have presig : d.presig = s.dev.presig := noted .presig (by decide) (by decide)
  rw [gaspStart_presig light (by rw [presig]; exact places)] at acts
  have taken : Keeps [.presig] d { d with presig := { d.presig with avail := ps } } := by
    intro q hq _
    cases q <;> simp [Part.same] at hq ⊢
  refine ⟨_, onDev_to awake acts, same_const awake rst,
    keeps_const (((keeps_up noted).trans (keeps_up taken)).trans (keeps_up (keeps_modSup _ _))), ?_⟩
  rw [through_supply, through_presig]
  exact ⟨rfl, rfl⟩

end

/-! ### The mark (17 R412, R413) -/

section
variable {flags v : Nat} {ms : List (Nat × Nat)} {d : Dev} (due : d.supply.marks = (flags, v) :: ms) (free : d.markFree flags = true)
include due free

theorem writeMark_locked (locked : d.ks.ready = false) :
    writeMark [] d = modSup (fun s => { s with marks := ms, lgStat := setBit s.lgStat 26 }) d := by
  simp [writeMark, due, free, modSup, locked]

/-- A mark is one record in place of slot 0xFFFF; unless it is an ACK, MARKDONE is set. -/
theorem writeMark_records (ready : d.ks.ready = true) (up : d.flashUp = true)
    (places : d.ks.logPos + d.ks.inNext.length < 127) : writeMark [] d
      = if flags.testBit 1 = false then modSup (fun s => { s with lgStat := setBit s.lgStat 27 })
          (logRecord 0xFFFF v flags true (modSup (fun s => { s with marks := ms }) d))
        else logRecord 0xFFFF v flags true (modSup (fun s => { s with marks := ms }) d) := by
  have appends := logAppend_first (d := modSup (fun s => { s with marks := ms }) d) up places 0xFFFF v flags 0
  have opens : (modSup (fun s => { s with marks := ms }) d).ks.ready = true := ready
  simp only [writeMark, due, free, opens]
  rw [show (1 : Nat) = 0 + 1 from rfl, appends]
  simp

end

theorem markFree_of {d : Dev} {flags : Nat} (runs : d.gRun = true)
    (level : d.supply.level < 3 ∨ 4 ≤ d.supply.level ∧ flags.testBit 1 = false) : d.markFree flags = true := by
  obtain low | ⟨high, other⟩ := level
  · simp [Dev.markFree, runs, low]
  · simp [Dev.markFree, runs, high, other]

theorem mark_recorded {flags v : Nat} {ms : List (Nat × Nat)} {s : State} (awake : s.awake)
    (due : s.dev.supply.marks = (flags, v) :: ms) (free : s.dev.markFree flags = true) (ready : s.dev.ks.ready = true)
    (up : s.dev.flashUp = true) (places : s.dev.ks.logPos + s.dev.ks.inNext.length < 127) :
    ∃ t, exec (.lastgaspMark []) s = .next t ∧ SameShell s t ∧ Keeps [.supply, .ks, .flash] s.dev t.dev
      ∧ t.dev.supply.marks = ms ∧ t.dev.supply.mailbox = s.dev.supply.mailbox
      ∧ (flags.testBit 1 = false → bit t.dev.supply.lgStat 27 = true)
      ∧ (flags.testBit 1 = true → t.dev.supply.lgStat = s.dev.supply.lgStat)
      ∧ t.dev.flash.mem = s.dev.flash.mem.write 0xFF (logAddr s.dev.ks.logSec s.dev.ks.logPos)
        (ctrRecord s.dev.ks.kek 0xFFFF s.dev.otp.rowIdx v (nextSeqNo s.dev.ks.recSeq) flags)
      ∧ t.dev.ks.newest 0xFFFF = some ⟨0xFFFF, v, flags, logAddr s.dev.ks.logSec s.dev.ks.logPos⟩ := by
  have acts := writeMark_records due free ready up places
  have taken := keeps_modSup (fun s => { s with marks := ms }) s.dev
  have mem := logRecord_mem (d := modSup (fun s => { s with marks := ms }) s.dev) up 0xFFFF v flags
  have newest := logRecord_newest (d := modSup (fun s => { s with marks := ms }) s.dev) up 0xFFFF v flags
  obtain ⟨recorded, rst⟩ := logRecord_keeps (d := modSup (fun s => { s with marks := ms }) s.dev) up 0xFFFF v flags
  have supply := recorded .supply (by decide) (by decide)
  generalize logRecord 0xFFFF v flags true (modSup (fun s => { s with marks := ms }) s.dev) = u at acts mem newest recorded rst supply
  have keeps : Keeps [.supply, .ks, .flash] s.dev u := (keeps_up taken).trans (keeps_up recorded)
  have supply : u.supply = { s.dev.supply with marks := ms } := supply
  cases other : flags.testBit 1 with
  | false =>
    rw [if_pos other] at acts
    refine ⟨_, onDev_to awake acts, same_const awake rst, keeps_const (keeps.trans (keeps_up (keeps_modSup _ u))), ?_⟩
    rw [through_supply, through_flash, through_ks, modSup_supply, supply]
    exact ⟨rfl, rfl, fun _ => bit_setBit (by decide), fun h => (Bool.false_ne_true h).elim, mem, newest⟩
  | true =>
    rw [if_neg (by rw [other]; decide)] at acts
    refine ⟨_, onDev_to awake acts, same_const awake rst, keeps_const keeps, ?_⟩
    rw [through_supply, through_flash, through_ks, supply]
    exact ⟨rfl, rfl, fun h => (Bool.false_ne_true h.symm).elim, fun _ => rfl, mem, newest⟩

/-- Settles O60: a path seals, fails on the full path, or takes the next presignature; a mark is one record of the counter log
or, with the store closed, MARKFAIL. That a full path that fails its check ends without a record, that an ACK leaves MARKDONE,
and that a mark is tried once are the model's readings (log entry 48). -/
theorem lastGaspSealsAndMarks : Obligations.LastGaspSealsAndMarks := by
  refine ⟨fun g p s awake runs signs => seal_holds awake runs signs,
    fun g s awake runs => ⟨fun c core => seal_fails awake runs core, fun p ps light places => seal_retries awake runs light places⟩,
    fun flags v ms s awake due runs level => ?_⟩
  have free := markFree_of runs level
  exact ⟨fun ready up places => mark_recorded awake due free ready up places, fun locked =>
    ⟨_, onDev_to awake (writeMark_locked due free locked), same_const awake rfl, keeps_const (keeps_modSup _ _), rfl⟩⟩

end Sys2Proof.Machine
end
section
/-!
PHRASE and its templates (O36).
-/

namespace Sys2Proof.Machine

/-! ### A template's place among the sentences (15 R366) -/

section
variable {psid : Nat} {x : Sentence}

theorem mem_placeAfter : ∀ {l : List Sentence}, (∃ s ∈ l, s.sid = psid) → x ∈ placeAfter psid x l
  | [], ⟨_, there, _⟩ => by cases there
  | s :: l, ⟨y, there, sid⟩ => by
    rw [placeAfter]
    split
    · exact List.mem_cons_of_mem _ List.mem_cons_self
    · next other =>
      obtain rfl | later := List.mem_cons.1 there
      · exact absurd sid other
      · exact List.mem_cons_of_mem _ (mem_placeAfter ⟨y, later, sid⟩)

/-- The sentence of the phrase is found as before. -/
theorem find?_placeAfter {l : List Sentence} {s : Sentence} (found : l.find? (fun y => decide (y.sid = psid)) = some s) :
    (placeAfter psid x l).find? (fun y => decide (y.sid = psid)) = some s := by
  induction l with
  | nil => cases found
  | cons y l ih =>
    rw [placeAfter]
    split
    · next own =>
      rw [List.find?_cons_of_pos (by simpa using own)] at found ⊢
      exact found
    · next other =>
      rw [List.find?_cons_of_neg (by simpa using other)] at found ⊢
      exact ih found

/-- What no sentence was is found to be the new one. -/
theorem find?_placeAfter_new {p : Sentence → Bool} (new : p x = true) : ∀ {l : List Sentence}, (∀ y ∈ l, p y = false) →
    (∃ s ∈ l, s.sid = psid) → (placeAfter psid x l).find? p = some x
  | [], _, ⟨_, there, _⟩ => by cases there
  | s :: l, none_, ⟨y, there, sid⟩ => by
    have head : p s = false := none_ s List.mem_cons_self
    rw [placeAfter]
    split
    · simp [head, new]
    · next other =>
      rw [List.find?_cons_of_neg (by simp [head])]
      obtain rfl | later := List.mem_cons.1 there
      · exact absurd sid other
      · exact find?_placeAfter_new new (fun z hz => none_ z (List.mem_cons_of_mem _ hz)) ⟨y, later, sid⟩

end

/-- No taken sentence of channel `n` is a template of the phrase `psid`. -/
def Dev.NoTemplate (d : Dev) (n : Chn) (psid : Nat) : Prop := ∀ z ∈ (d.chan n).sents, z.parent.map (·.sid) ≠ some psid

theorem Dev.NoTemplate.childOf {d : Dev} {n : Chn} {psid : Nat} (h : d.NoTemplate n psid) : d.childOf n psid = none := by
  rw [Dev.childOf, List.find?_eq_none]
  exact fun z hz => by simpa using h z hz

theorem Dev.NoTemplate.modJob {d : Dev} {n : Chn} {psid : Nat} (h : d.NoTemplate n psid) (sid : Nat) (f : Job → Job) :
    (modJob n sid f d).NoTemplate n psid := by
  intro z hz
  rw [Machine.modJob, chan_modSent] at hz
  obtain ⟨y, hy, rfl⟩ := List.mem_map.1 hz
  split
  · exact h y hy
  · exact h y hy

theorem sent_there {d : Dev} {n : Chn} {x : Sentence} {sid : Nat} (h : d.sent n sid = some x) :
    ∃ y ∈ (d.chan n).sents, y.sid = sid :=
  ⟨x, List.mem_of_find?_eq_some h, by simpa using List.find?_some h⟩

/-! ### A phrase goes on (15 R366) -/

/-- The core with the clause `w` of a template taken as work of the phrase of sentence `s`. -/
def templateTaken (n : Chn) (s : Sentence) (u : Clause) (r : PhraseRun) (w : Clause) (d : Dev) : Dev :=
  modChan n (fun ch => { ch with
    sents := placeAfter s.sid (templateSent ch.nextSid s.sid s.idx u r w) ch.sents, nextSid := ch.nextSid + 1 }) d

section
variable {n : Chn} {s : Sentence} {u : Clause} {j : Job} {r : PhraseRun} {k : Nat} {d : Dev}

theorem phraseNext_last (last : r.count ≤ k) : phraseNext n s u j r k d
    = modJob n s.sid (fun j => { j with phrase := some r, result := some ⟨.ok, r.out, r.w2, [], []⟩ }) d := if_pos last

theorem phraseNext_unput (more : k < r.count) (none_ : substTemplate { r with idx := k } u j.params k = none) :
    phraseNext n s u j r k d = modJob n s.sid (fun j => { j with
      phrase := some { r with idx := k }
      result := some ⟨.badHandle, r.out, ({ r with idx := k } : PhraseRun).w2, [], []⟩ }) d := by
  rw [phraseNext, if_neg (Nat.not_le.2 more)]
  simp only [none_]

theorem phraseNext_takes {w : Clause} (more : k < r.count)
    (put : substTemplate { r with idx := k } u j.params k = some w) : phraseNext n s u j r k d
      = templateTaken n s u { r with idx := k } w (modJob n s.sid (fun j => { j with phrase := some { r with idx := k } }) d) := by
  rw [phraseNext, if_neg (Nat.not_le.2 more)]
  simp only [put]
  rfl

theorem templateTaken_frame (w : Clause) : ChanFrame n d (templateTaken n s u r w d)
    ∧ ((templateTaken n s u r w d).chan n).rings = (d.chan n).rings :=
  ⟨ChanFrame.modChan n _ d, by rw [templateTaken, chan_modChan_same]⟩

theorem templateTaken_sents (w : Clause) : ((templateTaken n s u r w d).chan n).sents
    = placeAfter s.sid (templateSent (d.chan n).nextSid s.sid s.idx u r w) (d.chan n).sents := by
  rw [templateTaken, chan_modChan_same]

theorem templateTaken_sent {x : Sentence} (sent : d.sent n s.sid = some x) (w : Clause) :
    (templateTaken n s u r w d).sent n s.sid = some x := by
  rw [Dev.sent, templateTaken_sents]
  exact find?_placeAfter sent

theorem templateTaken_child {x : Sentence} (sent : d.sent n s.sid = some x) (none_ : d.NoTemplate n s.sid) (w : Clause) :
    (templateTaken n s u r w d).childOf n s.sid = some (templateSent (d.chan n).nextSid s.sid s.idx u r w) := by
  rw [Dev.childOf, templateTaken_sents]
  exact find?_placeAfter_new (by simp [templateSent]) (fun y hy => by simpa using none_ y hy) (sent_there sent)

end

/-! ### The end of a template's clause (15 R366) -/

/-- From `d` to `e` no reset is made, and of the channels `n` alone changes, but not its CPL pair. -/
structure CplKept (n : Chn) (d e : Dev) : Prop where
  rst : e.rst = d.rst
  others : OthersKept n d e
  cpl : (e.chan n).rings.cpl = (d.chan n).rings.cpl

theorem CplKept.trans {n : Chn} {d e f : Dev} (h : CplKept n d e) (h' : CplKept n e f) : CplKept n d f :=
  ⟨h'.rst.trans h.rst, fun m hm => (h'.others m hm).trans (h.others m hm), h'.cpl.trans h.cpl⟩

theorem CplKept.of_chans {n : Chn} {d e : Dev} (rst : e.rst = d.rst) (h : e.chans = d.chans) : CplKept n d e :=
  ⟨rst, fun m _ => chan_of h m, by rw [chan_of h]⟩

theorem CplKept.modChan {n : Chn} {f : Chan → Chan} {d : Dev} (h : (f (d.chan n)).rings.cpl = (d.chan n).rings.cpl) :
    CplKept n d (modChan n f d) := ⟨rfl, fun _ hm => chan_modChan_other hm f d, by rw [chan_modChan_same, h]⟩

theorem CplKept.modJob (n : Chn) (sid : Nat) (f : Job → Job) (d : Dev) : CplKept n d (modJob n sid f d) := by
  unfold Machine.modJob modSent
  exact CplKept.modChan rfl

/-- So it is, and the sentences of channel `n` are the same. -/
structure SentsKept (n : Chn) (d e : Dev) : Prop extends CplKept n d e where
  sents : (e.chan n).sents = (d.chan n).sents

theorem SentsKept.trans {n : Chn} {d e f : Dev} (h : SentsKept n d e) (h' : SentsKept n e f) : SentsKept n d f :=
  ⟨h.toCplKept.trans h'.toCplKept, h'.sents.trans h.sents⟩

theorem SentsKept.of_move {n : Chn} {ps : List Part} {d e : Dev} (rst : e.rst = d.rst) (h : RingMove n ps id id d e) :
    SentsKept n d e := ⟨⟨rst, h.others, congrArg Rings.cpl h.rings⟩, h.sents⟩

theorem SentsKept.of_chans {n : Chn} {d e : Dev} (rst : e.rst = d.rst) (h : e.chans = d.chans) : SentsKept n d e :=
  ⟨.of_chans rst h, by rw [chan_of h]⟩

/-- What a template writes goes into its phrase's record or a buffer. -/
theorem finishOut_template {j : Job} (own : j.dst ≠ .ring) (n : Chn) (sid : Nat) (u : Clause) (st : Status) (out : Bytes)
    (w1 : Nat) (d : Dev) : SentsKept n d (finishOut n sid j u st out w1 d).1
      ∧ (finishOut n sid j u st out w1 d).2 = j.w3hi u st d.pool := by
  cases hd : j.dst with
  | none =>
    simp only [finishOut, Job.w3hi, hd]
    exact ⟨.of_chans rfl rfl, trivial⟩
  | ring => exact absurd hd own
  | append off =>
    simp only [finishOut, Job.w3hi, hd]
    refine ⟨⟨CplKept.modChan ?_, by rw [modRings, chan_modChan_same]⟩, trivial⟩
    dsimp only
    split
    · unfold Rings.writeOpen
      split <;> rfl
    · rfl
  | buf f off =>
    simp only [finishOut, Job.w3hi, hd]
    exact ⟨.of_chans rfl rfl, trivial⟩
  | alloc f =>
    simp only [finishOut, Job.w3hi, hd]
    split
    · exact ⟨.of_chans (freeBuf_rst f d) (freed_freeBuf f d).chans, rfl⟩
    · exact ⟨.of_chans rfl rfl, rfl⟩

/-- The scratch buffer a template leaves to its phrase. -/
def Job.newBuf (j : Job) (st : Status) (p : Pool) : Option Nat :=
  match j.dst with
  | .alloc f => if st.failure then none else some (p.handle f)
  | _ => none

theorem newBuf_eq {j : Job} {u : Clause} (alloc : hi16 u.w4 = 0xFFFD ↔ ∃ f, j.dst = .alloc f) (st : Status) (p : Pool) :
    (if hi16 u.w4 = 0xFFFD ∧ st.failure = false then some (j.w3hi u st p) else none) = j.newBuf st p := by
  cases hd : j.dst with
  | alloc f => cases fails : st.failure <;> simp [alloc.2 ⟨f, hd⟩, fails, Job.w3hi, Job.newBuf, hd]
  | _ =>
    have no : hi16 u.w4 ≠ 0xFFFD := fun he => by
      obtain ⟨f, hf⟩ := alloc.1 he
      rw [hd] at hf
      cases hf
    simp [no, Job.newBuf, hd]

theorem endWork_template {j : Job} (own : j.dst ≠ .ring) (n : Chn) (y : Sentence) (u : Clause) (st : Status) (out : Bytes)
    (w1 : Nat) (es : List Effect) (d : Dev) : SentsKept n d (endWork n y j u st out w1 es d).1
      ∧ (endWork n y j u st out w1 es d).2 = j.w3hi u st d.pool := by
  have left := RingMove.leave (LeaveFrame.engine n y j d)
  have pool : (leaveEngine n y j d).pool = d.pool := left.keeps .pool (by decide) (by decide)
  obtain ⟨put, w3⟩ := finishOut_template own n ((y.parent.map (·.sid)).getD y.sid) u st out w1 (leaveEngine n y j d)
  have rst := endWork_rst n y j u st out w1 es d
  rw [endWork_eq] at rst ⊢
  refine ⟨?_, w3.trans (by rw [pool])⟩
  have worked := (SentsKept.of_move (LeaveFrame.engine n y j d).r left).trans put
  dsimp only at rst ⊢
  generalize finishOut n ((y.parent.map (·.sid)).getD y.sid) j u st out w1 (leaveEngine n y j d) = fo at worked rst ⊢
  have rest : RingMove n (.pool :: effectParts) id id fo.1
      (freeScratch ((j.phrase.map (·.scratch)).getD []) (giveBack n j st (es.foldl (applyEffect n) fo.1))) :=
    (((RingMove.foldl (applyEffect_move n) es fo.1).mono).trans (giveBack_move n j st _).mono).trans
      ((freed_freeScratch _ _).move n).mono
  exact ⟨⟨rst, fun m hm => (rest.others m hm).trans (worked.others m hm), (congrArg Rings.cpl rest.rings).trans worked.cpl⟩,
    rest.sents.trans worked.sents⟩

section
variable {n : Chn} {x y : Sentence} {c u : Clause} {p : Parent} {j g : Job} {r : JobResult} {q : PhraseRun} {s : State}
  (h : s.templateAtEnd n x y c u p j g r q)
include h

theorem completeClause_template (key : persistentKey r.good = none ∨ r.status.failure = true) :
    completeClause .none n y.sid s.dev
      = finishTemplate n y p j r.status r.out (if r.status.failure then r.bad else r.good) s.dev := by
  obtain ⟨-, working, -, -, sent, job, clause, parent, -, -, -, -, -, -, -, -, -, run, noAbort, steps, -, result, mid, raced,
    replay, halts, -⟩ := h
  have same : endResult .none n u j r s.dev = r := by simp [endResult, replay, raced]
  have stored : (r.status == .ok && (persistentKey r.good).isSome) = false := by
    obtain none_ | fails := key
    · rw [none_]; exact Bool.and_false _
    · have bad : r.status ≠ .ok := fun ok => by rw [ok] at fails; cases fails
      simp [bad]
  simp [completeClause, sent, job, clause, run, working, halts, completeJob, Job.step, steps, endClause, result, noAbort,
    same, mid, raced, stored, bookError, finishClause, parent]

/-- What a template leaves with its phrase. -/
theorem finishTemplate_ends {st : Status} {out : Bytes} {es : List Effect} : ∃ d, SentsKept n s.dev d
    ∧ finishTemplate n y p j st out es s.dev = releaseDying n (templateEnds n y p st
        (if hi16 u.w4 = 0xFFFE then (if st.failure then zeros (max j.written out.length) else out) else [])
        (if hi16 u.w2 = 0xFFFF then (if st.failure then j.input.length else u.inLen) else 0)
        (j.newBuf st s.dev.pool) d) := by
  obtain ⟨-, -, -, good, -, -, clause, -, -, -, -, -, -, -, -, -, -, -, -, -, -, -, -, -, -, -, alloc, own⟩ := h
  have calm : checkOut n y j s.dev = (j, s.dev) := by
    have scrubbed : scrubRing n s.dev .out = s.dev := scrubRing_good (good .out)
    unfold checkOut
    cases hd : j.dst with
    | ring => exact absurd hd own
    | append _ => dsimp only; rw [scrubbed]
    | _ => rfl
  obtain ⟨worked, w3⟩ := endWork_template own n y u st out (if st.failure then max j.written out.length else out.length) es s.dev
  refine ⟨_, worked, ?_⟩
  simp only [finishTemplate, clause, calm, w3]
  rw [newBuf_eq alloc]
  cases fails : st.failure <;> simp

end

/-- The end of a template, where its phrase runs on: the phrase fails with it or goes on. -/
theorem templateEnds_settles {n : Chn} {x y : Sentence} {c : Clause} {p : Parent} {g : Job} {q : PhraseRun} {d : Dev}
    (sent : (removeSent n y.sid d).sent n p.sid = some x) (job : x.job = some g) (clause : x.clauses[x.idx]? = some c)
    (phrase : g.phrase = some q) (noAbort : g.abort = false) (st : Status) (put : Bytes) (used : Nat) (buf : Option Nat)
    {v : PhraseRun} (hv : v = { q with used := q.used + used, out := q.out ++ put, scratch := buf.toList ++ q.scratch }) :
    templateEnds n y p st put used buf d
      = if st.failure then phraseFails n x v st
          (modJob n p.sid (fun _ => { g with phrase := some v, written := v.out.length }) (removeSent n y.sid d))
        else phraseNext n x c { g with phrase := some v, written := v.out.length } v (v.idx + 1)
          (modJob n p.sid (fun _ => { g with phrase := some v, written := v.out.length }) (removeSent n y.sid d)) := by
  subst hv
  simp only [templateEnds, sent, job, clause, phrase, noAbort]
  rfl

theorem cplKept_releaseDying (n : Chn) (d : Dev) : CplKept n d (releaseDying n d) :=
  .of_chans (releaseDying_rst n d) (freed_releaseDying n d).chans

theorem releaseDying_sent (n : Chn) (d : Dev) (m : Chn) (sid : Nat) : (releaseDying n d).sent m sid = d.sent m sid := by
  rw [Dev.sent, Dev.sent, chan_of (freed_releaseDying n d).chans]

theorem releaseDying_childOf (n : Chn) (d : Dev) (m : Chn) (sid : Nat) :
    (releaseDying n d).childOf m sid = d.childOf m sid := by
  rw [Dev.childOf, Dev.childOf, chan_of (freed_releaseDying n d).chans]

/-- A phrase whose template has ended, with the job `g` that knows of it, and no other template: how it goes on. -/
theorem phraseNext_settles {n : Chn} {x : Sentence} {c : Clause} {g : Job} {v : PhraseRun} {d : Dev}
    (sent : d.sent n x.sid = some { x with job := some g }) (none_ : d.NoTemplate n x.sid) (noResult : g.result = none) :
    ∃ g', CplKept n d (phraseNext n x c g v (v.idx + 1) d)
      ∧ (phraseNext n x c g v (v.idx + 1) d).sent n x.sid = some { x with job := some g' }
      ∧ (v.count ≤ v.idx + 1 → g'.result = some ⟨.ok, v.out, v.w2, [], []⟩
        ∧ (phraseNext n x c g v (v.idx + 1) d).childOf n x.sid = none)
      ∧ (v.idx + 1 < v.count →
        (∀ w, substTemplate { v with idx := v.idx + 1 } c g.params (v.idx + 1) = some w →
          g'.result = none ∧ g'.phrase = some { v with idx := v.idx + 1 }
            ∧ ∃ z, (phraseNext n x c g v (v.idx + 1) d).childOf n x.sid = some z ∧ z.clauses = [w] ∧ z.job = none)
        ∧ (substTemplate { v with idx := v.idx + 1 } c g.params (v.idx + 1) = none →
          g'.result = some ⟨.badHandle, v.out, (v.idx + 1) * 2 ^ 28 + v.used, [], []⟩)) := by
  by_cases last : v.count ≤ v.idx + 1
  · rw [phraseNext_last last]
    exact ⟨_, CplKept.modJob .., sent_modJob sent _, fun _ => ⟨rfl, (none_.modJob _ _).childOf⟩,
      fun more => absurd last (Nat.not_le.2 more)⟩
  · have more := Nat.not_le.1 last
    cases put : substTemplate { v with idx := v.idx + 1 } c g.params (v.idx + 1) with
    | none =>
      rw [phraseNext_unput more put]
      exact ⟨_, CplKept.modJob .., sent_modJob sent _, fun h => absurd h last, fun _ => ⟨nofun, fun _ => rfl⟩⟩
    | some w =>
      rw [phraseNext_takes more put]
      have marked := sent_modJob sent (fun j => { j with phrase := some { v with idx := v.idx + 1 } })
      refine ⟨_, (CplKept.modJob ..).trans (CplKept.modChan rfl), templateTaken_sent marked w, fun h => absurd h last,
        fun _ => ⟨fun w' same => ?_, nofun⟩⟩
      cases same
      exact ⟨noResult, rfl, _, templateTaken_child marked (none_.modJob _ _) w, rfl, rfl⟩

/-- The sentence of the phrase once its template is gone. -/
theorem removeSent_leaves {n : Chn} {x y : Sentence} {d : Dev} (sent : d.sent n x.sid = some x) (other : y.sid ≠ x.sid)
    (only : ∀ z ∈ (d.chan n).sents, z.parent.map (·.sid) = some x.sid → z.sid = y.sid) :
    (removeSent n y.sid d).sent n x.sid = some x ∧ (removeSent n y.sid d).NoTemplate n x.sid := by
  have sents : ((removeSent n y.sid d).chan n).sents = (d.chan n).sents.filter (fun z => z.sid != y.sid) := by
    rw [removeSent, chan_modChan_same]
  refine ⟨?_, fun z hz child => ?_⟩
  · rw [Dev.sent, sents, List.find?_filter, ← sent, Dev.sent]
    congr 1
    funext z
    by_cases own : z.sid = x.sid
    · simp [own, other.symm]
    · simp [own]
  · rw [sents] at hz
    obtain ⟨there, kept⟩ := List.mem_filter.1 hz
    exact bne_iff_ne.1 kept (only z there child)

/-- A template's clause that ends leaves its phrase with a result, or the next template. -/
theorem template_ends {n : Chn} {x y : Sentence} {c u : Clause} {p : Parent} {j g : Job} {r : JobResult} {q v : PhraseRun}
    {s : State} (h : s.templateAtEnd n x y c u p j g r q) (key : persistentKey r.good = none ∨ r.status.failure = true)
    (hv : v = { q with
      used := q.used + (if hi16 u.w2 = 0xFFFF then (if r.status.failure then j.input.length else u.inLen) else 0)
      out := q.out ++ (if hi16 u.w4 = 0xFFFE then
        (if r.status.failure then zeros (max j.written r.out.length) else r.out) else [])
      scratch := (j.newBuf r.status s.dev.pool).toList ++ q.scratch }) :
    ∃ e g', Judges (.clauseComplete n y.sid .none) s n e ∧ OthersKept n s.dev e
      ∧ e.sent n x.sid = some { x with job := some g' } ∧ (e.chan n).rings.cpl = (s.dev.chan n).rings.cpl
      ∧ (r.status.failure = true → g'.result = some ⟨r.status, v.out, v.w2, [], []⟩ ∧ e.childOf n x.sid = none)
      ∧ (r.status.failure = false →
        (v.count ≤ v.idx + 1 → g'.result = some ⟨.ok, v.out, v.w2, [], []⟩ ∧ e.childOf n x.sid = none)
        ∧ (v.idx + 1 < v.count →
          (∀ w, substTemplate { v with idx := v.idx + 1 } c g.params (v.idx + 1) = some w →
            g'.result = none ∧ g'.phrase = some { v with idx := v.idx + 1 }
              ∧ ∃ z, e.childOf n x.sid = some z ∧ z.clauses = [w] ∧ z.job = none)
          ∧ (substTemplate { v with idx := v.idx + 1 } c g.params (v.idx + 1) = none →
            g'.result = some ⟨.badHandle, v.out, (v.idx + 1) * 2 ^ 28 + v.used, [], []⟩))) := by
  have completes := completeClause_template h key
  obtain ⟨d, worked, ends⟩ := finishTemplate_ends h (st := r.status) (out := r.out)
    (es := if r.status.failure then r.bad else r.good)
  obtain ⟨awake, -, -, good, -, -, -, -, phraseSid, other, only, sent, job, clause, phrase, noResult, noAbort, -⟩ := h
  have sentD : d.sent n x.sid = some x := by rw [Dev.sent, worked.sents]; exact sent
  obtain ⟨left, none_⟩ := removeSent_leaves sentD other (by rw [worked.sents]; exact only)
  have settles := templateEnds_settles (y := y) (d := d) (by rw [phraseSid]; exact left) job clause phrase noAbort r.status
    (if hi16 u.w4 = 0xFFFE then (if r.status.failure then zeros (max j.written r.out.length) else r.out) else [])
    (if hi16 u.w2 = 0xFFFF then (if r.status.failure then j.input.length else u.inLen) else 0)
    (j.newBuf r.status s.dev.pool) hv
  rw [← completes, settles] at ends
  rw [phraseSid] at ends
  have removed : CplKept n d (removeSent n y.sid d) := CplKept.modChan rfl
  have marked := sent_modJob (sent_job left job) (fun _ => { g with phrase := some v, written := v.out.length })
  have alone := none_.modJob x.sid (fun _ => { g with phrase := some v, written := v.out.length })
  have frame := (worked.toCplKept.trans removed).trans
    (CplKept.modJob n x.sid (fun _ => { g with phrase := some v, written := v.out.length }) _)
  generalize modJob n x.sid (fun _ => { g with phrase := some v, written := v.out.length }) (removeSent n y.sid d) = D
    at ends marked alone frame
  have judges {E : Dev} (kept : CplKept n D E) (ended : completeClause .none n y.sid s.dev = releaseDying n E) :
      CplKept n s.dev (releaseDying n E) ∧ Judges (.clauseComplete n y.sid .none) s n (releaseDying n E) := by
    have all := (frame.trans kept).trans (cplKept_releaseDying n E)
    have completed : (fun d => judgeFresh n (completeClause .none n y.sid (scrubChan d n))) s.dev
        = judgeFresh n (releaseDying n E) := by
      rw [← ended]
      simp only [scrubChan_good good]
    exact ⟨all, all.rst.trans awake.2, onDev_to awake completed⟩
  cases fails : r.status.failure with
  | true =>
    rw [if_pos fails] at ends
    obtain ⟨all, judged⟩ := judges (E := phraseFails n x v r.status D) (CplKept.modJob ..) ends
    exact ⟨_, _, judged, all.others, (releaseDying_sent ..).trans (sent_modJob marked _), all.cpl,
      fun _ => ⟨rfl, (releaseDying_childOf ..).trans (alone.modJob _ _).childOf⟩, nofun⟩
  | false =>
    rw [if_neg (by rw [fails]; decide)] at ends
    obtain ⟨g', kept, sent', last, more⟩ := phraseNext_settles (c := c) (v := v) marked alone noResult
    obtain ⟨all, judged⟩ := judges kept ends
    refine ⟨_, g', judged, all.others, (releaseDying_sent ..).trans sent', all.cpl, nofun, fun _ => ?_⟩
    rw [releaseDying_childOf]
    exact ⟨last, more⟩

/-! ### A PHRASE clause is dispatched (08 R173; 15 R366) -/

/-- A PHRASE clause that passes its checks puts nothing in a new buffer. -/
theorem phraseVerb_noBuffer {a : Ask} (passes : phraseVerb.judge a = none) : hi16 a.c.w4 ≠ 0xFFFD := by
  intro buffer
  have own : phraseVerb.own a = some .badParam := by simp [phraseVerb, firstFail, buffer]
  rw [VerbSpec.judge, own] at passes
  cases first : a.d.preChecks a.n a.c a.fits <;> cases second : a.d.check10 a.n (phraseVerb.plan a) <;>
    simp [first, second] at passes

section
variable {n : Chn} {x : Sentence} {c : Clause} {d : Dev}

/-- The output of a clause that is no template and allocates no buffer: its OUT record opened, or nothing yet. -/
theorem openDst_root (good : (d.chan n).rings.out.good = true) (root : x.parent = none) (noBuffer : hi16 c.w4 ≠ 0xFFFD) :
    ChanFrame n d (openDst n x c d).2
      ∧ ((openDst n x c d).2.chan n).rings = (if hi16 c.w4 = 0xFFFE then
          (d.chan n).rings.openOut (recBytes c.outCap) x.sid else (d.chan n).rings) := by
  have calm : scrubRing n d .out = d := scrubRing_good good
  simp only [openDst, calm, root]
  by_cases ring : hi16 c.w4 = 0xFFFE
  · rw [if_pos ring, if_pos ring]
    dsimp only
    exact ⟨ChanFrame.modChan .., by rw [modRings, chan_modChan_same]⟩
  · rw [if_neg ring, if_neg ring, if_neg noBuffer]
    split
    · exact ⟨ChanFrame.refl n d, rfl⟩
    · exact ⟨ChanFrame.refl n d, rfl⟩

theorem consumeStream_rings (n : Chn) (x : Sentence) (c : Clause) (k : Nat) (d : Dev) :
    ((consumeStream n x c k d).chan n).rings = (d.chan n).rings := by
  unfold consumeStream
  split
  · rw [chan_modChan_same]
  · rfl

theorem settleResult_rings (v : VerbSpec) (n : Chn) (sid : Nat) (c : Clause) (j : Job) (pre d : Dev) :
    ((settleResult v n sid c j pre d).chan n).rings = (d.chan n).rings := by
  have put (f : Sentence → Sentence) : ((modSent n sid f d).chan n).rings = (d.chan n).rings := by rw [chan_modSent]
  unfold settleResult
  split
  · exact put _
  · exact put _

/-- A clause that reads no input of its own has at most the result of its verb. -/
theorem gather_noInput {v : VerbSpec} {j : Job} {pre : Dev} (sent : d.sent n x.sid = some { x with sel := none })
    (none_ : nextLen c 0 = 0) (fresh : j.input = []) (params : pre.brokenIn (hi16 c.w6) (lo16 c.w6) c.parLen = false) :
    ChanFrame n d (gather v n x c j pre d)
      ∧ (∃ inp, (gather v n x c j pre d).sent n x.sid = some { x with
        wait := .none, sel := none, job := some (({ j with input := inp } : Job).settled v n c pre) })
      ∧ ((gather v n x c j pre d).chan n).rings = (d.chan n).rings := by
  have waits : (noteWait n x.sid .none d).sent n x.sid = some { x with wait := .none, sel := none } :=
    sent_modSent (x := { x with sel := none }) (fun _ => rfl) sent
  have read := (sent_consumeStream n x c 0 (noteWait n x.sid .none d) x.sid).trans waits
  have whole : pre.brokenIn (hi16 c.w2) (lo16 c.w2) 0 = false := by simp [Dev.brokenIn]
  have settles : gather v n x c j pre d = settleResult v n x.sid c { j with input := pre.inputBytes n x c 0 0 } pre
      (consumeStream n x c 0 (noteWait n x.sid .none d)) := by
    simp [gather, fresh, none_, whole, params]
  obtain ⟨frame, sent', -⟩ := settleResult_spec (x := { x with wait := .none, sel := none }) (c := c)
    (j := { j with input := pre.inputBytes n x c 0 0 }) v pre read
  rw [settles]
  refine ⟨((ChanFrame.modChan n _ d).trans (ChanFrame.consumeStream ..)).trans frame, ⟨_, sent'⟩, ?_⟩
  rw [settleResult_rings, consumeStream_rings, noteWait, chan_modSent]

end

section
variable {n : Chn} {x : Sentence} {c : Clause} {s : State}

theorem dispatchVerb_phrase (h : s.atClause n x c) (root : x.parent = none) (verb : c.verb = 0x65) (holds : x.holds = false)
    (sel : x.sel = none) (store : phraseVerb.awaitsStore (s.dev.ask n x c) = false)
    (passes : phraseVerb.judge (s.dev.ask n x c) = none) (noWait : s.dev.bodyWait n x c = none)
    (picked : s.dev.pick .service = some (n, x.sid)) : ∃ y d, y.eng = 16 ∧ TagsMove s.dev d
      ∧ dispatchVerb 0x65 phraseVerb n x.sid s.dev = dispatchNow phraseVerb (s.dev.ask n x c) x y d := by
  obtain ⟨-, work, active, good, sent, job, clause, short⟩ := h
  have next : x.next 0x65 = some c := by simp [Sentence.next, job, clause, verb]
  have cls : s.dev.workClass x c = some .service := by simp [Dev.workClass, hashFirst, verb, root, verbClass]
  have noCkpt : s.dev.needsCkpt (((phraseVerb.plan (s.dev.ask n x c)).charges).filter (fun y => isPer y.1)) = none := rfl
  have class_ : (verbClass 0x65).isNone = false := by decide
  have judged : dispatchVerb 0x65 phraseVerb n x.sid s.dev = dispatchOrWait phraseVerb (s.dev.ask n x c) x s.dev := by
    simp [dispatchVerb, scrubChan_good good, judgeNext, sent, next, work, active, holds, class_, short, judgeAndStart,
      store, passes, noWait, noCkpt]
  refine ⟨(selectFor .service n (x.ranksP .service) 16 [] s.dev).1, (selectFor .service n (x.ranksP .service) 16 [] s.dev).2,
    rfl, .select .., ?_⟩
  have who : (s.dev.ask n x c).n = n := rfl
  have what : (s.dev.ask n x c).c = c := rfl
  have needs : phraseVerb.needs (s.dev.ask n x c) 16 = [] := by
    have noBuffer := phraseVerb_noBuffer passes
    rw [what] at noBuffer
    simp [VerbSpec.needs, jobDoms, Dev.allocDoms, what, noBuffer]
  rw [judged]
  simp only [dispatchOrWait, sel, what, cls, pickAndStart, who, picked, if_true, beq_self_eq_true]
  have on (d : Dev) : d.allOn (phraseVerb.needs (s.dev.ask n x c) 16) = true := by rw [needs]; rfl
  exact if_pos (on _)

/-- The job of a dispatched PHRASE, before its templates. -/
theorem dispatchNow_phrase (h : s.atClause n x c) (root : x.parent = none) (verb : c.verb = 0x65)
    (passes : phraseVerb.judge (s.dev.ask n x c) = none)
    (params : s.dev.brokenIn (hi16 c.w6) (lo16 c.w6) c.parLen = false) {y : Sel} {d : Dev} (eng : y.eng = 16)
    (move : TagsMove s.dev d) : ∃ j, ChanFrame n s.dev (dispatchNow phraseVerb (s.dev.ask n x c) x y d)
      ∧ (dispatchNow phraseVerb (s.dev.ask n x c) x y d).sent n x.sid
        = some { x with wait := .none, sel := none, job := some j }
      ∧ j.verb = 0x65 ∧ j.engine = 0x30 ∧ j.phase = .run ∧ j.params = s.dev.params c
      ∧ ((j.result.map (fun r => r.status.failure)).getD false) = false
      ∧ ((dispatchNow phraseVerb (s.dev.ask n x c) x y d).chan n).rings = (if hi16 c.w4 = 0xFFFE then
          (s.dev.chan n).rings.openOut (recBytes c.outCap) x.sid else (s.dev.chan n).rings) := by
  obtain ⟨-, -, -, good, sent, -⟩ := h
  have unselects : drawn phraseVerb (s.dev.ask n x c) x d = modSent n x.sid (fun s => { s with sel := none }) d := rfl
  have unselected : ChanFrame n d (drawn phraseVerb (s.dev.ask n x c) x d) := by
    rw [unselects]
    exact ChanFrame.modChan n _ d
  have chan : (drawn phraseVerb (s.dev.ask n x c) x d).chan n
      = (modSent n x.sid (fun s => { s with sel := none }) d).chan n := rfl
  have rings : ((drawn phraseVerb (s.dev.ask n x c) x d).chan n).rings = (s.dev.chan n).rings := by
    rw [chan, chan_modSent, chan_of move.chans]
  obtain ⟨opened, outRings⟩ := openDst_root (d := drawn phraseVerb (s.dev.ask n x c) x d) (c := c)
    (by rw [rings]; exact good .out) root (phraseVerb_noBuffer passes)
  have frame : ChanFrame n s.dev (openDst n x c (drawn phraseVerb (s.dev.ask n x c) x d)).2 :=
    ((move.frame n).trans unselected).trans opened
  have stands : (openDst n x c (drawn phraseVerb (s.dev.ask n x c) x d)).2.sent n x.sid = some { x with sel := none } := by
    rw [Dev.sent, openDst_sents (by rw [rings]; exact good .out), chan]
    exact sent_modSent (f := fun s => { s with sel := none }) (fun _ => rfl) ((move.sent n x.sid).trans sent)
  have still : startProg n c y.eng (openDst n x c (drawn phraseVerb (s.dev.ask n x c) x d)).2
      = (openDst n x c (drawn phraseVerb (s.dev.ask n x c) x d)).2 := if_neg (by rw [eng]; decide)
  obtain ⟨gathered, ⟨inp, sent'⟩, rings'⟩ := gather_noInput (v := phraseVerb)
    (j := firstJob phraseVerb (s.dev.ask n x c) x y (openDst n x c (drawn phraseVerb (s.dev.ask n x c) x d)).1 (some []))
    stands (if_pos verb) rfl params
  have dispatched : dispatchNow phraseVerb (s.dev.ask n x c) x y d = gather phraseVerb n x c
      (firstJob phraseVerb (s.dev.ask n x c) x y (openDst n x c (drawn phraseVerb (s.dev.ask n x c) x d)).1 (some [])) s.dev
      (openDst n x c (drawn phraseVerb (s.dev.ask n x c) x d)).2 := by
    rw [dispatchNow_ask, still]
    rfl
  rw [dispatched]
  refine ⟨_, frame.trans gathered, sent', ?_⟩
  rw [rings', outRings, rings]
  unfold Job.settled
  split
  · exact ⟨verb, congrArg engIdOf eng, rfl, rfl, rfl, rfl⟩
  · exact ⟨verb, congrArg engIdOf eng, rfl, rfl, rfl, rfl⟩

end

/-! ### The first template -/

theorem modJob_rings (n : Chn) (sid : Nat) (f : Job → Job) (d : Dev) : ((modJob n sid f d).chan n).rings = (d.chan n).rings := by
  rw [modJob, chan_modSent]

theorem templateTaken_mem {n : Chn} {x x' : Sentence} {c : Clause} {q : PhraseRun} {d : Dev} (sent : d.sent n x'.sid = some x)
    (w : Clause) : templateSent (d.chan n).nextSid x'.sid x'.idx c q w ∈ ((templateTaken n x' c q w d).chan n).sents := by
  rw [templateTaken_sents]
  exact mem_placeAfter (sent_there sent)

/-- The first template of a phrase taken, or its words cannot be put in. -/
theorem phraseNext_first {n : Chn} {x x' : Sentence} {c : Clause} {g j : Job} {q : PhraseRun} {d : Dev}
    (some_ : 36 ≤ q.tmpl.length) (idx : q.idx = 0) (out : q.out = []) (used : q.used = 0) (same : x'.sid = x.sid)
    (sent : d.sent n x.sid = some { x with job := some g }) (noResult : g.result = none) :
    ∃ g', ChanFrame n d (phraseNext n x' c j q 0 d)
      ∧ (phraseNext n x' c j q 0 d).sent n x.sid = some { x with job := some g' }
      ∧ ((phraseNext n x' c j q 0 d).chan n).rings = (d.chan n).rings
      ∧ g' = { g with phrase := some q, result := g'.result }
      ∧ (∀ u, substTemplate q c j.params 0 = some u → g'.result = none
        ∧ ∃ y ∈ ((phraseNext n x' c j q 0 d).chan n).sents, y.parent.map (·.sid) = some x.sid ∧ y.clauses = [u] ∧ y.idx = 0
          ∧ y.prio = true ∧ y.fence = false ∧ y.job = none)
      ∧ (substTemplate q c j.params 0 = none → g'.result = some ⟨.badHandle, [], 0, [], []⟩) := by
  have more : 0 < q.count := Nat.div_pos some_ (by decide)
  have first : ({ q with idx := 0 } : PhraseRun) = q := by rw [← idx]
  cases put : substTemplate q c j.params 0 with
  | none =>
    rw [phraseNext_unput more (by rw [first]; exact put), first, same]
    refine ⟨_, ChanFrame.modJob .., sent_modJob sent _, modJob_rings .., rfl, nofun, fun _ => ?_⟩
    simp [out, PhraseRun.w2, idx, used]
  | some w =>
    rw [phraseNext_takes more (by rw [first]; exact put), first, same]
    have marked := sent_modJob sent (fun j => { j with phrase := some q })
    have taken := templateTaken_frame (n := n) (s := x') (u := c) (r := q)
      (d := modJob n x.sid (fun j => { j with phrase := some q }) d) w
    have stays := templateTaken_sent (s := x') (u := c) (r := q) (x := { x with job := some { g with phrase := some q } })
      (by rw [same]; exact marked) w
    rw [same] at stays
    refine ⟨_, (ChanFrame.modJob ..).trans taken.1, stays, taken.2.trans (modJob_rings ..), rfl, fun u hu => ?_, nofun⟩
    cases hu
    have there := templateTaken_mem (c := c) (q := q) (x' := x') (by rw [same]; exact marked) w
    exact ⟨noResult, _, there, congrArg some same, rfl, rfl, rfl, rfl, rfl⟩

/-- A PHRASE clause that the scheduler picks starts, and its first template with it. -/
theorem phrase_starts {n : Chn} {x : Sentence} {c : Clause} {s : State} {q : PhraseRun} (h : s.atClause n x c)
    (root : x.parent = none) (verb : c.verb = 0x65) (holds : x.holds = false) (sel : x.sel = none)
    (store : phraseVerb.awaitsStore (s.dev.ask n x c) = false) (passes : phraseVerb.judge (s.dev.ask n x c) = none)
    (noWait : s.dev.bodyWait n x c = none) (picked : s.dev.pick .service = some (n, x.sid))
    (params : s.dev.brokenIn (hi16 c.w6) (lo16 c.w6) c.parLen = false)
    (copied : q = ⟨ptCopy s.dev.phrases.table (par8 (s.dev.params c) 0), 0, 0, [], []⟩) (some_ : 36 ≤ q.tmpl.length) :
    ∃ e j, Judges (.phrase n x.sid) s n e ∧ Keeps [.chans] s.dev e ∧ OthersKept n s.dev e
      ∧ e.sent n x.sid = some { x with wait := .none, job := some j } ∧ j.verb = 0x65 ∧ j.engine = 0x30
      ∧ j.phase = .run ∧ j.params = s.dev.params c ∧ j.phrase = some q
      ∧ (e.chan n).rings = (if hi16 c.w4 = 0xFFFE then
          (s.dev.chan n).rings.openOut (recBytes c.outCap) x.sid else (s.dev.chan n).rings)
      ∧ (∀ u, substTemplate q c (s.dev.params c) 0 = some u → j.result = none
        ∧ ∃ y ∈ (e.chan n).sents, y.parent.map (·.sid) = some x.sid ∧ y.clauses = [u] ∧ y.idx = 0 ∧ y.prio = true
          ∧ y.fence = false ∧ y.job = none)
      ∧ (substTemplate q c (s.dev.params c) 0 = none → j.result = some ⟨.badHandle, [], 0, [], []⟩) := by
  obtain ⟨y, d, eng, move, dispatched⟩ := dispatchVerb_phrase h root verb holds sel store passes noWait picked
  obtain ⟨j, frame, sent', jverb, jeng, jrun, jparams, sound, rings⟩ := dispatchNow_phrase h root verb passes params eng move
  rw [← dispatched] at frame sent' rings
  obtain ⟨awake, -, -, -, sent, job, clause, -⟩ := h
  have phrases : (dispatchVerb 0x65 phraseVerb n x.sid s.dev).phrases = s.dev.phrases :=
    frame.keeps .phrases (by decide) (by decide)
  have starts : dispatchPhrase n x.sid s.dev = phraseNext n { x with wait := .none, sel := none, job := some j } c j q 0
      (modJob n x.sid (fun j => { j with result := none }) (dispatchVerb 0x65 phraseVerb n x.sid s.dev)) := by
    rw [copied, ← jparams, ← phrases]
    simp [dispatchPhrase, sent, job, sent', startPhrase, clause, sound]
  have cleared := sent_modJob (x := { x with wait := .none, sel := none }) sent' (fun j => { j with result := none })
  obtain ⟨g', taken, sent'', rings', known, first, unput⟩ := phraseNext_first (x := { x with wait := .none, sel := none })
    (x' := { x with wait := .none, sel := none, job := some j }) (c := c) (j := j) (q := q) some_ (by rw [copied])
    (by rw [copied]) (by rw [copied]) rfl cleared rfl
  rw [← starts] at taken sent'' rings' first
  have all := (frame.trans (ChanFrame.modJob ..)).trans taken
  have acts : (fun d => judgeFresh n (dispatchPhrase n x.sid d)) s.dev = judgeFresh n (dispatchPhrase n x.sid s.dev) := rfl
  rw [jparams] at first unput
  refine ⟨_, g', ⟨all.rst.trans awake.2, onDev_to awake acts⟩, all.keeps, all.others, ?_, ?_, ?_, ?_, ?_, ?_,
    (rings'.trans (modJob_rings ..)).trans rings, first, unput⟩
  · rw [sent'', sel]
  · rw [known]; exact jverb
  · rw [known]; exact jeng
  · rw [known]; exact jrun
  · rw [known]; exact jparams
  · rw [known]

/-- Settles O36: the dispatch takes the first template behind the phrase; a template that ends is removed, and its phrase
fails with it, ends OK after the last, or takes the next. That a template is held as a sentence of its own is the model's
representation (log entry 25). -/
theorem phraseRunsTemplates : Obligations.PhraseRunsTemplates := by
  refine ⟨fun n x c s a q at_ root verb holds sel ha store passes noWait picked params copied some_ => ?_,
    fun n x y c u p j g r q v s ended key hv => template_ends ended key ?_⟩
  · subst ha
    exact phrase_starts at_ root verb holds sel store passes noWait picked params copied some_
  · rw [hv, Job.newBuf]
    congr 2
    cases j.dst with
    | alloc f => cases r.status.failure <;> rfl
    | _ => rfl

end Sys2Proof.Machine
end
